-- ==== Sys2Proof/Word.lean ====
section
/-!
DEFINITION. The word types of the K8 and their plainest arithmetic.
Register words are 32 bits, addresses and register pairs 64 bits, memory is byte addressed
(00_scope R10, 07 R92).  Masks are kept 1,024 bits wide, bit l for lane l (03 R36).
-/
namespace Sys2Proof

abbrev Byte := BitVec 8
abbrev Word := BitVec 32
abbrev Addr := BitVec 64
/-- One bit per lane, lanes 0 to 1,023 (03 R36). -/
abbrev LaneBits := BitVec 1024

/-- Bits `lo` to `lo + len - 1` of `n`, as a number. -/
def fld (lo len n : Nat) : Nat := n / 2 ^ lo % 2 ^ len

/-- The 64-bit value of a pair of words, `lo` in bits 31..0. -/
def joinPair (lo hi : Word) : Addr := hi ++ lo

def lowWord (x : Addr) : Word := x.setWidth 32
def highWord (x : Addr) : Word := (x >>> 32).setWidth 32

/-- One as the 32-bit result of a true condition, zero of a false one (09 R121). -/
def boolWord (b : Bool) : Word := if b then 1#32 else 0#32

/-- The little-endian bytes of a number, `n` of them (00_scope R10). -/
def leBytes : Nat → Nat → List Byte
  | 0, _ => []
  | n + 1, v => BitVec.ofNat 8 v :: leBytes n (v / 256)

/-- The number that little-endian bytes hold. -/
def leNat : List Byte → Nat
  | [] => 0
  | b :: bs => b.toNat + 256 * leNat bs

end Sys2Proof
end

