-- ==== Sys2Proof/Syntax.lean ====
section
/-!
DEFINITION. The syntax of the KIS instruction set of the K8: operands, instructions and events.
Instruction rows follow 07 R106 to R111 and the tables of 09, 11, 13 and 17; the event rows follow
95_what_each_step_holds.  Element type, rounding, saturation and guard come from MODE, never from the word.
-/
namespace Sys2Proof

/-- A 6-bit register field (07 R92, R93): scalar, vector, or the even register of a pair. -/
abbrev Reg := BitVec 6
/-- A mask register m0 to m15 (07 R93: a 6-bit field whose bits 5..4 are zero). -/
abbrev MReg := BitVec 4

/-- A source field and its last-use bit (07 R101). -/
structure Src where
  reg : Reg
  last : Bool
deriving DecidableEq, Repr

/-- A mask source field and its last-use bit (07 R101, 09 R136). -/
structure MSrc where
  reg : MReg
  last : Bool
deriving DecidableEq, Repr

/-- The address mode of a MEM word (07 R109). -/
inductive AddrMode where
  | disp (k : BitVec 7)
  | postInc (k : BitVec 7)
  | index (v : Reg) (last : Bool)
  | modulo (q : BitVec 3) (k : BitVec 4)
deriving DecidableEq, Repr

/-- The address operand of a MEM word: base, its last-use bit, and the mode (07 R109). -/
structure MemArg where
  base : Reg
  last : Bool
  mode : AddrMode
deriving DecidableEq, Repr

/-- Scopes (15 R219). -/
inductive Scope where
  | tm | co | tw | dv | sy
deriving DecidableEq, Repr

/-- The ORD field of major 0x3A (13 R187). -/
inductive MemOrd where
  | rlx | comm | acq (c : Scope) | rel (c : Scope) | ar (c : Scope)
deriving DecidableEq, Repr

/-- The OP field of ATOM, RED, VATOM and VRED (13 R188). -/
inductive AtomOp where
  | add | min | max | and | or | xor | swap
deriving DecidableEq, Repr

/-- The kinds of FENCE (13 R197). -/
inductive FenceKind where
  | aq | rl | ar | sc
deriving DecidableEq, Repr

/-- The condition codes of VCMP (11 R154). -/
inductive IntCond where
  | eq | ne | lt | ge | le | gt
deriving DecidableEq, Repr

/-- The condition codes of VFCMP (11 R160). -/
inductive FpCond where
  | eq | ne | lt | le | gt | ge | un | ord
deriving DecidableEq, Repr

/-- The condition codes of BELL and WAIT_SIGNAL (13 R199). -/
inductive BellCond where
  | eq | ne | lt | ge | ltu | geu | maskeq
deriving DecidableEq, Repr

/-- The order attribute of a host or peer request (15 R241). -/
inductive BusOrder where
  | weak | release | acquire
deriving DecidableEq, Repr

/-- A request that arrives over a link at a device physical address (15 R241, 25 R344):
a read of `n` bytes, or a write of bytes. -/
inductive BusReq where
  | read (addr : BitVec 52) (n : Nat) (order : BusOrder)
  | write (addr : BitVec 52) (bytes : List Byte) (order : BusOrder)
deriving DecidableEq, Repr

/-- A link that carries flits (21 R313): Ixlet, or one of the 24 Sprinda ports. -/
inductive Link where
  | ixlet
  | sprinda (port : Nat)
deriving DecidableEq, Repr

/-- A UCIe link (25 R343): the module from the FE die to a base die, or a bridge of two base dies. -/
inductive UcieLink where
  | feModule (tower : Nat)
  | bridge (a b : Nat)
deriving DecidableEq, Repr

/-- Where a storage error is found (21 R313): a memory word or a clean cached line, with the team, if any, for which it
was read, or a word of a team's registers or of the accumulator cells. -/
inductive EccSite where
  | memory (reader : Option Nat) (loc : Nat)
  | cleanLine (reader : Option Nat) (loc : Nat)
  | cell (team : Nat) (row col : Nat)
  | scalar (team : Nat) (r : Reg)
  | vector (team : Nat) (r lane : Nat)
  | mask (team : Nat) (m : MReg) (word : Nat)
  | exm (team : Nat) (word : Nat)
deriving DecidableEq, Repr

/-- How it ends (21 R313): corrected, an uncorrectable error whose retry succeeds, or a second failure. -/
inductive EccOutcome where
  | corrected | retried | poisoned
deriving DecidableEq, Repr

/-- The checksum outcome of a K-group step (17 R266): a match, a mismatch whose rerun matches, or a
second mismatch whose lowest mismatching column lies in half A (`false`) or half B (`true`). -/
inductive StepCheck where
  | passes | rerun | lasting (halfB : Bool)
deriving DecidableEq, Repr

/-- What a rank on another device brings to a collective (13 R215, R216): its descriptor fields, its
identity, and the bytes of its SEND buffer. -/
structure RankPart where
  rank : Nat
  op : Nat
  red : Nat
  fmt : Nat
  rnd : Nat
  ctl : Nat
  count : Nat
  nranks : Nat
  root : Nat
  device : BitVec 12
  tower : Nat
  send : List Byte
deriving DecidableEq, Repr

/-- A team as a debug command names it: context, node and team (25 R360). -/
structure TeamRef where
  ctx : BitVec 16
  nid : Word
  team : BitVec 16
deriving DecidableEq, Repr

/-- One item of a stopped team's state (21 R322, 25 R360). -/
inductive DebugItem where
  | pc
  | scalar (r : Reg)
  | vector (r : Reg) (lane : Nat)
  | mask (m : MReg) (word : Nat)
  | exm (word : Nat)
  | special (n : BitVec 12)
  | nest (lane : Nat)
  | dcr (lane : Option Nat)
  | memory (va : Addr)
deriving DecidableEq, Repr

/-- One watch of a context: 8 aligned bytes and the kinds it covers (25 R360). -/
structure Watch where
  base : Addr
  reads : Bool
  writes : Bool
deriving DecidableEq, Repr

/-- The operations and events of the opcode table, one constructor per row, in the table's order:
217 instructions (07 R110) and 72 events (95_what_each_step_holds). -/
inductive Instr where
  -- major 0x01
  | add (d : Reg) (a b : Src)
  | sub (d : Reg) (a b : Src)
  | mul (d : Reg) (a b : Src)
  | mulh (d : Reg) (a b : Src)
  | mulhu (d : Reg) (a b : Src)
  | and (d : Reg) (a b : Src)
  | or (d : Reg) (a b : Src)
  | xor (d : Reg) (a b : Src)
  | andn (d : Reg) (a b : Src)
  | shl (d : Reg) (a b : Src)
  | shr (d : Reg) (a b : Src)
  | sra (d : Reg) (a b : Src)
  -- major 0x02
  | min (d : Reg) (a b : Src)
  | max (d : Reg) (a b : Src)
  | minu (d : Reg) (a b : Src)
  | maxu (d : Reg) (a b : Src)
  | seq (d : Reg) (a b : Src)
  | sne (d : Reg) (a b : Src)
  | slt (d : Reg) (a b : Src)
  | sltu (d : Reg) (a b : Src)
  | sel (d : Reg) (a b : Src)
  | clz (d : Reg) (a : Src)
  | popc (d : Reg) (a : Src)
  | sext (d : Reg) (a : Src) (n : BitVec 6)
  | zext (d : Reg) (a : Src) (n : BitVec 6)
  | mov (d : Reg) (a : Src)
  -- major 0x03
  | div (d : Reg) (a b : Src) (la : BitVec 4)
  | divu (d : Reg) (a b : Src) (la : BitVec 4)
  | rem (d : Reg) (a b : Src) (la : BitVec 4)
  | remu (d : Reg) (a b : Src) (la : BitVec 4)
  -- major 0x04
  | addx (d : Reg) (a b : Src)
  | subx (d : Reg) (a b : Src)
  | shlix (d : Reg) (a : Src) (n : BitVec 6)
  | shrix (d : Reg) (a : Src) (n : BitVec 6)
  | sltux (d : Reg) (a b : Src)
  -- major 0x05
  | mand (d : MReg) (a b : MSrc)
  | mor (d : MReg) (a b : MSrc)
  | mxor (d : MReg) (a b : MSrc)
  | mandn (d : MReg) (a b : MSrc)
  | mnot (d : MReg) (a : MSrc)
  | mmov (d : MReg) (a : MSrc)
  | mall (d : MReg)
  | mclr (d : MReg)
  | mpopc (d : Reg) (a : MSrc)
  | mffs (d : Reg) (a : MSrc)
  | msetw (d : MReg) (a b : Src)
  | mgetw (d : Reg) (a : MSrc) (b : Src)
  | msumw (d : Reg) (a : MSrc)
  | exmset (a : MSrc)
  | exmget (d : MReg)
  -- major 0x06
  | modew (a : Src)
  | srd (d : Reg) (n : BitVec 12)
  | swr (n : BitVec 12) (s : Reg)
  | stamp (d : Reg)
  | trap (n : BitVec 12)
  | brk (n : BitVec 12)
  | regacq (k : BitVec 3)
  | regacqNb (d : Reg) (k : BitVec 3)
  | regrel (k : BitVec 3)
  | node (d : Reg) (a b : Src)
  -- major 0x08
  | addi (d : Reg) (a : Src) (i : BitVec 12)
  -- major 0x09
  | andi (d : Reg) (a : Src) (i : BitVec 12)
  -- major 0x0A
  | ori (d : Reg) (a : Src) (i : BitVec 12)
  -- major 0x0B
  | xori (d : Reg) (a : Src) (i : BitVec 12)
  -- major 0x0C
  | shli (d : Reg) (a : Src) (n : BitVec 5)
  | shri (d : Reg) (a : Src) (n : BitVec 5)
  | srai (d : Reg) (a : Src) (n : BitVec 5)
  -- major 0x0D
  | slti (d : Reg) (a : Src) (i : BitVec 12)
  | sltiu (d : Reg) (a : Src) (i : BitVec 12)
  -- major 0x0E
  | addix (d : Reg) (a : Src) (i : BitVec 12)
  -- major 0x10
  | lui (d : Reg) (i : BitVec 20)
  -- major 0x11
  | addpc (d : Reg) (i : BitVec 20)
  -- major 0x12
  | setmode (i : BitVec 20)
  -- major 0x13
  | vli (d : Reg) (i : BitVec 20)
  -- major 0x14
  | br (i : BitVec 26)
  -- major 0x15
  | bz (s : Reg) (i : BitVec 19)
  | bnz (s : Reg) (i : BitVec 19)
  -- major 0x16
  | bany (m : MReg) (i : BitVec 20)
  | ball (m : MReg) (i : BitVec 20)
  | bnone (m : MReg) (i : BitVec 20)
  -- major 0x17
  | callr (a : Src)
  | jmpr (a : Src)
  | ret
  | eret
  | entry
  | exit
  | nop
  | yield
  -- major 0x18
  | sif (m : MReg)
  | selse
  | sendif
  | sloop
  | sbrk (m : MReg) (d : BitVec 8)
  | scont (m : MReg) (d : BitVec 8)
  | sendlp (m : MReg) (i : BitVec 19)
  -- major 0x20
  | vadd (d : Reg) (a b : Src)
  | vsub (d : Reg) (a b : Src)
  | vmul (d : Reg) (a b : Src)
  | vmulh (d : Reg) (a b : Src)
  | vmad (d : Reg) (a b : Src)
  | vmin (d : Reg) (a b : Src)
  | vmax (d : Reg) (a b : Src)
  -- major 0x21
  | vand (d : Reg) (a b : Src)
  | vor (d : Reg) (a b : Src)
  | vxor (d : Reg) (a b : Src)
  | vandn (d : Reg) (a b : Src)
  | vshl (d : Reg) (a b : Src)
  | vshr (d : Reg) (a b : Src)
  | vsra (d : Reg) (a b : Src)
  -- major 0x22
  | vcmp (c : IntCond) (d : MReg) (a b : Src)
  | vabs (d : Reg) (a : Src)
  | vneg (d : Reg) (a : Src)
  | vmov (d : Reg) (a : Src)
  | vlane (d : Reg)
  | vsel (d : Reg) (a b : Src) (k : MReg)
  -- major 0x23
  | vaddi (d : Reg) (a : Src) (i : BitVec 12)
  -- major 0x24
  | vshli (d : Reg) (a : Src) (n : BitVec 5)
  | vshri (d : Reg) (a : Src) (n : BitVec 5)
  -- major 0x28
  | vfadd (d : Reg) (a b : Src)
  | vfsub (d : Reg) (a b : Src)
  | vfmul (d : Reg) (a b : Src)
  -- major 0x29
  | vfma (d : Reg) (a b : Src)
  | vfms (d : Reg) (a b : Src)
  | vfnma (d : Reg) (a b : Src)
  -- major 0x2A
  | vfmin (d : Reg) (a b : Src)
  | vfmax (d : Reg) (a b : Src)
  | vfminm (d : Reg) (a b : Src)
  | vfmaxm (d : Reg) (a b : Src)
  | vfabs (d : Reg) (a : Src)
  | vfneg (d : Reg) (a : Src)
  | vfsgn (d : Reg) (a : Src)
  | vfsgnK (d : Reg) (a : Src)
  -- major 0x2B
  | vfcmp (c : FpCond) (d : MReg) (a b : Src)
  | vfcmpK (c : FpCond) (d : MReg) (a b : Src)
  | vfclass (d : Reg) (a : Src)
  -- major 0x2C
  | vfdiv (d : Reg) (a b : Src) (la : BitVec 4)
  | vfsqrt (d : Reg) (a : Src) (la : BitVec 4)
  | vfrsq (d : Reg) (a : Src) (la : BitVec 4)
  | vfrcp (d : Reg) (a : Src) (la : BitVec 4)
  -- major 0x2D
  | vfexp2 (d : Reg) (a : Src) (la : BitVec 4)
  | vflog2 (d : Reg) (a : Src) (la : BitVec 4)
  -- major 0x30
  | vcvt (d : Reg) (a : Src) (f : BitVec 5) (sel : BitVec 5)
  | vqnt (d : Reg) (a b : Src) (f : BitVec 5)
  -- major 0x31
  | vpack (d : Reg) (a b : Src)
  | vunpk (d : Reg) (a : Src) (sel : Bool)
  | vdot2 (d : Reg) (a b : Src)
  | vdot4 (d : Reg) (a b : Src)
  | vdot8 (d : Reg) (a b : Src)
  -- major 0x32
  | vshfl (d : Reg) (a b : Src) (la : BitVec 4)
  | vbcast (d : Reg) (a : Src) (la : BitVec 4)
  | vext (d : Reg) (a b : Src) (la : BitVec 4)
  | vins (d : Reg) (a b : Src) (la : BitVec 4)
  -- major 0x33
  | vredadd (d : Reg) (a : Src) (la : BitVec 4)
  | vredmax (d : Reg) (a : Src) (la : BitVec 4)
  | vredmin (d : Reg) (a : Src) (la : BitVec 4)
  | vscan (d : Reg) (a : Src) (la : BitVec 4)
  -- major 0x38
  | ldU8 (d : Reg) (mem : MemArg)
  | ldS8 (d : Reg) (mem : MemArg)
  | ldU16 (d : Reg) (mem : MemArg)
  | ldS16 (d : Reg) (mem : MemArg)
  | ld (d : Reg) (mem : MemArg)
  | ldD (d : Reg) (mem : MemArg)
  | stB (s : Reg) (mem : MemArg)
  | stH (s : Reg) (mem : MemArg)
  | st (s : Reg) (mem : MemArg)
  | stD (s : Reg) (mem : MemArg)
  | pref (mem : MemArg)
  | cwb (mem : MemArg)
  | cinv (mem : MemArg)
  | discard (mem : MemArg)
  -- major 0x39
  | vld (d : Reg) (mem : MemArg) (z : BitVec 2)
  | vst (s : Reg) (mem : MemArg) (z : BitVec 2)
  | vlds (d : Reg) (mem : MemArg) (z : BitVec 2)
  | vsts (s : Reg) (mem : MemArg) (z : BitVec 2)
  -- major 0x3A
  | atom (o : AtomOp) (r : MemOrd) (d : Reg) (b : Src) (la : BitVec 4)
  | cas (r : MemOrd) (d : Reg) (b : Src) (la : BitVec 4)
  | red (o : AtomOp) (r : MemOrd) (d : Reg) (b : Src) (la : BitVec 4)
  | stStrong (r : MemOrd) (d : Reg) (b : Src) (la : BitVec 4)
  | ldStrong (r : MemOrd) (d : Reg) (b : Src) (la : BitVec 4)
  | vatom (o : AtomOp) (r : MemOrd) (d : Reg) (b : Src) (la : BitVec 4)
  | vcas (r : MemOrd) (d : Reg) (b : Src) (la : BitVec 4)
  | vred (o : AtomOp) (r : MemOrd) (d : Reg) (b : Src) (la : BitVec 4)
  | vstStrong (r : MemOrd) (d : Reg) (b : Src) (la : BitVec 4)
  | vldStrong (r : MemOrd) (d : Reg) (b : Src) (la : BitVec 4)
  -- major 0x3B
  | fence (k : FenceKind) (c : Scope) (uo cp : Bool) (d : Reg)
  | fwait (a : Src)
  | await (d : Reg) (a : Src)
  | bellclr (slot : BitVec 2)
  | bwait (a b : Src)
  | arrive (d : Reg) (a : Src)
  | arrivePub (d : Reg) (a : Src)
  | arriveDrop (d : Reg) (a : Src)
  | arriveDropPub (d : Reg) (a : Src)
  | join (d : Reg) (a : Src)
  | leave (d : Reg) (a : Src)
  | clead (d : Reg) (a : Src)
  | bell (c : BellCond) (d : Reg) (slot : BitVec 2) (a b : Src)
  -- major 0x3C
  | cpy (d : Reg) (a b : Src)
  | cpyt (d : Reg) (a b : Src)
  | gath (d : Reg) (a : Src)
  | scat (d : Reg) (a : Src)
  | cseal (t : BitVec 6)
  | cwany (d : Reg) (a : Src)
  | cwall (a : Src)
  | cffr (d : Reg) (a : Src)
  | ctclr (a : Src)
  | coll (a : Src)
  -- major 0x3D
  | mtile (a b c : Reg) (la : BitVec 4)
  | mma (a b c : Reg) (la : BitVec 4)
  | mzero (a b : Reg) (la : BitVec 4)
  | maccrd (a b : Reg) (la : BitVec 4)
  | maccwr (a b : Reg) (la : BitVec 4)
  | maccld (a b c : Reg) (la : BitVec 4)
  | maccst (a b c : Reg) (la : BitVec 4)
  | acwin (a b c : Reg) (la : BitVec 4)
  | mplan (a b c : Reg) (la : BitVec 4)
  | mchk (a b : Reg) (la : BitVec 4)
  -- events: steps of the front end, memory, engines, management, debug and faults (95)
  | doorbell (queue : Nat) (count : Word)
  | packetPrefetch (queue n : Nat)
  | drumRound
  | graph (queue : Nat)
  | nodePacket (queue : Nat)
  | gang (queue : Nat)
  | gangReserveRetry (queue : Nat)
  | signal (queue : Nat)
  | waitSignal (queue : Nat)
  | rangeCommit (queue : Nat)
  | marker (queue : Nat)
  | create (queue : Nat)
  | destroy (queue : Nat)
  | update (queue : Nat)
  | mapq (queue : Nat)
  | unmapq (queue : Nat)
  | resumeq (queue : Nat)
  | preempt (queue : Nat)
  | fwHandover (queue : Nat)
  | fwHandoverSwitch
  | teamPlacement
  | slotYield (team : Nat)
  | teamExitComplete (team : Nat)
  | heldSuccessorEntry
  | sliceEnd
  | preemptionRequest
  | contextSwitchIn
  | shadowPreload
  | stateSpill
  | atomicPerform (access : Nat)
  | atomicReply (access : Nat)
  | writePerform (access : Nat)
  | copyPerform (copy : Nat) (bytes : List Nat)
  | followOnIssue (copy : Nat)
  | fenceComplete (team : Nat) (ticket : Word)
  | awaitTimeout (team : Nat)
  | collComplete (copy : Nat) (remote : List RankPart)
  | kGroupStep (team : Nat) (check : StepCheck)
  | matrixReset (core : Nat)
  | asyncTrapDelivery (team : Nat)
  | pageHomeChange (pte pageBits : Nat) (entry : BitVec 64)
  | invalidateContext (ctx : BitVec 16)
  | invalidatePage (ctx : BitVec 16) (va : Addr)
  | tbloCapture
  | registerWrite (n : BitVec 12) (v : Word)
  | hostRequest (r : BusReq)
  | peerRequest (device : BitVec 12) (r : BusReq)
  | flitCrcError (link : Link) (second : Bool) (lost done : List Nat)
  | ucieLinkFailure (link : UcieLink)
  | eccError (site : EccSite) (outcome : EccOutcome)
  | portBeatError (core : Nat) (half : Bool) (second : Bool)
  | dieLost (die : Nat)
  | hotSet (tower : Nat)
  | hotClear (tower : Nat)
  | powerThrottle
  | setq0
  | route
  | attest
  | reset
  | event
  | coldReset
  | ixletReset
  | stop (t : TeamRef)
  | resume (t : TeamRef)
  | read (t : TeamRef) (item : DebugItem)
  | write (t : TeamRef) (item : DebugItem) (v : BitVec 256)
  | watch (ctx : BitVec 16) (slot : Nat) (w : Option Watch)
  | illegalOpcodeWord (w : Word)
  | instructionFetchFault
  | loadPerform (access : Nat) (keep : Bool)
  | throttleClear
  | debugAttach (ctx : BitVec 16) (on : Bool)
deriving DecidableEq, Repr

end Sys2Proof
end

