-- ==== Sys2Proof/Config.lean ====
section
/-!
DEFINITION. What an implementation fixes, and the free values: what the spec leaves open.
A free value is an opaque constant: nothing can evaluate it, so a claim holds whatever it is.
Log entries 4 to 7.
-/
namespace Sys2Proof.Config

/-! ### Constants of the implementation ("const" in R11), left open: nothing depends on their values -/

/-- BUILDER of IMPL, less one: the assigned codes are 0x01 to 0x7F (00_scope R6). -/
opaque builder : Fin 127
/-- STEP of IMPL (00_scope R6). -/
opaque stepping : BitVec 8
/-- Whether TMODEL of IMPL is 0x1; else it is 0x0 (00_scope R6). -/
opaque timingMatches : Bool

/-- IMPL (00_scope R6): LEVEL 0x08, then BUILDER, STEP and TMODEL. -/
def impl : Word :=
  0#4 ++ (if timingMatches then 1#4 else 0#4) ++ stepping ++ BitVec.ofNat 8 (builder.val + 1) ++ 0x08#8

/-- DFM bit 65: the core may write digit continuation records at a mid-instruction stop (01 R24). -/
opaque recordsDigits : Bool

/-- HEAT of a teller, which counts against its core's allowance (19 R283); no rule gives it. -/
opaque tellerHeat : Nat

/-- The version with which a firmware image tags its state block (19 R297); no rule gives it. -/
opaque stateVersion : List Byte → Nat

/-! ### Free values (log entry 4) -/

/-- The instruction word in the frame of a transfer that no instruction word caused: a trap at a boundary, by its
code's number, and a fetch that failed, by the address of its stopping point (09 R133; a function of the two, so that
00_scope R2 holds of it). -/
opaque boundaryWord : Nat → Nat → Word

/-- How many ticks a die's copy of the time base lags the master, at most 2 (25 R351; log entry 16). -/
opaque dieLag : Nat → Nat → Fin 3

/-- A byte of the image of a context's state in its SAVE area, whose layout no rule gives (19 R294, R295; log entry
38): by the context, the time of the spill and the offset. -/
opaque spillByte : Nat → Nat → Nat → Byte

/-- How many bytes after the fault log of a SAVE area that image takes (19 R294, R295; log entry 38). -/
opaque spillSize : Nat

/-- The 32 bytes of an entry of a bell overflow list, whose layout no rule gives (15 R238, 25 R350; log entry 80): by
the location the bell watches, its team and its slot. -/
opaque overflowByte : Nat → Nat → Nat → Nat → Byte

/-- Whether an issued instruction that may have had to wait for an earlier one, whose promise had ended or was untrue, did
(07 R105: the count may differ between implementations and between runs). -/
opaque promiseBroken : Nat → Bool

/-- Whether an asynchronous stop that finds a team in an iterative instruction keeps its partial work in records
(05 R79: the implementation may as well discard it). -/
opaque stopKeeps : Nat → Bool

/-- How many digits each lane of a pass had produced at that stop; none for a pass not begun (05 R79, 11 R165). -/
opaque stopDigits : Nat → Nat → Option (Nat → Nat)

/-- What a load returns at an offset of the control aperture whose contents no rule gives (25 R349: a
doorbell page above byte 3, the status page outside bytes 0 and 8 to 15). -/
opaque apertureByte : Nat → Byte

/-- What a load returns in the debug unit's page, whose layout no rule gives (25 R349, R360; log entry 87): by the offset,
the time, and what the last debug command returned. -/
opaque debugByte : Nat → Nat → Nat → Nat → Byte

/-- The DEVID of the peer whose memory a peer physical address names: no rule gives the map (15 R243). -/
opaque peerOf : Nat → BitVec 12

/-! ### Functions whose keys the spec does not give (25 R354 to R357; log entry 5) -/

/-- Both signatures of a firmware image verify under the fused firmware keys. -/
opaque firmwareSigned : List Byte → Bool

/-- Both signatures of a configuration record, which follow its 256 bytes, verify under the fused keys for records. -/
opaque recordSigned : List Byte → Bool

/-- The ECDSA P-384 signature of the device identity key over a byte string, 96 bytes. -/
opaque identityEcdsa : List Byte → BitVec 768

/-- The LMS signature of the device identity key over a byte string with a leaf index, 1,772 bytes. -/
opaque identityLms : List Byte → Nat → BitVec 14176

/-- VFEXP2 and VFLOG2 where the interval evaluation of `Machine/Transcend.lean` cannot decide the
rounding (05 R68; log entry 6). -/
opaque undecidedRounding : Nat → Nat → Nat

end Sys2Proof.Config
end

