-- ==== Sys2Proof/Machine/Assoc.lean ====
section
/-!
DEFINITION. Sparse tables: lists of (key, value) pairs in one canonical form, keys strictly rising and no
entry equal to what an unlisted key reads as.  Memory, its poison, the accumulator files and the sensor
readings are kept this way, so that equal contents are equal data.
-/
namespace Sys2Proof.Assoc

/-- The value at `k`; `dflt` where nothing is listed. -/
def get {β : Type} (dflt : β) : List (Nat × β) → Nat → β
  | [], _ => dflt
  | (a, v) :: rest, k => if k = a then v else if k < a then dflt else get dflt rest k

/-- The value at `k` becomes `x`; an entry equal to `dflt` is removed. -/
def set {β : Type} [DecidableEq β] (dflt : β) : List (Nat × β) → Nat → β → List (Nat × β)
  | [], k, x => if x = dflt then [] else [(k, x)]
  | (a, v) :: rest, k, x =>
    if k < a then (if x = dflt then (a, v) :: rest else (k, x) :: (a, v) :: rest)
    else if k = a then (if x = dflt then rest else (k, x) :: rest)
    else (a, v) :: set dflt rest k x

/-- Every key of the table is above `lo`. -/
def above {β : Type} (lo : Nat) : List (Nat × β) → Bool
  | [] => true
  | (a, _) :: _ => lo < a

/-- The canonical form. -/
def wf {β : Type} [DecidableEq β] (dflt : β) : List (Nat × β) → Bool
  | [] => true
  | (a, v) :: rest => v != dflt && above a rest && wf dflt rest

/-- The table without the keys from `lo` to `lo + n - 1`. -/
def erase {β : Type} (lo n : Nat) (m : List (Nat × β)) : List (Nat × β) :=
  m.filter fun e => !(lo ≤ e.1 && e.1 < lo + n)

/-- Consecutive values from `k` on. -/
def setAll {β : Type} [DecidableEq β] (dflt : β) (m : List (Nat × β)) (k : Nat) :
    List β → List (Nat × β)
  | [] => m
  | x :: xs => setAll dflt (set dflt m k x) (k + 1) xs

/-- The `n` consecutive values from `k` on. -/
def getAll {β : Type} (dflt : β) (m : List (Nat × β)) (k n : Nat) : List β :=
  (List.range n).map fun i => get dflt m (k + i)

end Sys2Proof.Assoc
end

