-- ==== Sys2Proof/Machine/State.lean ====
section
/-!
DEFINITION. The state of a K8 package, as plain data.  Each field cites the rule of spec/ that names it;
INVENTORY.md lists them with their reset values.  Fields marked MODEL are the model's own (log entries 2 to 4).
-/
namespace Sys2Proof.Machine

/-! ### Registers -/

/-- A scalar register: dead, or live with its word and its poison (07 R100, 21 R315). -/
inductive SReg where
  | dead
  | live (v : Word) (poison : Bool)
deriving DecidableEq, Repr

/-- One lane's word of a vector register, with its poison (21 R315). -/
structure Lane where
  val : Word
  poison : Bool
deriving DecidableEq, Repr

/-- A vector register: dead, or live with a word for every lane (07 R100). -/
inductive VReg where
  | dead
  | live (lanes : List Lane)
deriving DecidableEq, Repr

/-- A mask register: dead, or live with one bit per lane and one poison bit per mask word.  The summary
word is computed from the bits (03 R36). -/
inductive MaskReg where
  | dead
  | live (bits : LaneBits) (poison : Word)
deriving DecidableEq, Repr

/-! ### Traps, addresses and pages -/

/-- The trap codes (21 R299). -/
inductive TrapCode where
  | illegalOpcode | illegalMode | regBound | accWindow | formatDivergence | featureAbsent | misaligned
  | translation | permission | entryMissing | stackLimit | nestOverflow | break_ | software | poison
  | dieLost | matrixReset | arrayFault | watch | privilege | acquireFailed
deriving DecidableEq, Repr

/-- A trap as it is raised (21 R299, R304): its code, ADDR, CAUSE, lane, and the address that PCW records
(`none`: the stopping point). -/
structure Trap where
  code : TrapCode
  addr : Addr
  cause : Nat
  lane : Option Nat
  pcw : Option Addr
deriving DecidableEq, Repr

/-- The kind of a page (15 R220, 21 R307). -/
inductive PageKind where
  | rc | so | uo
deriving DecidableEq, Repr

/-- What a translated address names: device memory with its home tower, host memory (host-coherent or
not), peer memory, a vault, a local store, or the control aperture (01 R29, 21 R307, 25 R349). -/
inductive Region where
  | device (home : Nat) | hostCoherent | hostLink | peer | vault (core : Nat) | localStore
  | aperture
deriving DecidableEq, Repr

/-- A translated address: its byte location (see `Loc`), page kind and region. -/
structure Place where
  loc : Nat
  kind : PageKind
  region : Region
deriving DecidableEq, Repr

/-! ### Bells, fences, copies and accesses in flight -/

/-- An armed bell (13 R199, R200; 15 R235): the watched location, its width in bytes, the condition, and
whether it is held on the overflow list of its home (15 R238). -/
structure Armed where
  loc : Nat
  width : Nat
  home : Nat
  cond : BellCond
  val : BitVec 64
  mask : BitVec 64
  listed : Bool
deriving DecidableEq, Repr

/-- One bell slot (13 R200): the bell it arms, if any, and its fired mark. -/
structure BellSlot where
  armed : Option Armed
  fired : Bool
deriving DecidableEq, Repr

/-- A fence that has not completed, with its ticket and the accesses and copies it covers (13 R198). -/
structure Fence where
  ticket : Word
  kind : FenceKind
  scope : Scope
  cover : List Nat
deriving DecidableEq, Repr

/-- Where a load puts its value (13 R182, R184): a scalar register or a lane, one word or a pair, with the
number of bits that are sign-extended (0: none). -/
inductive LoadDst where
  | scalar (r : Reg) (wide : Bool) (signBits : Nat)
  | lane (r : Reg) (wide : Bool) (l : Nat)
deriving DecidableEq, Repr

/-- What an access in flight does (15 R217).  `update` is the second half of a teller's read followed by a write
(13 R195, 25 R346): the value read, the bytes to write, and where the value goes. -/
inductive AccessKind where
  | load (dst : LoadDst)
  | store (bytes : List Byte)
  | strongLoad (dst : LoadDst)
  | strongStore (bytes : List Byte)
  | atomic (op : AtomOp) (fp : Bool) (signed : Bool) (rnd : Nat) (sat : Bool)
      (operand : BitVec 64) (dst : Option LoadDst)
  | cas (expected new : BitVec 64) (dst : LoadDst)
  | update (old : BitVec 64) (bytes : List Byte) (dst : Option LoadDst)
  | reply (old : BitVec 64) (poison : Bool) (dst : LoadDst)
deriving DecidableEq, Repr

/-- A page of the address space that a page-table entry maps: its number among the pages of 2 ^ `bits` bytes (21 R306). -/
structure VPage where
  number : Nat
  bits : Nat
deriving DecidableEq, Repr

/-- An access in flight (13 R194, 15 R227), with the accesses that lo places before it (15 R224) and the page that
translated it, if one did (21 R309). -/
structure Access where
  id : Nat
  team : Nat
  pc : Addr
  va : Addr
  place : Place
  size : Nat
  kind : AccessKind
  acquire : Option Scope
  release : Option Scope
  comm : Bool
  after : List Nat
  page : Option VPage
deriving DecidableEq, Repr

/-- Where a copied byte comes from: a location with its address, or a byte read when the copy began (13 R209, R210). -/
inductive ByteSrc where
  | loc (p : Place) (va : Addr)
  | fixed (v : Byte) (poison : Bool)
deriving DecidableEq, Repr

/-- One byte of a copy (15 R222): its destination with its address, its source, and whether the copy still covers all
of the destination word with clean bytes, so that it clears the word's poison (21 R314). -/
structure Move where
  dst : Place
  va : Addr
  src : ByteSrc
  clears : Bool
deriving DecidableEq, Repr

/-- A byte that a copy reads or writes: where it lies, and its address. -/
structure ByteAt where
  place : Place
  va : Addr
deriving DecidableEq, Repr

/-- What a copy does, as its issue fixed it (13 R208 to R212): the bytes it reads, row by row, the bytes it writes,
and, where a CPYT makes planes of its rows (13 R210), their format and columns. -/
structure CopyPlan where
  rows : List (List ByteAt)
  dsts : List ByteAt
  planes : Option (Nat × Nat)
deriving DecidableEq, Repr

/-- A captured MTILE or MMA (17 R258, R259; 13 R211): format word, control word, operand addresses, sizes,
window, NVR, the next K-group step and the flags gathered so far. -/
structure MatrixOp where
  word : Word
  pc : Addr
  fmt : Word
  control : Word
  aBase : Nat
  bBase : Nat
  bPitch : Nat
  m : Nat
  k : Nat
  n : Nat
  acb : Nat
  acl : Nat
  nvr : Nat
  step : Nat
  flags : Word
  followOn : Option Nat
  faulted : Bool                -- its fault ends the team (R267)
deriving DecidableEq, Repr

/-- One rank's part of a collective in flight (13 R215, R216): the rank that issued it, its buffers byte by byte, the 8
bytes of STATUS and FLAGS, its fields (RANK as it claims it), and which collective of the group it belongs to. -/
structure CollPart where
  issuer : Nat
  send : List ByteAt
  recv : List ByteAt
  report : List ByteAt
  desc : Addr
  sendVa : Addr
  count : Nat
  op : Nat
  red : Nat
  fmt : Nat
  rnd : Nat
  sat : Bool
  group : Nat
  rank : Nat
  nranks : Nat
  root : Nat
  round : Nat
  tower : Nat
deriving DecidableEq, Repr

/-- A copy in flight (13 R208): the earlier copies of its team that its reads come after (15 R224), the 64 KiB pages
it has checked and the pages that translated its bytes (21 R309), what it does, whether its reads have begun, the bytes
then still to move, and its follow-on command or collective. -/
structure Copy where
  id : Nat
  team : Nat
  pc : Addr
  after : List Nat
  pages : List Nat
  mapped : List VPage
  plan : CopyPlan
  begun : Bool
  moves : List Move
  followOn : Option MatrixOp
  coll : Option CollPart
deriving DecidableEq, Repr

/-- A batch bound to a tag (13 R213): the copies sealed into it. -/
structure Batch where
  id : Nat
  team : Nat
  ctx : Nat
  core : Nat
  tag : Nat
  copies : List Nat
deriving DecidableEq, Repr

/-! ### Teams -/

/-- A digit continuation record (05 R84): `lane` is `none` for a scalar instruction; `pc` is the restart
point it belongs to. -/
structure Dcr where
  pc : Addr
  lane : Option Nat
  record : BitVec 256
deriving DecidableEq, Repr

/-- A register as lookahead compares it (07 R103): a scalar, a vector by its number in the window, or a mask. -/
inductive RegName where
  | s (r : Reg)
  | v (r : Reg)
  | m (r : MReg)
deriving DecidableEq, Repr

/-- An open lookahead promise (07 R103): how many instructions it still covers, and the registers that the promising
instruction reads and writes. -/
structure Promise where
  left : Nat
  srcs : List RegName
  dsts : List RegName
deriving DecidableEq, Repr

/-- The producer just issued, while its cancellation is still open (05 R76, R77). -/
structure Producer where
  pc : Addr
  dst : Reg
  wide : Bool
  flags : Word
deriving DecidableEq, Repr

/-- What a stop for the debugger leaves of a team's instruction (21 R312, R321): nothing, that it has been issued
before, that its wait in BWAIT has ended (03 R51), or its pending translation. -/
inductive Kept where
  | none
  | again
  | woken
  | translation (addr : Addr) (lane : Option Nat)
deriving DecidableEq, Repr

/-- What a team is doing (03 R51, R56; 13 R202; 21 R312, R321).  `woken` ends a wait: the waiting instruction executes
again and completes. -/
inductive Condition where
  | ready
  | stalled
  | woken
  | parkedAwait (dst : Reg) (src : Src) (deadline : Option Nat)
  | parkedBarrier (loc : Nat) (phase : Word)
  | pendingTranslation (addr : Addr) (lane : Option Nat)
  | stopped (byTrap : Bool) (kept : Kept)
  | exiting
deriving DecidableEq, Repr

/-- The per-team state (03 R35) and the identity that the node descriptor gives (03 R32, 19 R277). -/
structure Team where
  id : Nat                      -- MODEL: the name of the team in this state
  ctx : Nat
  node : Nat                    -- MODEL: the name of its node in this state
  index : BitVec 16             -- TID.TEAM
  nid : Word                    -- NID
  passes : Nat                  -- TW / 32
  structured : Bool
  core : Nat                    -- CORE
  pc : Addr
  fetched : Option Word         -- the word at pc, where it has been read already (09 R126, R130; 21 R312)
  sregs : Vector SReg 64
  vregs : Vector VReg 64
  masks : Vector MaskReg 16
  exmBits : LaneBits            -- EXM in mask style (R38)
  exmPoison : Word
  nest : List (BitVec 8)        -- nesting counters in structured style (R40)
  mode : Word                   -- 0x000
  flags : Word                  -- 0x003
  lavc : Word                   -- 0x004
  qStart : Vector Word 8        -- 0x020 + 2i
  qLen : Vector Word 8          -- 0x021 + 2i
  slim : Word                   -- 0x01C
  vbase : BitVec 3              -- 0x018
  blocks : BitVec 4             -- 0x019
  blockLimit : BitVec 4         -- L of R142
  acb : BitVec 9                -- 0x01A
  acl : BitVec 9                -- 0x01B
  cid0 : BitVec 16              -- 0x013
  cid1 : BitVec 16              -- 0x014
  stackBase : Addr
  ss : Word
  lsmem : Nat
  heat : Nat
  featIdx : Nat
  bells : Vector BellSlot 4
  nextTicket : Word
  fences : List Fence
  unsealed : List Nat
  matrix : List MatrixOp
  reruns : BitVec 16
  dcrs : List Dcr
  tbCapture : BitVec 64         -- TBLO and TBHI
  traps : List Trap             -- pending asynchronous traps (R302)
  followFaults : List (List Nat × Trap)  -- faults of follow-ons, by the copies that carried them (R211)
  corr : BitVec 7
  promises : List Promise
  issued : Nat                  -- MODEL: the instructions it has completed (07 R105)
  producer : Option Producer
  cond : Condition
  retried : Bool                -- a pending translation is being tried again (R312)
  yielded : Bool
deriving DecidableEq, Repr

/-! ### Nodes, queues and contexts -/

/-- The fields of a node descriptor that the front end acts on (19 R277, R278). -/
structure Desc where
  entry : Addr
  nid : Word
  teams : Nat
  geom : Word
  lsmem : Nat
  stack : Addr
  ss : Word
  featIdx : Nat
  heat : Nat
  pred : Word
  nsucc : Nat
  succ : Addr
  opnd : Addr
  receipt : Addr
  signal : Addr
  sigval : BitVec 64
  sigop : Nat
deriving DecidableEq, Repr

/-- A node the front end has accepted (19 R277 to R290). -/
structure Node where
  id : Nat                      -- MODEL
  ctx : Nat
  queue : Option Nat
  descAddr : Addr
  desc : Desc
  prio : Nat
  placed : Nat
  exited : Nat
  status : Nat
  faults : Word
  start : BitVec 64
  finish : BitVec 64
  reruns : Word
  cores : List Nat
  profileN : Bool
  halfWidth : Bool
  emulated : Bool
  yields : Word
  gang : Option Nat
deriving DecidableEq, Repr

/-- What holds a queue (19 R273, R275). -/
inductive QueueWait where
  | none
  | signal (bell : Option Armed) (fired : Bool)
  | gang
deriving DecidableEq, Repr

/-- The mapping of a queue (19 R270, R293). -/
structure QueueMap where
  ctx : Nat
  k : Nat
  ring : Option Addr
  status : Addr
deriving DecidableEq, Repr

/-- A hardware queue (19 R270 to R276). -/
structure Queue where
  map : Option QueueMap
  doorbell : Word
  consumed : Word
  err : Byte
  halt : Bool
  prefetched : List (Word × List Byte)
  wait : QueueWait
  graphNext : Nat
  graphHead : Word              -- MODEL: the header of the packet whose progress `graphNext` is
  entered : List Nat
  leaving : Bool                -- UNMAPQ came while its packet was taken (R293)
deriving DecidableEq, Repr

/-- A range register (21 R310) and the version number of its object (15 R230); the towers that may hold copies are
`State.sharers`. -/
structure Range where
  vstart : Addr
  vlen : Addr
  pbase : Addr
  attr : BitVec 64
  shape : BitVec 128
  version : Nat
deriving DecidableEq, Repr

/-- A run-list entry (19 R291) and what the device keeps per context. -/
structure Context where
  ctxid : Nat
  nvr : Nat                     -- 0x002
  priv : Bool
  wakeUrg : Bool
  wakePend : Bool
  wakeLate : Bool               -- WAKEPEND was set since the running slice began (R292)
  lateTeams : List Nat          -- the teams that fires have made ready since then (R237, R292)
  slice : Word
  plim : Word
  claim : BitVec 8
  ptroot : BitVec 64
  trapvec : Addr
  feattab : Addr
  featcnt : Nat
  save : BitVec 64
  ranges : List (Nat × Range)
  produced : Nat                -- records written since CREATE (21 R303)
  touched : Word                -- 21 R319
  update : Option (List Byte)
  attached : Bool
  watches : List (Nat × Watch)
deriving DecidableEq, Repr

/-- A cohort (03 R45, R46): its members in the order of their JOINs. -/
structure Cohort where
  ctx : Nat
  tower : Nat
  handle : BitVec 16
  members : List Nat
deriving DecidableEq, Repr

/-- A successor that waits for room in the ready pool (19 R288). -/
structure Held where
  ctx : Nat
  descAddr : Addr
  desc : Desc
deriving DecidableEq, Repr

/-! ### The package -/

/-- The configuration record (25 R358), its reserved bits included: FLAGS[7:1] and bytes 220 to 255. -/
structure Record where
  magic : Word
  serial : BitVec 96
  enable : BitVec 384
  half : BitVec 384
  hsel : BitVec 384
  profile : BitVec 8
  nativeAtomics : Bool
  vaultAbsent : BitVec 384
  thot : BitVec 8
  ttrip : BitVec 8
  bcool : BitVec 16
  bhot : BitVec 16
  plimit : BitVec 16
  devid : BitVec 16
  flagsRsv : BitVec 7
  rsv : BitVec 288
  signatures : List Byte        -- ESIG and LSIG, after byte 255
deriving DecidableEq, Repr

/-- The cores after reset (01 R17, R22; 17 R266, R268), one bit per core index. -/
structure Cores where
  enabled : BitVec 512
  half : BitVec 512
  hsel : BitVec 512
  failedA : BitVec 512
  failedB : BitVec 512
deriving DecidableEq, Repr

/-- The device-wide privileged registers (25 R350, 21 R309). -/
structure Privileged where
  hanglim : Word                -- 0x102
  ovflo : Word                  -- 0x104
  ovfhi : Word                  -- 0x105
  ovfcap : Word                 -- 0x106
  grplo : Word                  -- 0x108
  grphi : Word                  -- 0x109
  grpcnt : Word                 -- 0x10A
  devid : Word                  -- 0x10C
  therm : Word                  -- 0x120
  pcap : Word                   -- 0x121
  pnow : Word                   -- 0x122
  xval : Word                   -- 0x110
  xvah : Word                   -- 0x111
deriving DecidableEq, Repr

/-- The management unit, the links and the debug unit (25 R343 to R360). -/
structure Device where
  status : Byte                 -- STATE of the status page
  flash : Record
  image : List Byte             -- the firmware image in flash
  fusedSvn : Nat                -- the least security version that the fuses accept (25 R355)
  lmsNext : Nat
  time : BitVec 64
  regs : Privileged
  mailbox : List (Nat × Byte)
  command : Option (BitVec 64)
  eventWord : Option (BitVec 64)
  routes : List (Nat × BitVec 24)
  portsDown : BitVec 24
  bridgesDown : List (Nat × Nat)
  lostDies : Word
  stackTemp : List (Nat × Byte) -- eight sensors per tower: 8 × tower + sensor
  colTemp : List (Nat × BitVec 7)
  hot : BitVec 4
  throttled : Bool
  busReply : List Byte          -- MODEL: the bytes that the last link request returned
  debugCode : Nat               -- MODEL: what the last debug command returned
  debugValue : BitVec 256
  rounds : List (Nat × Nat)     -- COLLs issued: key 4,096 × group + issuing rank (13 R216)
  brokenColls : List (Nat × Nat)  -- collectives, by group and count, that a lost link has broken (R216, 25 R347)
deriving DecidableEq, Repr

/-- The contents that a unit's storage holds (19 R295): its kind, by the bit of CLAIM (R291), its core, whose they are. -/
structure UnitHold where
  kind : Nat
  core : Nat
  ctx : Nat
deriving DecidableEq, Repr

/-- The front end (19 R270 to R297). -/
structure FrontEnd where
  queues : Vector Queue 128
  rotation : Vector (BitVec 2) 32
  round : List Nat
  pool : List Nat
  held : List Held
  gangHolds : List (Nat × Nat)
  contexts : List Context
  running : Nat
  gated : Bool
  next : Option Nat
  sliceStart : BitVec 64
  preloaded : Option Nat
  unspilled : List Nat
  unitHolders : List UnitHold
  firmware : List Byte
  bank : Option (List Byte × Nat)   -- the second instruction bank, and the queue of its packet (R297)
deriving DecidableEq, Repr

/-- A cell of an accumulator file with its poison (17 R253, 21 R316). -/
structure Cell where
  val : Word
  poison : Bool
deriving DecidableEq, Repr

/-- Memory: bytes by location (see `Loc`), poison by word, accumulator cells (21 R314, 17 R253). -/
structure Memory where
  cells : List Host.Cell
  poison : List (Nat × Bool)
  acc : List (Nat × Cell)
deriving DecidableEq, Repr

/-- An untracked copy of a 128-byte line of another tower's home (15 R229), each of its words with its poison (21 R314). -/
structure LineCopy where
  tower : Nat
  line : Nat
  bytes : List Byte
  poison : List Bool
deriving DecidableEq, Repr

/-- What is in flight: accesses, copies, batches, line copies, the lines of device memory that the teams of each tower have
written (15 R223), and the next identifier. -/
structure Flight where
  accesses : List Access
  copies : List Copy
  batches : List Batch
  lines : List LineCopy
  stored : List (Nat × Nat)     -- MODEL: the lines that teams of a tower have written, as (tower, line)
  nextId : Nat
deriving DecidableEq, Repr

/-- A write of the host to its own memory, or with `peer` of a peer to its own. -/
structure OwnWrite where
  peer : Bool
  addr : BitVec 52
  bytes : List Byte
deriving DecidableEq, Repr

/-- MODEL: whose turn it is.  A team issues its next instruction (its accesses performed at once, or left
in flight), an event of the opcode table takes place, alone or with writes of the host and of peers to their own memory
between the halves of its read-modify-writes, a reset comes to its end, time passes, a sensor or power reading arrives, or
the host or a peer writes its own memory. -/
inductive Turn where
  | issue (team : Nat) (defer : Bool)
  | event (i : Instr)
  | eventDuring (i : Instr) (between : List (List OwnWrite))
  | startUp
  | tick (n : Nat)
  | columnTemp (core : Nat) (t : BitVec 7)
  | stackTemp (tower sensor : Nat) (t : Byte)
  | power (watts : BitVec 12)
  | hostMemory (addr : BitVec 52) (bytes : List Byte)
  | peerMemory (addr : BitVec 52) (bytes : List Byte)
deriving DecidableEq, Repr

/-- MODEL: the order of turns and the counters (log entries 3 and 4); `during` are the writes that land between the halves
of the step's next read-modify-writes over a link (log entry 18). -/
structure Sched where
  agenda : List Turn
  cur : Option Nat
  defer : Bool
  last : Nat
  iw : Word                     -- the instruction word being issued
  freeCount : Nat
  nextName : Nat
  during : List (List OwnWrite)
deriving DecidableEq, Repr

structure State where
  dev : Device
  fe : FrontEnd
  cores : Cores
  mem : Memory
  flight : Flight
  cohorts : List Cohort
  nodes : List Node
  teams : List Team
  sched : Sched
deriving DecidableEq, Repr

/-! ### Outcomes -/

/-- Why a step stops.  Each is the model's own stop, safe: the hardware does not reach it. -/
inductive Fault where
  /-- raised by an instruction's meaning when no team holds the turn; safe -/
  | noTeam
  /-- raised by an event's meaning when the state gives the event nothing to act on; safe -/
  | eventNotEnabled
  /-- raised by a turn that names a team that cannot issue; safe -/
  | turnNotEnabled
  /-- the device has stopped: the loss of die 0 (21 R320) or a reset that ended with STATE 2 or 3 (25 R359), or it is in
  reset; raised by every step then that is no reset, no read of its STATE and no part of its start-up; safe -/
  | deviceStopped
deriving DecidableEq, Repr

/-- Why an instruction has no meaning here. -/
inductive Refusal where
  /-- an arm not reached yet -/
  | notModelled (mnemonic : String)
deriving DecidableEq, Repr

/-! ### Reset -/

def SReg.zero : SReg := .live 0 false
def MaskReg.zero : MaskReg := .live 0 0
def BellSlot.off : BellSlot := ⟨none, false⟩
def Cell.zero : Cell := ⟨0, false⟩

/-- An unmapped queue (19 R270). -/
def Queue.unmapped : Queue where
  map := none
  doorbell := 0
  consumed := 0
  err := 0
  halt := false
  prefetched := []
  wait := .none
  graphNext := 0
  graphHead := 0
  entered := []
  leaving := false

/-- The configuration record of this package: every core enabled at full width on profile F, every vault
present, no host-native atomics.  DESIGN CHOICE, unsafe (log entry 1): R358 gives the layout and the ranges. -/
def Record.initial : Record where
  magic := 0x47434B50
  serial := 0
  enable := .allOnes 384
  half := 0
  hsel := 0
  profile := 0
  nativeAtomics := false
  vaultAbsent := 0
  thot := 85
  ttrip := 95
  bcool := 1000
  bhot := 300
  plimit := 2400
  devid := 0
  flagsRsv := 0
  rsv := 0
  signatures := List.replicate 1868 0

/-- The firmware image of this package, as R355 lays images out: MAGIC, no code, SVN 0, and signatures of zeros.
DESIGN CHOICE, unsafe (log entry 1): no rule gives a drum's code. -/
def initialImage : List Byte := [0x46, 0x57, 0x47, 0x4E] ++ List.replicate 1928 0

/-- Bit n of a record's field for core index `c` (25 R358). -/
def recordBit (c : Nat) : Nat := 48 * (c / 64) + 8 * (c / 8 % 8) + c % 8

/-- Core indices that name a core: a cluster value of 0 to 5 (01 R14). -/
def isCore (c : Nat) : Bool := c < 512 && c / 8 % 8 < 6

/-- A 384-bit field of the record spread over the core indices. -/
def spreadCores (b : BitVec 384) : BitVec 512 :=
  (List.range 8).foldr
    (fun p acc => acc ||| ((b >>> (48 * p)).setWidth 48).setWidth 512 <<< (64 * p)) 0

/-- The cores as step 4 of 25 R359 loads them.  FAILED of 17 R268 is "cfg": the half that the record takes out
of service counts as failed (DEDUCED, log entry 10). -/
def Cores.load (r : Record) : Cores where
  enabled := spreadCores r.enable
  half := spreadCores r.half
  hsel := spreadCores (r.half &&& r.hsel)
  failedA := spreadCores (r.half &&& r.hsel)
  failedB := spreadCores (r.half &&& ~~~r.hsel)

/-- The privileged registers after reset (25 R350). -/
def Privileged.load (r : Record) : Privileged where
  hanglim := 0x000F4240
  ovflo := 0
  ovfhi := 0
  ovfcap := 0
  grplo := 0
  grphi := 0
  grpcnt := 0
  devid := r.devid.setWidth 32
  therm := r.bhot.setWidth 12 ++ r.bcool.setWidth 12 ++ r.thot
  pcap := r.plimit.setWidth 32
  pnow := 0
  xval := 0
  xvah := 0

/-- The system context (25 R359): CTXID 1, PRIV set, NVR 2, CLAIM 0; SLICE the least value allowed and the
other fields zero, DESIGN CHOICE, unsafe (log entry 1). -/
def Context.system : Context where
  ctxid := 1
  nvr := 2
  priv := true
  wakeUrg := false
  wakePend := false
  wakeLate := false
  lateTeams := []
  slice := 10
  plim := 0
  claim := 0
  ptroot := 0
  trapvec := 0
  feattab := 0
  featcnt := 0
  save := 0
  ranges := []
  produced := 0
  touched := 1
  update := none
  attached := false
  watches := []

/-- Queue 0 after reset: mapped to the system context, its ring not yet set (19 R270, 25 R359). -/
def Queue.system : Queue := { Queue.unmapped with map := some ⟨1, 4, none, 0⟩ }

/-- The front end after step 6 of 25 R359, running the firmware image `fw`. -/
def FrontEnd.load (fw : List Byte) : FrontEnd where
  queues := (Vector.replicate 128 Queue.unmapped).set 0 Queue.system
  rotation := Vector.replicate 32 0
  round := []
  pool := []
  held := []
  gangHolds := []
  contexts := [Context.system]
  running := 1
  gated := false
  next := none
  sliceStart := 0
  preloaded := none
  unspilled := []
  unitHolders := []
  firmware := fw
  bank := none

def Flight.empty : Flight := ⟨[], [], [], [], [], 0⟩

/-- The device after a completed reset: STATE 1, the time base at 0 (25 R359). -/
def Device.initial : Device where
  status := 1
  flash := Record.initial
  image := initialImage
  fusedSvn := 0
  lmsNext := 0
  time := 0
  regs := Privileged.load Record.initial
  mailbox := []
  command := none
  eventWord := none
  routes := []
  portsDown := 0
  bridgesDown := []
  lostDies := 0
  stackTemp := []
  colTemp := []
  hot := 0
  throttled := false
  busReply := []
  debugCode := 0
  debugValue := 0
  rounds := []
  brokenColls := []

/-- The machine right after the reset sequence of 25 R359 has completed: no team, no node, HBM, vaults and
local stores zero, no poison. -/
def State.reset : State where
  dev := Device.initial
  fe := FrontEnd.load initialImage
  cores := Cores.load Record.initial
  mem := ⟨[], [], []⟩
  flight := Flight.empty
  cohorts := []
  nodes := []
  teams := []
  sched := ⟨[], none, false, 0, 0, 0, 0, []⟩

end Sys2Proof.Machine
end

