-- ==== Sys2Proof/Machine/Numbers.lean ====
section
/-!
DEFINITION. Number formats and exact arithmetic (05 R59 to R74): the values of encodings, rounding, the
integer and floating-point writers, conversions.  Operands become exact values, results are computed
exactly and written once.
-/
namespace Sys2Proof.Machine

/-! ### Flags (05 R67) -/

def fNX : Nat := 1
def fUF : Nat := 2
def fOF : Nat := 4
def fDZ : Nat := 8
def fNV : Nat := 16

/-- An element's field or bits, with the flags that writing it raised. -/
structure Out where
  bits : Nat
  flags : Nat
deriving DecidableEq, Repr

/-! ### Formats (05 R59 to R61, R64) -/

/-- Which encodings are NaNs (05 R59). -/
inductive NanKind where
  | ieee | topOnly | none
deriving DecidableEq, Repr

/-- A floating-point format: widths of sign, exponent and mantissa, bias, infinities, NaNs. -/
structure Fmt where
  s : Nat
  e : Nat
  m : Nat
  bias : Nat
  inf : Bool
  nan : NanKind
deriving DecidableEq, Repr

/-- The floating-point formats by code (05 R59). -/
def fpFmt : Nat → Option Fmt
  | 0x0C => some ⟨1, 2, 1, 1, false, .none⟩
  | 0x0D => some ⟨1, 2, 3, 1, false, .none⟩
  | 0x0E => some ⟨1, 3, 2, 3, false, .none⟩
  | 0x0F => some ⟨0, 3, 3, 3, false, .none⟩
  | 0x10 => some ⟨1, 4, 3, 7, false, .topOnly⟩
  | 0x11 => some ⟨1, 5, 2, 15, true, .ieee⟩
  | 0x12 => some ⟨1, 3, 4, 3, false, .topOnly⟩
  | 0x13 => some ⟨0, 4, 4, 7, false, .topOnly⟩
  | 0x14 => some ⟨1, 5, 10, 15, true, .ieee⟩
  | 0x15 => some ⟨1, 8, 7, 127, true, .ieee⟩
  | 0x16 => some ⟨1, 8, 10, 127, true, .ieee⟩
  | 0x17 => some ⟨1, 8, 23, 127, true, .ieee⟩
  | 0x18 => some ⟨1, 11, 52, 1023, true, .ieee⟩
  | 0x19 => some ⟨1, 5, 6, 15, true, .ieee⟩
  | 0x1A => some ⟨1, 5, 4, 15, true, .ieee⟩
  | 0x1B => some ⟨1, 4, 3, 7, false, .none⟩
  | _ => none

def fp16 : Fmt := ⟨1, 5, 10, 15, true, .ieee⟩
def bf16 : Fmt := ⟨1, 8, 7, 127, true, .ieee⟩
def fp32 : Fmt := ⟨1, 8, 23, 127, true, .ieee⟩
def fp64 : Fmt := ⟨1, 11, 52, 1023, true, .ieee⟩

/-- F.p, the precision (05 R60). -/
def Fmt.p (f : Fmt) : Nat := f.m + 1
/-- F.emin (05 R60). -/
def Fmt.emin (f : Fmt) : Int := 1 - (f.bias : Int)

/-- The width of the field that an element occupies (05 R64); the FP64 element is 64 bits wide. -/
def fieldWidth : Nat → Nat
  | 0x00 => 2 | 0x01 => 2 | 0x02 => 2 | 0x03 => 1 | 0x1F => 1
  | 0x04 => 4 | 0x05 => 4 | 0x0C => 4
  | 0x0D => 6 | 0x0E => 6 | 0x0F => 6
  | 0x06 => 8 | 0x07 => 8 | 0x10 => 8 | 0x11 => 8 | 0x12 => 8 | 0x13 => 8 | 0x1B => 8 | 0x1C => 8
  | 0x08 => 16 | 0x09 => 16 | 0x14 => 16 | 0x15 => 16 | 0x1D => 16 | 0x1A => 16 | 0x19 => 16
  | 0x18 => 64
  | _ => 32

/-- n(T): elements per register (05 R64). -/
def elemCount (T : Nat) : Nat :=
  match fieldWidth T with
  | 64 => 1
  | w => 32 / w

/-- Integer-class formats of two's complement or unsigned values (05 R61). -/
def isSignedInt (T : Nat) : Bool := T == 0 || T == 4 || T == 6 || T == 8 || T == 0x0A
def isUnsignedInt (T : Nat) : Bool := T == 1 || T == 5 || T == 7 || T == 9 || T == 0x0B || T == 0x1F
def isPlainInt (T : Nat) : Bool := isSignedInt T || isUnsignedInt T
def isSd (T : Nat) : Bool := T == 0x1D || T == 0x1E
/-- TERN2 and BIN1 (05 R61). -/
def isIntClass (T : Nat) : Bool := isPlainInt T || isSd T || T == 2 || T == 3

/-- Element `i` of a register of type T, as its field (05 R64). -/
def elemAt (T i x : Nat) : Nat := fld (fieldWidth T * i) (fieldWidth T) x

/-- The elements of a register. -/
def elems (T x : Nat) : List Nat := (List.range (elemCount T)).map fun i => elemAt T i x

/-- A register from element fields, element 0 first; unused bits are zero (05 R64). -/
def packFields (w : Nat) (l : List Nat) : Nat := l.foldr (fun f acc => f % 2 ^ w + 2 ^ w * acc) 0

/-! ### Signed digits and integers (05 R61, R62, R70) -/

/-- The value of an n-digit SD field, and whether a digit is invalid; an invalid digit reads as 0. -/
def sdValue : Nat → Nat → Int × Bool
  | 0, _ => (0, false)
  | n + 1, x =>
    let r := sdValue n (x / 4)
    match x % 4 with
    | 1 => (2 * r.1 + 1, r.2)
    | 3 => (2 * r.1 - 1, r.2)
    | 2 => (2 * r.1, true)
    | _ => (2 * r.1, r.2)

/-- The sign-uniform SD field of magnitude `v` (05 R62). -/
def sdField (neg : Bool) : Nat → Nat → Nat
  | 0, _ => 0
  | n + 1, v => (if v % 2 = 1 then (if neg then 3 else 1) else 0) + 4 * sdField neg n (v / 2)

/-- The value of an integer-class element, and whether it has an invalid digit. -/
def intValue (T x : Nat) : Int × Bool :=
  if T = 0x1D then sdValue 8 x
  else if T = 0x1E then sdValue 16 x
  else if T = 2 then sdValue 1 x
  else if T = 3 then (if x % 2 = 1 then -1 else 1, false)
  else
    let w := fieldWidth T
    let v := x % 2 ^ w
    (if isSignedInt T && 2 ^ (w - 1) ≤ v then (v : Int) - 2 ^ w else v, false)

/-- The range of an integer destination (05 R61, R62). -/
def intMin (T : Nat) : Int :=
  if T = 0x1D then -(2 ^ 8 - 1) else if T = 0x1E then -(2 ^ 16 - 1)
  else if T = 2 || T = 3 then -1
  else if isSignedInt T then -(2 ^ (fieldWidth T - 1)) else 0
def intMax (T : Nat) : Int :=
  if T = 0x1D then 2 ^ 8 - 1 else if T = 0x1E then 2 ^ 16 - 1
  else if T = 2 || T = 3 then 1
  else if isSignedInt T then 2 ^ (fieldWidth T - 1) - 1 else 2 ^ fieldWidth T - 1

def clampInt (T : Nat) (v : Int) : Int := max (intMin T) (min (intMax T) v)

/-- The writer of an integer destination (05 R70, R72; 11 R148, Fit): the field that receives `v`. -/
def fit (T : Nat) (sat : Bool) (v : Int) : Nat :=
  if isSd T then
    let n := if T = 0x1D then 8 else 16
    if sat then sdField (v < 0) n (clampInt T v).natAbs else sdField (v < 0) n (v.natAbs % 2 ^ n)
  else if T = 2 then
    let r := if sat then clampInt T v else (v + 1) % 3 - 1
    if r = 1 then 1 else if r = -1 then 3 else 0
  else if T = 3 then (if v < 0 then 1 else 0)
  else ((if sat then clampInt T v else v) % 2 ^ fieldWidth T).toNat

/-! ### Floating-point values -/

/-- The value of a floating-point encoding: finite is (−1)^neg × num × 2^exp (05 R60). -/
inductive FVal where
  | nan (signalling : Bool)
  | inf (neg : Bool)
  | fin (neg : Bool) (num : Nat) (exp : Int)
deriving DecidableEq, Repr

/-- Decoding an element of format F (05 R59, R60, R63). -/
def Fmt.decode (f : Fmt) (x : Nat) : FVal :=
  let M := x % 2 ^ f.m
  let E := fld f.m f.e x
  let neg := f.s == 1 && bit1 (f.m + f.e) x
  let top := E == 2 ^ f.e - 1
  match f.nan with
  | .ieee =>
    if top && M != 0 then .nan (M / 2 ^ (f.m - 1) == 0)
    else if top then .inf neg
    else finite f neg E M
  | .topOnly => if top && M == 2 ^ f.m - 1 then .nan false else finite f neg E M
  | .none => finite f neg E M
where
  bit1 (n x : Nat) : Bool := x / 2 ^ n % 2 == 1
  finite (f : Fmt) (neg : Bool) (E M : Nat) : FVal :=
    if E = 0 then .fin neg M (f.emin - f.m) else .fin neg (2 ^ f.m + M) ((E : Int) - f.bias - f.m)

/-- The canonical NaN (05 R63), as an element without container bits. -/
def Fmt.nanBits (f : Fmt) : Nat :=
  match f.nan with
  | .ieee => (2 ^ f.e - 1) * 2 ^ f.m + 2 ^ (f.m - 1)
  | .topOnly => 2 ^ (f.e + f.m) - 1
  | .none => 0

def Fmt.signBits (f : Fmt) (neg : Bool) : Nat := if neg && f.s == 1 then 2 ^ (f.e + f.m) else 0
def Fmt.infBits (f : Fmt) (neg : Bool) : Nat := f.signBits neg + (2 ^ f.e - 1) * 2 ^ f.m

/-- The largest finite magnitude, as exponent and mantissa bits (05 R60, F.max). -/
def Fmt.maxCode (f : Fmt) : Nat :=
  match f.nan with
  | .ieee => (2 ^ f.e - 1) * 2 ^ f.m - 1
  | .topOnly => 2 ^ (f.e + f.m) - 2
  | .none => 2 ^ (f.e + f.m) - 1

/-- The value of an element of type T: FP19 sits in bits 31..13 of its container (05 R64). -/
def fpValue (T x : Nat) : FVal :=
  match fpFmt T with
  | none => .nan false
  | some f => f.decode (if T = 0x16 then x / 2 ^ 13 else x)

/-- An element's bits in its container (05 R64). -/
def fpContain (T bits : Nat) : Nat := if T = 0x16 then bits * 2 ^ 13 else bits

/-! ### Rounding (05 R65, R66) -/

/-- The integer square root, bit by bit. -/
def isqrtAux (n : Nat) : Nat → Nat → Nat
  | 0, r => r
  | b + 1, r =>
    let r' := r + 2 ^ b
    isqrtAux n b (if r' * r' ≤ n then r' else r)
def isqrt (n : Nat) : Nat := isqrtAux n (n.log2 / 2 + 1) 0

/-- An exact positive magnitude: num / den, or its square root. -/
structure Mag where
  num : Nat
  den : Nat
  root : Bool
deriving DecidableEq, Repr

/-- 2^k as numerator and denominator factors. -/
def upPow (k : Int) : Nat := 2 ^ k.toNat
def downPow (k : Int) : Nat := 2 ^ (-k).toNat

def Mag.ofDyadic (num : Nat) (exp : Int) : Mag := ⟨num * upPow exp, downPow exp, false⟩

/-- floor(log2(num / den)). -/
def ratLog2 (num den : Nat) : Int :=
  let e := (num.log2 : Int) - den.log2
  if den * upPow e ≤ num * downPow e then e else e - 1

/-- floor(log2 |x|) (05 R66). -/
def Mag.log2 (x : Mag) : Int :=
  let e := ratLog2 x.num x.den
  if x.root then e / 2 else e

/-- floor(x / 2^k), and whether that is exact. -/
def Mag.floorAt (x : Mag) (k : Int) : Nat × Bool :=
  if x.root then
    let a := x.num * downPow k * downPow k
    let b := x.den * upPow k * upPow k
    let r := isqrt (a / b)
    (r, a % b == 0 && r * r == a / b)
  else
    let a := x.num * downPow k
    let b := x.den * upPow k
    (a / b, a % b == 0)

/-- RoundInt on a magnitude n + (half + sticky): whether it goes up (05 R65). -/
def roundsUp (rnd : Nat) (neg : Bool) (n : Nat) (half sticky : Bool) : Bool :=
  match rnd with
  | 0 => half && (sticky || n % 2 == 1)
  | 1 => false
  | 2 => !neg && (half || sticky)
  | 3 => neg && (half || sticky)
  | _ => half

/-- x / 2^q rounded to an integer, and whether that is exact. -/
def Mag.roundAt (x : Mag) (rnd : Nat) (neg : Bool) (q : Int) : Nat × Bool :=
  let r := x.floorAt (q - 1)
  let n := r.1 / 2
  let half := r.1 % 2 == 1
  (n + (roundsUp rnd neg n half !r.2).toNat, !half && r.2)

/-- Overflow (05 R66). -/
def Fmt.overflow (f : Fmt) (rnd : Nat) (sat neg : Bool) : Out :=
  let bits :=
    if sat || rnd == 1 || (rnd == 2 && neg) || (rnd == 3 && !neg) then f.signBits neg + f.maxCode
    else if f.inf then f.infBits neg
    else match f.nan with
      | .ieee => f.nanBits
      | .topOnly => f.nanBits
      | .none => f.signBits neg + f.maxCode
  ⟨bits, fOF + fNX⟩

/-- Round of a non-zero finite x (05 R66): the element's bits and flags. -/
def Fmt.round (f : Fmt) (rnd : Nat) (sat neg : Bool) (x : Mag) : Out :=
  let e := x.log2
  let qe := max e f.emin - f.m
  let (n, exact) := x.roundAt rnd neg qe
  let code := if n < 2 ^ f.m then n else (qe + f.m + f.bias - 1).toNat * 2 ^ f.m + n
  if f.maxCode < code then f.overflow rnd sat neg
  else
    let tiny := e < f.emin &&
      !(e == f.emin - 1 && (x.roundAt rnd neg (e - f.m)).1 == 2 ^ (f.m + 1))
    ⟨f.signBits neg + code, if exact then 0 else fNX + (if tiny then fUF else 0)⟩

/-- Round of an exact dyadic value, zero included: `zeroNeg` is the sign of a zero. -/
def Fmt.roundDyadic (f : Fmt) (rnd : Nat) (sat zeroNeg : Bool) (num : Int) (exp : Int) : Out :=
  if num = 0 then ⟨f.signBits zeroNeg, 0⟩
  else f.round rnd sat (num < 0) (.ofDyadic num.natAbs exp)

/-! ### Exact sums and comparisons -/

def signed (neg : Bool) (n : Nat) : Int := if neg then -(n : Int) else n

/-- The sum of two dyadic numbers, exactly. -/
def addDyadic (a b : Int × Int) : Int × Int :=
  let e := min a.2 b.2
  (a.1 * upPow (a.2 - e) + b.1 * upPow (b.2 - e), e)

def FVal.isNan : FVal → Bool
  | .nan _ => true
  | .inf _ => false
  | .fin _ _ _ => false
def FVal.isSNan : FVal → Bool
  | .nan q => q
  | .inf _ => false
  | .fin _ _ _ => false
def FVal.isZero : FVal → Bool
  | .fin _ n _ => n == 0
  | .nan _ => false
  | .inf _ => false
def FVal.neg? : FVal → Bool
  | .nan _ => false
  | .inf b => b
  | .fin b _ _ => b
def FVal.negate : FVal → FVal
  | .nan q => .nan q
  | .inf b => .inf !b
  | .fin b n e => .fin (!b) n e

/-- The product of two values that are not NaN; 0 × infinity has none. -/
def FVal.mul : FVal → FVal → Option FVal
  | .fin a n e, .fin b m k => some (.fin (a != b) (n * m) (e + k))
  | .inf a, .inf b => some (.inf (a != b))
  | .inf a, .fin b n _ => if n = 0 then none else some (.inf (a != b))
  | .fin a n _, .inf b => if n = 0 then none else some (.inf (a != b))
  | .nan q, _ => some (.nan q)
  | _, .nan q => some (.nan q)

/-- The sign of a zero sum (05 R69). -/
def zeroSumNeg (rnd : Nat) (vs : List FVal) : Bool :=
  if vs.all fun v => v.neg? && v.isZero then vs != []
  else if vs.all fun v => !v.neg? && v.isZero then false
  else rnd == 3

/-- The exact sum of finite values. -/
def sumFinite (vs : List FVal) : Int × Int :=
  vs.foldl (fun acc v => match v with
    | .fin b n e => addDyadic acc (signed b n, e)
    | .nan _ => acc
    | .inf _ => acc) (0, 0)

/-- The sum of values, rounded once, with the special rows of 05 R69 for sums. -/
def Fmt.sumRound (f : Fmt) (rnd : Nat) (sat : Bool) (vs : List FVal) : Out :=
  if vs.any FVal.isSNan then ⟨f.nanBits, fNV⟩
  else if vs.any FVal.isNan then ⟨f.nanBits, 0⟩
  else
    let pos := vs.contains (.inf false)
    let neg := vs.contains (.inf true)
    if pos && neg then ⟨f.nanBits, fNV⟩
    else if pos then ⟨f.infBits false, 0⟩
    else if neg then ⟨f.infBits true, 0⟩
    else
      let t := sumFinite vs
      f.roundDyadic rnd sat (zeroSumNeg rnd vs) t.1 t.2

/-- The order of two values that are not NaN, −0 and +0 equal. -/
def FVal.lt (a b : FVal) : Bool :=
  match a, b with
  | .inf true, .inf true => false
  | .inf true, _ => true
  | _, .inf true => false
  | .inf false, _ => false
  | _, .inf false => true
  | .fin x n e, .fin y m k =>
    let g := min e k
    signed x n * upPow (e - g) < signed y m * upPow (k - g)
  | _, _ => false
def FVal.eqv (a b : FVal) : Bool := !a.lt b && !b.lt a && !a.isNan && !b.isNan

/-- The order of VFMIN and VFMAX: −0 below +0 (11 R157). -/
def FVal.below (a b : FVal) : Bool :=
  a.lt b || (a.isZero && b.isZero && a.neg? && !b.neg?)

/-! ### Conversions (05 R70 to R74, R91; 11 R169) -/

/-- A source element as a conversion reads it. -/
inductive CVal where
  | int (v : Int)
  | fp (v : FVal)
deriving DecidableEq, Repr

/-- Reading a source element of format S: its value, and NV of an invalid digit (11 R169). -/
def readElem (S x : Nat) : CVal × Nat :=
  if S = 0x1C then
    (.fp (if x % 256 = 255 then .nan false else .fin false 1 ((x % 256 : Nat) - 127)), 0)
  else if isIntClass S then
    let r := intValue S x
    (.int r.1, if r.2 then fNV else 0)
  else (.fp (fpValue S x), 0)

/-- RoundInt of a finite dyadic value (05 R66). -/
def roundToInt (rnd : Nat) (neg : Bool) (num : Nat) (exp : Int) : Int × Bool :=
  if num = 0 then (0, true)
  else
    let r := (Mag.ofDyadic num exp).roundAt rnd neg 0
    (signed neg r.1, r.2)

/-- Whether an integer destination holds `v`. -/
def intHolds (T : Nat) (v : Int) : Bool := intMin T ≤ v && v ≤ intMax T && !(T == 3 && v == 0)

/-- To an integer destination (05 R71, R72). -/
def toInt (T : Nat) (rnd : Nat) (sat : Bool) : CVal → Out
  | .int v => ⟨fit T sat v, if intHolds T v then 0 else fNV⟩
  | .fp (.nan _) => ⟨fit T sat 0, fNV⟩
  | .fp (.inf neg) => ⟨fit T sat (if sat then (if neg then intMin T else intMax T) else 0), fNV⟩
  | .fp (.fin neg n e) =>
    let r := roundToInt rnd neg n e
    ⟨fit T sat r.1, if intHolds T r.1 then (if r.2 then 0 else fNX) else fNV⟩

/-- To SE8 (05 R74). -/
def toSe8 : CVal → Out
  | .fp (.nan _) => ⟨255, fNV⟩
  | .fp (.inf _) => ⟨254, fNV⟩
  | .fp (.fin neg n e) => scale neg n e
  | .int v => scale (v < 0) v.natAbs 0
where
  scale (neg : Bool) (n : Nat) (e : Int) : Out :=
    if n = 0 then ⟨0, fUF + fNX⟩
    else
      let k := (n.log2 : Int) + e + 127
      let c := max 0 (min 254 k)
      let exact := k == c && n == 2 ^ n.log2
      ⟨c.toNat, (if exact then 0 else fNX) + (if 254 < k then fOF else 0) + (if k < 0 then fUF else 0)
        + (if neg then fNV else 0)⟩

/-- To a floating-point destination (05 R73). -/
def toFp (f : Fmt) (rnd : Nat) (sat : Bool) : CVal → Out
  | .int v => finite (v < 0) v.natAbs 0
  | .fp (.nan q) =>
    match f.nan with
    | .ieee => ⟨f.nanBits, if q then fNV else 0⟩
    | .topOnly => ⟨f.nanBits, if q then fNV else 0⟩
    | .none => ⟨0, fNV⟩
  | .fp (.inf neg) =>
    if neg && f.s == 0 then negative
    else if f.inf then ⟨f.infBits neg, 0⟩
    else ⟨(f.overflow rnd sat neg).bits, fNV⟩
  | .fp (.fin neg n e) => finite neg n e
where
  /-- A value below zero to an unsigned format. -/
  negative : Out := ⟨if f.nan != .none && !sat then f.nanBits else 0, fNV⟩
  finite (neg : Bool) (n : Nat) (e : Int) : Out :=
    if n = 0 then ⟨f.signBits neg, 0⟩
    else if neg && f.s == 0 then negative
    else f.round rnd sat neg (.ofDyadic n e)

/-- A floating-point value below 2^emin of its format reads as zero of its sign (05 R91). -/
def FVal.flush (S : Nat) (v : FVal) : FVal :=
  match fpFmt S, v with
  | some f, .fin neg n e => if n.log2 + e < f.emin then .fin neg 0 0 else .fin neg n e
  | _, v => v

/-- Whether R91 flushes subnormals of a conversion to format D under NVR 1. -/
def flushes (nvr D : Nat) : Bool := nvr == 1 && (fpFmt D).isSome && fieldWidth D ≤ 16

/-- The source of a conversion to D, subnormals flushed where R91 says so. -/
def flushSource (nvr S D : Nat) (v : CVal) : CVal :=
  match v with
  | .fp x => if flushes nvr D then .fp (x.flush S) else .fp x
  | .int n => .int n

/-- A result below 2^emin in magnitude becomes zero of its sign with UF and NX (05 R91). -/
def flushResult (nvr D : Nat) (f : Fmt) (o : Out) : Out :=
  if flushes nvr D && 0 < o.bits % 2 ^ (f.e + f.m) && o.bits % 2 ^ (f.e + f.m) < 2 ^ f.m then
    ⟨o.bits / 2 ^ (f.e + f.m) * 2 ^ (f.e + f.m), o.flags ||| (fUF + fNX)⟩
  else o

/-- Convert(x, D) (05 R70): the destination field and the flags. -/
def convert (nvr D rnd : Nat) (sat : Bool) (v : CVal) : Out :=
  if D = 0x1C then toSe8 v
  else if isIntClass D then toInt D rnd sat v
  else match fpFmt D with
    | none => ⟨0, 0⟩
    | some f =>
      let o := flushResult nvr D f (toFp f rnd sat v)
      ⟨fpContain D o.bits, o.flags⟩

end Sys2Proof.Machine
end

