-- ==== Sys2Proof/Machine/Regs.lean ====
section
/-!
DEFINITION. The named operations over a team's registers, masks and nesting counters.
Every read and write of a register goes through here: s0 and m0 are hard-wired (07 R92, 03 R37), a dead
register reads as zero (07 R100), the summary word is computed (03 R36), and EXM is derived in structured
style (03 R40).
-/
namespace Sys2Proof.Machine

/-! ### Scalar registers -/

def SReg.val : SReg → Word
  | .dead => 0
  | .live v _ => v

def SReg.bad : SReg → Bool
  | .dead => false
  | .live _ p => p

/-- Scalar register `r` as it reads: s0 reads 0 (07 R92). -/
def Team.sval (t : Team) (r : Reg) : Word :=
  if r = 0#6 then 0 else (t.sregs[r.toNat]'(r.isLt)).val

/-- Whether scalar register `r` holds poison (21 R315). -/
def Team.sbad (t : Team) (r : Reg) : Bool :=
  r != 0#6 && (t.sregs[r.toNat]'(r.isLt)).bad

/-- A write of scalar register `r`, which makes it live; a write to s0 is discarded (09 R119). -/
def Team.setSP (t : Team) (r : Reg) (v : Word) (poison : Bool) : Team :=
  if r = 0#6 then t else { t with sregs := t.sregs.set r.toNat (.live v poison) r.isLt }

def Team.setS (t : Team) (r : Reg) (v : Word) : Team := t.setSP r v false

/-- The 64-bit value of the scalar pair named by `r` (09, Pair; 07 R93). -/
def Team.pair (t : Team) (r : Reg) : Addr := joinPair (t.sval r) (t.sval (r + 1#6))

/-- A write of both registers of a pair; the pair named by 0 writes only s1 (07 R93). -/
def Team.setPairP (t : Team) (r : Reg) (x : Addr) (poison : Bool) : Team :=
  (t.setSP r (lowWord x) poison).setSP (r + 1#6) (highWord x) poison

def Team.setPair (t : Team) (r : Reg) (x : Addr) : Team := t.setPairP r x false

/-- Scalar register `r` becomes dead; s0 never does (07 R100, R101). -/
def Team.killS (t : Team) (r : Reg) : Team :=
  if r = 0#6 then t else { t with sregs := t.sregs.set r.toNat .dead r.isLt }

/-! ### Lanes and masks -/

/-- TW, the team's width in lanes (03 R31). -/
def Team.tw (t : Team) : Nat := 32 * t.passes

/-- All ones in the lanes below `n`. -/
def lanesBelow (n : Nat) : LaneBits := .ofNat 1024 (2 ^ n - 1)

/-- Word `w` of a set of lane bits (03 R36). -/
def maskWord (b : LaneBits) (w : Nat) : Word := (b >>> (32 * w)).setWidth 32

/-- The summary word: bit `w` is 1 exactly when word `w` is non-zero (03 R36). -/
def summaryWord (b : LaneBits) : Word :=
  .ofNat 32 ((List.range 32).foldr (fun w acc => 2 * acc + (maskWord b w != 0).toNat) 0)

/-- The lane bits of a list of truth values, lane 0 first. -/
def bitsOfList (l : List Bool) : LaneBits :=
  .ofNat 1024 (l.foldr (fun b acc => 2 * acc + b.toNat) 0)

def MaskReg.bits : MaskReg → LaneBits
  | .dead => 0
  | .live b _ => b

def MaskReg.bad : MaskReg → Word
  | .dead => 0
  | .live _ p => p

/-- Mask register `m` as it reads: m0 is all ones below TW (03 R37). -/
def Team.mbits (t : Team) (m : MReg) : LaneBits :=
  if m = 0#4 then lanesBelow t.tw else (t.masks[m.toNat]'(m.isLt)).bits

/-- The poisoned words of mask register `m`, one bit per word (21 R315). -/
def Team.mbad (t : Team) (m : MReg) : Word :=
  if m = 0#4 then 0 else (t.masks[m.toNat]'(m.isLt)).bad

/-- A write of a whole mask register, within TW; a write to m0 is discarded (03 R36, R37). -/
def Team.setM (t : Team) (m : MReg) (b : LaneBits) : Team :=
  if m = 0#4 then t
  else { t with masks := t.masks.set m.toNat (.live (b &&& lanesBelow t.tw) 0) m.isLt }

/-- A write of one mask word; discarded at or beyond TW / 32 and for m0 (03 R36, 09 R136). -/
def Team.setMWord (t : Team) (m : MReg) (w : Nat) (v : Word) : Team :=
  if m = 0#4 || t.passes ≤ w then t
  else
    let old := t.mbits m
    let hole : LaneBits := ~~~((BitVec.allOnes 32).setWidth 1024 <<< (32 * w))
    let bits := (old &&& hole) ||| (v.setWidth 1024 <<< (32 * w))
    let bad := t.mbad m &&& ~~~((1#32) <<< w)
    { t with masks := t.masks.set m.toNat (.live bits bad) m.isLt }

/-- Mask register `m` becomes dead; m0 never does (07 R100). -/
def Team.killM (t : Team) (m : MReg) : Team :=
  if m = 0#4 then t else { t with masks := t.masks.set m.toNat .dead m.isLt }

/-- Whether the nesting counter of lane `l` is zero (03 R40). -/
def Team.nestAt (t : Team) (l : Nat) : BitVec 8 := t.nest.getD l 0

/-- The execute mask: held in mask style, derived from the counters in structured style (03 R38, R40). -/
def Team.exm (t : Team) : LaneBits :=
  if t.structured then bitsOfList ((List.range t.tw).map fun l => t.nestAt l == 0) else t.exmBits

/-- The poisoned words of EXM; the derived mask carries none (21 R315). -/
def Team.exmBad (t : Team) : Word := if t.structured then 0 else t.exmPoison

/-- MODE's fields (07 R96). -/
def Team.type (t : Team) : Nat := fld 0 5 t.mode.toNat
def Team.rnd (t : Team) : Nat := fld 5 3 t.mode.toNat
def Team.sat (t : Team) : Bool := t.mode.getLsbD 8
def Team.guard (t : Team) : MReg := .ofNat 4 (fld 9 4 t.mode.toNat)

/-- The effective mask: EXM AND m[MODE.GUARD] (03 R34). -/
def Team.effective (t : Team) : LaneBits := t.exm &&& t.mbits t.guard

/-- The active lanes in increasing order (03 R34). -/
def Team.active (t : Team) : List Nat := (List.range t.tw).filter fun l => t.effective.getLsbD l

/-! ### Vector registers -/

/-- The virtual register that operand `vn` names: n + 8 × VBASE.BASE (03 R54). -/
def Team.virt (t : Team) (r : Reg) : Reg := r + 8#6 * t.vbase.setWidth 6

/-- The number of vector registers in the window (03 R54). -/
def Team.bound (t : Team) : Nat := 8 * t.blocks.toNat

def VReg.lane : VReg → Nat → Lane
  | .dead, _ => ⟨0, false⟩
  | .live ls, l => ls.getD l ⟨0, false⟩

/-- Lane `l` of vector register `r`, with its poison; a dead register reads as zero (07 R100). -/
def Team.laneOf (t : Team) (r : Reg) (l : Nat) : Lane :=
  (t.vregs[(t.virt r).toNat]'((t.virt r).isLt)).lane l

def Team.vval (t : Team) (r : Reg) (l : Nat) : Word := (t.laneOf r l).val
def Team.vbad (t : Team) (r : Reg) (l : Nat) : Bool := (t.laneOf r l).poison
/-- The 64-bit value of a vector pair in lane `l` (07 R92). -/
def Team.vpair (t : Team) (r : Reg) (l : Nat) : Addr := joinPair (t.vval r l) (t.vval (r + 1#6) l)

/-- A write of vector register `r` in the lanes for which `f` answers a word.  The register becomes live:
the other lanes keep their value, zero if it was dead (07 R100).  Where no lane is written, nothing is. -/
def Team.setLanes (t : Team) (r : Reg) (f : Nat → Option Lane) : Team :=
  if (List.range t.tw).all (fun l => (f l).isNone) then t
  else { t with
    vregs := t.vregs.set (t.virt r).toNat
      (.live ((List.range t.tw).map fun l => (f l).getD (t.laneOf r l))) (t.virt r).isLt }

/-- A write of one lane. -/
def Team.setLane (t : Team) (r : Reg) (l : Nat) (v : Word) (poison : Bool) : Team :=
  t.setLanes r fun i => if i = l then some ⟨v, poison⟩ else none

/-- A result word for each active lane (03 R34). -/
def Team.setActive (t : Team) (r : Reg) (f : Nat → Word) : Team :=
  t.setLanes r fun l => if t.effective.getLsbD l then some ⟨f l, false⟩ else none

/-- A 64-bit result for each active lane, in the pair named by `r`. -/
def Team.setActivePair (t : Team) (r : Reg) (f : Nat → Addr) : Team :=
  (t.setActive r fun l => lowWord (f l)).setActive (r + 1#6) fun l => highWord (f l)

/-- Vector register `r` becomes dead in every lane (07 R101). -/
def Team.killV (t : Team) (r : Reg) : Team :=
  { t with vregs := t.vregs.set (t.virt r).toNat .dead (t.virt r).isLt }

/-- A mask result: 0 for every lane that is not active, the lane's bit for the others (03 R39). -/
def Team.setMaskActive (t : Team) (m : MReg) (f : Nat → Bool) : Team :=
  t.setM m (bitsOfList ((List.range t.tw).map fun l => t.effective.getLsbD l && f l))

/-! ### Small updates -/

/-- The program counter moves past the instruction's word (07 R106). -/
def Team.advance (t : Team) : Team := { t with pc := t.pc + 4#64 }
def Team.goto (t : Team) (a : Addr) : Team := { t with pc := a }

/-- Flags are ORed into FLAGS (05 R67). -/
def Team.orFlags (t : Team) (f : Word) : Team := { t with flags := t.flags ||| f }

/-- The bytes of the team's stack segment begin at SB (03 R52). -/
def Team.stackStart (t : Team) : Addr := t.stackBase + t.index.setWidth 64 * t.ss.setWidth 64

/-- Tower, pair of the tower, and package-wide pair of a core index (01 R14, R18). -/
def towerOf (core : Nat) : Nat := core / 128
def pairOf (core : Nat) : Nat := core / 64

end Sys2Proof.Machine
end

