-- ==== Sys2Proof/Machine/Mem.lean ====
section
/-!
DEFINITION. The named operations over memory: locations, bytes and their poison, address translation
(21 R305 to R308), the control aperture (25 R349), and what every write brings about (15 R236).
-/
namespace Sys2Proof.Machine

/-! ### Locations

One number names every byte of the machine: device physical addresses below 2^52 (HBM below 2^39, and the control
aperture), then host memory, peer memory, the vaults by core index, and the local stores by context and core (01 R27,
R29, 21 R307, 19 R295). -/

def spaceSize : Nat := 2 ^ 52
/-- The HBM of a package, 512 GiB (01 R27). -/
def hbmSize : Nat := 2 ^ 39
/-- The byte of HBM that a device physical address outside the control aperture names: HBM repeats through the 52-bit
space (DESIGN CHOICE, unsafe: no rule says where it lies or what other addresses name; log entries 64 and 71). -/
def physical (a : Nat) : Nat := a % hbmSize
def hostLoc (a : Nat) : Nat := spaceSize + a
def peerLoc (a : Nat) : Nat := 2 * spaceSize + a
def vaultLoc (core o : Nat) : Nat := 3 * spaceSize + core * 2 ^ 22 + o
def localLoc (ctx core o : Nat) : Nat := 4 * spaceSize + (ctx * 512 + core) * 2 ^ 20 + o

/-! ### Bytes and poison -/

/-- One byte of memory.  A byte that nothing has written reads 0: R359 writes zero to HBM, vaults and local
stores; for host and peer memory a DESIGN CHOICE, unsafe (log entry 2). -/
def Memory.byte (m : Memory) (loc : Nat) : Byte := Assoc.get 0 m.cells loc

def Memory.bytes (m : Memory) (loc n : Nat) : List Byte := Assoc.getAll 0 m.cells loc n

/-- The little-endian number that `n` bytes hold. -/
def Memory.nat (m : Memory) (loc n : Nat) : Nat := leNat (m.bytes loc n)

/-- Whether the aligned word that holds `loc` is poisoned (21 R314). -/
def Memory.wordBad (m : Memory) (loc : Nat) : Bool := Assoc.get false m.poison (loc / 4)

/-- Whether any word that `n` bytes at `loc` touch is poisoned. -/
def Memory.anyBad (m : Memory) (loc n : Nat) : Bool := (List.range n).any fun i => m.wordBad (loc + i)

def Memory.setWordBad (m : Memory) (loc : Nat) (p : Bool) : Memory :=
  { m with poison := Assoc.set false m.poison (loc / 4) p }

/-- The aligned words that `n` bytes at `loc` cover whole. -/
def coveredWords (loc n : Nat) : List Nat :=
  (List.range (n / 4 + 1)).filterMap fun i =>
    let w := (loc + 3) / 4 * 4 + 4 * i
    if w + 4 ≤ loc + n then some w else none

/-- A store: the bytes change, and the poison of every word they cover whole is cleared; a narrower store
leaves a word poisoned (21 R314). -/
def Memory.store (m : Memory) (loc : Nat) (bs : List Byte) : Memory :=
  (coveredWords loc bs.length).foldl (fun m w => m.setWordBad w false)
    { m with cells := Assoc.setAll 0 m.cells loc bs }

/-- The poison of the words that `n` bytes at `loc` cover whole is cleared. -/
def Memory.clearCovered (m : Memory) (loc n : Nat) : Memory :=
  (coveredWords loc n).foldl (fun m w => m.setWordBad w false) m

/-- Memory's canonical form: bytes, poison and cells each in theirs (see `Assoc.wf`). -/
def Memory.wf (m : Memory) : Bool :=
  Assoc.wf 0 m.cells && Assoc.wf false m.poison && Assoc.wf Cell.zero m.acc

/-- The key of cell `j` of row `row` of a core's accumulator file; each context sees its own copy (17 R253). -/
def cellKey (ctx core row j : Nat) : Nat := ((ctx * 512 + core) * 256 + row) * 64 + j

def Memory.cell (m : Memory) (k : Nat) : Cell := Assoc.get Cell.zero m.acc k
def Memory.setCell (m : Memory) (k : Nat) (c : Cell) : Memory :=
  { m with acc := Assoc.set Cell.zero m.acc k c }

/-! ### Lookup -/

def State.team? (s : State) (id : Nat) : Option Team := s.teams.find? fun t => t.id == id
def State.putTeam (s : State) (t : Team) : State :=
  { s with teams := s.teams.map fun u => if u.id = t.id then t else u }
def State.node? (s : State) (id : Nat) : Option Node := s.nodes.find? fun n => n.id == id
def State.putNode (s : State) (n : Node) : State :=
  { s with nodes := s.nodes.map fun u => if u.id = n.id then n else u }
def State.ctx? (s : State) (id : Nat) : Option Context := s.fe.contexts.find? fun c => c.ctxid == id
def State.putCtx (s : State) (c : Context) : State :=
  { s with fe := { s.fe with contexts := s.fe.contexts.map fun u => if u.ctxid = c.ctxid then c else u } }
def State.queue (s : State) (q : Nat) : Queue := if h : q < 128 then s.fe.queues[q] else Queue.unmapped
def State.putQueue (s : State) (q : Nat) (x : Queue) : State :=
  if h : q < 128 then { s with fe := { s.fe with queues := s.fe.queues.set q x h } } else s

/-- A copy of the context that a team runs in; a team's context is always in the run list. -/
def State.ctxOf (s : State) (t : Team) : Context := (s.ctx? t.ctx).getD Context.system

def State.modCtx (s : State) (id : Nat) (f : Context → Context) : State :=
  { s with fe := { s.fe with contexts := s.fe.contexts.map fun c => if c.ctxid = id then f c else c } }

/-! ### Translation -/

/-- What an access needs of its page (21 R308). -/
inductive Intent where
  | read | write | fetch
deriving DecidableEq, Repr

/-- A trap with an address and a cause. -/
def Trap.at (c : TrapCode) (addr : Addr) (cause : Nat) : Trap := ⟨c, addr, cause, none, none⟩

def bit (n : Nat) (x : Nat) : Bool := x / 2 ^ n % 2 == 1

/-- Base address of the two fixed windows (01 R29). -/
def localWindow : Nat := 0xFFFFFF0000000000
def vaultWindow : Nat := 0xFFFFFE0000000000

/-- The control aperture (25 R349). -/
def apertureBase : Nat := 0x000FFF0000000000
def apertureSize : Nat := 0x1000000
def mailboxLoc : Nat := apertureBase + 0x800000

/-- Canonical addresses: bits 63..57 equal bit 56 (21 R305). -/
def canonical (va : Addr) : Bool := va.toNat / 2 ^ 56 == 0 || va.toNat / 2 ^ 56 == 255

/-- Whether a location lies in the aperture. -/
def inAperture (loc : Nat) : Bool := apertureBase ≤ loc && loc < apertureBase + apertureSize

/-- The lost-die check of an access (21 R320): its home's base die is lost. -/
def State.homeLost (s : State) (tower : Nat) : Bool := s.dev.lostDies.getLsbD (1 + tower)

/-- The windows: local store and vaults, never translated (01 R29, R30; 19 R291). -/
def windowPlace (s : State) (c : Context) (core : Nat) (va : Addr) (i : Intent) : Except Trap Place :=
  let a := va.toNat
  if localWindow ≤ a then
    let o := a - localWindow
    if 2 ^ 20 ≤ o then .error (.at .translation va 2)
    else if i = .fetch then .error (.at .permission va 1)
    else if !c.claim.getLsbD 0 then .error (.at .permission va 3)
    else .ok ⟨localLoc c.ctxid core o, .rc, .localStore⟩
  else
    let o := a - vaultWindow
    let k := o / 2 ^ 22
    if !isCore k then .error (.at .translation va 2)
    else if s.dev.flash.vaultAbsent.getLsbD (recordBit k) then .error (.at .translation va 2)
    else if i = .fetch then .error (.at .permission va 1)
    else if s.homeLost (towerOf k) then .error (.at .dieLost (.ofNat 64 (1 + towerOf k)) 0)
    else .ok ⟨vaultLoc k (o % 2 ^ 22), .rc, .vault k⟩

/-- The place that attribute bits (21 R307) and a physical address of 52 bits (21 R306) name, or why the entry is
malformed. -/
def placeOf (attr addr : Nat) : Option Place :=
  let phys := addr % spaceSize
  let kind := match fld 1 2 attr with
    | 0 => some PageKind.rc
    | 1 => some .so
    | 2 => some .uo
    | _ => none
  match kind, fld 8 2 attr with
  | some k, 0 =>
    if bit 6 attr then none
    else if inAperture phys then some ⟨phys, k, .aperture⟩
    else some ⟨physical phys, k, .device (fld 10 2 attr)⟩
  | some k, 1 => some ⟨hostLoc phys, k, if bit 6 attr then .hostCoherent else .hostLink⟩
  | some k, 2 => if bit 6 attr then none else some ⟨peerLoc phys, k, .peer⟩
  | _, _ => none

/-- The permission checks of 21 R308, in their order, then the lost-die check of R320. -/
def permit (s : State) (c : Context) (va : Addr) (i : Intent) (attr : Nat) (p : Place) :
    Except Trap Place :=
  if !bit 5 attr && !c.priv then .error (.at .permission va 2)
  else if i = .write && !bit 3 attr then .error (.at .permission va 0)
  else if i = .fetch && !bit 4 attr then .error (.at .permission va 1)
  else match p.region with
    | .device h => if s.homeLost h then .error (.at .dieLost (.ofNat 64 (1 + h)) 0) else .ok p
    | .hostCoherent | .hostLink | .peer | .vault _ | .localStore | .aperture => .ok p

/-- A leaf entry of the page tables: the page of `pageBits` that holds `va` (21 R306, R307). -/
def leafPlace (s : State) (c : Context) (va : Addr) (i : Intent) (pte pageBits : Nat) :
    Except Trap Place :=
  let ppn := fld 16 36 pte * 2 ^ 16
  if fld 12 4 pte != 0 || fld 52 8 pte != 0 || ppn % 2 ^ pageBits != 0 then
    .error (.at .translation va 1)
  else match placeOf (pte % 2 ^ 12) (ppn + va.toNat % 2 ^ pageBits) with
    | none => .error (.at .translation va 1)
    | some p => permit s c va i pte p

/-- A walk over the remaining levels, each given by its lowest VA bit, index width and whether a leaf may
and a pointer may stand there (21 R306).  A TABLE at or above 512 GiB names the HBM that its address modulo 2^39 names,
as every other physical address does (DESIGN CHOICE, log entry 71).  Of a poisoned entry the stored bits are used (DESIGN
CHOICE, log entry 112). -/
def walk (s : State) (c : Context) (va : Addr) (i : Intent) (table : Nat) :
    List (Nat × Nat × Bool × Bool) → Except Trap Place
  | [] => .error (.at .translation va 1)
  | (lo, width, leafOk, ptrOk) :: rest =>
    let pte := s.mem.nat (physical (table + 8 * fld lo width va.toNat)) 8
    if !bit 0 pte then .error (.at .translation va 0)
    else if bit 7 pte then
      if leafOk then leafPlace s c va i pte lo else .error (.at .translation va 1)
    else if !ptrOk || fld 52 8 pte != 0 then .error (.at .translation va 1)
    else walk s c va i (fld 12 40 pte * 2 ^ 12) rest

/-- The four levels of 21 R306. -/
def levels : List (Nat × Nat × Bool × Bool) :=
  [(39, 18, false, true), (30, 9, true, true), (21, 9, true, true), (16, 5, true, false)]

/-- Whether an enabled range register holds `va` (21 R305, R310). -/
def Range.holds (r : Range) (va : Addr) : Bool :=
  r.vlen != 0 && r.vstart.toNat ≤ va.toNat && va.toNat < r.vstart.toNat + r.vlen.toNat

/-- Address translation (21 R305): canonical form, the windows, the lowest-numbered enabled range that holds
the address, then the page tables. -/
def translate (s : State) (c : Context) (core : Nat) (va : Addr) (i : Intent) : Except Trap Place :=
  if !canonical va then .error (.at .translation va 1)
  else if vaultWindow ≤ va.toNat then windowPlace s c core va i
  else match c.ranges.find? fun r => r.2.holds va with
    | some (_, r) =>
      match placeOf (r.attr.toNat % 2 ^ 12) (r.pbase.toNat + (va.toNat - r.vstart.toNat)) with
      | none => .error (.at .translation va 1)
      | some p => permit s c va i r.attr.toNat p
    | none => walk s c va i c.ptroot.toNat levels

/-- The lowest VA bit of the level at which a walk finds its leaf. -/
def leafBits (m : Memory) (va : Addr) (table : Nat) : List (Nat × Nat × Bool × Bool) → Option Nat
  | [] => none
  | (lo, width, _) :: rest =>
    let pte := m.nat (physical (table + 8 * fld lo width va.toNat)) 8
    if !bit 0 pte then none
    else if bit 7 pte then some lo
    else leafBits m va (fld 12 40 pte * 2 ^ 12) rest

/-- Whether an address lies in a page. -/
def VPage.holds (g : VPage) (va : Addr) : Bool := va.toNat / 2 ^ g.bits == g.number

/-- The page whose entry translates an address: none in the windows, nor under a range register (21 R305). -/
def State.pageOf (s : State) (c : Context) (va : Addr) : Option VPage :=
  if vaultWindow ≤ va.toNat || c.ranges.any (fun r => r.2.holds va) then none
  else (leafBits s.mem va c.ptroot.toNat levels).map fun b => ⟨va.toNat / 2 ^ b, b⟩

/-! ### Peers (25 R347) -/

/-- The ports permitted for a peer: all of a route mask that are not down. -/
def State.portsTo (s : State) (dev : Nat) : BitVec 24 := Assoc.get 0 s.dev.routes dev &&& ~~~s.dev.portsDown

/-- Whether a place can be reached: a peer needs a permitted port. -/
def State.reachable (s : State) (p : Place) : Bool :=
  match p.region with
  | .peer => s.portsTo (Config.peerOf (p.loc - peerLoc 0)).toNat != 0
  | .device _ | .hostCoherent | .hostLink | .vault _ | .localStore | .aperture => true

/-! ### Time (25 R351) -/

/-- What a die's copy of the time base reads: it lags the master by at most 2 ticks and never falls, since the lag is
taken against the two ticks before as well (log entry 16). -/
def dieReading (die now : Nat) : Nat :=
  max (now - 2) (max (now - (Config.dieLag die now).val) (now - 1 - (Config.dieLag die (now - 1)).val))

/-- The time base as a die reads it; the FE die holds the master. -/
def State.timeOn (s : State) (die : Nat) : BitVec 64 := .ofNat 64 (dieReading die s.dev.time.toNat)

/-- The time base as a core reads it, on its C-die (01 R13, R18; DEDUCED, log entry 16). -/
def State.coreTime (s : State) (core : Nat) : BitVec 64 := s.timeOn (8 + core / 64)

/-! ### Reads -/

/-- One byte of the aperture as a load reads it (25 R349). -/
def State.apertureByte (s : State) (o : Nat) : Byte :=
  if o < 0x800000 then
    if o % 0x10000 < 4 then .ofNat 8 ((s.queue (o / 0x10000)).doorbell.toNat / 256 ^ (o % 0x10000))
    else Config.apertureByte o
  else if o < 0x810000 then Assoc.get 0 s.dev.mailbox (o - 0x800000)
  else if o < 0x820000 then
    let b := o - 0x810000
    if b = 0 then s.dev.status
    else if 8 ≤ b ∧ b < 16 then .ofNat 8 (s.dev.time.toNat / 256 ^ (b - 8))
    else Config.apertureByte o
  else if o < 0x830000 then Config.debugByte o s.dev.time.toNat s.dev.debugCode s.dev.debugValue.toNat
  else 0

/-- The number that `n` bytes at a location hold, in memory or in the aperture. -/
def State.natAt (s : State) (loc n : Nat) : Nat :=
  if inAperture loc then leNat ((List.range n).map fun i => s.apertureByte (loc - apertureBase + i)) else s.mem.nat loc n

/-! ### Writes and what they bring about -/

def signedOf (width : Nat) (x : BitVec 64) : Int :=
  if width = 8 then x.toInt else (x.setWidth 32).toInt

/-- The condition of a bell on the word it watches (13 R199). -/
def Armed.holds (a : Armed) (w : BitVec 64) : Bool :=
  match a.cond with
  | .eq => w == a.val
  | .ne => w != a.val
  | .lt => signedOf a.width w < signedOf a.width a.val
  | .ge => signedOf a.width a.val ≤ signedOf a.width w
  | .ltu => w.toNat < a.val.toNat
  | .geu => a.val.toNat ≤ w.toNat
  | .maskeq => w &&& a.mask == a.val &&& a.mask

/-- Whether `n` bytes at `loc` touch `width` bytes at `at`. -/
def touches (loc n a width : Nat) : Bool := loc < a + width && a < loc + n

/-- A write of `n` bytes at `loc` fires an armed bell (15 R236). -/
def Armed.firedBy (a : Armed) (s : State) (loc n : Nat) : Bool :=
  touches loc n a.loc a.width && a.holds (.ofNat 64 (s.natAt a.loc a.width))

def BellSlot.after (b : BellSlot) (s : State) (loc n : Nat) : BellSlot :=
  match b.armed with
  | none => b
  | some a => if a.firedBy s loc n then ⟨none, true⟩ else b

/-- What a write does to a team: its bells fire, a fire ends its AWAIT, and a change of the phase it waits
for ends its BWAIT (15 R237, 03 R51).  The waiting instruction then executes again and returns at once. -/
def Team.afterWrite (s : State) (loc n : Nat) (t : Team) : Team :=
  let bells := t.bells.map fun b => b.after s loc n
  let cond := match t.cond with
    | .parkedAwait d a x => if bells != t.bells then .woken else .parkedAwait d a x
    | .parkedBarrier w ph =>
      if touches loc n w 8 && fld 16 32 (s.natAt w 8) != ph.toNat then .woken else .parkedBarrier w ph
    | .ready => .ready
    | .stalled => .stalled
    | .woken => .woken
    | .pendingTranslation a l => .pendingTranslation a l
    | .stopped b k => .stopped b k
    | .exiting => .exiting
  { t with bells, cond }

/-- A write fires a bell of a team. -/
def Team.firedBy (t : Team) (s : State) (loc n : Nat) : Bool := t.bells.any fun b => b.after s loc n != b

/-- A team that a fire makes ready: one that is parked in AWAIT (15 R237). -/
def Team.inAwait (t : Team) : Bool :=
  match t.cond with
  | .parkedAwait _ _ _ => true
  | .parkedBarrier _ _ => false
  | .ready | .stalled | .woken | .exiting => false
  | .pendingTranslation _ _ => false
  | .stopped _ _ => false

/-- A fire that reaches a team of a switched-out context sets the entry's WAKEPEND (15 R237), and what it makes ready
counts from the end of the running slice on (19 R292). -/
def wakeContexts (s : State) (loc n : Nat) (cs : List Context) : List Context :=
  cs.map fun c =>
    let fired := s.teams.filter fun t => t.ctx == c.ctxid && t.firedBy s loc n
    if c.ctxid != s.fe.running && fired != [] then
      { c with
        wakePend := true
        wakeLate := c.wakeLate || !c.wakePend
        lateTeams := c.lateTeams ++ (fired.filter Team.inAwait).map (·.id) }
    else c

/-- A fire of the front end's own bell for a WAIT_SIGNAL (19 R273). -/
def Queue.afterWrite (s : State) (loc n : Nat) (q : Queue) : Queue :=
  match q.wait with
  | .signal (some a) false => if a.firedBy s loc n then { q with wait := .signal none true } else q
  | .signal _ _ => q
  | .none => q
  | .gang => q

/-- Where the entry of a collective group lies (25 R348). -/
def Privileged.groupEntry (r : Privileged) (g : Nat) : Nat :=
  physical (r.grphi.toNat * 2 ^ 32 + r.grplo.toNat + 16 * g)

/-- A write of a group's entry starts its count of COLLs again (13 R216). -/
def Device.afterWrite (d : Device) (loc n : Nat) : Device :=
  { d with
    rounds := d.rounds.filter fun e => !touches loc n (d.regs.groupEntry (e.1 / 4096)) 16
    brokenColls := d.brokenColls.filter fun e => !touches loc n (d.regs.groupEntry e.1) 16 }

/-- What a write of `n` bytes at `loc`, just performed, brings about (15 R236, R237; 13 R216). -/
def State.afterWrite (s : State) (loc n : Nat) : State :=
  { s with
    dev := s.dev.afterWrite loc n
    teams := s.teams.map (Team.afterWrite s loc n)
    fe := { s.fe with
      contexts := wakeContexts s loc n s.fe.contexts
      queues := s.fe.queues.map (Queue.afterWrite s loc n) } }

/-- A write performs: the bytes take their place, then bells and barriers see it. -/
def State.writeLoc (s : State) (loc : Nat) (bs : List Byte) : State :=
  { s with mem := s.mem.store loc bs }.afterWrite loc bs.length

/-! ### The host and peers in their own memory (15 R241) -/

def OwnWrite.fits (w : OwnWrite) : Bool := w.addr.toNat + w.bytes.length ≤ spaceSize

/-- Such a write performs. -/
def State.ownWrite (s : State) (w : OwnWrite) : State :=
  s.writeLoc (if w.peer then peerLoc w.addr.toNat else hostLoc w.addr.toNat) w.bytes

/-- Those that land between the halves of the step's next read-modify-write over a link (13 R195, 25 R346). -/
def State.between (s : State) : State :=
  match s.sched.during with
  | [] => s
  | ws :: rest => ws.foldl State.ownWrite { s with sched := { s.sched with during := rest } }

/-! ### A teller's second half (13 R195, 25 R346) -/

/-- An access gives way to its reply, if it owes one (13 R193, R194). -/
def State.replied (s : State) (a : Access) (reply : Option AccessKind) : State :=
  let rest := s.flight.accesses.filter fun x => x.id != a.id
  match reply with
  | none => { s with flight := { s.flight with accesses := rest } }
  | some k =>
    { s with flight := { s.flight with
      accesses := rest ++ [{ a with id := s.flight.nextId, kind := k, after := [] }], nextId := s.flight.nextId + 1 } }

/-- The write of a teller that has read performs, and the value read goes to the requester. -/
def State.settleOne (s : State) (a : Access) : State :=
  match a.kind with
  | .update old bs dst => (s.writeLoc a.place.loc bs).replied a (dst.map fun d => .reply old false d)
  | .load _ | .store _ | .strongLoad _ | .strongStore _ | .atomic .. | .cas .. | .reply .. => s

/-- Before a device access that writes `n` bytes at `loc`, the teller finishes what it has begun there: every device
access to such a word goes through that teller. -/
def State.settle (s : State) (loc n : Nat) : State :=
  (s.flight.accesses.filter fun a => touches a.place.loc a.size loc n).foldl State.settleOne s

/-! ### The touched-dies mask (21 R319) -/

/-- Before an access of a device agent the tellers finish what they have begun: a write of the host or a peer can fall
between their halves, a device access cannot (13 R193, R195; 25 R346; log entry 18). -/
def State.tellersDone (s : State) : State := s.flight.accesses.foldl State.settleOne s

/-- The dies that a translation, or an access through the vault window, adds to the touched-dies mask (21 R319).  The HOME
of an entry that maps the control aperture counts for nothing (DESIGN CHOICE, log entry 113). -/
def touchedBy (p : Place) : Word :=
  match p.region with
  | .device h => 1#32 <<< (1 + h)
  | .vault c => 1#32 <<< (1 + towerOf c)
  | .hostCoherent | .hostLink | .peer | .localStore | .aperture => 0

/-- A translation named its home; a vault counts only where a team accesses it (21 R319). -/
def Place.isNamed (p : Place) : Bool :=
  match p.region with
  | .vault _ => false
  | .device _ | .hostCoherent | .hostLink | .peer | .localStore | .aperture => true

/-- The home that a translation named, whatever its permission checks said, with no access made (21 R308, R319). -/
def State.named (s : State) (c : Context) (core : Nat) (va : Addr) : List Place :=
  let open_ : State := { s with dev := { s.dev with lostDies := 0 } }
  match translate open_ { c with priv := true, claim := 1#8 ||| c.claim } core va .read with
  | .ok p => if p.isNamed then [p] else []
  | .error _ => []

def State.touch (s : State) (ctx : Nat) (ps : List Place) : State :=
  s.modCtx ctx fun c => { c with touched := ps.foldl (fun m p => m ||| touchedBy p) c.touched }

/-- Places that were translated, with no access made: no vault among them counts (21 R319). -/
def State.touchNamed (s : State) (ctx : Nat) (ps : List Place) : State := s.touch ctx (ps.filter Place.isNamed)

/-- Where the addresses of a team's accesses lie, as their translations name it. -/
def State.placesAt (s : State) (t : Team) (vas : List Addr) : List Place :=
  vas.flatMap (s.named (s.ctxOf t) t.core)

/-! ### The front end, through a context's translations -/

/-- Translation of a front-end access: the front end lies on no core, so the local-store window holds
nothing for it (DEDUCED, log entry 8). -/
def State.feTranslate (s : State) (c : Context) (va : Addr) (i : Intent) : Except Trap Place :=
  if localWindow ≤ va.toNat then .error (.at .translation va 2) else translate s c 0 va i

/-- Translations that the front end makes for a context add their homes to its touched dies (21 R319). -/
def State.touchFe (s : State) (ctx : Nat) (vas : List Addr) : State :=
  match s.ctx? ctx with
  | none => s
  | some c => s.touch ctx ((vas.filter fun va => va.toNat < localWindow).flatMap (s.named c 0))

/-- A front-end write to a virtual address; where the address is not usable, no write (19 R288, R293; 25 R347), nor where it
maps the control aperture, as a status word's may (DESIGN CHOICE, log entry 123). -/
def State.pokeVa (s : State) (c : Context) (va : Addr) (bs : List Byte) : State :=
  let s1 := s.touchFe c.ctxid [va]
  match s.feTranslate c va .write with
  | .error _ => s1
  | .ok p =>
    if !s.reachable p then s1
    else match p.region with
      | .aperture => s1
      | .hostLink | .peer => (s1.settle p.loc bs.length).writeLoc p.loc bs
      | .device _ | .hostCoherent | .vault _ | .localStore => s1.writeLoc p.loc bs

/-- A queue's status word (19 R270): CONSUMED, ERR, HALT. -/
def Queue.statusWord (q : Queue) : Nat := q.consumed.toNat + q.err.toNat * 2 ^ 32 + q.halt.toNat * 2 ^ 40

/-- The device writes a queue's status word through the translations of its context (19 R293). -/
def State.postStatus (s : State) (q : Nat) : State :=
  match (s.queue q).map with
  | none => s
  | some m =>
    match s.ctx? m.ctx with
    | none => s
    | some c => if m.ring.isNone then s else s.pokeVa c m.status (leBytes 8 (s.queue q).statusWord)

/-- A queue's new contents, and its status word. -/
def State.updateQueue (s : State) (q : Nat) (x : Queue) : State := (s.putQueue q x).postStatus q

/-- What the front end holds of a queue's head packet is dropped: its place in the round, the unplaced parts
and reservations of a waiting gang, an image in the second instruction bank. -/
def State.dropHead (s : State) (q : Nat) : State :=
  { s with
    nodes := s.nodes.filter fun n => !(n.gang == some q && n.placed == 0)
    fe := { s.fe with
      round := s.fe.round.filter (· != q)
      gangHolds := s.fe.gangHolds.filter fun h => h.1 != q
      bank := s.fe.bank.filter fun b => b.2 != q } }

/-- A queue halts with an error code (19 R274). -/
def State.haltQueue (s : State) (q err : Nat) : State :=
  (s.dropHead q).updateQueue q
    { s.queue q with halt := true, err := .ofNat 8 err, prefetched := [], wait := .none }

/-- A doorbell write: P is published; an overrun halts the queue with ERR 4 (19 R270), also one that is halted already, whose
ERR it replaces (DESIGN CHOICE, log entry 121). -/
def State.ringDoorbell (s : State) (q : Nat) (p : Word) : State :=
  match (s.queue q).map with
  | none => s
  | some m =>
    let s1 := s.putQueue q { s.queue q with doorbell := p }
    if 2 ^ m.k < (p - (s.queue q).consumed).toNat then s1.haltQueue q 4 else s1

/-! ### The control aperture -/

/-- A store to the aperture (25 R349): a doorbell, the mailbox, or nothing; then bells see it (15 R236).  A store to the
debug unit's page, whose layout no rule gives, starts no command here: the commands of R360 are events of their own
(DESIGN CHOICE, log entry 87). -/
def State.apertureStore (s : State) (o : Nat) (bs : List Byte) : State :=
  let s1 : State :=
    if o < 0x800000 then
      if o % 0x10000 = 0 ∧ bs.length = 4 then s.ringDoorbell (o / 0x10000) (.ofNat 32 (leNat bs)) else s
    else if o < 0x810000 then
      let b := o - 0x800000
      let box := Assoc.setAll 0 s.dev.mailbox b bs
      if b = 0 then
        match s.dev.command with
        | some _ => { s with dev := { s.dev with mailbox := Assoc.set 0 box 0x800 4 } }.afterWrite (mailboxLoc + 0x800) 1
        | none =>
          let cmd := leNat (Assoc.getAll 0 box 0 8)
          if 1 ≤ cmd ∧ cmd ≤ 5 then
            { s with dev := { s.dev with mailbox := box, command := some (.ofNat 64 cmd) } }
          else
            { s with dev := { s.dev with mailbox := Assoc.set 0 box 0x800 1 } }.afterWrite (mailboxLoc + 0x800) 1
      else { s with dev := { s.dev with mailbox := box } }
    else s
  s1.afterWrite (apertureBase + o) bs.length

/-! ### Reads and writes at a place -/

/-- The bytes that a read of a place returns, of a live team's stack segment too: of the values that R53 lets another
agent read there, the last one (DESIGN CHOICE, log entry 72). -/
def State.readPlace (s : State) (p : Place) (n : Nat) : List Byte :=
  match p.region with
  | .aperture => (List.range n).map fun i => s.apertureByte (p.loc - apertureBase + i)
  | .device _ | .hostCoherent | .hostLink | .peer | .vault _ | .localStore => s.mem.bytes p.loc n

/-- A write at a place performs. -/
def State.writePlace (s : State) (p : Place) (bs : List Byte) : State :=
  match p.region with
  | .aperture => s.apertureStore (p.loc - apertureBase) bs
  | .hostLink | .peer => (s.settle p.loc bs.length).writeLoc p.loc bs
  | .device _ | .hostCoherent | .vault _ | .localStore => s.writeLoc p.loc bs

/-- The copies of lines that a tower holds of these places are dropped. -/
def State.dropLines (s : State) (tower : Nat) (ps : List Place) : State :=
  { s with flight := { s.flight with
      lines := s.flight.lines.filter fun c => !(c.tower == tower && ps.any fun p => p.loc / 128 == c.line) } }

/-- A team of `tower` has read these places at their homes.  A copy of a line that a team of the tower has written is dropped,
so that no later weak read goes back to a write of the reader's own team (15 R223, property 2); another copy stays, and may
serve a later weak read with older writes of other agents (property 4). -/
def State.servedAtHome (s : State) (tower : Nat) (ps : List Place) : State :=
  s.dropLines tower (ps.filter fun p => s.flight.stored.contains (tower, p.loc / 128))

/-- A copy of a line after bytes of the line are written in its tower: a word that they cover whole is clean (21 R314). -/
def LineCopy.overlay (c : LineCopy) (loc : Nat) (bs : List Byte) : LineCopy :=
  { c with
    bytes := c.bytes.mapIdx fun i b =>
      let a := 128 * c.line + i
      if loc ≤ a ∧ a < loc + bs.length then bs.getD (a - loc) b else b
    poison := c.poison.mapIdx fun i bad =>
      let a := 128 * c.line + 4 * i
      bad && !(loc ≤ a && a + 4 ≤ loc + bs.length) }

/-- A copy of a line as its home holds it (15 R229), with the poison of its words (21 R314). -/
def Memory.lineCopy (m : Memory) (tower line : Nat) : LineCopy :=
  ⟨tower, line, m.bytes (128 * line) 128, (List.range 32).map fun i => m.wordBad (128 * line + 4 * i)⟩

/-- The poison of a word changes as a write of a team of `tower` leaves it; the tower keeps no older copy of its line. -/
def State.markWord (s : State) (tower : Nat) (p : Place) (bad : Bool) : State :=
  { s with mem := s.mem.setWordBad p.loc bad }.dropLines tower [p]

/-- The line of device memory that a team of `tower` writes at a place joins those it has written. -/
def storedAfter (stored : List (Nat × Nat)) (tower : Nat) (p : Place) : List (Nat × Nat) :=
  match p.region with
  | .device _ => if stored.contains (tower, p.loc / 128) then stored else stored ++ [(tower, p.loc / 128)]
  | .hostCoherent | .hostLink | .peer | .vault _ | .localStore | .aperture => stored

/-- A write made for a team of `tower` performs: the tower's own copies take it too (15 R223, R229). -/
def State.teamWrite (s : State) (tower : Nat) (p : Place) (bs : List Byte) : State :=
  let s1 := s.writePlace p bs
  { s1 with flight := { s1.flight with
      lines := s1.flight.lines.map fun c => if c.tower = tower then c.overlay p.loc bs else c
      stored := storedAfter s1.flight.stored tower p } }

/-- The tower whose base die is a place's home (15 R221, R229): none for host, peer and aperture. -/
def Place.home (p : Place) (core : Nat) : Option Nat :=
  match p.region with
  | .device h => some h
  | .vault c => some (towerOf c)
  | .localStore => some (towerOf core)
  | .hostCoherent | .hostLink | .peer | .aperture => none

end Sys2Proof.Machine
end

