-- ==== Sys2Proof/Machine/Ops.lean ====
section
/-!
DEFINITION. The shared operations of instructions: fault records, taking a trap and returning from one
(21 R298 to R304, 09 R133, R134, 23 R330), the end of a team (03 R44), the checks every instruction makes
as a whole (07 R113, 21 R315) and what completes with it (07 R101).
-/
namespace Sys2Proof.Machine

/-! ### How an instruction ends without its effect -/

/-- An instruction traps, or stalls and executes again later (19 R294); `seen` adds the places that
it had translated before (21 R319). -/
inductive Stop where
  | trap (x : Trap)
  | stall
  | seen (ps : List Place) (e : Stop)
deriving DecidableEq, Repr

abbrev Result := Host.Outcome State Fault Refusal

def raiseAt {α : Type} (c : TrapCode) (addr : Addr := 0) (cause : Nat := 0) : Except Stop α :=
  .error (.trap (.at c addr cause))

/-- A stop after places have been translated, with no access to them made (21 R319). -/
def Stop.checked (ps : List Place) (e : Stop) : Stop := .seen (ps.filter Place.isNamed) e

/-- What follows after places have been read. -/
def afterSeeing {α : Type} (ps : List Place) : Except Stop α → Except Stop α
  | .ok a => .ok a
  | .error e => .error (.seen ps e)

/-- An address of a team's access, translated: where that fails, the home that its translation named counts (21 R308,
R319). -/
def checkPlace (s : State) (t : Team) (va : Addr) (i : Intent) : Except Stop Place :=
  match translate s (s.ctxOf t) t.core va i with
  | .error x => .error (.seen (s.placesAt t [va]) (.trap x))
  | .ok p => .ok p

/-- What follows after places have been checked. -/
def afterChecking {α : Type} (ps : List Place) : Except Stop α → Except Stop α := afterSeeing (ps.filter Place.isNamed)

/-- The places of a list of accesses, each checked in turn. -/
def placesM {α : Type} (check : α → Except Stop Place) : List α → Except Stop (List Place)
  | [] => .ok []
  | a :: as =>
    match check a with
    | .error e => .error e
    | .ok p =>
      match placesM check as with
      | .error e => .error (e.checked [p])
      | .ok ps => .ok (p :: ps)

/-! ### Order (15 R218, R224, R228; 13 R187) -/

def scopeRank : Scope → Nat
  | .tm => 0 | .co => 1 | .tw => 2 | .dv => 3 | .sy => 4
def wider (a b : Scope) : Scope := if scopeRank a ≤ scopeRank b then b else a

/-- The scope of an access to an SO page (15 R218); a peer's memory is reached at .SY (15 R243). -/
def Place.soScope (p : Place) : Scope :=
  match p.region with
  | .hostCoherent | .peer => .sy
  | .device _ | .hostLink | .vault _ | .localStore | .aperture => .dv

def acqOf : MemOrd → Option Scope
  | .acq c => some c | .ar c => some c | .rlx => none | .comm => none | .rel _ => none
def relOf : MemOrd → Option Scope
  | .rel c => some c | .ar c => some c | .rlx => none | .comm => none | .acq _ => none
def ordScope : MemOrd → Option Scope
  | .acq c => some c | .rel c => some c | .ar c => some c | .rlx => none | .comm => none

/-- The acquire of a read and the release of a write at a place (15 R218). -/
def Place.order (p : Place) (o : MemOrd) (c : Option Scope) : Option Scope :=
  if p.kind = .so then some (wider ((ordScope o).getD .tm) p.soScope) else c

/-- An atomic that has not performed yet. -/
def AccessKind.isAtomic : AccessKind → Bool
  | .atomic .. => true
  | .cas .. => true
  | .load _ | .strongLoad _ | .store _ | .strongStore _ | .update .. | .reply .. => false

/-- A reply: the access itself has performed (13 R194). -/
def AccessKind.isReply : AccessKind → Bool
  | .reply .. => true
  | .load _ | .strongLoad _ | .store _ | .strongStore _ | .atomic .. | .cas .. | .update .. => false

/-- Accesses to RC and SO pages (15 R224, "covered"). -/
def Access.covered (a : Access) : Bool := a.place.kind != .uo

/-- Whether the earlier access `a` of the team is before `b` in lo because they touch the same bytes;
commutative atomics may pass one another (13 R192). -/
def Access.overlaps (a b : Access) : Bool :=
  touches a.place.loc a.size b.place.loc b.size && !(a.comm && b.comm)

/-- Whether the earlier access `a` is before `b` of a later instruction: in lo (15 R224), or in the order S of the
accesses to SO pages (15 R228). -/
def Access.before (a b : Access) : Bool :=
  a.overlaps b || (a.acquire.isSome && b.covered) || (b.release.isSome && a.covered)
    || (a.place.kind == .so && b.place.kind == .so)

/-- An earlier access of the team that is in flight comes before `b`; a reply has performed. -/
def State.heldBack (s : State) (b : Access) : Bool :=
  s.flight.accesses.any fun a => a.team == b.team && !a.kind.isReply && a.before b

/-- One byte that the team reads or writes at once, as an access. -/
def Team.byteAccess (t : Team) (p : Place) (writes : Bool) (acquire release : Option Scope) : Access :=
  ⟨0, t.id, t.pc, 0, p, 1, if writes then .store [] else .load (.scalar 0 false 0), acquire, release, false, [], none⟩

/-! ### Agents and scopes (15 R217, R219) -/

/-- The agents of R217. -/
inductive Agent where
  | team (id : Nat) | frontEnd | host | peer (device : BitVec 12)
deriving DecidableEq, Repr

/-- Two teams are members of one cohort. -/
def State.mates (s : State) (x y : Nat) : Bool := s.cohorts.any fun c => c.members.contains x && c.members.contains y

/-- Whether the scope of an operation by `x` contains the agent `y`; the front end, the host and a peer operate at
.SY (15 R219, R241). -/
def State.contains (s : State) (x : Agent) (c : Scope) (y : Agent) : Bool :=
  match x with
  | .frontEnd | .host | .peer _ => true
  | .team i =>
    match c, y with
    | .tm, .team j => i == j
    | .co, .team j => i == j || s.mates i j
    | .tw, .team j =>
      match s.team? i, s.team? j with
      | some t, some u => towerOf t.core == towerOf u.core
      | _, _ => false
    | .dv, .team _ | .dv, .frontEnd | .sy, _ => true
    | .dv, _ | .tm, _ | .co, _ | .tw, _ => false

/-- A release of `x` at scope `c` and an acquire of `y` at scope `d` meet (15 R219). -/
def State.meets (s : State) (x : Agent) (c : Scope) (y : Agent) (d : Scope) : Bool := s.contains x c y && s.contains y d x

/-- Whether a scope contains every team of the device, whatever its tower. -/
def crossesTowers : Scope → Bool
  | .dv | .sy => true
  | .tm | .co | .tw => false

/-- An acquire at .DV or .SY drops every untracked copy of a line in the team's tower (15 R229). -/
def State.acquireAt (s : State) (tower : Nat) : Option Scope → State
  | some c =>
    if crossesTowers c then
      { s with flight := { s.flight with lines := s.flight.lines.filter fun l => l.tower != tower } }
    else s
  | none => s

/-- The towers that may hold copies of a range's object (15 R230): those with a copy of one of its lines. -/
def State.sharers (s : State) (r : Range) : BitVec 4 :=
  (List.range 4).foldr (fun t acc => acc ||| (if s.flight.lines.any fun c =>
    c.tower == t && touches (128 * c.line) 128 (physical r.pbase.toNat) r.vlen.toNat then 1#4 <<< t else 0)) 0

/-! ### Traps that pend (21 R302) -/

/-- A trap that pends on the team (21 R302). -/
def Team.pend (t : Team) (x : Trap) : Team := { t with traps := t.traps ++ [x] }

/-- POISON of an atomic, strong load, arrival or BELL at the next boundary (21 R299, R304, R314). -/
def poisonPend (pc va : Addr) : Trap := ⟨.poison, va, 1, none, some pc⟩

/-- ACQUIRE_FAILED at the next boundary (21 R299, R304). -/
def acquireFailed (pc va : Addr) : Trap := ⟨.acquireFailed, va, 0, none, some pc⟩

/-! ### Nodes, cohorts and the end of a team -/

/-- The team whose turn it is. -/
def State.curTeam (s : State) : Option Team := s.sched.cur.bind s.team?

/-- The node of a team, changed. -/
def State.modNode (s : State) (id : Nat) (f : Node → Node) : State :=
  { s with nodes := s.nodes.map fun n => if n.id = id then f n else n }

/-- A team, changed in place. -/
def State.modTeam (s : State) (id : Nat) (f : Team → Team) : State :=
  { s with teams := s.teams.map fun t => if t.id = id then f t else t }

/-- A member leaves a cohort: the last LEAVE frees the table entry (03 R48). -/
def leaveCohort (cs : List Cohort) (ctx tower : Nat) (h : BitVec 16) (id : Nat) : List Cohort :=
  (cs.map fun c =>
    if c.ctx = ctx ∧ c.tower = tower ∧ c.handle = h then { c with members := c.members.erase id }
    else c).filter fun c => c.members != []

/-- The exit of a team, up to the point where it issues nothing more (03 R44): it leaves its cohorts, its
bells are disarmed. -/
def State.exitTeam (s : State) (t : Team) : State :=
  let tower := towerOf t.core
  let cs := leaveCohort s.cohorts t.ctx tower t.cid0 t.id
  let cs := leaveCohort cs t.ctx tower t.cid1 t.id
  ({ s with cohorts := cs }).putTeam
    { t with cid0 := 0, cid1 := 0, bells := Vector.replicate 4 BellSlot.off,
             traps := [], promises := [], producer := none, dcrs := [], cond := .exiting }

/-! ### Fault records -/

/-- The trap codes' numbers (21 R299). -/
def TrapCode.num : TrapCode → Nat
  | .illegalOpcode => 0x01 | .illegalMode => 0x02 | .regBound => 0x03 | .accWindow => 0x04
  | .formatDivergence => 0x05 | .featureAbsent => 0x06 | .misaligned => 0x07 | .translation => 0x08
  | .permission => 0x09 | .entryMissing => 0x0A | .stackLimit => 0x0B | .nestOverflow => 0x0C
  | .break_ => 0x0D | .software => 0x0E | .poison => 0x0F | .dieLost => 0x10 | .matrixReset => 0x11
  | .arrayFault => 0x12 | .watch => 0x13 | .privilege => 0x14 | .acquireFailed => 0x15

/-- The 32 bytes of a fault record (21 R304). -/
def recordBytes (s : State) (t : Team) (x : Trap) (fatal async : Bool) : List Byte :=
  leBytes 8 (s.coreTime t.core).toNat
    ++ leBytes 8 ((x.pcw.getD t.pc).toNat % 2 ^ 57 + t.corr.toNat * 2 ^ 57)
    ++ leBytes 8 (x.addr.toNat % 2 ^ 57 + x.code.num * 2 ^ 57 + fatal.toNat * 2 ^ 63)
    ++ leBytes 4 t.nid.toNat
    ++ leBytes 4 (t.index.toNat + (x.lane.getD 0x3FF) * 2 ^ 16 + x.cause * 2 ^ 26 + async.toNat * 2 ^ 30)

/-- A record goes to the next slot of the context's fault log, then PRODUCED is written (21 R303).  The
record counts for the node's receipt, and the team's CORR starts again (21 R304, 19 R289). -/
def State.writeRecord (s : State) (t : Team) (x : Trap) (fatal async : Bool) : State :=
  let c := s.ctxOf t
  let slot := physical (c.save.toNat + 32 * (1 + c.produced % 1023))
  let s1 := s.writeLoc slot (recordBytes s t x fatal async)
  let s2 := s1.modCtx c.ctxid fun c => { c with produced := c.produced + 1 }
  let s3 := s2.writeLoc (physical c.save.toNat) (leBytes 4 (c.produced + 1))
  (s3.modNode t.node fun n => { n with faults := n.faults + 1 }).modTeam t.id
    fun t => { t with corr := 0 }

/-! ### Fetching -/

/-- Fetch32 (09; 21 R308, R314; 25 R347): the word at an instruction address, or the trap of its fetch. -/
def fetch32 (s : State) (t : Team) (a : Addr) : Except Trap Word :=
  match translate s (s.ctxOf t) t.core a .fetch with
  | .error x => .error x
  | .ok p =>
    if !s.reachable p then .error (acquireFailed t.pc a)
    else if s.mem.anyBad p.loc 4 then .error (.at .poison a 3)
    else .ok (.ofNat 32 (leNat (s.readPlace p 4)))

/-- A fetch that an instruction makes: the home that its translation named counts where it fails (21 R319). -/
def fetchAt (s : State) (t : Team) (a : Addr) : Except Stop Word :=
  match fetch32 s t a with
  | .error x => .error (.seen (s.placesAt t [a]) (.trap x))
  | .ok w => .ok w

/-! ### Stack-relative addresses -/

/-- `n` bytes at a stack offset: below SLIM or at or above SS they raise STACK_LIMIT (03 R52). -/
def stackOk (t : Team) (off n : Nat) : Bool :=
  t.slim.toNat / 16 * 16 ≤ off && off + n ≤ t.ss.toNat

/-- The address of a stack offset (03 R52). -/
def stackAddr (t : Team) (off : Word) : Addr := t.stackStart + off.setWidth 64

/-- The places of the words of `n` bytes at an address, each translated (21 R305). -/
def placesOf (s : State) (t : Team) (va : Addr) (n : Nat) (i : Intent) : Except Trap (List Place) :=
  (List.range n).mapM fun k => translate s (s.ctxOf t) t.core (va + .ofNat 64 k) i

/-- Bytes that a team of `tower` writes go to one place each; those of a peer out of reach perform nothing. -/
def State.writeEach (tower : Nat) (s : State) : List Place → List Byte → State
  | p :: ps, b :: bs => (if s.reachable p then s.teamWrite tower p [b] else s).writeEach tower ps bs
  | _, _ => s

/-- The poison of the words all of whose bytes stand among the places that a team of `tower` has written is cleared (21
R314). -/
def State.clearWritten (tower : Nat) (s : State) (ps : List Place) : State :=
  let whole (p : Place) : Bool := (ps.filter fun q => q.loc / 4 == p.loc / 4).length == 4 && s.reachable p
  State.dropLines { s with mem := (ps.filter whole).foldl (fun m p => m.setWordBad p.loc false) s.mem } tower
    (ps.filter whole)

/-- The first address of consecutive bytes that is out of reach (25 R347). -/
def State.lostByte (s : State) (va : Addr) (ps : List Place) : Option Addr :=
  (ps.findIdx? fun p => !s.reachable p).map fun i => va + .ofNat 64 i

/-! ### Transfers -/

/-- The 32-byte transfer frame (09 R133). -/
def frameBytes (t : Team) (ra : Addr) (iw : Word) (code : Nat) (emu : Bool) : List Byte :=
  leBytes 8 ra.toNat ++ leBytes 4 iw.toNat ++ leBytes 4 t.mode.toNat ++ leBytes 4 (t.sval 63).toNat
    ++ leBytes 4 (code + emu.toNat * 2 ^ 8) ++ leBytes 8 0

/-- A transfer to a routine (09 R133): s62 falls by 32, the frame is written there, s63 := 0, PC := entry;
every open promise ends (07 R103).  The frame write may raise STACK_LIMIT, TRANSLATION, PERMISSION or
POISON (21 R300); bytes of a peer out of reach perform nothing and ACQUIRE_FAILED pends (25 R347). -/
def transfer (s : State) (t : Team) (entry ra : Addr) (iw : Word) (code : Nat) (emu : Bool) :
    Except Trap State :=
  let sp := t.sval 62 - 32#32
  if t.sbad 62 then .error (.at .poison 62 0)
  else if t.sbad 63 then .error (.at .poison 63 0)
  else if !stackOk t sp.toNat 32 then .error (.at .stackLimit (sp.setWidth 64) 0)
  else match placesOf s t (stackAddr t sp) 32 .write with
    | .error x => .error x
    | .ok ps =>
      let t1 := { (((t.setS 62 sp).setS 63 0).goto entry) with
        promises := [], producer := none, cond := .ready, fetched := none, retried := false }
      let t2 := match s.lostByte (stackAddr t sp) ps with
        | none => t1
        | some va => t1.pend (acquireFailed t.pc va)
      .ok ((((s.touch t.ctx ps).putTeam t2).writeEach (towerOf t.core) ps (frameBytes t ra iw code emu)).clearWritten
        (towerOf t.core) ps)

/-- The registers that accesses in flight will still write (13 R194). -/
def LoadDst.scalars : LoadDst → List Reg
  | .scalar r wide _ => if wide then [r, r + 1#6] else [r]
  | .lane _ _ _ => []

def AccessKind.dst? : AccessKind → Option LoadDst
  | .load d => some d
  | .strongLoad d => some d
  | .cas _ _ d => some d
  | .update _ _ d => d
  | .reply _ _ d => some d
  | .atomic _ _ _ _ _ _ d => d
  | .store _ => none
  | .strongStore _ => none

/-- An access that will still write s62 or s63, which a transfer reads (09 R133). -/
def Access.linked (a : Access) : Bool :=
  a.kind.dst?.any fun d => d.scalars.contains 62 || d.scalars.contains 63

/-- A transfer has to wait: for s62 and s63 (13 R194), and for the team's accesses in flight that come before its frame
write (15 R224). -/
def State.frameHeld (s : State) (t : Team) : Bool :=
  let sp := t.sval 62 - 32#32
  s.flight.accesses.any (fun a => a.team == t.id && a.linked)
    || stackOk t sp.toNat 32 && match placesOf s t (stackAddr t sp) 32 .write with
      | .error _ => false
      | .ok ps => ps.any fun p => s.heldBack (t.byteAccess p true none (p.order .rlx none))

/-- The homes that the frame write of a transfer names, where it fails: its bytes are translated in turn, up to the first
that cannot be written (21 R300, R319). -/
def State.frameTried (s : State) (t : Team) : List Place :=
  let sp := t.sval 62 - 32#32
  let at_ (k : Nat) : Addr := stackAddr t sp + .ofNat 64 k
  if t.sbad 62 || t.sbad 63 || !stackOk t sp.toNat 32 then []
  else
    let failed := ((List.range 32).find? fun k => (checkPlace s t (at_ k) .write).toOption.isNone).getD 31
    s.placesAt t ((List.range (failed + 1)).map at_)

/-- What the trap vector table says of a code (21 R300). -/
inductive VectorEntry where
  | ends | pending | handler (a : Addr) | failed
deriving DecidableEq, Repr

/-- Where entry c of the table at TRAPVEC lies. -/
def vectorAddr (c : Context) (code : TrapCode) : Addr := c.trapvec + .ofNat 64 (8 * code.num)

/-- Entry c of the table at TRAPVEC (21 R300). -/
def readVector (s : State) (c : Context) (code : TrapCode) : VectorEntry :=
  match s.feTranslate c (vectorAddr c code) .read with
  | .error _ => .failed
  | .ok p =>
    if s.mem.anyBad p.loc 8 || !s.reachable p then .failed
    else
      let v := leNat (s.readPlace p 8)
      if v = 0 then .ends
      else if v = 1 then (if code = .translation then .pending else .ends)
      else if v % 4 = 0 then .handler (.ofNat 64 v)
      else .failed

/-- The team ends through the trap (21 R301): a FATAL record, the exit of R44, and the node's STATUS 1, or 2
for DIE_LOST; of a node that has both, 2 whichever came first (DESIGN CHOICE, log entry 98). -/
def State.endThrough (s : State) (t : Team) (x : Trap) (async : Bool) : State :=
  let s1 := s.writeRecord t x true async
  let s2 := s1.modNode t.node fun n =>
    { n with status := if x.code = .dieLost then 2 else max n.status 1 }
  s2.exitTeam ((s2.team? t.id).getD t)

/-- The team stops for the debugger (21 R321): the record is written with FATAL clear. -/
def State.stopForDebugger (s : State) (t : Team) (x : Trap) (async : Bool) : State :=
  (s.writeRecord t x false async).modTeam t.id
    fun t =>
      { t with cond := .stopped true .none, promises := [], producer := none, fetched := none, retried := false }

/-- Delivery of a trap through the context's vector table (21 R300, R321).  `t` stands at the stopping
point.  The record is written, then the entry and the handler are read; a record of a team that ends carries FATAL.
In an attached context an entry that ends the team stops it for the debugger; a transfer that fails ends it
(DEDUCED, log entry 65). -/
def State.deliver (s0 : State) (t : Team) (x : Trap) (iw : Word) (async : Bool) : State :=
  let c := s0.ctxOf t
  if c.attached && (x.code == .break_ || x.code == .watch) then s0.stopForDebugger t x async
  else
    let s := s0.touchFe t.ctx [vectorAddr c x.code]
    let s1 := s.writeRecord t x false async
    let ending (y : Trap) : State :=
      if c.attached then s.stopForDebugger t x async else s.endThrough t y async
    match readVector s1 c x.code with
    | .ends => ending x
    | .failed => ending { x with cause := 0xF }
    | .pending =>
      s1.modTeam t.id fun t =>
        { t with
          cond := .pendingTranslation x.addr x.lane, promises := [], producer := none, fetched := some iw
          retried := false }
    | .handler a =>
      let seen := s.placesAt t [a]
      match fetch32 s1 t a with
      | .error _ => (s.touch t.ctx seen).endThrough t { x with cause := 0xF } async
      | .ok _ =>
        let u := (s1.team? t.id).getD t
        match transfer (s1.touch t.ctx seen) u a t.pc iw x.code.num false with
        | .error _ => (s.touch t.ctx (seen ++ s.frameTried u)).endThrough t { x with cause := 0xF } async
        | .ok s2 => s2

/-- Where BOUND of the team's feature-table entry holds bit `b`, and the emulation vector's entry of `b` (23 R329). -/
def boundAddrs (c : Context) (t : Team) (b : Nat) : Addr × Addr :=
  (c.feattab + .ofNat 64 (128 * t.featIdx + 64 + b / 64 * 8), c.feattab + .ofNat 64 (128 * c.featcnt + 8 * b))

/-- The 8 bytes at an address of a table of the context, if they can be read. -/
def State.tableWord (s : State) (c : Context) (va : Addr) : Option Nat :=
  match s.feTranslate c va .read with
  | .error _ => none
  | .ok p => if s.reachable p then some (leNat (s.readPlace p 8)) else none

/-- BOUND of the team's feature-table entry has bit `b` set (23 R329). -/
def isBound (s : State) (t : Team) (b : Nat) : Bool :=
  b ≤ 64 && (s.tableWord (s.ctxOf t) (boundAddrs (s.ctxOf t) t b).1).any (bit (b % 64))

/-- The routine bound for DFM bit `b` of the team's node (23 R329, R330): BOUND in its feature-table entry
and a non-zero entry of the emulation vector. -/
def boundRoutine (s : State) (t : Team) (b : Nat) : Option Addr :=
  if isBound s t b then
    match s.tableWord (s.ctxOf t) (boundAddrs (s.ctxOf t) t b).2 with
    | none => none
    | some 0 => none
    | some v => some (.ofNat 64 v)
  else none

/-- The addresses that the search for a bound routine translates. -/
def boundTried (s : State) (t : Team) (b : Nat) : List Addr :=
  let a := boundAddrs (s.ctxOf t) t b
  if isBound s t b then [a.1, a.2] else [a.1]

/-- A trap of an instruction whose pending translation is tried again: TRANSLATION has CAUSE 3 (21 R312). -/
def Trap.again (x : Trap) (retried : Bool) : Trap := if retried && x.code == .translation then { x with cause := 3 } else x

/-- A trap raised by the instruction being issued (21 R299, R300; 23 R330).  FEATURE_ABSENT with a bound routine is
an emulation call; every other trap, and the fault of an emulation call's frame write, is delivered through the
vector table. -/
def State.raise (s : State) (t : Team) (x : Trap) : State :=
  if x.code = .featureAbsent then
    let v := s.touchFe t.ctx (boundTried s t x.addr.toNat)
    match boundRoutine s t x.addr.toNat with
    | none => v.deliver t (x.again t.retried) s.sched.iw false
    | some a =>
      match transfer v t a (t.pc + 4#64) s.sched.iw 6 true with
      | .ok s1 => s1.modNode t.node fun n => { n with emulated := true }
      | .error y => (v.touch t.ctx (s.frameTried t)).deliver t (y.again t.retried) s.sched.iw false
  else s.deliver t (x.again t.retried) s.sched.iw false

/-- The team stalls; the instruction executes again later (19 R294). -/
def State.stall (s : State) (t : Team) : State :=
  s.putTeam { t with cond := .stalled, fetched := some s.sched.iw }

/-- TAKING A TRAP.  It waits, as a stalled instruction does, while an earlier access of the team comes before its
frame (15 R224). -/
def State.takeTrap (s : State) (t : Team) (x : Trap) : State :=
  if s.frameHeld t then s.stall t else s.raise t x

/-- A trap at a boundary (21 R302): no instruction word caused the transfer, so IW of its frame is open, and a
function of the trap and its stopping point (log entry 4). -/
def State.takeAsync (s : State) (t : Team) (x : Trap) : State :=
  s.deliver t x (Config.boundaryWord x.code.num t.pc.toNat) true

/-! ### The checks of MODE values -/

/-- Rounding modes that R65 and R91 permit: 0 to 4, only 0 under NVR 1. -/
def rndOk (nvr rnd : Nat) : Bool := rnd ≤ 4 && (nvr != 1 || rnd == 0)

/-- The checks of a MODE value (07 R96). -/
def modeOk (nvr : Nat) (v : Word) : Bool := v.toNat / 2 ^ 13 == 0 && rndOk nvr (fld 5 3 v.toNat)

/-! ### Return from a trap -/

/-- The bytes of a frame that ERET uses: RA, MODE and LINK (09 R133, R134). -/
def frameUses : List Nat := List.range 8 ++ (List.range 8).map (· + 12)

/-- ERET (09 R134): the frame's checks in their order, then MODE, s63, s62 and PC; every open promise ends.  Its reads
wait for the earlier accesses that lo places before them (15 R224); the address of a POISON is that of the lowest
poisoned word used. -/
def returnFromTrap (t : Team) (s : State) : Except Stop State :=
  let sp := t.sval 62
  let va := stackAddr t sp
  if !stackOk t sp.toNat 32 then raiseAt .stackLimit (sp.setWidth 64)
  else match placesM (fun k => checkPlace s t (va + .ofNat 64 k) .read) (List.range 32) with
    | .error e => .error e
    | .ok ps =>
      let bs := ps.flatMap fun p => s.readPlace p 1
      let bad (i : Nat) : Bool := (ps[i]?.map fun p => s.mem.wordBad p.loc).getD false
      let word (i n : Nat) : Nat := leNat ((bs.drop i).take n)
      if ps.any fun p => s.heldBack (t.byteAccess p false (p.order .rlx none) none) then
        .error (Stop.stall.checked ps)
      else match s.lostByte va ps with
      | some x => .error ((Stop.trap (acquireFailed t.pc x)).checked ps)
      | none => afterSeeing ps <|
        match frameUses.find? bad with
        | some i =>
          let a := va + .ofNat 64 i
          raiseAt .poison (a - .ofNat 64 (a.toNat % 4)) 1
        | none =>
          if !modeOk (s.ctxOf t).nvr (.ofNat 32 (word 12 4)) then raiseAt .illegalMode
          else if word 0 8 % 4 != 0 then raiseAt .misaligned (.ofNat 64 (word 0 8))
          else
            let s1 := ps.foldl (fun s p => s.acquireAt (towerOf t.core) (p.order .rlx none))
              ((s.touch t.ctx ps).servedAtHome (towerOf t.core) ps)
            .ok (s1.putTeam { (((t.setS 63 (.ofNat 32 (word 16 4))).setS 62 (sp + 32#32)).goto
              (.ofNat 64 (word 0 8))) with mode := .ofNat 32 (word 12 4), promises := [] })

/-! ### Operands: the checks an instruction makes as a whole, and what completes with it -/

/-- A register operand of an instruction: its class and number (07 R93).  `vgroup` is a group of `n` vector
registers whose lanes are not all read (13 R189). -/
inductive Opnd where
  | s (r : Reg)
  | pair (r : Reg)
  | quad (r : Reg)
  | v (r : Reg)
  | vpair (r : Reg)
  | vgroup (r : Reg) (n : Nat)
  | m (r : MReg)
deriving DecidableEq, Repr

/-- A source operand and its last-use bit (07 R101). -/
structure Use where
  o : Opnd
  last : Bool
deriving DecidableEq, Repr

/-- What an instruction's fields name: sources, sources it names but does not read this time, destinations,
whether it reads the effective mask (`vector`) or EXM alone, whether its scalar sources are read even when no
lane is active, its lookahead, whether it makes accesses that come after the team's earlier ones (`ordered`; or
`alone`, after every one of them; or, with `cells`, accesses to accumulator cells, which come after its acquires, 17 R261),
and the traps of its checks 1 to 3 and 5 of 07 R113, as they stand. -/
structure Shape where
  srcs : List Use := []
  unread : List Use := []
  dsts : List Opnd := []
  vector : Bool := false
  exm : Bool := false
  always : Bool := false
  la : Nat := 0
  ordered : Bool := false
  alone : Bool := false
  cells : Bool := false
  early : Option Trap := none
  feature : Option Trap := none

def Opnd.scalars : Opnd → List Reg
  | .s r => [r]
  | .pair r => [r, r + 1#6]
  | .quad r => [r, r + 1#6, r + 2#6, r + 3#6]
  | .v _ => []
  | .vpair _ => []
  | .vgroup _ _ => []
  | .m _ => []

def Opnd.vectors : Opnd → List Reg
  | .v r => [r]
  | .vpair r => [r, r + 1#6]
  | .vgroup r n => (List.range n).map fun i => r + .ofNat 6 i
  | .s _ => []
  | .pair _ => []
  | .quad _ => []
  | .m _ => []

def Opnd.maskRegs : Opnd → List MReg
  | .m r => [r]
  | .s _ => []
  | .pair _ => []
  | .quad _ => []
  | .v _ => []
  | .vpair _ => []
  | .vgroup _ _ => []

/-- The vector registers whose lanes a source reads. -/
def Opnd.readVectors : Opnd → List Reg
  | .v r => [r]
  | .vpair r => [r, r + 1#6]
  | .vgroup _ _ => []
  | .s _ => []
  | .pair _ => []
  | .quad _ => []
  | .m _ => []

def Shape.opnds (sh : Shape) : List Opnd := (sh.srcs ++ sh.unread).map (·.o) ++ sh.dsts

/-- REG_BOUND (03 R54, 21 R299): the lowest virtual register number that lies outside the window. -/
def Shape.regBound (sh : Shape) (t : Team) : Option Trap :=
  let out := (sh.opnds.flatMap Opnd.vectors).filter fun r => t.bound ≤ r.toNat
  match (out.map fun r => r.toNat + 8 * t.vbase.toNat).min? with
  | none => none
  | some n => some (.at .regBound (.ofNat 64 n) 0)

/-- Whether an active lane of the team reads poison through a vector or mask source (21 R315): the register
number, virtual for a vector register. -/
def Shape.lanePoison (sh : Shape) (t : Team) (l : Nat) : Option Nat :=
  match (sh.srcs.flatMap fun u => u.o.readVectors).find? (fun r => t.vbad r l) with
  | some r => some (t.virt r).toNat
  | none =>
    ((sh.srcs.flatMap fun u => u.o.maskRegs).find? fun m => (t.mbad m).getLsbD (l / 32)).map (·.toNat)

/-- POISON of the operands (21 R315): scalar and mask sources on any read, the words of EXM and of the guard
mask that form the effective mask, and, in a vector instruction, what its active lanes read, lowest lane
first.  A scalar's record names no lane, in VBCAST and VINS too (DESIGN CHOICE, log entry 82).  ADDR is 0 for EXM, which
has no register number, and of several poisoned operands names the guard mask after EXM, then the scalars, then what the
lowest reading lane reads, vectors before masks (DESIGN CHOICE, log entry 125). -/
def Shape.poisoned (sh : Shape) (t : Team) : Option Trap :=
  let inTeam (bad : Word) : Bool := (List.range t.passes).any fun w => bad.getLsbD w
  let scalar : Option Trap :=
    ((sh.srcs.flatMap fun u => u.o.scalars).find? t.sbad).map fun r => .at .poison (r.setWidth 64) 0
  if (sh.vector || sh.exm) && inTeam t.exmBad then some (.at .poison 0 0)
  else if sh.vector then
    if inTeam (t.mbad t.guard) then some (.at .poison (t.guard.setWidth 64) 0)
    else match (if sh.always || t.active != [] then scalar else none) with
      | some x => some x
      | none =>
        match t.active.find? fun l => (sh.lanePoison t l).isSome with
        | none => none
        | some l =>
          some { Trap.at .poison (.ofNat 64 ((sh.lanePoison t l).getD 0)) 0 with lane := some l }
  else match scalar with
    | some x => some x
    | none =>
      match (sh.srcs.flatMap fun u => u.o.maskRegs).find? (fun m => inTeam (t.mbad m)) with
      | some m => some (.at .poison (m.setWidth 64) 0)
      | none => none

/-- Those registers, as operands. -/
def LoadDst.regs : LoadDst → List Opnd
  | .scalar r wide _ => if wide then [.pair r] else [.s r]
  | .lane r wide _ => if wide then [.vpair r] else [.v r]

/-- Accesses of the team are in flight. -/
def State.busy (s : State) (t : Team) : Bool := s.flight.accesses.any fun a => a.team == t.id

/-- Matrix instructions of the team are pending, follow-ons apart (17 R259, R261; 13 R211). -/
def Team.matrixPending (t : Team) : Bool := t.matrix.any fun o => o.followOn.isNone

/-- Whether an operand is the destination of an access in flight (13 R194). -/
def Shape.inFlight (sh : Shape) (t : Team) (s : State) : Bool :=
  let regs := ((s.flight.accesses.filter fun a => a.team == t.id).filterMap fun a => a.kind.dst?).flatMap
    LoadDst.regs
  (regs.flatMap Opnd.scalars).any (fun r => (sh.opnds.flatMap Opnd.scalars).contains r)
    || (regs.flatMap Opnd.vectors).any (fun r => (sh.opnds.flatMap Opnd.vectors).contains r)

/-- An acquire of the team is in flight: every covered access that comes later waits for it (15 R224). -/
def State.acquiring (s : State) (t : Team) : Bool :=
  s.flight.accesses.any fun a => a.team == t.id && a.acquire.isSome && !a.kind.isReply

/-- The instruction waits for its operands, and an instruction that makes accesses for the team's pending
matrix instructions and, unless the turn leaves its own in flight, for the team's earlier accesses; one that reaches
accumulator cells, for its acquires (15 R224, 17 R261; log entry 11). -/
def Shape.waits (sh : Shape) (t : Team) (s : State) : Bool :=
  sh.inFlight t s
    || ((sh.ordered || sh.alone) && t.matrixPending)
    || (sh.ordered && !s.sched.defer && s.busy t) || (sh.alone && s.busy t) || (sh.cells && s.acquiring t)

/-- The checks of 07 R113 that come before the instruction's own, in their order, with the operands' POISON
after them (DEDUCED, log entry 9). -/
def Shape.check (sh : Shape) (t : Team) (s : State) : Option Stop :=
  match sh.early with
  | some x => some (.trap x)
  | none =>
    match sh.regBound t with
    | some x => some (.trap x)
    | none =>
      match sh.feature with
      | some x => some (.trap x)
      | none =>
        if sh.waits t s then some .stall
        else match sh.poisoned t with
          | some x => some (.trap x)
          | none => none

def Team.killOpnd (t : Team) (o : Opnd) (keep : List Opnd) : Team :=
  let ks := keep.flatMap Opnd.scalars
  let kv := keep.flatMap Opnd.vectors
  let km := keep.flatMap Opnd.maskRegs
  let t1 := (o.scalars.filter fun r => !ks.contains r).foldl Team.killS t
  let t2 := (o.vectors.filter fun r => !kv.contains r).foldl Team.killV t1
  (o.maskRegs.filter fun r => !km.contains r).foldl Team.killM t2

/-- The registers that an operand names, a vector's by its number in the window (07 R103). -/
def Opnd.names (o : Opnd) : List RegName :=
  o.scalars.map RegName.s ++ o.vectors.map RegName.v ++ o.maskRegs.map RegName.m

/-- The promises that a later instruction of the team leaves open: each covers one instruction fewer (07 R103). -/
def agePromises (ps : List Promise) : List Promise :=
  (ps.map fun p => { p with left := p.left - 1 }).filter fun p => p.left != 0

/-- The promise of an instruction with a lookahead field: what it covers, and the registers that it names as sources, the
guard mask of a vector instruction among them, and as destinations (07 R103; DEDUCED, log entry 115). -/
def Shape.promise (sh : Shape) (t : Team) : List Promise :=
  let srcs := (if sh.vector then [.m t.guard] else []) ++ (sh.srcs ++ sh.unread).map (·.o)
  if sh.la = 0 then [] else [⟨sh.la, srcs.flatMap Opnd.names, sh.dsts.flatMap Opnd.names⟩]

/-- What completes with an instruction: sources with a set last-use bit become dead unless the instruction also names
them as a destination (07 R101; log entry 76), it counts once for the promises open, and its own opens (07 R103). -/
def Shape.retire (sh : Shape) (t : Team) : Team :=
  let t1 := ((sh.srcs ++ sh.unread).filter (·.last)).foldl (fun t u => t.killOpnd u.o sh.dsts) t
  { t1 with promises := agePromises t1.promises ++ sh.promise t, issued := t1.issued + 1 }

/-- The team as an instruction begins: it is issuing, and no producer is open any more (05 R76). -/
def Team.begin (t : Team) : Team := { t with cond := .ready, producer := none, retried := false, fetched := none }

/-- How an instruction ends without its effect.  ACQUIRE_FAILED is never raised at an instruction: it pends, and the
instruction executes again after it (21 R299, 25 R347; log entry 30). -/
def Stop.finish (s : State) (t : Team) : Stop → Result
  | .trap x =>
    if x.code = .acquireFailed then .next (s.stall (t.pend x))
    else .next (s.takeTrap t x)
  | .stall => .next (s.stall t)
  | .seen ps e => e.finish (s.touch t.ctx ps) t

def finish (s : State) (t : Team) : Except Stop State → Result
  | .ok s' => .next s'
  | .error e => e.finish s t

/-- An instruction that acts on its team's registers only: the checks, the effect, and what completes with
it. -/
def runRegs (sh : Team → Shape) (effect : Team → Except Stop Team) (s : State) : Result :=
  match s.curTeam with
  | none => .fault .noTeam
  | some t =>
    match (sh t).check t s with
    | some stop => finish s t (.error stop)
    | none =>
      match effect t.begin with
      | .error stop => finish s t (.error stop)
      | .ok t' => .next (s.putTeam ((sh t).retire t'))

/-- An access as a watch sees it: address, size, whether it writes, lane (25 R360). -/
structure Touch where
  va : Addr
  size : Nat
  writes : Bool
  lane : Option Nat
deriving DecidableEq, Repr

/-- The lowest watched byte that an access touches (25 R360). -/
def watchHit (ws : List (Nat × Watch)) (x : Touch) : Option Nat :=
  ((ws.filter fun w =>
      (if x.writes then w.2.writes else w.2.reads) && touches x.va.toNat x.size w.2.base.toNat 8).map
    fun w => max x.va.toNat w.2.base.toNat).min?

/-- The WATCH trap of an instruction whose accesses touch a watched byte, lowest lane first (21 R299, 25 R360). -/
def State.watchTrap (s : State) (t : Team) (xs : List Touch) : Option Trap :=
  let c := s.ctxOf t
  if !c.attached then none
  else (xs.findSome? fun x => (watchHit c.watches x).map fun a => (x, a)).map fun h =>
    { code := .watch, addr := .ofNat 64 h.2, cause := 0, lane := h.1.lane, pcw := some t.pc }

/-- WATCH is taken after the instruction. -/
def State.watched (s : State) (t : Team) (xs : List Touch) : State :=
  match s.watchTrap t xs with
  | none => s
  | some x => s.raise ((s.team? t.id).getD t) x

/-- An instruction that left `s'` behind completes, with its watches.  Where its WATCH would have to wait for accesses in
flight, as every transfer does (15 R224), it is issued again once they have performed, its own at once (DEDUCED, log
entry 91). -/
def State.completed (s : State) (t : Team) (s' : State) (xs : List Touch) : Result :=
  if (s'.watchTrap t xs).isSome && s'.frameHeld ((s'.team? t.id).getD t) then
    .next (s.putTeam { t with cond := if t.cond = .woken then .woken else .stalled, fetched := some s.sched.iw })
  else .next (s'.watched t xs)

/-- An instruction that also acts outside its team: the checks, the effect on the state, what completes with
it, and the watches. -/
def runState (sh : Team → State → Shape) (effect : Team → State → Except Stop (State × List Touch))
    (s : State) : Result :=
  match s.curTeam with
  | none => .fault .noTeam
  | some t =>
    match (sh t s).check t s with
    | some stop => finish s t (.error stop)
    | none =>
      match effect t.begin (s.putTeam t.begin) with
      | .error stop => finish s t (.error stop)
      | .ok (s', xs) => s.completed t (s'.modTeam t.id (sh t s).retire) xs

end Sys2Proof.Machine
end

