-- ==== Sys2Proof/Machine/Features.lean ====
section
/-!
DEFINITION. What a core can do: its profile and width (01 R19 to R22), its feature mask (01 R23 to R25) and
the checks that read it (07 R97, 11 R146).
-/
namespace Sys2Proof.Machine

/-- The D-die of the core is of profile N (01 R19). -/
def profileN (s : State) (core : Nat) : Bool := s.dev.flash.profile.getLsbD (pairOf core)

/-- DFM bit `n` of a core (01 R23 to R25). -/
def dfmBit (s : State) (core n : Nat) : Bool :=
  let wide := !profileN s core
  if n < 32 then wide || !(n == 0x0A || n == 0x0B || n == 0x16 || n == 0x17 || n == 0x18 || n == 0x1E)
  else if n < 64 then
    let c := n - 32
    (0x06 ≤ c && c ≤ 0x0B) || c == 0x14 || c == 0x15 || c == 0x17 || c == 0x1D || c == 0x1E
      || (c == 0x18 && wide)
  else if n = 64 then wide
  else if n = 65 then Config.recordsDigits
  else if n = 66 then s.dev.flash.nativeAtomics
  else 96 ≤ n && n ≤ 113

/-- Register 0x050 + i of DFM (01 R23). -/
def dfmWord (s : State) (core i : Nat) : Word :=
  .ofNat 32 ((List.range 32).foldr (fun b acc => 2 * acc + (dfmBit s core (32 * i + b)).toNat) 0)

/-- FEATURE_ABSENT with the lowest-numbered clear bit of those that govern (07 R97, 21 R299, 23 R330). -/
def featureTrap (s : State) (core : Nat) (bits : List Nat) : Option Trap :=
  match (bits.filter fun b => !dfmBit s core b).min? with
  | none => none
  | some b => some (.at .featureAbsent (.ofNat 64 b) 0)

/-- The sets of 11 R146. -/
def setI (T : Nat) : Bool := (0x06 ≤ T && T ≤ 0x0B) || T == 0x1D || T == 0x1E
def setShift (T : Nat) : Bool := 0x06 ≤ T && T ≤ 0x0B
def setF (T : Nat) : Bool := T == 0x14 || T == 0x15 || T == 0x17 || T == 0x18
def setPack (T : Nat) : Bool := T ≤ 1 || (4 ≤ T && T ≤ 9)

/-- The DFM bits that govern vector arithmetic on type `T` (07 R97). -/
def typeBits (T : Nat) : List Nat := if T = 0x18 then [56, 64] else [32 + T]

/-- The traps of checks 1 and 3: a vector register field of an odd number where the type makes it a pair
(11 R147, 07 R93), then the type itself (11 R146). -/
def typeTrap (pairs : List Reg) (accepted : Bool) : Option Trap :=
  if pairs.any fun r => r.toNat % 2 = 1 then some (.at .illegalOpcode 0 0)
  else if accepted then none else some (.at .illegalMode 0 0)

end Sys2Proof.Machine
end

