-- ==== Sys2Proof/Machine/Flags.lean ====
section
/-!
DEFINITION. FLAGS: the union an instruction raises (05 R67), and what a cancelling pair leaves of its
producer's flags (05 R76, R77).
-/
namespace Sys2Proof.Machine

/-- The union of the flags of all active lanes and elements (05 R67). -/
def unionFlags (l : List Nat) : Nat := l.foldl (· ||| ·) 0

/-- Flags of an instruction of the team, in its program order. -/
def Team.raiseFlags (t : Team) (f : Nat) : Team := t.orFlags (.ofNat 32 f)

/-- Flags of an instruction that completes later (17 R248): they are no part of an open producer. -/
def Team.raiseLate (t : Team) (f : Word) : Team :=
  { t.orFlags f with producer := t.producer.map fun p => { p with flags := p.flags &&& ~~~f } }

/-- What P opens for a consumer that cancels it: the flags it newly set, other than NV (05 R77). -/
def Team.openProducer (t : Team) (d : Reg) (wide : Bool) (f : Nat) : Team :=
  { t.raiseFlags f with
    producer := some ⟨t.pc, d, wide, .ofNat 32 f &&& ~~~t.flags &&& ~~~(.ofNat 32 fNV)⟩ }

/-- Whether a consumer at the team's PC that reads `srcs` cancels the producer just issued (05 R76). -/
def cancels (p : Option Producer) (pc : Addr) (srcs : List Src) : Bool :=
  match p with
  | none => false
  | some p => pc == p.pc + 4#64 && srcs.any fun a => a.last && a.reg == p.dst

/-- The producer's destination becomes dead in every lane and its flags but NV go (05 R77). -/
def Team.cancel (t : Team) (p : Producer) : Team :=
  let t1 := { t with flags := t.flags &&& ~~~p.flags }
  if p.wide then (t1.killV p.dst).killV (p.dst + 1#6) else t1.killV p.dst

end Sys2Proof.Machine
end

