-- ==== Sys2Proof/Machine/Operands.lean ====
section
/-!
DEFINITION. The operand forms: elements of a vector register under a type (11 R147, 05 R64), results per
active lane (03 R34), and the address operand of memory instructions (07 R109, 13 R179, R180).
-/
namespace Sys2Proof.Machine

/-! ### Vector operands under a type -/

/-- A vector field under type `T`: a pair under FP64 (11 R147). -/
def vField (T : Nat) (r : Reg) : Opnd := if T = 0x18 then .vpair r else .v r

/-- The fields that must be even under type `T` (11 R147). -/
def pairFields (T : Nat) (rs : List Reg) : List Reg := if T = 0x18 then rs else []

/-- The elements of register `r` in lane `l` (11 R147, Elem). -/
def Team.elemsOf (t : Team) (T : Nat) (r : Reg) (l : Nat) : List Nat :=
  if T = 0x18 then [(t.vpair r l).toNat] else elems T (t.vval r l).toNat

/-- A value for each active lane. -/
def Team.perActive {α : Type} (t : Team) (f : Nat → α) : List (Option α) :=
  (List.range t.tw).map fun l => if t.effective.getLsbD l then some (f l) else none

/-- Element results written to a register, or pair, of type `T`. -/
def Team.setElems (t : Team) (T : Nat) (r : Reg) (outs : List (Option (List Nat))) : Team :=
  let word (n : Nat) (es : List Nat) : Lane :=
    let x := if T = 0x18 then es.headD 0 else packFields (fieldWidth T) es
    ⟨.ofNat 32 (x / 2 ^ (32 * n)), false⟩
  let put (t : Team) (r : Reg) (n : Nat) : Team :=
    t.setLanes r fun l => ((outs.getD l none).map (word n))
  if T = 0x18 then put (put t r 0) (r + 1#6) 1 else put t r 0

/-- Element results with their flags. -/
def Team.setOuts (t : Team) (T : Nat) (r : Reg) (outs : List (Option (List Out))) : Team :=
  t.setElems T r (outs.map fun o => o.map fun l => l.map Out.bits)

/-- The flags of element results, over every active lane and element (05 R67). -/
def flagsOf (outs : List (Option (List Out))) : Nat :=
  unionFlags (outs.flatMap fun o => (o.getD []).map Out.flags)

/-! ### The address operand of memory instructions (07 R109, 13 R179) -/

/-- An address as it is formed: absolute, or an offset in the team's stack segment (03 R52). -/
inductive AForm where
  | absolute (a : Addr)
  | stack (off : Nat)
deriving DecidableEq, Repr

/-- The virtual address. -/
def AForm.va (t : Team) : AForm → Addr
  | .absolute a => a
  | .stack off => t.stackStart + .ofNat 64 off

/-- Base 61 or 62: a stack-relative access (07 R109). -/
def onStack (m : MemArg) : Bool := m.base = 61 || m.base = 62

/-- The register operand that the base names. -/
def baseOpnd (m : MemArg) : Opnd := if onStack m then .s m.base else .pair m.base

/-- The sources that the address operand names. -/
def memUses (m : MemArg) : List Use :=
  ⟨baseOpnd m, m.last⟩ :: match m.mode with
    | .index v last => [⟨.v v, last⟩]
    | .disp _ => []
    | .postInc _ => []
    | .modulo _ _ => []

/-- Whether the mode steps the base, which it then writes. -/
def memSteps (m : MemArg) : Bool :=
  match m.mode with
  | .postInc _ => true
  | .modulo _ _ => true
  | .disp _ => false
  | .index _ _ => false

/-- The base plus a signed number of bytes: 64-bit arithmetic, 32-bit for a stack offset (13 R179), which so wraps before
the STACK_LIMIT check (DESIGN CHOICE, log entry 116). -/
def memPlus (m : MemArg) (t : Team) (k : Int) : AForm :=
  if onStack m then .stack (t.sval m.base + .ofInt 32 k).toNat else .absolute (t.pair m.base + .ofInt 64 k)

/-- start + ((low − start + k) mod QLEN), modulo 2^32 (13 R179). -/
def circle (t : Team) (q : BitVec 3) (low : Word) (k : Nat) : Word :=
  let start := (t.qStart[q.toNat]'(q.isLt))
  let len := (t.qLen[q.toNat]'(q.isLt))
  .ofInt 32 (start.toNat + ((low.toNat : Int) - start.toNat + k) % len.toNat)

/-- Modulo addressing with QLEN 0 (13 R179). -/
def emptyBuffer (m : MemArg) (t : Team) : Bool :=
  match m.mode with
  | .modulo q _ => (t.qLen[q.toNat]'(q.isLt)) == 0
  | .disp _ => false
  | .postInc _ => false
  | .index _ _ => false

/-- The address A that the mode forms for the instruction (07 R109). -/
def memAddress (m : MemArg) (t : Team) (scale : Nat) : AForm :=
  match m.mode with
  | .disp k => memPlus m t (k.toInt * scale)
  | .postInc _ => memPlus m t 0
  | .index _ _ => memPlus m t 0
  | .modulo _ _ => memPlus m t 0

/-- The address of lane `l` (13 R184). -/
def laneAddress (m : MemArg) (t : Team) (size l : Nat) : AForm :=
  match m.mode with
  | .index v _ => memPlus m t (t.vval v l).toInt
  | .modulo q _ =>
    if onStack m then .stack (circle t q (t.sval m.base) (l * size)).toNat
    else .absolute (joinPair (circle t q (t.sval m.base) (l * size)) (t.sval (m.base + 1#6)))
  | .disp _ | .postInc _ =>
    match memAddress m t size with
    | .absolute a => .absolute (a + .ofNat 64 (l * size))
    | .stack off => .stack (off + l * size)

/-- The step of the base (07 R109, 13 R179). -/
def Team.stepBase (t : Team) (m : MemArg) (scale : Nat) : Team :=
  match m.mode with
  | .postInc k =>
    if onStack m then t.setS m.base (t.sval m.base + .ofInt 32 (k.toInt * scale))
    else t.setPair m.base (t.pair m.base + .ofInt 64 (k.toInt * scale))
  | .modulo q k =>
    let low := circle t q (t.sval m.base) (k.toNat * scale)
    if onStack m then t.setS m.base low else t.setPair m.base (joinPair low (t.sval (m.base + 1#6)))
  | .disp _ => t
  | .index _ _ => t

/-! ### Element-wise instructions -/

/-- An operation on one element: from MODE and the elements of the operands, in the order a, b, d. -/
abbrev ElemOp := Nat → Nat → Bool → List Nat → Out

def elemOp1 (f : Nat → Nat → Bool → Nat → Out) : ElemOp := fun T rnd sat es =>
  match es with
  | [a] => f T rnd sat a
  | _ => ⟨0, 0⟩
def elemOp2 (f : Nat → Nat → Bool → Nat → Nat → Out) : ElemOp := fun T rnd sat es =>
  match es with
  | [a, b] => f T rnd sat a b
  | _ => ⟨0, 0⟩
def elemOp3 (f : Nat → Nat → Bool → Nat → Nat → Nat → Out) : ElemOp := fun T rnd sat es =>
  match es with
  | [a, b, d] => f T rnd sat a b d
  | _ => ⟨0, 0⟩

/-- The elements with index `i` of several operands, for each `i`. -/
def columns (n : Nat) (ls : List (List Nat)) : List (List Nat) :=
  (List.range n).map fun i => ls.map fun l => l.getD i 0

/-- The results of an element-wise operation in each active lane. -/
def Team.elemResults (t : Team) (op : ElemOp) (rs : List Reg) : List (Option (List Out)) :=
  t.perActive fun l =>
    (columns (elemCount t.type) (rs.map fun r => t.elemsOf t.type r l)).map (op t.type t.rnd t.sat)

/-- The fields and checks of a vector instruction under MODE.TYPE (11 R146, R147): sources, whether the old
destination is read, and the accepted types with the DFM bits that gate them. -/
def vecShape (s : State) (t : Team) (accept : Nat → Bool) (bits : Nat → List Nat) (d : Reg)
    (srcs : List Src) (readsD : Bool) : Shape where
  srcs := (srcs.map fun a => ⟨vField t.type a.reg, a.last⟩)
    ++ (if readsD then [⟨vField t.type d, false⟩] else [])
  dsts := [vField t.type d]
  vector := true
  early := typeTrap (pairFields t.type (d :: srcs.map (·.reg))) (accept t.type)
  feature := featureTrap s t.core (bits t.type)

/-- An element-wise instruction under MODE.TYPE; `producer` marks those of 05 R76. -/
def elementwise (accept : Nat → Bool) (producer readsD : Bool) (op : ElemOp) (d : Reg) (srcs : List Src)
    (s : State) : Result :=
  runRegs (fun t => vecShape s t accept typeBits d srcs readsD)
    (fun t =>
      let outs := t.elemResults op ((srcs.map (·.reg)) ++ (if readsD then [d] else []))
      let t1 := t.setOuts t.type d outs
      let f := flagsOf outs
      .ok (if producer then t1.openProducer d (t.type == 0x18) f else t1.raiseFlags f).advance) s

/-- An instruction that moves whole 32-bit words and does not read TYPE (11 R146). -/
def wordwise (op : List Word → Word) (d : Reg) (srcs : List Src) : State → Result :=
  runRegs (fun _ => { srcs := srcs.map fun a => ⟨.v a.reg, a.last⟩, dsts := [.v d], vector := true })
    fun t => .ok (t.setActive d fun l => op (srcs.map fun a => t.vval a.reg l)).advance

end Sys2Proof.Machine
end

