-- ==== Sys2Proof/Machine/Transcend.lean ====
section
/-!
DEFINITION. 2^x and log2 x, correctly rounded (05 R68): an interval around the exact value is rounded at
both ends; where the ends agree, that is the result.  Both functions are irrational wherever they are not
an exact power or exponent, so NX is then raised.
-/
namespace Sys2Proof.Machine

/-- floor(ln 2 × 2^320). -/
def ln2 : Nat := 0xb17217f7d1cf79abc9e3b39803f2f6af40f343267298b62d8a0d175b8baafa2be7b876206debac98

/-- The two ends rounded; where they differ the result is open (log entry 6). -/
def decideRound (op x : Nat) (lo hi : Out) : Out :=
  if lo.bits = hi.bits then ⟨lo.bits, lo.flags ||| hi.flags ||| fNX⟩
  else ⟨Config.undecidedRounding op x, fNX⟩

/-! ### 2^x -/

/-- The partial sums of t^k / k!, in units of 2^−320, each term rounded down (`up = 0`) or up: the last term
and the sum. -/
def expTerms (t up : Nat) : Nat → Nat × Nat
  | 0 => (2 ^ 320, 2 ^ 320)
  | k + 1 =>
    let r := expTerms t up k
    let term := r.1 * t / ((k + 1) * 2 ^ 320) + up
    (term, r.2 + term)

/-- Bounds of 2^(frac / 2^320) for 0 < frac < 2^320, in units of 2^−320. -/
def exp2Bounds (frac : Nat) : Nat × Nat :=
  let lo := expTerms (frac * ln2 / 2 ^ 320) 0 90
  let hi := expTerms (frac * (ln2 + 1) / 2 ^ 320 + 1) 1 90
  (lo.2, hi.2 + hi.1)

/-- 2^k as a magnitude. -/
def pow2Mag (k : Int) : Mag := .ofDyadic 1 k

/-- 2^x for a finite x = (−1)^neg × num × 2^exp other than zero. -/
def exp2Out (f : Fmt) (rnd : Nat) (key : Nat) (neg : Bool) (num : Nat) (exp : Int) : Out :=
  let size := (num.log2 : Int) + exp
  if 12 ≤ size then f.round rnd false false (pow2Mag (signed neg 4096))
  else if size < -70 then
    f.round rnd false false ⟨if neg then 2 ^ 64 - 1 else 2 ^ 64 + 1, 2 ^ 64, false⟩
  else
    let scaled := signed neg (num * upPow (exp + 320) / downPow (exp + 320))
    let whole := scaled / 2 ^ 320
    let frac := (scaled % 2 ^ 320).toNat
    if frac = 0 then f.round rnd false false (pow2Mag whole)
    else
      let b := exp2Bounds frac
      let end_ (n : Nat) : Out :=
        f.round rnd false false ⟨n * upPow whole, 2 ^ 320 * downPow whole, false⟩
      decideRound 0x14 key (end_ b.1) (end_ b.2)

/-! ### log2 x -/

/-- The first `n` binary digits of log2 m, from an interval of m in units of 2^−700; `none` where a digit is
not decided. -/
def logBits : Nat → Nat → Nat → Nat → Option Nat
  | 0, acc, _, _ => some acc
  | n + 1, acc, lo, hi =>
    let l := lo * lo / 2 ^ 700
    let h := hi * hi / 2 ^ 700 + 1
    if 2 ^ 701 ≤ l then logBits n (2 * acc + 1) (l / 2) (h / 2 + 1)
    else if h < 2 ^ 701 then logBits n (2 * acc) l h
    else none

/-- log2 of num × 2^exp, a positive number other than 1. -/
def log2Out (f : Fmt) (rnd : Nat) (key : Nat) (num : Nat) (exp : Int) : Out :=
  let e := (num.log2 : Int) + exp
  if num = 2 ^ num.log2 then f.roundDyadic rnd false false e 0
  else
    let m := num * 2 ^ 700 / 2 ^ num.log2
    match logBits 280 0 m m with
    | none => ⟨Config.undecidedRounding 0x15 key, fNX⟩
    | some b =>
      let v := e * 2 ^ 280 + b
      let end_ (v : Int) : Out := f.round rnd false (v < 0) ⟨v.natAbs, 2 ^ 280, false⟩
      decideRound 0x15 key (end_ v) (end_ (v + 1))

end Sys2Proof.Machine
end

