-- ==== Sys2Proof/Machine/VectorFp.lean ====
section
/-!
DEFINITION. Vector floating point: majors 0x28 to 0x2B (11 R156 to R164; special operands 05 R69).
-/
namespace Sys2Proof.Machine

/-- The format of a floating-point TYPE. -/
def typeFmt (T : Nat) : Fmt := (fpFmt T).getD fp32

/-- A NaN operand decides the result first (05 R69): NV when one is signalling. -/
def nanRow (f : Fmt) (vs : List FVal) : Option Out :=
  if vs.any FVal.isSNan then some ⟨f.nanBits, fNV⟩
  else if vs.any FVal.isNan then some ⟨f.nanBits, 0⟩
  else none

def addOut (f : Fmt) (rnd : Nat) (a b : FVal) : Out := f.sumRound rnd false [a, b]

/-- A value as a result: an infinity, or rounded once. -/
def valueOut (f : Fmt) (rnd : Nat) : FVal → Out
  | .nan _ => ⟨f.nanBits, 0⟩
  | .inf neg => ⟨f.infBits neg, 0⟩
  | .fin neg n e => f.roundDyadic rnd false neg (signed neg n) e

def mulOut (f : Fmt) (rnd : Nat) (a b : FVal) : Out :=
  match nanRow f [a, b] with
  | some o => o
  | none =>
    match a.mul b with
    | none => ⟨f.nanBits, fNV⟩
    | some v => valueOut f rnd v

/-- a × b + d with one rounding; 0 × infinity comes before a quiet NaN (05 R69). -/
def fmaOut (f : Fmt) (rnd : Nat) (a b d : FVal) : Out :=
  if [a, b, d].any FVal.isSNan then ⟨f.nanBits, fNV⟩
  else match a.mul b with
    | none => ⟨f.nanBits, fNV⟩
    | some p => f.sumRound rnd false [p, d]

def fpOp2 (f : Fmt → Nat → FVal → FVal → Out) : ElemOp := elemOp2 fun T rnd _ a b =>
  f (typeFmt T) rnd (fpValue T a) (fpValue T b)
def fpOp3 (f : Fmt → Nat → FVal → FVal → FVal → Out) : ElemOp := elemOp3 fun T rnd _ a b d =>
  f (typeFmt T) rnd (fpValue T a) (fpValue T b) (fpValue T d)

/-! ### Majors 0x28 and 0x29 (11 R156) -/

def execVfadd (d : Reg) (a b : Src) (s : State) : Result :=
  elementwise setF true false (fpOp2 addOut) d [a, b] s
def execVfsub (d : Reg) (a b : Src) (s : State) : Result :=
  elementwise setF true false (fpOp2 fun f rnd a b => addOut f rnd a b.negate) d [a, b] s
def execVfmul (d : Reg) (a b : Src) (s : State) : Result :=
  elementwise setF true false (fpOp2 mulOut) d [a, b] s
def execVfma (d : Reg) (a b : Src) (s : State) : Result :=
  elementwise setF true true (fpOp3 fmaOut) d [a, b] s
/-- VFMS: a × b − d. -/
def execVfms (d : Reg) (a b : Src) (s : State) : Result :=
  elementwise setF true true (fpOp3 fun f rnd a b d => fmaOut f rnd a b d.negate) d [a, b] s
/-- VFNMA: d − a × b. -/
def execVfnma (d : Reg) (a b : Src) (s : State) : Result :=
  elementwise setF true true (fpOp3 fun f rnd a b d => fmaOut f rnd a.negate b d) d [a, b] s

/-! ### Major 0x2A (11 R157, R158) -/

/-- VFMIN and its kin: `larger` picks the larger number, `quiet` lets a number win over a NaN. -/
def pickOut (larger quiet : Bool) : ElemOp := elemOp2 fun T _ _ a b =>
  let f := typeFmt T
  let x := fpValue T a
  let y := fpValue T b
  let nv := if x.isSNan || y.isSNan then fNV else 0
  match x.isNan, y.isNan with
  | false, false => ⟨if (if larger then x.below y else y.below x) then b else a, nv⟩
  | true, true => ⟨f.nanBits, nv⟩
  | true, false => ⟨if quiet then b else f.nanBits, nv⟩
  | false, true => ⟨if quiet then a else f.nanBits, nv⟩

def execVfmin (d : Reg) (a b : Src) (s : State) : Result :=
  elementwise setF false false (pickOut false true) d [a, b] s
def execVfmax (d : Reg) (a b : Src) (s : State) : Result :=
  elementwise setF false false (pickOut true true) d [a, b] s
def execVfminm (d : Reg) (a b : Src) (s : State) : Result :=
  elementwise setF false false (pickOut false false) d [a, b] s
def execVfmaxm (d : Reg) (a b : Src) (s : State) : Result :=
  elementwise setF false false (pickOut true false) d [a, b] s

/-- A form of 11 R158: a NaN gives the canonical NaN, a number is taken by `g`. -/
def signOp (g : Fmt → FVal → Nat → Nat) : ElemOp := elemOp1 fun T _ _ a =>
  match nanRow (typeFmt T) [fpValue T a] with
  | some o => o
  | none => ⟨g (typeFmt T) (fpValue T a) a, 0⟩

/-- The magnitude bits of an element. -/
def Fmt.magBits (f : Fmt) (a : Nat) : Nat := a % 2 ^ (f.e + f.m)

/-- VFSGN: ±1.0, or the zero itself. -/
def signumBits (f : Fmt) (v : FVal) (a : Nat) : Nat :=
  if v.isZero then a else f.signBits v.neg? + f.bias * 2 ^ f.m

def execVfabs (d : Reg) (a : Src) (s : State) : Result :=
  elementwise setF false false (signOp fun f _ a => f.magBits a) d [a] s
def execVfneg (d : Reg) (a : Src) (s : State) : Result :=
  elementwise setF false false (signOp fun f v a => f.magBits a + f.signBits (!v.neg?)) d [a] s
def execVfsgn (d : Reg) (a : Src) (s : State) : Result :=
  elementwise setF false false (signOp signumBits) d [a] s

/-- The producer that a .K form cancels, if it does (05 R76, 11 R163). -/
def openFor (s : State) (srcs : List Src) : Option Producer :=
  match s.curTeam with
  | none => none
  | some t => if cancels t.producer t.pc srcs then t.producer else none

/-- What C's result is written over: the team itself, or the team without its producer's result. -/
def Team.afterCancel (t : Team) : Option Producer → Team
  | none => t
  | some p => t.cancel p

/-- VFSGN.K: as VFSGN, with cancellation (11 R163, R164). -/
def execVfsgnK (d : Reg) (a : Src) (s : State) : Result :=
  runRegs (fun t => vecShape s t setF typeBits d [a] false)
    (fun t =>
      let outs := t.elemResults (signOp signumBits) [a.reg]
      .ok (((t.afterCancel (openFor s [a])).setOuts t.type d outs).raiseFlags (flagsOf outs)).advance) s

/-! ### Major 0x2B (11 R159 to R161) -/

/-- The conditions of VFCMP, and whether they raise NV (11 R160). -/
def fpCondition (c : FpCond) (x y : FVal) : Bool :=
  let un := x.isNan || y.isNan
  match c with
  | .eq => !un && x.eqv y
  | .ne => un || !x.eqv y
  | .lt => !un && x.lt y
  | .le => !un && !y.lt x
  | .gt => !un && y.lt x
  | .ge => !un && !x.lt y
  | .un => un
  | .ord => !un

def fpCondFlag (c : FpCond) (x y : FVal) : Nat :=
  let anyNan := x.isNan || y.isNan
  let anySig := x.isSNan || y.isSNan
  match c with
  | .eq | .ne | .un | .ord => if anySig then fNV else 0
  | .lt | .le | .gt | .ge => if anyNan then fNV else 0

/-- VFCMP, on element 0 of each active lane; `k` is the .K form. -/
def compareFp (k : Bool) (c : FpCond) (d : MReg) (a b : Src) (s : State) : Result :=
  runRegs (fun t =>
      { srcs := [⟨vField t.type a.reg, a.last⟩, ⟨vField t.type b.reg, b.last⟩], dsts := [.m d],
        vector := true, early := typeTrap (pairFields t.type [a.reg, b.reg]) (setF t.type),
        feature := featureTrap s t.core (typeBits t.type) })
    (fun t =>
      let x (l : Nat) : FVal := fpValue t.type ((t.elemsOf t.type a.reg l).headD 0)
      let y (l : Nat) : FVal := fpValue t.type ((t.elemsOf t.type b.reg l).headD 0)
      let f := unionFlags (t.active.map fun l => fpCondFlag c (x l) (y l))
      let t1 := t.afterCancel (if k then openFor s [a, b] else none)
      .ok ((t1.setMaskActive d fun l => fpCondition c (x l) (y l)).raiseFlags f).advance) s

def execVfcmp (c : FpCond) (d : MReg) (a b : Src) (s : State) : Result := compareFp false c d a b s
def execVfcmpK (c : FpCond) (d : MReg) (a b : Src) (s : State) : Result := compareFp true c d a b s

/-- The class word of an element (11 R161). -/
def classWord (T a : Nat) : Nat :=
  let f := typeFmt T
  match fpValue T a with
  | .nan true => 2 ^ 8
  | .nan false => 2 ^ 9
  | .inf true => 2 ^ 0
  | .inf false => 2 ^ 7
  | .fin neg n _ =>
    let c := if n = 0 then (3, 4) else if f.magBits a < 2 ^ f.m then (2, 5) else (1, 6)
    2 ^ (if neg then c.1 else c.2)

def execVfclass (d : Reg) (a : Src) (s : State) : Result :=
  elementwise setF false false (elemOp1 fun T _ _ a => ⟨classWord T a, 0⟩) d [a] s

end Sys2Proof.Machine
end

