-- ==== Sys2Proof/Machine/VectorInt.lean ====
section
/-!
DEFINITION. Vector integer instructions: majors 0x20 to 0x24 and 0x13 (11 R151 to R155).
-/
namespace Sys2Proof.Machine

/-- The NV of an invalid signed digit in an element (05 R62, 11 R148). -/
def digitFlag (T a : Nat) : Nat := if (intValue T a).2 then fNV else 0

/-- Fit of an exact function of the operands' values (11 R148). -/
def fitOp1 (f : Int → Int) : ElemOp := elemOp1 fun T _ sat a =>
  ⟨fit T sat (f (intValue T a).1), digitFlag T a⟩
def fitOp2 (f : Int → Int → Int) : ElemOp := elemOp2 fun T _ sat a b =>
  ⟨fit T sat (f (intValue T a).1 (intValue T b).1), digitFlag T a ||| digitFlag T b⟩
def fitOp3 (f : Int → Int → Int → Int) : ElemOp := elemOp3 fun T _ sat a b d =>
  ⟨fit T sat (f (intValue T a).1 (intValue T b).1 (intValue T d).1),
    digitFlag T a ||| digitFlag T b ||| digitFlag T d⟩

/-! ### Major 0x20 (11 R151) -/

def execVadd (d : Reg) (a b : Src) (s : State) : Result :=
  elementwise setI false false (fitOp2 (· + ·)) d [a, b] s
def execVsub (d : Reg) (a b : Src) (s : State) : Result :=
  elementwise setI false false (fitOp2 (· - ·)) d [a, b] s
def execVmul (d : Reg) (a b : Src) (s : State) : Result :=
  elementwise setI false false (fitOp2 (· * ·)) d [a, b] s
/-- VMULH: (a × b)[2w−1:w]; SAT is ignored. -/
def execVmulh (d : Reg) (a b : Src) (s : State) : Result :=
  elementwise setShift false false
    (elemOp2 fun T _ _ a b =>
      ⟨(((intValue T a).1 * (intValue T b).1) / 2 ^ fieldWidth T % 2 ^ fieldWidth T).toNat, 0⟩) d [a, b] s
def execVmad (d : Reg) (a b : Src) (s : State) : Result :=
  elementwise setI false true (fitOp3 fun a b d => d + a * b) d [a, b] s
def execVmin (d : Reg) (a b : Src) (s : State) : Result :=
  elementwise setI false false (fitOp2 min) d [a, b] s
def execVmax (d : Reg) (a b : Src) (s : State) : Result :=
  elementwise setI false false (fitOp2 max) d [a, b] s

/-! ### Major 0x21 (11 R152) -/

def word2 (f : Word → Word → Word) (ws : List Word) : Word :=
  match ws with
  | [a, b] => f a b
  | _ => 0

def execVand (d : Reg) (a b : Src) (s : State) : Result := wordwise (word2 (· &&& ·)) d [a, b] s
def execVor (d : Reg) (a b : Src) (s : State) : Result := wordwise (word2 (· ||| ·)) d [a, b] s
def execVxor (d : Reg) (a b : Src) (s : State) : Result := wordwise (word2 (· ^^^ ·)) d [a, b] s
def execVandn (d : Reg) (a b : Src) (s : State) : Result := wordwise (word2 fun x y => x &&& ~~~y) d [a, b] s

/-- The shifts of an element of width w; the amount is taken modulo w (11 R152). -/
def shiftLeft (w a k : Nat) : Nat := a * 2 ^ (k % w) % 2 ^ w
def shiftRight (w a k : Nat) : Nat := a / 2 ^ (k % w)
/-- The element as two's complement, shifted with its sign (11 R152). -/
def shiftArith (w a k : Nat) : Nat :=
  ((if 2 ^ (w - 1) ≤ a then (a : Int) - 2 ^ w else a) / 2 ^ (k % w) % 2 ^ w).toNat

def shiftOp2 (f : Nat → Nat → Nat → Nat) : ElemOp := elemOp2 fun T _ _ a b => ⟨f (fieldWidth T) a b, 0⟩
def shiftOp1 (f : Nat → Nat → Nat → Nat) (k : Nat) : ElemOp :=
  elemOp1 fun T _ _ a => ⟨f (fieldWidth T) a k, 0⟩

def execVshl (d : Reg) (a b : Src) (s : State) : Result :=
  elementwise setShift false false (shiftOp2 shiftLeft) d [a, b] s
def execVshr (d : Reg) (a b : Src) (s : State) : Result :=
  elementwise setShift false false (shiftOp2 shiftRight) d [a, b] s
def execVsra (d : Reg) (a b : Src) (s : State) : Result :=
  elementwise setShift false false (shiftOp2 shiftArith) d [a, b] s

/-! ### Major 0x22 (11 R153, R154) -/

/-- The condition codes of VCMP (11 R154). -/
def intCondition (c : IntCond) (x y : Int) : Bool :=
  match c with
  | .eq => x == y
  | .ne => x != y
  | .lt => x < y
  | .ge => y ≤ x
  | .le => x ≤ y
  | .gt => y < x

/-- VCMP compares element 0 of each active lane by value (11 R154, 03 R39). -/
def execVcmp (c : IntCond) (d : MReg) (a b : Src) (s : State) : Result :=
  runRegs (fun t =>
      { srcs := [⟨.v a.reg, a.last⟩, ⟨.v b.reg, b.last⟩], dsts := [.m d], vector := true,
        early := typeTrap (pairFields t.type [a.reg, b.reg]) (setI t.type)
        feature := featureTrap s t.core (typeBits t.type) })
    (fun t =>
      let x (l : Nat) : Nat := elemAt t.type 0 (t.vval a.reg l).toNat
      let y (l : Nat) : Nat := elemAt t.type 0 (t.vval b.reg l).toNat
      let f := unionFlags (t.active.map fun l => digitFlag t.type (x l) ||| digitFlag t.type (y l))
      .ok ((t.setMaskActive d fun l =>
        intCondition c (intValue t.type (x l)).1 (intValue t.type (y l)).1).raiseFlags f).advance) s

def execVabs (d : Reg) (a : Src) (s : State) : Result :=
  elementwise setI false false (fitOp1 fun x => (x.natAbs : Int)) d [a] s
def execVneg (d : Reg) (a : Src) (s : State) : Result :=
  elementwise setI false false (fitOp1 fun x => -x) d [a] s
def execVmov (d : Reg) (a : Src) (s : State) : Result := wordwise (fun ws => ws.headD 0) d [a] s
/-- VLANE: the lane number. -/
def execVlane (d : Reg) (s : State) : Result :=
  runRegs (fun _ => { dsts := [.v d], vector := true })
    (fun t => .ok (t.setActive d fun l => .ofNat 32 l).advance) s
/-- VSEL: mk selects between a and b; the effective mask still gates it (11 R153). -/
def execVsel (d : Reg) (a b : Src) (k : MReg) (s : State) : Result :=
  runRegs (fun _ =>
      { srcs := [⟨.v a.reg, a.last⟩, ⟨.v b.reg, b.last⟩, ⟨.m k, false⟩], dsts := [.v d], vector := true })
    (fun t => .ok (t.setActive d fun l =>
      if (t.mbits k).getLsbD l then t.vval a.reg l else t.vval b.reg l).advance) s

/-! ### Immediate forms (11 R155) -/

def execVaddi (d : Reg) (a : Src) (i : BitVec 12) (s : State) : Result :=
  elementwise setI false false (fitOp1 fun x => x + i.toInt) d [a] s
def execVshli (d : Reg) (a : Src) (n : BitVec 5) (s : State) : Result :=
  elementwise setShift false false (shiftOp1 shiftLeft n.toNat) d [a] s
def execVshri (d : Reg) (a : Src) (n : BitVec 5) (s : State) : Result :=
  elementwise setShift false false (shiftOp1 shiftRight n.toNat) d [a] s
def execVli (d : Reg) (i : BitVec 20) (s : State) : Result :=
  runRegs (fun _ => { dsts := [.v d], vector := true })
    (fun t => .ok (t.setActive d fun _ => i.signExtend 32).advance) s

end Sys2Proof.Machine
end

