-- ==== Sys2Proof/Machine/CrossLane.lean ====
section
/-!
DEFINITION. Cross-lane moves and reductions: majors 0x32 and 0x33 (11 R173 to R178, 05 R88, R91).
-/
namespace Sys2Proof.Machine

/-! ### Moves (11 R173, R174) -/

/-- VSHFL: an active lane reads lane vb(l) of va, whatever that lane's mask bit; the words read count as consumed by the
reading lane, the lowest of which names the record (11 R145, 21 R299, R315).  Where both its words are poisoned ADDR names
vb, which selects (DESIGN CHOICE, log entry 90). -/
def execVshfl (d : Reg) (a b : Src) (la : BitVec 4) (s : State) : Result :=
  runRegs (fun _ =>
      { srcs := [⟨.vgroup a.reg 1, a.last⟩, ⟨.vgroup b.reg 1, b.last⟩], dsts := [.v d], vector := true,
        la := la.toNat })
    (fun t =>
      let from_ (l : Nat) : Nat := (t.vval b.reg l).toNat
      let bad (l : Nat) : Bool := t.vbad b.reg l || (from_ l < t.tw && t.vbad a.reg (from_ l))
      match t.active.find? bad with
      | some l =>
        let r := if t.vbad b.reg l then b.reg else a.reg
        .error (.trap { Trap.at .poison ((t.virt r).setWidth 64) 0 with lane := some l })
      | none =>
        .ok (t.setActive d fun l => if from_ l < t.tw then t.vval a.reg (from_ l) else 0).advance) s

def execVbcast (d : Reg) (a : Src) (la : BitVec 4) (s : State) : Result :=
  runRegs (fun _ => { srcs := [⟨.s a.reg, a.last⟩], dsts := [.v d], vector := true, la := la.toNat })
    (fun t => .ok (t.setActive d fun _ => t.sval a.reg).advance) s

/-- VEXT reads its lane whatever the effective mask; a record of its poison names that lane (DESIGN CHOICE, log entry
82). -/
def execVext (d : Reg) (a b : Src) (la : BitVec 4) (s : State) : Result :=
  runRegs (fun _ =>
      { srcs := [⟨.vgroup a.reg 1, a.last⟩, ⟨.s b.reg, b.last⟩], dsts := [.s d], vector := true,
        always := true, la := la.toNat })
    (fun t =>
      let l := (t.sval b.reg).toNat
      if l < t.tw && t.vbad a.reg l then
        .error (.trap { Trap.at .poison ((t.virt a.reg).setWidth 64) 0 with lane := some l })
      else .ok (t.setS d (if l < t.tw then t.vval a.reg l else 0)).advance) s

/-- VINS writes one lane, if it is below TW and active.  It reads sb whether or not a lane is active (DESIGN CHOICE, log
entry 92). -/
def execVins (d : Reg) (a b : Src) (la : BitVec 4) (s : State) : Result :=
  runRegs (fun t =>
      let hit := t.active.contains (t.sval b.reg).toNat
      { srcs := (if hit then [⟨.s a.reg, a.last⟩] else []) ++ [⟨.s b.reg, b.last⟩],
        unread := if hit then [] else [⟨.s a.reg, a.last⟩], dsts := [.v d], vector := true,
        always := true, la := la.toNat })
    (fun t =>
      let l := (t.sval b.reg).toNat
      .ok (if t.active.contains l then t.setLane d l (t.sval a.reg) false else t).advance) s

/-! ### Reductions (11 R175 to R177) -/

/-- The sequence E: the elements of every active lane, lane by lane (11 R175). -/
def Team.sequence (t : Team) (r : Reg) : List Nat := t.active.flatMap fun l => t.elemsOf t.type r l

/-- The result of a reduction: field 0 of sd, or the pair under FP64 (11 R176). -/
def Team.setReduced (t : Team) (d : Reg) (bits : Nat) : Team :=
  if t.type = 0x18 then t.setPair d (.ofNat 64 bits) else t.setS d (.ofNat 32 bits)

/-- The exact sum of integers, and the NV of an invalid digit. -/
def intSum (T : Nat) (sat : Bool) (es : List Nat) : Out :=
  ⟨fit T sat (es.foldl (fun acc x => acc + (intValue T x).1) 0), unionFlags (es.map (digitFlag T))⟩

/-- One level of the pairwise tree of 05 R91. -/
def pairLevel (f : Fmt) (rnd : Nat) : List Nat → List Nat × Nat
  | a :: b :: rest =>
    let o := addOut f rnd (f.decode a) (f.decode b)
    let r := pairLevel f rnd rest
    (o.bits :: r.1, o.flags ||| r.2)
  | l => (l, 0)

/-- The pairwise tree; `fuel` levels suffice for 2^fuel elements. -/
def pairTree (f : Fmt) (rnd : Nat) : Nat → List Nat → Nat → Nat × Nat
  | 0, l, fl => (l.headD 0, fl)
  | fuel + 1, l, fl =>
    match l with
    | [] => (0, fl)
    | [x] => (x, fl)
    | l =>
      let r := pairLevel f rnd l
      pairTree f rnd fuel r.1 (fl ||| r.2)

/-- The floating-point sum of E (05 R88, R91). -/
def fpSum (nvr T rnd : Nat) (es : List Nat) : Out :=
  let f := typeFmt T
  if es = [] then ⟨0, 0⟩
  else if nvr = 1 then
    let r := pairTree f rnd 12 es 0
    let nv := if es.any fun x => (f.decode x).isSNan then fNV else 0
    ⟨if (f.decode r.1).isNan then f.nanBits else r.1, r.2 ||| nv⟩
  else f.sumRound rnd false (es.map f.decode)

/-- The largest or smallest number of E (11 R176, R157). -/
def fpExtreme (larger : Bool) (T : Nat) (es : List Nat) : Out :=
  let f := typeFmt T
  let nv := if es.any fun x => (f.decode x).isSNan then fNV else 0
  let nums := es.filter fun x => !(f.decode x).isNan
  match nums with
  | [] => if es = [] then ⟨f.infBits larger, 0⟩ else ⟨f.nanBits, nv⟩
  | x :: rest =>
    ⟨rest.foldl (fun m y =>
      if (if larger then (f.decode m).below (f.decode y) else (f.decode y).below (f.decode m)) then y
      else m) x, nv⟩

def intExtreme (larger : Bool) (T : Nat) (sat : Bool) (es : List Nat) : Out :=
  let vs := es.map fun x => (intValue T x).1
  let v := if larger then vs.foldl max (intMin T) else vs.foldl min (intMax T)
  ⟨fit T sat v, unionFlags (es.map (digitFlag T))⟩

/-- A reduction: `int` and `fp` compute the value of E. -/
def reduction (int : Nat → Bool → List Nat → Out) (fp : Nat → Nat → Nat → List Nat → Out)
    (d : Reg) (a : Src) (la : BitVec 4) (s : State) : Result :=
  runRegs (fun t =>
      { srcs := [⟨vField t.type a.reg, a.last⟩], dsts := [if t.type = 0x18 then .pair d else .s d],
        vector := true, la := la.toNat,
        early := typeTrap (pairFields t.type [d, a.reg]) (setI t.type || setF t.type),
        feature := featureTrap s t.core (typeBits t.type) })
    (fun t =>
      let es := t.sequence a.reg
      let o := if setI t.type then int t.type t.sat es else fp (s.ctxOf t).nvr t.type t.rnd es
      .ok ((t.setReduced d o.bits).raiseFlags o.flags).advance) s

def execVredadd (d : Reg) (a : Src) (la : BitVec 4) (s : State) : Result :=
  reduction intSum fpSum d a la s
def execVredmax (d : Reg) (a : Src) (la : BitVec 4) (s : State) : Result :=
  reduction (intExtreme true) (fun _ T _ => fpExtreme true T) d a la s
def execVredmin (d : Reg) (a : Src) (la : BitVec 4) (s : State) : Result :=
  reduction (intExtreme false) (fun _ T _ => fpExtreme false T) d a la s

/-- The prefixes of E, one result per element (11 R177). -/
def scanInt (T : Nat) (sat : Bool) : Int → List Nat → List Out
  | _, [] => []
  | acc, x :: xs =>
    let acc' := acc + (intValue T x).1
    ⟨fit T sat acc', digitFlag T x⟩ :: scanInt T sat acc' xs

/-- The floating-point prefixes of E, each an exact sum rounded once. -/
def scanFp (f : Fmt) (rnd : Nat) (es : List Nat) : List Out :=
  (List.range es.length).map fun k => f.sumRound rnd false ((es.take (k + 1)).map f.decode)

/-- VSCAN: the inclusive prefix at each element of each active lane. -/
def execVscan (d : Reg) (a : Src) (la : BitVec 4) (s : State) : Result :=
  runRegs (fun t =>
      { vecShape s t (fun T => setI T || setF T) typeBits d [a] false with la := la.toNat })
    (fun t =>
      let es := t.sequence a.reg
      let pre := if setI t.type then scanInt t.type t.sat 0 es else scanFp (typeFmt t.type) t.rnd es
      let n := elemCount t.type
      let outs := t.perActive fun l => (pre.drop (n * t.active.idxOf l)).take n
      .ok ((t.setOuts t.type d outs).raiseFlags (flagsOf outs)).advance) s

end Sys2Proof.Machine
end

