-- ==== Sys2Proof/Machine/Recur.lean ====
section
/-!
DEFINITION. The digit recurrences of the iterative class and their continuation records (05 R79 to R86).
-/
namespace Sys2Proof.Machine

/-! ### Records -/

/-- The value of an encoded signed digit; 0b10 is invalid (05 R62). -/
def digitOf : Nat → Option Int
  | 0 => some 0
  | 1 => some 1
  | 3 => some (-1)
  | _ => none

def digitCode (d : Int) : Nat := if d = 1 then 1 else if d = -1 then 3 else 0

/-- The digits 1 to `k` of a digit field whose digit j stands in bits [2j−1:2j−2] (05 R85). -/
def digitsOf (field : Nat) : Nat → Option (List Int)
  | 0 => some []
  | k + 1 =>
    match digitsOf field k, digitOf (fld (2 * k) 2 field) with
    | some ds, some d => some (ds ++ [d])
    | _, _ => none

def digitField (ds : List Int) : Nat := ds.foldr (fun d acc => 4 * acc + digitCode d) 0

/-- The fields of a record (05 R84). -/
def Dcr.op (r : Dcr) : Nat := fld 0 6 r.record.toNat
def Dcr.count (r : Dcr) : Nat := fld 6 6 r.record.toNat
def Dcr.rnd (r : Dcr) : Nat := fld 12 3 r.record.toNat
def Dcr.type (r : Dcr) : Nat := fld 15 5 r.record.toNat
def Dcr.fl (r : Dcr) : Nat := fld 20 5 r.record.toNat
/-- SPEC0, SPEC1 and the reserved bits. -/
def Dcr.spec (r : Dcr) : Nat := fld 25 7 r.record.toNat
def Dcr.digits (r : Dcr) : Nat := fld 32 112 r.record.toNat
def Dcr.residual (r : Dcr) : Nat := fld 144 112 r.record.toNat

def Dcr.make (pc : Addr) (lane : Option Nat) (op k rnd type fl spec digits residual : Nat) : Dcr :=
  ⟨pc, lane, .ofNat 256 (op + k * 2 ^ 6 + rnd * 2 ^ 12 + type * 2 ^ 15 + fl * 2 ^ 20 + spec * 2 ^ 25
    + digits % 2 ^ 112 * 2 ^ 32 + residual % 2 ^ 112 * 2 ^ 144)⟩

/-- The tests of R86 that do not look at the operands. -/
def Dcr.usable (r : Dcr) (op type rnd n : Nat) : Bool :=
  r.op == op && r.type == type && r.rnd == rnd && r.count ≤ n && r.spec == 0

/-- The record a team holds for a lane of the instruction at its PC.  Records stand until an iterative instruction of the
team executes, whatever else it executes before (DESIGN CHOICE, log entry 74). -/
def Team.dcr? (t : Team) (lane : Option Nat) : Option Dcr :=
  t.dcrs.find? fun r => r.lane == lane && r.pc == t.pc

/-! ### Integer division (05 R80) -/

/-- One digit of the restoring recurrence. -/
def intDigit (D w : Nat) : Int × Nat :=
  if D * 2 ^ 32 ≤ 2 * w then (1, 2 * w - D * 2 ^ 32) else (0, 2 * w)

/-- The remaining digits: `q` is the weighted sum so far. -/
def intLoop (D : Nat) : Nat → Int → Nat → Int × Nat
  | 0, q, w => (q, w)
  | n + 1, q, w => intLoop D n (2 * q + (intDigit D w).1) (intDigit D w).2

/-- The digits as they come, for a record. -/
def intDigits (D : Nat) : Nat → Nat → List Int × Nat
  | 0, w => ([], w)
  | n + 1, w =>
    let r := intDigits D n (intDigit D w).2
    ((intDigit D w).1 :: r.1, r.2)

/-- The magnitudes the recurrence divides (05 R80). -/
def divMagnitude (signed : Bool) (x : Word) : Nat := if signed then x.toInt.natAbs else x.toNat

/-- The state a division starts from: fresh, or continued from a record that passes R86. -/
def divStart (t : Team) (op type : Nat) (N : Nat) : Nat × Int × Nat :=
  let fresh : Nat × Int × Nat := (32, 0, N)
  match t.dcr? none with
  | none => fresh
  | some r =>
    if r.usable op type 0 32 then
      match digitsOf r.digits r.count with
      | none => fresh
      | some ds =>
        if r.digits / 2 ^ (2 * r.count) = 0 then
          (32 - r.count, ds.foldl (fun q d => 2 * q + d) 0, r.residual)
        else fresh
    else fresh

/-- Quotient and remainder of R80 with its sign step. -/
def divide (t : Team) (signed : Bool) (op : Nat) (a b : Word) : Word × Word :=
  let (n, q0, w0) := divStart t op (if signed then 0x0A else 0x0B) (divMagnitude signed a)
  let (quo, w) := intLoop (divMagnitude signed b) n q0 w0
  let rem : Int := (w / 2 ^ 32 : Nat)
  let negA := signed && a.toInt < 0
  let negB := signed && b.toInt < 0
  (.ofInt 32 (if negA != negB then -quo else quo), .ofInt 32 (if negA then -rem else rem))

/-- The record of a division stopped after `k` digits (05 R84, R85). -/
def divRecord (pc : Addr) (signed : Bool) (op k : Nat) (a b : Word) : Dcr :=
  let (ds, w) := intDigits (divMagnitude signed b) k (divMagnitude signed a)
  .make pc none op k 0 (if signed then 0x0A else 0x0B) 0 0 (digitField ds) w

end Sys2Proof.Machine
end

