-- ==== Sys2Proof/Machine/Scalar.lean ====
section
/-!
DEFINITION. The scalar arithmetic of majors 0x01 to 0x04 and 0x08 to 0x11 (09 R119 to R124): shared forms,
then one meaning per instruction.  These instructions read no field of MODE and write no flag.
-/
namespace Sys2Proof.Machine

/-! ### Shared forms -/

def Src.use (a : Src) : Use := ⟨.s a.reg, a.last⟩
def Src.usePair (a : Src) : Use := ⟨.pair a.reg, a.last⟩

/-- Two scalar sources and a scalar destination (09 R120). -/
def scalarRR (f : Word → Word → Word) (d : Reg) (a b : Src) : State → Result :=
  runRegs (fun _ => { srcs := [Src.use a, Src.use b], dsts := [.s d] })
    fun t => .ok (t.setS d (f (t.sval a.reg) (t.sval b.reg))).advance

/-- One scalar source and a scalar destination. -/
def scalarR (f : Word → Word) (d : Reg) (a : Src) : State → Result :=
  runRegs (fun _ => { srcs := [Src.use a], dsts := [.s d] })
    fun t => .ok (t.setS d (f (t.sval a.reg))).advance

/-- Two pair sources and a pair destination (09 R123). -/
def pairRR (f : Addr → Addr → Addr) (d : Reg) (a b : Src) : State → Result :=
  runRegs (fun _ => { srcs := [Src.usePair a, Src.usePair b], dsts := [.pair d] })
    fun t => .ok (t.setPair d (f (t.pair a.reg) (t.pair b.reg))).advance

/-- One pair source and a pair destination. -/
def pairR (f : Addr → Addr) (d : Reg) (a : Src) : State → Result :=
  runRegs (fun _ => { srcs := [Src.usePair a], dsts := [.pair d] })
    fun t => .ok (t.setPair d (f (t.pair a.reg))).advance

/-- The iterative forms of major 0x03 (09 R124): `pick` takes the quotient or the remainder.
FL of a record it continues from enters no flag: a scalar instruction raises none (05 R67 against R86: DESIGN CHOICE, log
entry 73). -/
def scalarDiv (signed : Bool) (op : Nat) (pick : Word × Word → Word) (d : Reg) (a b : Src)
    (la : BitVec 4) : State → Result :=
  runRegs (fun _ => { srcs := [Src.use a, Src.use b], dsts := [.s d], la := la.toNat })
    fun t => .ok { (t.setS d (pick (divide t signed op (t.sval a.reg) (t.sval b.reg)))).advance with
      dcrs := [] }

/-! ### Results -/

def mulHigh (a b : Word) : Word := .ofInt 32 ((a.toInt * b.toInt) / 2 ^ 32)
def mulHighU (a b : Word) : Word := .ofNat 32 (a.toNat * b.toNat / 2 ^ 32)
/-- Shift amounts: b[4:0] (09 R120). -/
def amount (b : Word) : Nat := fld 0 5 b.toNat
def leadingZeros (a : Word) : Word := .ofNat 32 (if a = 0 then 32 else 31 - a.toNat.log2)
def popCount (n : Nat) (x : Nat) : Nat := ((List.range n).filter fun i => x.testBit i).length
/-- a[n−1:0] sign-extended (09 R121). -/
def signExtendLow (n : Nat) (a : Word) : Word :=
  if a.getLsbD (n - 1) then .ofInt 32 ((fld 0 n a.toNat : Int) - 2 ^ n) else .ofNat 32 (fld 0 n a.toNat)
def zeroExtendLow (n : Nat) (a : Word) : Word := .ofNat 32 (fld 0 n a.toNat)

/-! ### Major 0x01 (09 R120) -/

def execAdd (d : Reg) (a b : Src) (s : State) : Result := scalarRR (· + ·) d a b s
def execSub (d : Reg) (a b : Src) (s : State) : Result := scalarRR (· - ·) d a b s
def execMul (d : Reg) (a b : Src) (s : State) : Result := scalarRR (· * ·) d a b s
def execMulh (d : Reg) (a b : Src) (s : State) : Result := scalarRR mulHigh d a b s
def execMulhu (d : Reg) (a b : Src) (s : State) : Result := scalarRR mulHighU d a b s
def execAnd (d : Reg) (a b : Src) (s : State) : Result := scalarRR (· &&& ·) d a b s
def execOr (d : Reg) (a b : Src) (s : State) : Result := scalarRR (· ||| ·) d a b s
def execXor (d : Reg) (a b : Src) (s : State) : Result := scalarRR (· ^^^ ·) d a b s
def execAndn (d : Reg) (a b : Src) (s : State) : Result := scalarRR (fun x y => x &&& ~~~y) d a b s
def execShl (d : Reg) (a b : Src) (s : State) : Result := scalarRR (fun x y => x <<< amount y) d a b s
def execShr (d : Reg) (a b : Src) (s : State) : Result := scalarRR (fun x y => x >>> amount y) d a b s
def execSra (d : Reg) (a b : Src) (s : State) : Result :=
  scalarRR (fun x y => x.sshiftRight (amount y)) d a b s

/-! ### Major 0x02 (09 R121) -/

def execMin (d : Reg) (a b : Src) (s : State) : Result :=
  scalarRR (fun x y => if x.toInt ≤ y.toInt then x else y) d a b s
def execMax (d : Reg) (a b : Src) (s : State) : Result :=
  scalarRR (fun x y => if x.toInt ≤ y.toInt then y else x) d a b s
def execMinu (d : Reg) (a b : Src) (s : State) : Result :=
  scalarRR (fun x y => if x.toNat ≤ y.toNat then x else y) d a b s
def execMaxu (d : Reg) (a b : Src) (s : State) : Result :=
  scalarRR (fun x y => if x.toNat ≤ y.toNat then y else x) d a b s
def execSeq (d : Reg) (a b : Src) (s : State) : Result := scalarRR (fun x y => boolWord (x == y)) d a b s
def execSne (d : Reg) (a b : Src) (s : State) : Result := scalarRR (fun x y => boolWord (x != y)) d a b s
def execSlt (d : Reg) (a b : Src) (s : State) : Result :=
  scalarRR (fun x y => boolWord (x.toInt < y.toInt)) d a b s
def execSltu (d : Reg) (a b : Src) (s : State) : Result :=
  scalarRR (fun x y => boolWord (x.toNat < y.toNat)) d a b s
/-- SEL reads sd as its condition before writing it. -/
def execSel (d : Reg) (a b : Src) (s : State) : Result :=
  runRegs (fun _ => { srcs := [Src.use a, Src.use b, ⟨.s d, false⟩], dsts := [.s d] })
    (fun t => .ok (t.setS d (if t.sval d != 0 then t.sval a.reg else t.sval b.reg)).advance) s
def execClz (d : Reg) (a : Src) (s : State) : Result := scalarR leadingZeros d a s
def execPopc (d : Reg) (a : Src) (s : State) : Result :=
  scalarR (fun x => .ofNat 32 (popCount 32 x.toNat)) d a s
def execSext (d : Reg) (a : Src) (n : BitVec 6) (s : State) : Result :=
  scalarR (signExtendLow n.toNat) d a s
def execZext (d : Reg) (a : Src) (n : BitVec 6) (s : State) : Result :=
  scalarR (zeroExtendLow n.toNat) d a s
def execMov (d : Reg) (a : Src) (s : State) : Result := scalarR id d a s

/-! ### Major 0x03 (09 R124, 05 R80) -/

def execDiv (d : Reg) (a b : Src) (la : BitVec 4) (s : State) : Result :=
  scalarDiv true 1 Prod.fst d a b la s
def execDivu (d : Reg) (a b : Src) (la : BitVec 4) (s : State) : Result :=
  scalarDiv false 2 Prod.fst d a b la s
def execRem (d : Reg) (a b : Src) (la : BitVec 4) (s : State) : Result :=
  scalarDiv true 3 Prod.snd d a b la s
def execRemu (d : Reg) (a b : Src) (la : BitVec 4) (s : State) : Result :=
  scalarDiv false 4 Prod.snd d a b la s

/-! ### Major 0x04 and ADDIX (09 R123) -/

def execAddx (d : Reg) (a b : Src) (s : State) : Result := pairRR (· + ·) d a b s
def execSubx (d : Reg) (a b : Src) (s : State) : Result := pairRR (· - ·) d a b s
def execShlix (d : Reg) (a : Src) (n : BitVec 6) (s : State) : Result :=
  pairR (fun x => x <<< n.toNat) d a s
def execShrix (d : Reg) (a : Src) (n : BitVec 6) (s : State) : Result :=
  pairR (fun x => x >>> n.toNat) d a s
def execSltux (d : Reg) (a b : Src) (s : State) : Result :=
  runRegs (fun _ => { srcs := [Src.usePair a, Src.usePair b], dsts := [.s d] })
    (fun t => .ok (t.setS d (boolWord ((t.pair a.reg).toNat < (t.pair b.reg).toNat))).advance) s
def execAddix (d : Reg) (a : Src) (i : BitVec 12) (s : State) : Result :=
  pairR (fun x => x + i.signExtend 64) d a s

/-! ### Immediate forms (09 R122) -/

def execAddi (d : Reg) (a : Src) (i : BitVec 12) (s : State) : Result :=
  scalarR (fun x => x + i.signExtend 32) d a s
def execAndi (d : Reg) (a : Src) (i : BitVec 12) (s : State) : Result :=
  scalarR (fun x => x &&& i.setWidth 32) d a s
def execOri (d : Reg) (a : Src) (i : BitVec 12) (s : State) : Result :=
  scalarR (fun x => x ||| i.setWidth 32) d a s
def execXori (d : Reg) (a : Src) (i : BitVec 12) (s : State) : Result :=
  scalarR (fun x => x ^^^ i.setWidth 32) d a s
def execShli (d : Reg) (a : Src) (n : BitVec 5) (s : State) : Result :=
  scalarR (fun x => x <<< n.toNat) d a s
def execShri (d : Reg) (a : Src) (n : BitVec 5) (s : State) : Result :=
  scalarR (fun x => x >>> n.toNat) d a s
def execSrai (d : Reg) (a : Src) (n : BitVec 5) (s : State) : Result :=
  scalarR (fun x => x.sshiftRight n.toNat) d a s
def execSlti (d : Reg) (a : Src) (i : BitVec 12) (s : State) : Result :=
  scalarR (fun x => boolWord (x.toInt < i.toInt)) d a s
def execSltiu (d : Reg) (a : Src) (i : BitVec 12) (s : State) : Result :=
  scalarR (fun x => boolWord (x.toNat < (i.signExtend 32).toNat)) d a s
def execLui (d : Reg) (i : BitVec 20) (s : State) : Result :=
  runRegs (fun _ => { dsts := [.s d] }) (fun t => .ok (t.setS d (i.setWidth 32 <<< 12)).advance) s
/-- ADDPC: the pair named by d := PC + k × 2^12. -/
def execAddpc (d : Reg) (i : BitVec 20) (s : State) : Result :=
  runRegs (fun _ => { dsts := [.pair d] })
    (fun t => .ok (t.setPair d (t.pc + i.signExtend 64 <<< 12)).advance) s

end Sys2Proof.Machine
end

