-- ==== Sys2Proof/Machine/Planes.lean ====
section
/-!
DEFINITION. Digit planes, plane blocks and shape records (17 R245 to R247, 13 R206).
-/
namespace Sys2Proof.Machine

/-! ### Planing (17 R245) -/

/-- P(F), the full plane count. -/
def planeCount (F : Nat) : Nat :=
  if isSd F then (if F = 0x1D then 8 else 16)
  else if F = 2 || F = 3 then 1
  else if isPlainInt F then fieldWidth F
  else match fpFmt F with
    | some f => f.p
    | none => 1

/-- A planed element: class (0 finite, 1 infinite, 2 NaN), exponent, digits d(1) on, and whether the source
had an invalid digit. -/
structure Planed where
  cls : Nat
  exp : Int
  digits : List Int
  bad : Bool
deriving DecidableEq, Repr

/-- Bit `n` of a number, as a digit. -/
def bitDigit (x n : Nat) : Int := (x / 2 ^ n % 2 : Nat)

/-- Planing of a floating-point encoding. -/
def planFp (f : Fmt) (x : Nat) : Planed :=
  let M := x % 2 ^ f.m
  let E := fld f.m f.e x
  let sign : Int := if f.s = 1 && x / 2 ^ (f.m + f.e) % 2 = 1 then -1 else 1
  let tail := (List.range f.m).map fun i => sign * bitDigit M (f.m - 1 - i)
  match f.decode x with
  | .nan _ => ⟨2, 0, List.replicate f.p 0, false⟩
  | .inf _ => ⟨1, 0, sign :: List.replicate f.m 0, false⟩
  | .fin _ _ _ => if E = 0 then ⟨0, f.emin, 0 :: tail, false⟩ else ⟨0, (E : Int) - f.bias, sign :: tail, false⟩

/-- Planing of an element of format F, given as its field (17 R245). -/
def plan (F x : Nat) : Planed :=
  if isSd F then
    let n := planeCount F
    let d (i : Nat) : Int := (digitAt (x / 4 ^ i % 4)).getD 0
    ⟨0, (n : Int) - 1, (List.range n).map fun j => d (n - 1 - j), (sdValue n x).2⟩
  else if F = 2 || F = 3 then
    let v := intValue F x
    ⟨0, 0, [v.1], v.2⟩
  else if isPlainInt F then
    let w := fieldWidth F
    let d (j : Nat) : Int := bitDigit x (w - 1 - j)
    ⟨0, (w : Int) - 1, (List.range w).map fun j => if j = 0 && isSignedInt F then -d 0 else d j, false⟩
  else match fpFmt F with
    | some f => planFp f (if F = 0x16 then x / 2 ^ 13 else x)
    | none => if x % 256 = 255 then ⟨2, 0, [0], false⟩ else ⟨0, (x % 256 : Nat) - 127, [1], false⟩
where
  /-- An encoded signed digit (05 R62). -/
  digitAt : Nat → Option Int
    | 0 => some 0
    | 1 => some 1
    | 3 => some (-1)
    | _ => none

/-- The value of the digits d(1) to d(P′) with exponent `e` (17 R246). -/
def digitsValue (e : Int) (ds : List Int) : FVal :=
  let v := ds.foldl (fun a d => 2 * a + d) 0
  .fin (v < 0) v.natAbs (e - ds.length + 1)

/-! ### Blocks (17 R247) -/

/-- Whether blocks of format F hold descriptors: the floating-point formats and SE8. -/
def hasDescriptor (F : Nat) : Bool := (fpFmt F).isSome || F == 0x1C

/-- D, the offset of plane 1 in a block. -/
def planeBase (F : Nat) : Nat := if hasDescriptor F then 2048 else 0

/-- BS(F), the size of a block. -/
def blockSize (F : Nat) : Nat := planeBase F + 256 * planeCount F

/-- The size of an A tile of `m` rows and `k` columns. -/
def planeTileSize (F m k : Nat) : Nat := (m + 63) / 64 * ((k + 15) / 16) * blockSize F

/-- The byte of plane `j` (from 1) that holds position `q`, in the P mask, or the N mask. -/
def maskByte (F j q : Nat) (neg : Bool) : Nat := planeBase F + 256 * (j - 1) + neg.toNat * 128 + q / 8

/-- The digit of plane `j` at position `q` of the block at `base`, and whether P and N are both set. -/
def Memory.digitAt (m : Memory) (base F j q : Nat) : Int × Bool :=
  let p := bit (q % 8) (m.byte (base + maskByte F j q false)).toNat
  let n := bit (q % 8) (m.byte (base + maskByte F j q true)).toNat
  (if p && n then 0 else if p then 1 else if n then -1 else 0, p && n)

/-- The constant exponent of a format without descriptors (17 R245). -/
def constExp (F : Nat) : Int := if isSd F || isPlainInt F then (planeCount F : Int) - 1 else 0

/-- EXP of a descriptor, two's complement in 12 bits. -/
def descExp (d : Nat) : Int := if 2 ^ 11 ≤ d % 2 ^ 12 then ((d % 2 ^ 12 : Nat) : Int) - 2 ^ 12 else (d % 2 ^ 12 : Nat)

/-- Position `q` of a block as the array reads it, truncated to `p` planes, and whether reading it raises NV
(17 R246, R247). -/
def Memory.readPosition (m : Memory) (base F p q : Nat) : FVal × Bool :=
  let ds := (List.range p).map fun j => m.digitAt base F (j + 1) q
  let d := if hasDescriptor F then m.nat (base + 2 * q) 2 else 0
  let e := if hasDescriptor F then descExp d else constExp F
  match fld 12 2 d with
  | 0 => (digitsValue e (ds.map (·.1)), ds.any (·.2))
  | 1 =>
    match ds.headD (0, false) with
    | (1, b) => (.inf false, b)
    | (-1, b) => (.inf true, b)
    | (_, b) => (.nan false, b)
  | 2 => (.nan false, false)
  | _ => (.nan false, true)

/-- Whether reading position `q` for `p` planes touches a poisoned word (17 R247, 21 R316). -/
def Memory.positionBad (m : Memory) (base F p q : Nat) : Bool :=
  (hasDescriptor F && m.wordBad (base + 2 * q))
    || (List.range p).any fun j =>
      m.wordBad (base + maskByte F (j + 1) q false) || m.wordBad (base + maskByte F (j + 1) q true)

/-- The descriptor of a planed element. -/
def Planed.descriptor (x : Planed) : Nat := (x.exp % 2 ^ 12).toNat + x.cls * 2 ^ 12

/-- A mask byte with bit `n` set to `b`. -/
def withBit (n : Nat) (b : Bool) (x : Byte) : Byte :=
  if b then x ||| (1#8 <<< n) else x &&& ~~~(1#8 <<< n)

/-! ### Shape records (13 R206) -/

structure ShapeRec where
  addr : Addr
  pitch : Nat
  fmt : Nat
  layout : Nat
  rsv : Bool
  rows : Nat
  cols : Nat
deriving DecidableEq, Repr

/-- The fields of a record's 16 bytes. -/
def ShapeRec.ofNat (x : Nat) : ShapeRec where
  addr := .ofNat 64 x
  pitch := fld 64 24 x
  fmt := fld 88 5 x
  layout := fld 93 2 x
  rsv := bit 95 x
  rows := fld 96 16 x
  cols := fld 112 16 x

/-- The multiple that the column count of a format narrower than 8 bits must be of. -/
def colMultiple (F : Nat) : Nat :=
  match fieldWidth F with
  | 6 => 5
  | 1 => 8
  | 2 => 4
  | 4 => 2
  | _ => 1

/-- RB, the bytes of a row in LAYOUT 0. -/
def rowBytes (F cols : Nat) : Nat :=
  if fieldWidth F = 6 then cols / 5 * 4 else cols * fieldWidth F / 8

/-- A malformed record. -/
def ShapeRec.malformed (r : ShapeRec) : Bool :=
  r.rows == 0 || r.cols == 0 || 2 ≤ r.layout || r.rsv
    || (r.layout == 0 && r.cols % colMultiple r.fmt != 0)

/-- Where element `j` of a LAYOUT 0 row lies: its byte offset and its bit within that byte. -/
def elemPlace (F j : Nat) : Nat × Nat :=
  if fieldWidth F = 6 then (4 * (j / 5), 6 * (j % 5)) else (fieldWidth F * j / 8, fieldWidth F * j % 8)

/-- Element `j` of a row of format F at `base`, as its field. -/
def Memory.rowElem (m : Memory) (base F j : Nat) : Nat :=
  let (o, b) := elemPlace F j
  fld b (fieldWidth F) (m.nat (base + o) (if fieldWidth F = 6 then 4 else (fieldWidth F + 7) / 8))

/-- The bytes that hold any part of element `j` of a row: the offset of the first, and how many. -/
def elemBytes (F j : Nat) : Nat × Nat :=
  let (o, b) := elemPlace F j
  (o + b / 8, (b % 8 + fieldWidth F + 7) / 8)

/-- Whether a word that holds any part of element `j` is poisoned. -/
def Memory.rowElemBad (m : Memory) (base F j : Nat) : Bool :=
  m.anyBad (base + (elemBytes F j).1) (elemBytes F j).2

end Sys2Proof.Machine
end

