-- ==== Sys2Proof/Machine/Steps.lean ====
section
/-!
DEFINITION. K-group steps of the matrix array (17 R249 to R251, R253, R258 to R260, R266, R267; 21 R316).
-/
namespace Sys2Proof.Machine

/-! ### Format words (17 R249, R251) -/

def wordA (w : Word) : Nat := fld 0 5 w.toNat
def wordB (w : Word) : Nat := fld 5 5 w.toNat
def wordC (w : Word) : Nat := fld 10 5 w.toNat
def wordRnd (w : Word) : Nat := fld 20 3 w.toNat
def wordSat (w : Word) : Bool := w.getLsbD 23

/-- The effective plane count P′. -/
def wordPlanes (w : Word) : Nat := if fld 15 5 w.toNat = 0 then planeCount (wordA w) else fld 15 5 w.toNat

/-- Legality for MTILE and MMA. -/
def wordLegal (nvr : Nat) (w : Word) : Bool :=
  let ints := isIntClass (wordA w) && isIntClass (wordB w)
  let c := wordC w
  fld 24 8 w.toNat == 0
    && (if ints then c == 0x0A || c == 0x0B else c == 0x14 || c == 0x15 || c == 0x17 || c == 0x18)
    && fld 15 5 w.toNat ≤ planeCount (wordA w) && rndOk nvr (wordRnd w)

/-! ### Accumulator elements (17 R253) -/

/-- w, the rows that a C row takes. -/
def accRows (C : Nat) : Nat := if C = 0x18 then 2 else 1

/-- The keys of the cells of element (i, j) of a C tile whose first row is `row0`. -/
def accKeys (ctx core C row0 i j : Nat) : List Nat :=
  if C = 0x18 then
    let row := row0 + 2 * i + j / 32
    [cellKey ctx core row (2 * (j % 32)), cellKey ctx core row (2 * (j % 32) + 1)]
  else [cellKey ctx core (row0 + i) j]

/-- An accumulator element: its bits and its poison. -/
def Memory.accRead (m : Memory) (C : Nat) (ks : List Nat) : Nat × Bool :=
  let v := ks.foldr (fun k acc => (m.cell k).val.toNat + 2 ^ 32 * acc) 0
  (if C = 0x14 || C = 0x15 then v % 2 ^ 16 else v, ks.any fun k => (m.cell k).poison)

/-- Unused bits are written zero. -/
def Memory.accWrite (m : Memory) (bits : Nat) (bad : Bool) : List Nat → Memory
  | [] => m
  | k :: ks => (m.setCell k ⟨.ofNat 32 bits, bad⟩).accWrite (bits / 2 ^ 32) bad ks

/-! ### One step (17 R258) -/

/-- KG, the columns of a K-group. -/
def groupSize (nvr : Nat) : Nat := if nvr = 1 then 8 else 16

/-- The number of groups of a band, and of steps. -/
def MatrixOp.groups (o : MatrixOp) : Nat := (o.k + groupSize o.nvr - 1) / groupSize o.nvr
def MatrixOp.total (o : MatrixOp) : Nat := (o.m + 63) / 64 * o.groups

def MatrixOp.row0 (o : MatrixOp) : Nat := fld 0 8 o.control.toNat
def MatrixOp.zero (o : MatrixOp) : Bool := o.control.getLsbD 8

/-- An element of B as the array reads it: its value, and whether reading it raises NV (17 R258). -/
def readB (F x : Nat) : FVal × Bool :=
  match readElem F x with
  | (.int v, f) => (.fin (v < 0) v.natAbs 0, f != 0)
  | (.fp v, _) => (v, v.isSNan)

/-- The exact sum s of a K-group: NaN as R258 says, with NV when a product is 0 × infinity or infinities of
opposite sign occur. -/
def groupSum (terms : List (FVal × FVal)) : FVal × Bool :=
  let ps := terms.map fun x => x.1.mul x.2
  let invalid := ps.contains none
  let vs := ps.filterMap id
  let pos := vs.contains (.inf false)
  let neg := vs.contains (.inf true)
  if invalid || (pos && neg) then (.nan false, true)
  else if vs.any FVal.isNan then (.nan false, false)
  else if pos then (.inf false, false)
  else if neg then (.inf true, false)
  else
    let t := sumFinite vs
    (.fin (t.1 < 0) t.1.natAbs t.2, false)

/-- The integer that a finite value with a non-negative exponent holds. -/
def FVal.toInt : FVal → Int
  | .fin neg n e => signed neg (n * 2 ^ e.toNat)
  | .inf _ => 0
  | .nan _ => 0

/-- Accum(x, s), with the flags of the element (17 R258). -/
def accumulate (C rnd : Nat) (sat : Bool) (old : Nat) (s : FVal × Bool) : Out :=
  match fpFmt C with
  | none => ⟨fit C sat ((intValue C old).1 + s.1.toInt), 0⟩
  | some f =>
    let o := f.sumRound rnd sat [f.decode old, s.1]
    ⟨o.bits, o.flags ||| if s.2 then fNV else 0⟩

/-- A row of A elements, or a column of B elements, in a K-group: values, whether NV is raised, whether a word
read is poisoned. -/
structure Strip where
  vals : List FVal
  nv : Bool
  bad : Bool
deriving DecidableEq, Repr

def Strip.ofList (l : List ((FVal × Bool) × Bool)) : Strip :=
  ⟨l.map (·.1.1), l.any (·.1.2), l.any (·.2)⟩

/-- Row `i` of A over the columns `ks`. -/
def MatrixOp.stripA (o : MatrixOp) (m : Memory) (i : Nat) (ks : List Nat) : Strip :=
  let F := wordA o.fmt
  let p := wordPlanes o.fmt
  .ofList (ks.map fun k =>
    let base := o.aBase + (i / 64 * ((o.k + 15) / 16) + k / 16) * blockSize F
    let q := 16 * (i % 64) + k % 16
    (m.readPosition base F p q, m.positionBad base F p q))

/-- Column `j` of B over the rows `ks`. -/
def MatrixOp.stripB (o : MatrixOp) (m : Memory) (j : Nat) (ks : List Nat) : Strip :=
  let F := wordB o.fmt
  .ofList (ks.map fun k =>
    (readB F (m.rowElem (o.bBase + k * o.bPitch) F j), m.rowElemBad (o.bBase + k * o.bPitch) F j))

/-- Under ZERO every written element becomes zero before the first iteration (17 R258): as its first step begins, on an
array that has not failed (DEDUCED, log entry 12). -/
def MatrixOp.clear (o : MatrixOp) (ctx core : Nat) (m : Memory) : Memory :=
  if o.zero && o.step == 0 then
    ((List.range o.m).flatMap fun i => (List.range o.n).map fun j => accKeys ctx core (wordC o.fmt) o.row0 i j).foldl
      (fun m k => m.accWrite 0 false k) m
  else m

/-- A K-group step of the instruction as memory now stands: memory after it, and the flags it gathers. -/
def MatrixOp.group (o : MatrixOp) (ctx core : Nat) (m : Memory) : Memory × Nat :=
  let b := o.step / o.groups
  let g := o.step % o.groups
  let kg := groupSize o.nvr
  let C := wordC o.fmt
  let ks := (List.range (min kg (o.k - kg * g))).map (kg * g + ·)
  let is := (List.range (min 64 (o.m - 64 * b))).map (64 * b + ·)
  let bs := (List.range o.n).map fun j => o.stripB m j ks
  let nvB := if bs.any (·.nv) then fNV else 0
  is.foldl (fun (acc : Memory × Nat) i =>
      let a := o.stripA m i ks
      (bs.zipIdx).foldl (fun (acc : Memory × Nat) bj =>
          let keys := accKeys ctx core C o.row0 i bj.2
          let old := m.accRead C keys
          let r := accumulate C (wordRnd o.fmt) (wordSat o.fmt) old.1 (groupSum (a.vals.zip bj.1.vals))
          (acc.1.accWrite r.bits (old.2 || a.bad || bj.1.bad) keys, acc.2 ||| r.flags))
        (acc.1, acc.2 ||| if a.nv then fNV else 0))
    (m, nvB)

/-! ### The sequencer (17 R259, R260, R266, R267) -/

/-- Both array halves of the core are marked failed. -/
def State.arrayFailed (s : State) (core : Nat) : Bool :=
  s.cores.failedA.getLsbD core && s.cores.failedB.getLsbD core

def setCore (b : BitVec 512) (c : Nat) (v : Bool) : BitVec 512 :=
  if v then b ||| (1#512 <<< c) else b &&& ~~~(1#512 <<< c)

/-- A copy is no longer in flight. -/
def State.endCopy (s : State) (copy : Nat) : State :=
  { s with flight := { s.flight with copies := s.flight.copies.filter fun c => c.id != copy } }

/-- The first pending matrix instruction leaves the sequencer; a follow-on counts as completed for its batch. -/
def State.dropMatrix (s : State) (team : Nat) (o : MatrixOp) : State :=
  let s1 := s.modTeam team fun t => { t with matrix := t.matrix.tail }
  match o.followOn with
  | none => s1
  | some c => s1.endCopy c

/-- ARRAY_FAULT of a matrix instruction: at the team's next boundary, or kept for the waits of 13 R211. -/
def State.arrayFault (s : State) (t : Team) (o : MatrixOp) (cause : Nat) : State :=
  let x : Trap := ⟨.arrayFault, .ofNat 64 t.core, cause, none, some o.pc⟩
  s.modTeam t.id fun t =>
    match o.followOn with
    | none => { t with traps := t.traps ++ [x] }
    | some c => { t with followFaults := t.followFaults ++ [([c], x)] }

/-- A step that takes effect. -/
def State.stepPasses (s : State) (t : Team) (o : MatrixOp) : State :=
  let r := o.group t.ctx t.core s.mem
  let o1 := { o with step := o.step + 1, flags := o.flags ||| .ofNat 32 r.2 }
  let s1 := { s with mem := r.1 }
  if o1.step < o1.total then s1.modTeam t.id fun t => { t with matrix := o1 :: t.matrix.tail }
  else (s1.dropMatrix t.id o1).modTeam t.id fun t => t.raiseLate o1.flags

/-- The rerun counts of the team and its node (17 R266). -/
def State.countRerun (s : State) (t : Team) : State :=
  (s.modTeam t.id fun t => { t with reruns := if t.reruns.toNat = 0xFFFF then t.reruns else t.reruns + 1 }).modNode
    t.node fun n => { n with reruns := if n.reruns.toNat = 0xFFFFFFFF then n.reruns else n.reruns + 1 }

/-- A core goes on at half width (01 R22): the nodes with a team on it have used a half-width core (19 R289). -/
def State.narrow (s : State) (core : Nat) (onB : Bool) : State :=
  { s with
    cores := { s.cores with half := setCore s.cores.half core true, hsel := setCore s.cores.hsel core onB }
    nodes := s.nodes.map fun n =>
      if s.teams.any fun t => t.node == n.id && t.core == core then { n with halfWidth := true } else n }

/-- A second mismatch (17 R266, R267): a half fails, and the instruction's steps stay pending, or the whole array of a
core at half width. -/
def State.lastingFault (s : State) (t : Team) (o : MatrixOp) (halfB : Bool) : State :=
  let c := s.cores
  if c.half.getLsbD t.core then
    (({ s with cores := { c with
          failedA := setCore c.failedA t.core true, failedB := setCore c.failedB t.core true } }).dropMatrix
      t.id o).arrayFault t o 1
  else
    let s1 := s.narrow t.core (!halfB)
    (({ s1 with cores := { s1.cores with
        failedA := if halfB then c.failedA else setCore c.failedA t.core true
        failedB := if halfB then setCore c.failedB t.core true else c.failedB } }).modTeam t.id fun t =>
      { t with matrix := { o with faulted := true } :: t.matrix.tail }).arrayFault t o 0

/-- The instruction whose fault a trap reports: of follow-ons, one that the given copies carried (17 R267, 13 R211). -/
def MatrixOp.blamed (o : MatrixOp) (copies : Option (List Nat)) (x : Trap) : Bool :=
  o.faulted && match copies, o.followOn with
    | none, none => some o.pc == x.pcw
    | some cs, some c => cs.contains c
    | none, some _ | some _, none => false

/-- A team that ends through ARRAY_FAULT leaves that instruction's steps not yet performed undone (17 R267). -/
def State.discardRest (s : State) (team : Nat) (copies : Option (List Nat)) (x : Trap) : State :=
  match s.team? team with
  | none => s
  | some t =>
    if t.cond = .exiting ∧ x.code = .arrayFault then
      let gone := t.matrix.filter fun o => o.blamed copies x
      (gone.filterMap (·.followOn)).foldl State.endCopy
        (s.modTeam team fun t => { t with matrix := t.matrix.filter fun o => !o.blamed copies x })
    else s

/-- The next K-group step of the team's first pending matrix instruction. -/
def State.matrixStep (s0 : State) (t : Team) (o : MatrixOp) (check : StepCheck) : State :=
  if s0.arrayFailed t.core then (s0.dropMatrix t.id o).arrayFault t o 1
  else
    let s := { s0 with mem := o.clear t.ctx t.core s0.mem }
    match check with
    | .passes => s.stepPasses t o
    | .rerun => (s.countRerun t).stepPasses t o
    | .lasting halfB => (s.countRerun t).lastingFault t o halfB

end Sys2Proof.Machine
end

