-- ==== Sys2Proof/Machine/Access.lean ====
section
/-!
DEFINITION. Accesses to memory (13 R180, R181, R190, R194; 15 R217 to R229): the checks of an access, its
order, how it performs, and what its team's earlier accesses ask of it.
-/
namespace Sys2Proof.Machine

/-! ### The checks of an access (13 R181) -/

/-- One access: alignment, the stack limit, translation and permission, in this order. -/
def accessPlace (s : State) (t : Team) (f : AForm) (size : Nat) (align : Nat) (i : Intent) :
    Except Stop Place :=
  let va := f.va t
  if va.toNat % align ≠ 0 then raiseAt .misaligned va
  else
    let limit : Option Nat := match f with
      | .absolute _ => none
      | .stack off => if stackOk t off size then none else some off
    match limit with
    | some off => raiseAt .stackLimit (.ofNat 64 off)
    | none => checkPlace s t va i

/-- A stop of lane `l`. -/
def Stop.inLane (l : Nat) : Stop → Stop
  | .trap x => .trap { x with lane := some l }
  | .stall => .stall
  | .seen ps e => .seen ps (e.inLane l)

/-- The same check for a lane. -/
def lanePlace (s : State) (t : Team) (f : AForm) (size : Nat) (i : Intent) (l : Nat) :
    Except Stop Place :=
  match accessPlace s t f size size i with
  | .ok p => .ok p
  | .error e => .error (e.inLane l)

/-! ### Values (13 R190) -/

/-- The element type of an atomic: its width, and how MODE.TYPE read it (13 R189). -/
def atomType (size : Nat) (fp isSigned : Bool) : Nat :=
  if fp then (if size = 8 then 0x18 else 0x17) else if isSigned then 0x0A else 0x0B

/-- The value an atomic writes (13 R190). -/
def atomNew (op : AtomOp) (T rnd : Nat) (sat : Bool) (old v : Nat) : Nat :=
  let f := typeFmt T
  match op with
  | .add =>
    if setF T then (addOut f rnd (f.decode old) (f.decode v)).bits
    else fit T sat ((intValue T old).1 + (intValue T v).1)
  | .min =>
    if setF T then (pickOut false true T rnd sat [old, v]).bits
    else fit T false (min (intValue T old).1 (intValue T v).1)
  | .max =>
    if setF T then (pickOut true true T rnd sat [old, v]).bits
    else fit T false (max (intValue T old).1 (intValue T v).1)
  | .and => old &&& v
  | .or => old ||| v
  | .xor => old ^^^ v
  | .swap => v

/-! ### Untracked copies of lines homed in another tower (15 R229) -/

/-- Whether a weak read from a tower may be served from a copy: device memory homed elsewhere. -/
def Place.copyable (p : Place) (tower : Nat) : Bool :=
  match p.region with
  | .device h => h != tower && p.kind != .so
  | .hostCoherent | .hostLink | .peer | .vault _ | .localStore | .aperture => false

/-- The poison of the words an access reads, low word and high word. -/
def State.badOf (s : State) (p : Place) (size : Nat) : Bool × Bool :=
  (s.mem.wordBad p.loc, size = 8 && s.mem.wordBad (p.loc + 4))

/-- The same of the words of a copied line. -/
def LineCopy.badOf (c : LineCopy) (loc size : Nat) : Bool × Bool :=
  let i := loc % 128 / 4
  (c.poison.getD i false, size = 8 && c.poison.getD (i + 1) false)

/-- What a read brings: the bytes, and the poison of its low and its high word (21 R314). -/
structure ReadBytes where
  bytes : List Byte
  bad : Bool × Bool
deriving DecidableEq, Repr

/-- A read of `n` bytes that a place's home serves. -/
def State.homeRead (s : State) (p : Place) (n : Nat) : ReadBytes := ⟨s.readPlace p n, s.badOf p n⟩

/-- A weak read of `n` bytes.  With `keep`, the tower's copy of the line serves it, its poison with it, and is made if
there is none; without, the home serves it. -/
def State.weakRead (s : State) (tower : Nat) (keep : Bool) (p : Place) (n : Nat) : ReadBytes × State :=
  if p.copyable tower then
    let line := p.loc / 128
    let held := s.flight.lines.find? fun c => c.tower == tower && c.line == line
    if keep then
      match held with
      | some c => (⟨(c.bytes.drop (p.loc % 128)).take n, c.badOf p.loc n⟩, s)
      | none =>
        (s.homeRead p n, { s with flight := { s.flight with lines := s.flight.lines ++ [s.mem.lineCopy tower line] } })
    else (s.homeRead p n, s.servedAtHome tower [p])
  else (s.homeRead p n, s)

/-! ### Registers that an access writes -/

/-- A loaded value in its destination (13 R182, R184), each word with its poison. -/
def Team.putLoad (t : Team) (d : LoadDst) (v : Nat) (bad bad1 : Bool) : Team :=
  match d with
  | .scalar r wide sign =>
    if wide then (t.setSP r (.ofNat 32 v) bad).setSP (r + 1#6) (.ofNat 32 (v / 2 ^ 32)) bad1
    else t.setSP r (if sign = 0 then .ofNat 32 v else signExtendLow sign (.ofNat 32 v)) bad
  | .lane r wide l =>
    if wide then (t.setLane r l (.ofNat 32 v) bad).setLane (r + 1#6) l (.ofNat 32 (v / 2 ^ 32)) bad1
    else t.setLane r l (.ofNat 32 v) bad

/-! ### Performing -/

/-- What a performed access still owes: the reply of a returning atomic (13 R193, R194). -/
structure Performed where
  state : State
  reply : Option AccessKind
deriving DecidableEq, Repr

def Performed.done (s : State) : Performed := ⟨s, none⟩

/-- Whether an atomic at a place is a read of the teller's and then a write: over a link without native atomics (13 R195,
15 R243, 25 R346). -/
def State.splitAtomic (s : State) (p : Place) : Bool :=
  match p.region with
  | .hostLink | .peer => !s.dev.flash.nativeAtomics
  | .device _ | .hostCoherent | .vault _ | .localStore | .aperture => false

/-- What a strong read or read-modify-write of a team of tower `tower` does to the copies of lines, poison or not: its
acquire drops those that 15 R229 names, and the home serves it (15 R223). -/
def State.strongRead (s : State) (tower : Nat) (a : Access) : State :=
  (s.acquireAt tower a.acquire).servedAtHome tower [a.place]

/-- An atomic that has read `old` writes `bs`: at once, or as a write still to come of its teller. -/
def State.atomicWrite (s : State) (tower : Nat) (a : Access) (old : Nat) (bs : List Byte) (dst : Option LoadDst) :
    Performed :=
  let s1 := s.strongRead tower a
  if s.splitAtomic a.place then ⟨s1, some (.update (.ofNat 64 old) bs dst)⟩
  else ⟨s1.teamWrite tower a.place bs, dst.map fun d => .reply (.ofNat 64 old) false d⟩

/-- A strong read or read-modify-write that finds poison (21 R314): it writes nothing to the word, a
returning destination receives poison, the team receives POISON, whose ADDR is that of its first poisoned 4-byte word
(DESIGN CHOICE, log entry 127). -/
def State.readPoison (s : State) (tower : Nat) (a : Access) (old : Nat) : State :=
  let va := if s.mem.wordBad a.place.loc then a.va else a.va + 4#64
  (s.strongRead tower a).modTeam a.team fun t =>
    let t1 := match a.kind.dst? with
      | none => t
      | some d => t.putLoad d old true true
    t1.pend (poisonPend a.pc va)

/-- An access whose far end cannot be reached performs nothing (25 R347, 13 R194). -/
def State.unreachable (s : State) (a : Access) : State :=
  s.modTeam a.team fun t =>
    let t1 := match a.kind.dst? with
      | none => t
      | some d => t.putLoad d 0 true true
    t1.pend (acquireFailed a.pc a.va)

/-- Every access but the second half of its teller's own work, and the reply after it, goes to the teller: a teller that has
read there writes first (13 R193, R195; 25 R346). -/
def AccessKind.asksTeller : AccessKind → Bool
  | .update .. | .reply .. => false
  | .load _ | .strongLoad _ | .store _ | .strongStore _ | .atomic .. | .cas .. => true

/-- An access performs for a team of tower `tower` (15 R227).  A plain load moves poison and raises nothing on an SO page
too, where its access is strong (DESIGN CHOICE, log entry 126). -/
def State.performAccess (s0 : State) (tower : Nat) (keep : Bool) (a : Access) : Performed :=
  if !s0.reachable a.place then .done (s0.unreachable a)
  else
    let s := if a.kind.asksTeller && s0.splitAtomic a.place then s0.settle a.place.loc a.size else s0
    let bad := s.badOf a.place a.size
    let old := leNat (s.readPlace a.place a.size)
    match a.kind with
    | .load d =>
      let r := s.weakRead tower keep a.place a.size
      .done ((r.2.acquireAt tower a.acquire).modTeam a.team fun t =>
        t.putLoad d (leNat r.1.bytes) r.1.bad.1 r.1.bad.2)
    | .store bs => .done (s.teamWrite tower a.place bs)
    | .strongLoad d =>
      if bad.1 || bad.2 then .done (s.readPoison tower a old)
      else
        .done ((s.strongRead tower a).modTeam a.team fun t => t.putLoad d old false false)
    | .strongStore bs => .done (s.teamWrite tower a.place bs)
    | .atomic op fp isSigned rnd sat v dst =>
      if bad.1 || bad.2 then .done (s.readPoison tower a old)
      else
        s.atomicWrite tower a old (leBytes a.size (atomNew op (atomType a.size fp isSigned) rnd sat old v.toNat)) dst
    | .cas expected new d =>
      if bad.1 || bad.2 then .done (s.readPoison tower a old)
      else
        s.atomicWrite tower a old
          (leBytes a.size (if old = expected.toNat % 2 ^ (8 * a.size) then new.toNat else old)) (some d)
    | .update old bs dst => ⟨s.writeLoc a.place.loc bs, dst.map fun d => .reply old false d⟩
    | .reply old bad d => .done (s.modTeam a.team fun t => t.putLoad d old.toNat bad bad)

/-- The tower of a team. -/
def State.towerFor (s : State) (team : Nat) : Nat :=
  match s.team? team with
  | none => 0
  | some t => towerOf t.core

/-- What an access still owes performs. -/
def Performed.rest (r : Performed) (keep : Bool) (a : Access) : Performed :=
  match r.reply with
  | none => r
  | some k => r.state.performAccess 0 keep { a with kind := k }

/-- An access performs whole: its teller's write and its reply included. -/
def State.performWhole (s : State) (keep : Bool) (a : Access) : State :=
  (((s.performAccess (s.towerFor a.team) keep a).rest keep a).rest keep a).state

/-! ### Issue -/

/-- A new access goes in flight, after those that lo places before it: by location among the accesses of
its own instruction, by every row of 15 R224 among the earlier ones; the page that translates it is known by it (21
R309). -/
def State.enqueue (s : State) (earlier : List Access) (a : Access) : State :=
  let before := s.flight.accesses.filter fun b =>
    b.team == a.team && !b.kind.isReply && (if earlier.any (fun e => e.id == b.id) then b.before a else b.overlaps a)
  let page := (s.team? a.team).bind fun t => s.pageOf (s.ctxOf t) a.va
  let a' := { a with id := s.flight.nextId, after := before.map (·.id), page := page }
  { s with flight := { s.flight with accesses := s.flight.accesses ++ [a'], nextId := s.flight.nextId + 1 } }

/-- The accesses of one instruction are issued: in flight when the turn defers them, else performed at once,
the team then having none in flight (log entry 3). -/
def State.issue (s : State) (t : Team) (as : List Access) : State :=
  let s1 := s.touch t.ctx (as.map (·.place))
  if s.sched.defer then as.foldl (fun s a => s.enqueue (s1.flight.accesses) a) s1
  else as.foldl (fun s a => s.performWhole false a) s1

/-- An access of the team's current instruction. -/
def Team.access (t : Team) (f : AForm) (p : Place) (size : Nat) (k : AccessKind) (acq rel : Option Scope)
    (comm : Bool) : Access :=
  ⟨0, t.id, t.pc, f.va t, p, size, k, acq, rel, comm, [], none⟩

/-- How a watch sees an access. -/
def Access.touch (a : Access) (lane : Option Nat) : Touch :=
  let writes : Bool := match a.kind with
    | .store _ | .strongStore _ | .atomic .. | .cas .. | .update .. => true
    | .load _ | .strongLoad _ | .reply .. => false
  ⟨a.va, a.size, writes, lane⟩

/-- The touches of an access: an atomic reads and writes its word. -/
def Access.touches (a : Access) (lane : Option Nat) : List Touch :=
  match a.kind with
  | .atomic .. => [⟨a.va, a.size, false, lane⟩, ⟨a.va, a.size, true, lane⟩]
  | .cas .. => [⟨a.va, a.size, false, lane⟩, ⟨a.va, a.size, true, lane⟩]
  | .store _ => [a.touch lane]
  | .strongStore _ => [a.touch lane]
  | .load _ => [a.touch lane]
  | .strongLoad _ => [a.touch lane]
  | .update .. | .reply .. => []

end Sys2Proof.Machine
end

