-- ==== Sys2Proof/Machine/LoadStore.lean ====
section
/-!
DEFINITION. Loads, stores and cache control: majors 0x38 and 0x39 (13 R179 to R186).
-/
namespace Sys2Proof.Machine

/-- The destinations of a memory instruction: what it loads and the base it steps (13 R182). -/
def memDsts (d : List Opnd) (m : MemArg) : List Opnd := d ++ if memSteps m then [baseOpnd m] else []

/-- The accesses of an instruction whose team becomes `t'`: the team's registers first, then the accesses. -/
def State.doAccesses (s : State) (t' : Team) (as : List Access) : State := (s.putTeam t').issue t' as

/-! ### Scalar (13 R182, R183) -/

/-- LD: `size` bytes into sd or the pair, sign-extended from `sign` bits if not 0. -/
def scalarLoad (size : Nat) (wide : Bool) (sign : Nat) (d : Reg) (m : MemArg) : State → Result :=
  runState (fun _ _ =>
      { srcs := memUses m, dsts := memDsts [if wide then .pair d else .s d] m, ordered := true })
    fun t s =>
      if emptyBuffer m t then raiseAt .illegalMode
      else
        let f := memAddress m t size
        match accessPlace s t f size size .read with
        | .error e => .error e
        | .ok p =>
          let a := t.access f p size (.load (.scalar d wide sign)) (p.order .rlx none) none false
          .ok (s.doAccesses (t.stepBase m size).advance [a], a.touches none)

/-- ST: the low `size` bytes of ss or of the pair. -/
def scalarStore (size : Nat) (wide : Bool) (r : Reg) (m : MemArg) : State → Result :=
  runState (fun _ _ =>
      { srcs := ⟨if wide then .pair r else .s r, false⟩ :: memUses m, dsts := memDsts [] m, ordered := true })
    fun t s =>
      if emptyBuffer m t then raiseAt .illegalMode
      else
        let f := memAddress m t size
        match accessPlace s t f size size .write with
        | .error e => .error e
        | .ok p =>
          let v := if wide then (t.pair r).toNat else (t.sval r).toNat
          let a := t.access f p size (.store (leBytes size v)) none (p.order .rlx none) false
          .ok (s.doAccesses (t.stepBase m size).advance [a], a.touches none)

def execLdU8 (d : Reg) (m : MemArg) (s : State) : Result := scalarLoad 1 false 0 d m s
def execLdS8 (d : Reg) (m : MemArg) (s : State) : Result := scalarLoad 1 false 8 d m s
def execLdU16 (d : Reg) (m : MemArg) (s : State) : Result := scalarLoad 2 false 0 d m s
def execLdS16 (d : Reg) (m : MemArg) (s : State) : Result := scalarLoad 2 false 16 d m s
def execLd (d : Reg) (m : MemArg) (s : State) : Result := scalarLoad 4 false 0 d m s
def execLdD (d : Reg) (m : MemArg) (s : State) : Result := scalarLoad 8 true 0 d m s
def execStB (r : Reg) (m : MemArg) (s : State) : Result := scalarStore 1 false r m s
def execStH (r : Reg) (m : MemArg) (s : State) : Result := scalarStore 2 false r m s
def execSt (r : Reg) (m : MemArg) (s : State) : Result := scalarStore 4 false r m s
def execStD (r : Reg) (m : MemArg) (s : State) : Result := scalarStore 8 true r m s

/-! ### Cache control (13 R186) -/

/-- A cache operation on the line that holds the address: `act` on the state and the line's place. -/
def cacheOp (align size : Nat) (i : Intent) (act : State → Team → Team → AForm → Place → State × List Touch)
    (m : MemArg) : State → Result :=
  runState (fun _ _ => { srcs := memUses m, dsts := memDsts [] m, ordered := true })
    fun t s =>
      if emptyBuffer m t then raiseAt .illegalMode
      else
        let f := memAddress m t 128
        match accessPlace s t f size align i with
        | .error e => .error e
        | .ok p => .ok (act s t (t.stepBase m 128).advance f p)

/-- PREF: no check and no effect but the step of the base, and the home that its translation names, if any. -/
def execPref (m : MemArg) (s : State) : Result :=
  runState (fun _ _ => { srcs := memUses m, dsts := memDsts [] m })
    (fun t s =>
      if emptyBuffer m t then raiseAt .illegalMode
      else
        .ok ((s.touch t.ctx (s.placesAt t [(memAddress m t 128).va t])).putTeam (t.stepBase m 128).advance, [])) s

/-- CWB: the line's writes reach its backing memory, which changes no value that any agent reads. -/
def execCwb (m : MemArg) (s : State) : Result :=
  cacheOp 1 1 .read (fun s t t' _ p => ((s.touch t.ctx [p]).putTeam t', [])) m s

/-- CINV: the executing tower's copies of the line go. -/
def execCinv (m : MemArg) (s : State) : Result :=
  cacheOp 1 1 .read
    (fun s t t' _ p =>
      (((s.touch t.ctx [p]).putTeam t').dropLines (towerOf t.core) [p], [])) m s

/-- DISCARD: a weak store of zero for each of the line's 32 words. -/
def execDiscard (m : MemArg) (s : State) : Result :=
  cacheOp 128 128 .write
    (fun s t t' f p =>
      let word (i : Nat) : Access :=
        let q : Place := { p with loc := p.loc + 4 * i }
        { t.access f q 4 (.store (leBytes 4 0)) none none false with va := f.va t + .ofNat 64 (4 * i) }
      let as := (List.range 32).map word
      (s.doAccesses t' as, as.flatMap fun a => a.touches none)) m s

/-! ### Vector (13 R184, R185) -/

/-- The size field of major 0x39. -/
def laneSize (z : BitVec 2) : Nat := 2 ^ z.toNat

/-- The vector register, or pair, that a lane loads or stores. -/
def laneOpnd (z : BitVec 2) (d : Reg) : Opnd := if z.toNat = 3 then .vpair d else .v d

/-- The data of a store, in lane `l`. -/
def Team.laneData (t : Team) (z : BitVec 2) (r : Reg) (l : Nat) : List Byte :=
  leBytes (laneSize z) (if z.toNat = 3 then (t.vpair r l).toNat else (t.vval r l).toNat)

/-- The accesses of the given lanes, each checked in turn; `mk` makes a lane's access. -/
def laneAccesses (s : State) (t : Team) (size : Nat) (i : Intent) (form : Nat → AForm)
    (mk : Nat → AForm → Place → Access) (lanes : List Nat) : Except Stop (List (Nat × Access)) :=
  match placesM (fun l => lanePlace s t (form l) size i l) lanes with
  | .error e => .error e
  | .ok ps => .ok ((lanes.zip ps).map fun x => (x.1, mk x.1 (form x.1) x.2))

/-- The common part of major 0x39: the lanes that access, and the access each makes. -/
def vectorMem (store : Bool) (d : Reg) (m : MemArg) (z : BitVec 2) (lanes : Team → List Nat)
    (form : Team → Nat → AForm) : State → Result :=
  runState (fun _ _ =>
      { srcs := (if store then [⟨laneOpnd z d, false⟩] else []) ++ memUses m,
        dsts := memDsts (if store then [] else [laneOpnd z d]) m, vector := true, always := memSteps m,
        ordered := true })
    fun t s =>
      if emptyBuffer m t then raiseAt .illegalMode
      else
        let size := laneSize z
        let mk (l : Nat) (f : AForm) (p : Place) : Access :=
          if store then t.access f p size (.store (t.laneData z d l)) none (p.order .rlx none) false
          else t.access f p size (.load (.lane d (z.toNat = 3) l)) (p.order .rlx none) none false
        match laneAccesses s t size (if store then .write else .read) (form t) mk (lanes t) with
        | .error e => .error e
        | .ok as =>
          .ok (s.doAccesses (t.stepBase m size).advance (as.map (·.2)),
            as.flatMap fun a => a.2.touches (some a.1))

def execVld (d : Reg) (m : MemArg) (z : BitVec 2) (s : State) : Result :=
  vectorMem false d m z (fun t => t.active) (fun t l => laneAddress m t (laneSize z) l) s
def execVst (r : Reg) (m : MemArg) (z : BitVec 2) (s : State) : Result :=
  vectorMem true r m z (fun t => t.active) (fun t l => laneAddress m t (laneSize z) l) s
/-- VLDS: every active lane loads from A. -/
def execVlds (d : Reg) (m : MemArg) (z : BitVec 2) (s : State) : Result :=
  vectorMem false d m z (fun t => t.active) (fun t _ => memAddress m t (laneSize z)) s
/-- VSTS: the highest-numbered active lane stores to A. -/
def execVsts (r : Reg) (m : MemArg) (z : BitVec 2) (s : State) : Result :=
  vectorMem true r m z (fun t => t.active.getLast?.toList) (fun t _ => memAddress m t (laneSize z)) s

end Sys2Proof.Machine
end

