-- ==== Sys2Proof/Machine/Atomics.lean ====
section
/-!
DEFINITION. Atomics and strong accesses: major 0x3A (13 R187 to R194).
-/
namespace Sys2Proof.Machine

/-- The access width that MODE.TYPE gives (13 R189). -/
def typeWidth (T : Nat) : Option Nat :=
  if T = 0x0A || T = 0x0B || T = 0x17 then some 4 else if T = 0x18 then some 8 else none

/-- The traps of checks 1 and 3: the alignment of `d`, where a type without a width takes the 4-byte column,
then the type and the .COMM conditions (13 R189, R192). -/
def atomTrap (t : Team) (d : Reg) (align4 align8 : Nat) (commAdd : Bool) : Option Trap :=
  let need := if typeWidth t.type = some 8 then align8 else align4
  if d.toNat % need ≠ 0 then some (.at .illegalOpcode 0 0)
  else if typeWidth t.type = none then some (.at .illegalMode 0 0)
  else if commAdd && (setF t.type || t.sat) then some (.at .illegalMode 0 0)
  else none

/-- .COMM with ADD (13 R192). -/
def commAdd (o : AtomOp) (r : MemOrd) : Bool := o == .add && r == .comm

/-- The width in bytes; 4 where the type gives none, which no access reaches. -/
def Team.width (t : Team) : Nat := (typeWidth t.type).getD 4

/-- The kind of an atomic, with what MODE gives it at issue (13 R190). -/
def Team.atomKind (t : Team) (o : AtomOp) (v : Addr) (dst : Option LoadDst) : AccessKind :=
  .atomic o (setF t.type) (t.type == 0x0A) t.rnd t.sat v dst

/-- What an instruction of the major does at an address. -/
inductive Strong where
  | atom (o : AtomOp) (returns : Bool)
  | cas
  | load
  | store
deriving DecidableEq, Repr

/-- What the access needs of its page (13 R181). -/
def Strong.intent : Strong → Intent
  | .load => .read
  | .atom _ _ | .cas | .store => .write

/-- Its acquire and release at a place (13 R191, 15 R218). -/
def Strong.orders (k : Strong) (r : MemOrd) (p : Place) : Option Scope × Option Scope :=
  match k with
  | .load => (p.order r (acqOf r), none)
  | .store => (none, p.order r (relOf r))
  | .atom _ _ | .cas => (p.order r (acqOf r), p.order r (relOf r))

/-! ### Scalar forms -/

/-- The operands of a scalar form under the width (13 R189): sources and destination. -/
def Strong.scalarOpnds (k : Strong) (w : Nat) (d : Reg) : List Opnd × List Opnd :=
  let one : Opnd := if w = 8 then .pair d else .s d
  match k with
  | .atom _ true => ([one], [one])
  | .atom _ false => ([one], [])
  | .cas => ([if w = 8 then .quad d else .pair d], [one])
  | .load => ([], [one])
  | .store => ([one], [])

/-- The value of a scalar operand of the width. -/
def Team.wideVal (t : Team) (w : Nat) (d : Reg) : Addr := if w = 8 then t.pair d else (t.sval d).setWidth 64

/-- The access of a scalar form. -/
def Strong.scalarKind (k : Strong) (t : Team) (d : Reg) : AccessKind :=
  let w := t.width
  let dst : LoadDst := .scalar d (w = 8) 0
  match k with
  | .atom o returns => t.atomKind o (t.wideVal w d) (if returns then some dst else none)
  | .cas => .cas (t.wideVal w (if w = 8 then d + 2#6 else d + 1#6)) (t.wideVal w d) dst
  | .load => .strongLoad dst
  | .store => .strongStore (leBytes w (t.wideVal w d).toNat)

/-- A scalar form: one access at Pair(base). -/
def strongScalar (k : Strong) (align4 align8 : Nat) (commAdd : Bool) (r : MemOrd) (d : Reg) (b : Src)
    (la : BitVec 4) : State → Result :=
  runState (fun t _ =>
      { srcs := ((k.scalarOpnds t.width d).1.map fun o => ⟨o, false⟩) ++ [⟨.pair b.reg, b.last⟩],
        dsts := (k.scalarOpnds t.width d).2, la := la.toNat, ordered := true, early := atomTrap t d align4 align8 commAdd })
    fun t s =>
      let f : AForm := .absolute (t.pair b.reg)
      match accessPlace s t f t.width t.width k.intent with
      | .error e => .error e
      | .ok p =>
        let o := k.orders r p
        let a := t.access f p t.width (k.scalarKind t d) o.1 o.2 (r == .comm)
        .ok (s.doAccesses t.advance [a], a.touches none)

/-! ### Vector forms -/

/-- Where the data of a vector form stands: the register of its operand, and of the expected value. -/
def vectorData (w : Nat) (d : Reg) : Reg := if w = 8 then d + 2#6 else d + 1#6
def vectorExpected (w : Nat) (d : Reg) : Reg := if w = 8 then d + 4#6 else d + 2#6

/-- The registers of the group, used or not (13 R189). -/
def Strong.group (k : Strong) (w : Nat) : Nat :=
  match k with
  | .cas => if w = 8 then 8 else 4
  | .atom _ _ | .load | .store => if w = 8 then 4 else 2

def Strong.vectorOpnds (k : Strong) (w : Nat) (d : Reg) : List Opnd × List Opnd :=
  let at_ (r : Reg) : Opnd := if w = 8 then .vpair r else .v r
  let data := at_ (vectorData w d)
  match k with
  | .atom _ true => ([.v d, data], [data])
  | .atom _ false => ([.v d, data], [])
  | .cas => ([.v d, data, at_ (vectorExpected w d)], [data])
  | .load => ([.v d], [data])
  | .store => ([.v d, data], [])

def Team.laneVal (t : Team) (w : Nat) (r : Reg) (l : Nat) : Addr :=
  if w = 8 then t.vpair r l else (t.vval r l).setWidth 64

def Strong.vectorKind (k : Strong) (t : Team) (d : Reg) (l : Nat) : AccessKind :=
  let w := t.width
  let v := t.laneVal w (vectorData w d) l
  let dst : LoadDst := .lane (vectorData w d) (w = 8) l
  match k with
  | .atom o returns => t.atomKind o v (if returns then some dst else none)
  | .cas => .cas (t.laneVal w (vectorExpected w d) l) v dst
  | .load => .strongLoad dst
  | .store => .strongStore (leBytes w v.toNat)

/-- A vector form: lane l at Pair(base) + SignExt(v(d)) (13 R187). -/
def strongVector (k : Strong) (align4 align8 : Nat) (commAdd : Bool) (r : MemOrd) (d : Reg) (b : Src)
    (la : BitVec 4) : State → Result :=
  runState (fun t _ =>
      { srcs := ((k.vectorOpnds t.width d).1.map fun o => ⟨o, false⟩) ++ [⟨.pair b.reg, b.last⟩],
        unread := [⟨.vgroup d (k.group t.width), false⟩], dsts := (k.vectorOpnds t.width d).2,
        vector := true, la := la.toNat, ordered := true, early := atomTrap t d align4 align8 commAdd })
    fun t s =>
      let form (l : Nat) : AForm := .absolute (t.pair b.reg + (t.vval d l).signExtend 64)
      let mk (l : Nat) (f : AForm) (p : Place) : Access :=
        let o := k.orders r p
        t.access f p t.width (k.vectorKind t d l) o.1 o.2 (r == .comm)
      match laneAccesses s t t.width k.intent form mk t.active with
      | .error e => .error e
      | .ok as =>
        .ok (s.doAccesses t.advance (as.map (·.2)), as.flatMap fun a => a.2.touches (some a.1))

/-! ### The instructions (13 R188) -/

def execAtom (o : AtomOp) (r : MemOrd) (d : Reg) (b : Src) (la : BitVec 4) (s : State) : Result :=
  strongScalar (.atom o true) 1 2 (commAdd o r) r d b la s
def execCas (r : MemOrd) (d : Reg) (b : Src) (la : BitVec 4) (s : State) : Result :=
  strongScalar .cas 2 4 false r d b la s
def execRed (o : AtomOp) (r : MemOrd) (d : Reg) (b : Src) (la : BitVec 4) (s : State) : Result :=
  strongScalar (.atom o false) 1 2 (commAdd o r) r d b la s
def execStStrong (r : MemOrd) (d : Reg) (b : Src) (la : BitVec 4) (s : State) : Result :=
  strongScalar .store 1 2 false r d b la s
def execLdStrong (r : MemOrd) (d : Reg) (b : Src) (la : BitVec 4) (s : State) : Result :=
  strongScalar .load 1 2 false r d b la s
def execVatom (o : AtomOp) (r : MemOrd) (d : Reg) (b : Src) (la : BitVec 4) (s : State) : Result :=
  strongVector (.atom o true) 2 4 (commAdd o r) r d b la s
def execVcas (r : MemOrd) (d : Reg) (b : Src) (la : BitVec 4) (s : State) : Result :=
  strongVector .cas 4 8 false r d b la s
def execVred (o : AtomOp) (r : MemOrd) (d : Reg) (b : Src) (la : BitVec 4) (s : State) : Result :=
  strongVector (.atom o false) 2 4 (commAdd o r) r d b la s
def execVstStrong (r : MemOrd) (d : Reg) (b : Src) (la : BitVec 4) (s : State) : Result :=
  strongVector .store 2 4 false r d b la s
def execVldStrong (r : MemOrd) (d : Reg) (b : Src) (la : BitVec 4) (s : State) : Result :=
  strongVector .load 2 4 false r d b la s

end Sys2Proof.Machine
end

