-- ==== Sys2Proof/WellFormed.lean ====
section
/-!
DEFINITION. Which instructions are well formed: the register classes of 07 R93 and R109, and the operand
values that 09, 11, 13 and 17 make illegal in the word itself.  A word that decodes to an ill-formed
instruction raises ILLEGAL_OPCODE (07 R112).  Checks that depend on MODE are made at issue (07 R113).
-/
namespace Sys2Proof

/-- An even register: the class of scalar and vector pairs (07 R93). -/
def isPair (r : Reg) : Bool := r.toNat % 2 == 0
/-- The first register of a scalar quad (17 R256, R265). -/
def isQuad (r : Reg) : Bool := r.toNat % 4 == 0
/-- The width operand of SEXT and ZEXT, 1 to 32 (09 R121). -/
def widthOk (n : BitVec 6) : Bool := 1 ≤ n.toNat && n.toNat ≤ 32
/-- The block count of REGACQ and REGREL, 1 to 7 (09 R137). -/
def blocksOk (k : BitVec 3) : Bool := k.toNat != 0
/-- The depth operand of SBRK and SCONT, 0 to 253 (09 R135). -/
def depthOk (d : BitVec 8) : Bool := d.toNat ≤ 253
/-- The base of major 0x3A: an even register other than 62 (13 R187); 61 is odd. -/
def atomBaseOk (r : Reg) : Bool := isPair r && r.toNat != 62
/-- A vector load or store of 8 bytes names a vector pair (13 R184). -/
def lanePairOk (d : Reg) (z : BitVec 2) : Bool := z.toNat != 3 || isPair d

/-- The memory base class: even, or 61 (07 R93, R109). -/
def MemArg.baseOk (m : MemArg) : Bool := isPair m.base || m.base.toNat == 61

/-- The operand forms of major 0x38, VLDS and VSTS: every mode but vector index (13 R182, R184). -/
def MemArg.scalarOk (m : MemArg) : Bool :=
  m.baseOk && match m.mode with
    | .index _ _ => false
    | .disp _ => true
    | .postInc _ => true
    | .modulo _ _ => true

/-- Scopes that the word of a strong access can name: team scope is not encoded (13 R187). -/
def Scope.encoded : Scope → Bool
  | .tm => false
  | .co | .tw | .dv | .sy => true

/-- A scope that ORD holds is one of .CO, .TW, .DV and .SY (13 R187). -/
def MemOrd.scopeOk : MemOrd → Bool
  | .rlx | .comm => true
  | .acq c | .rel c | .ar c => c.encoded

/-- ORD values of ATOM and VATOM (13 R188): all, but .COMM not with SWAP. -/
def MemOrd.returningOk (r : MemOrd) (o : AtomOp) : Bool :=
  r.scopeOk && !(r == .comm && o == .swap)

/-- ORD values of RED and VRED (13 R188): RLX, RLX.COMM and REL; SWAP has no such form. -/
def MemOrd.silentOk (r : MemOrd) (o : AtomOp) : Bool :=
  o != .swap && r.scopeOk && match r with
    | .rlx | .comm | .rel _ => true
    | .acq _ | .ar _ => false

/-- ORD values of CAS and VCAS (13 R188). -/
def MemOrd.casOk (r : MemOrd) : Bool := r.scopeOk && r != .comm

/-- ORD values of the strong stores (13 R188). -/
def MemOrd.storeOk (r : MemOrd) : Bool :=
  r.scopeOk && match r with
    | .rlx | .rel _ => true
    | .comm | .acq _ | .ar _ => false

/-- ORD values of the strong loads (13 R188). -/
def MemOrd.loadOk (r : MemOrd) : Bool :=
  r.scopeOk && match r with
    | .rlx | .acq _ => true
    | .comm | .rel _ | .ar _ => false

/-- The well-formedness of an instruction.  Events have no words and are all well formed. -/
def Instr.wf : Instr → Bool
  | .add .. => true
  | .sub .. => true
  | .mul .. => true
  | .mulh .. => true
  | .mulhu .. => true
  | .and .. => true
  | .or .. => true
  | .xor .. => true
  | .andn .. => true
  | .shl .. => true
  | .shr .. => true
  | .sra .. => true
  | .min .. => true
  | .max .. => true
  | .minu .. => true
  | .maxu .. => true
  | .seq .. => true
  | .sne .. => true
  | .slt .. => true
  | .sltu .. => true
  | .sel .. => true
  | .clz .. => true
  | .popc .. => true
  | .sext _ _ n => widthOk n
  | .zext _ _ n => widthOk n
  | .mov .. => true
  | .div .. => true
  | .divu .. => true
  | .rem .. => true
  | .remu .. => true
  | .addx d a b => isPair d && isPair a.reg && isPair b.reg
  | .subx d a b => isPair d && isPair a.reg && isPair b.reg
  | .shlix d a _ => isPair d && isPair a.reg
  | .shrix d a _ => isPair d && isPair a.reg
  | .sltux _ a b => isPair a.reg && isPair b.reg
  | .mand .. => true
  | .mor .. => true
  | .mxor .. => true
  | .mandn .. => true
  | .mnot .. => true
  | .mmov .. => true
  | .mall .. => true
  | .mclr .. => true
  | .mpopc .. => true
  | .mffs .. => true
  | .msetw .. => true
  | .mgetw .. => true
  | .msumw .. => true
  | .exmset .. => true
  | .exmget .. => true
  | .modew .. => true
  | .srd .. => true
  | .swr .. => true
  | .stamp d => isPair d
  | .trap .. => true
  | .brk .. => true
  | .regacq k => blocksOk k
  | .regacqNb _ k => blocksOk k
  | .regrel k => blocksOk k
  | .node _ a _ => isPair a.reg
  | .addi .. => true
  | .andi .. => true
  | .ori .. => true
  | .xori .. => true
  | .shli .. => true
  | .shri .. => true
  | .srai .. => true
  | .slti .. => true
  | .sltiu .. => true
  | .addix d a _ => isPair d && isPair a.reg
  | .lui .. => true
  | .addpc d _ => isPair d
  | .setmode .. => true
  | .vli .. => true
  | .br .. => true
  | .bz .. => true
  | .bnz .. => true
  | .bany .. => true
  | .ball .. => true
  | .bnone .. => true
  | .callr a => isPair a.reg
  | .jmpr a => isPair a.reg
  | .ret => true
  | .eret => true
  | .entry => true
  | .exit => true
  | .nop => true
  | .yield => true
  | .sif .. => true
  | .selse => true
  | .sendif => true
  | .sloop => true
  | .sbrk _ d => depthOk d
  | .scont _ d => depthOk d
  | .sendlp .. => true
  | .vadd .. => true
  | .vsub .. => true
  | .vmul .. => true
  | .vmulh .. => true
  | .vmad .. => true
  | .vmin .. => true
  | .vmax .. => true
  | .vand .. => true
  | .vor .. => true
  | .vxor .. => true
  | .vandn .. => true
  | .vshl .. => true
  | .vshr .. => true
  | .vsra .. => true
  | .vcmp .. => true
  | .vabs .. => true
  | .vneg .. => true
  | .vmov .. => true
  | .vlane .. => true
  | .vsel .. => true
  | .vaddi .. => true
  | .vshli .. => true
  | .vshri .. => true
  | .vfadd .. => true
  | .vfsub .. => true
  | .vfmul .. => true
  | .vfma .. => true
  | .vfms .. => true
  | .vfnma .. => true
  | .vfmin .. => true
  | .vfmax .. => true
  | .vfminm .. => true
  | .vfmaxm .. => true
  | .vfabs .. => true
  | .vfneg .. => true
  | .vfsgn .. => true
  | .vfsgnK .. => true
  | .vfcmp .. => true
  | .vfcmpK .. => true
  | .vfclass .. => true
  | .vfdiv .. => true
  | .vfsqrt .. => true
  | .vfrsq .. => true
  | .vfrcp .. => true
  | .vfexp2 .. => true
  | .vflog2 .. => true
  | .vcvt .. => true
  | .vqnt .. => true
  | .vpack .. => true
  | .vunpk .. => true
  | .vdot2 .. => true
  | .vdot4 .. => true
  | .vdot8 .. => true
  | .vshfl .. => true
  | .vbcast .. => true
  | .vext .. => true
  | .vins .. => true
  | .vredadd .. => true
  | .vredmax .. => true
  | .vredmin .. => true
  | .vscan .. => true
  | .ldU8 _ mem => mem.scalarOk
  | .ldS8 _ mem => mem.scalarOk
  | .ldU16 _ mem => mem.scalarOk
  | .ldS16 _ mem => mem.scalarOk
  | .ld _ mem => mem.scalarOk
  | .ldD d mem => isPair d && mem.scalarOk
  | .stB _ mem => mem.scalarOk
  | .stH _ mem => mem.scalarOk
  | .st _ mem => mem.scalarOk
  | .stD s mem => isPair s && mem.scalarOk
  | .pref mem => mem.scalarOk
  | .cwb mem => mem.scalarOk
  | .cinv mem => mem.scalarOk
  | .discard mem => mem.scalarOk
  | .vld d mem z => mem.baseOk && lanePairOk d z
  | .vst s mem z => mem.baseOk && lanePairOk s z
  | .vlds d mem z => mem.scalarOk && lanePairOk d z
  | .vsts s mem z => mem.scalarOk && lanePairOk s z
  | .atom o r _ b _ => atomBaseOk b.reg && r.returningOk o
  | .cas r _ b _ => atomBaseOk b.reg && r.casOk
  | .red o r _ b _ => atomBaseOk b.reg && r.silentOk o
  | .stStrong r _ b _ => atomBaseOk b.reg && r.storeOk
  | .ldStrong r _ b _ => atomBaseOk b.reg && r.loadOk
  | .vatom o r _ b _ => atomBaseOk b.reg && r.returningOk o
  | .vcas r _ b _ => atomBaseOk b.reg && r.casOk
  | .vred o r _ b _ => atomBaseOk b.reg && r.silentOk o
  | .vstStrong r _ b _ => atomBaseOk b.reg && r.storeOk
  | .vldStrong r _ b _ => atomBaseOk b.reg && r.loadOk
  | .fence .. => true
  | .fwait .. => true
  | .await d _ => isPair d
  | .bellclr .. => true
  | .bwait a _ => isPair a.reg
  | .arrive _ a => isPair a.reg
  | .arrivePub _ a => isPair a.reg
  | .arriveDrop _ a => isPair a.reg
  | .arriveDropPub _ a => isPair a.reg
  | .join .. => true
  | .leave .. => true
  | .clead .. => true
  | .bell _ _ _ a _ => isPair a.reg
  | .cpy d a _ => isPair d && isPair a.reg
  | .cpyt d a _ => isPair d && isPair a.reg
  | .gath d a => isPair d && isPair a.reg
  | .scat d a => isPair d && isPair a.reg
  | .cseal .. => true
  | .cwany _ a => isPair a.reg
  | .cwall a => isPair a.reg
  | .cffr _ a => isPair a.reg
  | .ctclr a => isPair a.reg
  | .coll a => isPair a.reg
  | .mtile _ _ c _ => isQuad c
  | .mma _ _ c _ => isQuad c
  | .mzero .. => true
  | .maccrd .. => true
  | .maccwr .. => true
  | .maccld _ b _ _ => isPair b
  | .maccst _ b _ _ => isPair b
  | .acwin .. => true
  | .mplan _ _ c _ => isQuad c
  | .mchk .. => true
  | .doorbell .. => true
  | .packetPrefetch .. => true
  | .drumRound => true
  | .graph .. => true
  | .nodePacket .. => true
  | .gang .. => true
  | .gangReserveRetry .. => true
  | .signal .. => true
  | .waitSignal .. => true
  | .rangeCommit .. => true
  | .marker .. => true
  | .create .. => true
  | .destroy .. => true
  | .update .. => true
  | .mapq .. => true
  | .unmapq .. => true
  | .resumeq .. => true
  | .preempt .. => true
  | .fwHandover .. => true
  | .fwHandoverSwitch => true
  | .teamPlacement => true
  | .slotYield .. => true
  | .teamExitComplete .. => true
  | .heldSuccessorEntry => true
  | .sliceEnd => true
  | .preemptionRequest => true
  | .contextSwitchIn => true
  | .shadowPreload => true
  | .stateSpill => true
  | .atomicPerform .. => true
  | .atomicReply .. => true
  | .writePerform .. => true
  | .copyPerform .. => true
  | .followOnIssue .. => true
  | .fenceComplete .. => true
  | .awaitTimeout .. => true
  | .collComplete .. => true
  | .kGroupStep .. => true
  | .matrixReset .. => true
  | .asyncTrapDelivery .. => true
  | .pageHomeChange .. => true
  | .invalidateContext .. => true
  | .invalidatePage .. => true
  | .tbloCapture => true
  | .registerWrite .. => true
  | .hostRequest .. => true
  | .peerRequest .. => true
  | .flitCrcError .. => true
  | .ucieLinkFailure .. => true
  | .eccError .. => true
  | .portBeatError .. => true
  | .dieLost .. => true
  | .hotSet .. => true
  | .hotClear .. => true
  | .powerThrottle => true
  | .setq0 => true
  | .route => true
  | .attest => true
  | .reset => true
  | .event => true
  | .coldReset => true
  | .ixletReset => true
  | .stop .. => true
  | .resume .. => true
  | .read .. => true
  | .write .. => true
  | .watch .. => true
  | .illegalOpcodeWord .. => true
  | .instructionFetchFault => true
  | .loadPerform .. => true
  | .throttleClear => true
  | .debugAttach .. => true

end Sys2Proof
end

