-- ==== Sys2Proof/Decode.lean ====
section
/-!
DEFINITION. Decoding instruction words, total and rejecting by name, and the encoder.
The formats are those of 07 R106, the majors and minors those of 07 R110 and R111 and of the tables of
09, 11, 13 and 17.  A word is accepted exactly when the instruction its fields name is well formed and has
that very word: any other bit pattern has a non-zero reserved or unused field (07 R112).
-/
namespace Sys2Proof

/-- Why a word is no instruction (07 R112). -/
inductive DecodeError where
  /-- a reserved or unassigned major -/
  | reservedMajor
  /-- a minor field with an unassigned value -/
  | unassignedMinor
  /-- a non-zero reserved, must-be-zero or unused field -/
  | reservedField
  /-- a register or operand value that R93, R109 or the description makes illegal -/
  | illegalOperand
deriving DecidableEq, Repr

/-! ### Codes of the small operand types -/

/-- Scope codes of ORD (13 R187); team scope is not encoded there. -/
def Scope.ordCode : Scope → Nat
  | .tm => 0 | .co => 0 | .tw => 1 | .dv => 2 | .sy => 3

def Scope.ofOrdCode : Nat → Scope
  | 0 => .co | 1 => .tw | 2 => .dv | _ => .sy

/-- Scope codes of FENCE (13 R197). -/
def Scope.fenceCode : Scope → Nat
  | .tm => 0 | .co => 1 | .tw => 2 | .dv => 3 | .sy => 4

def Scope.ofFenceCode? : Nat → Option Scope
  | 0 => some .tm | 1 => some .co | 2 => some .tw | 3 => some .dv | 4 => some .sy
  | _ => none

def MemOrd.code : MemOrd → Nat
  | .rlx => 0
  | .comm => 1
  | .acq c => 4 + c.ordCode
  | .rel c => 8 + c.ordCode
  | .ar c => 12 + c.ordCode

def MemOrd.ofCode? (n : Nat) : Option MemOrd :=
  match n / 4 with
  | 0 => match n with
    | 0 => some .rlx
    | 1 => some .comm
    | _ => none
  | 1 => some (.acq (Scope.ofOrdCode (n % 4)))
  | 2 => some (.rel (Scope.ofOrdCode (n % 4)))
  | _ => some (.ar (Scope.ofOrdCode (n % 4)))

def AtomOp.code : AtomOp → Nat
  | .add => 0 | .min => 1 | .max => 2 | .and => 3 | .or => 4 | .xor => 5 | .swap => 6

def AtomOp.ofCode? : Nat → Option AtomOp
  | 0 => some .add | 1 => some .min | 2 => some .max | 3 => some .and
  | 4 => some .or | 5 => some .xor | 6 => some .swap
  | _ => none

def FenceKind.code : FenceKind → Nat
  | .aq => 0 | .rl => 1 | .ar => 2 | .sc => 3

def FenceKind.ofCode : Nat → FenceKind
  | 0 => .aq | 1 => .rl | 2 => .ar | _ => .sc

def IntCond.code : IntCond → Nat
  | .eq => 0 | .ne => 1 | .lt => 2 | .ge => 3 | .le => 4 | .gt => 5

def FpCond.code : FpCond → Nat
  | .eq => 0 | .ne => 1 | .lt => 2 | .le => 3 | .gt => 4 | .ge => 5 | .un => 6 | .ord => 7

def BellCond.code : BellCond → Nat
  | .eq => 0 | .ne => 1 | .lt => 2 | .ge => 3 | .ltu => 4 | .geu => 5 | .maskeq => 6

def BellCond.ofCode? : Nat → Option BellCond
  | 0 => some .eq | 1 => some .ne | 2 => some .lt | 3 => some .ge
  | 4 => some .ltu | 5 => some .geu | 6 => some .maskeq
  | _ => none

/-! ### Fields as numbers -/

/-- A register field and the last-use bit below it, seven bits. -/
def Src.bits (s : Src) : Nat := s.reg.toNat * 2 + s.last.toNat
def MSrc.bits (s : MSrc) : Nat := s.reg.toNat * 2 + s.last.toNat

/-- The am and field bits [12:4] of a MEM word (07 R109). -/
def AddrMode.bits : AddrMode → Nat
  | .disp k => k.toNat
  | .postInc k => 128 + k.toNat
  | .index v last => 256 + v.toNat * 2 + last.toNat
  | .modulo q k => 384 + q.toNat * 16 + k.toNat

/-- Bits [19:4] of a MEM word. -/
def MemArg.bits (m : MemArg) : Nat := m.base.toNat * 1024 + m.last.toNat * 512 + m.mode.bits

def regAt (lo n : Nat) : Reg := .ofNat 6 (fld lo 6 n)
def mregAt (lo n : Nat) : MReg := .ofNat 4 (fld lo 4 n)
def flagAt (lo n : Nat) : Bool := fld lo 1 n == 1
def srcAt (lo n : Nat) : Src := ⟨regAt (lo + 1) n, flagAt lo n⟩
def msrcAt (lo n : Nat) : MSrc := ⟨mregAt (lo + 1) n, flagAt lo n⟩
/-- The 12-bit value of a[19:14] and b[12:7] (09 R137). -/
def n12At (n : Nat) : BitVec 12 := .ofNat 12 (fld 14 6 n * 64 + fld 7 6 n)

def memAt (n : Nat) : MemArg where
  base := regAt 14 n
  last := flagAt 13 n
  mode := match fld 11 2 n with
    | 0 => .disp (.ofNat 7 (fld 4 7 n))
    | 1 => .postInc (.ofNat 7 (fld 4 7 n))
    | 2 => .index (regAt 5 n) (flagAt 4 n)
    | _ => .modulo (.ofNat 3 (fld 8 3 n)) (.ofNat 4 (fld 4 4 n))

/-! ### The formats of 07 R106 -/

def fmtRR (major d a b x : Nat) : Nat := major * 2 ^ 26 + d * 2 ^ 20 + a * 2 ^ 13 + b * 2 ^ 6 + x
def fmtN12 (major d k x : Nat) : Nat :=
  major * 2 ^ 26 + d * 2 ^ 20 + k / 64 * 2 ^ 14 + k % 64 * 2 ^ 7 + x
def fmtRI (major d a imm x : Nat) : Nat := major * 2 ^ 26 + d * 2 ^ 20 + a * 2 ^ 13 + imm * 2 + x
def fmtI20 (major d imm : Nat) : Nat := major * 2 ^ 26 + d * 2 ^ 20 + imm
def fmtSY (major sub : Nat) : Nat := major * 2 ^ 26 + sub
def fmtBS (major s sense disp : Nat) : Nat := major * 2 ^ 26 + s * 2 ^ 20 + sense * 2 ^ 19 + disp
def fmtBM (major m kind disp : Nat) : Nat := major * 2 ^ 26 + m * 2 ^ 22 + kind * 2 ^ 20 + disp
/-- Major 0x18 (09 R135). -/
def fmtST (op m low : Nat) : Nat := 0x18 * 2 ^ 26 + op * 2 ^ 23 + m * 2 ^ 19 + low
def fmtMEM (major d : Nat) (m : MemArg) (op : Nat) : Nat :=
  major * 2 ^ 26 + d * 2 ^ 20 + m.bits * 2 ^ 4 + op
/-- Major 0x3A (13 R187). -/
def fmtAT (kind op ord d b la : Nat) : Nat :=
  0x3A * 2 ^ 26 + d * 2 ^ 20 + b * 2 ^ 13 + kind * 2 ^ 11 + op * 2 ^ 8 + ord * 2 ^ 4 + la
/-- FENCE (13 R197). -/
def fmtFence (d scope uo cp kind : Nat) : Nat :=
  0x3B * 2 ^ 26 + d * 2 ^ 20 + scope * 2 ^ 17 + uo * 2 ^ 16 + cp * 2 ^ 15 + kind
def fmtMX (a b c sub la : Nat) : Nat :=
  0x3D * 2 ^ 26 + a * 2 ^ 20 + b * 2 ^ 14 + c * 2 ^ 8 + sub * 2 ^ 4 + la

/-! ### From fields to an instruction, one function per major -/

def parse01 (n : Nat) : Except DecodeError Instr :=
  match fld 0 6 n with
  | 0 => .ok (.add (regAt 20 n) (srcAt 13 n) (srcAt 6 n))
  | 1 => .ok (.sub (regAt 20 n) (srcAt 13 n) (srcAt 6 n))
  | 2 => .ok (.mul (regAt 20 n) (srcAt 13 n) (srcAt 6 n))
  | 3 => .ok (.mulh (regAt 20 n) (srcAt 13 n) (srcAt 6 n))
  | 4 => .ok (.mulhu (regAt 20 n) (srcAt 13 n) (srcAt 6 n))
  | 5 => .ok (.and (regAt 20 n) (srcAt 13 n) (srcAt 6 n))
  | 6 => .ok (.or (regAt 20 n) (srcAt 13 n) (srcAt 6 n))
  | 7 => .ok (.xor (regAt 20 n) (srcAt 13 n) (srcAt 6 n))
  | 8 => .ok (.andn (regAt 20 n) (srcAt 13 n) (srcAt 6 n))
  | 9 => .ok (.shl (regAt 20 n) (srcAt 13 n) (srcAt 6 n))
  | 10 => .ok (.shr (regAt 20 n) (srcAt 13 n) (srcAt 6 n))
  | 11 => .ok (.sra (regAt 20 n) (srcAt 13 n) (srcAt 6 n))
  | _ => .error .unassignedMinor

def parse02 (n : Nat) : Except DecodeError Instr :=
  match fld 0 6 n with
  | 0 => .ok (.min (regAt 20 n) (srcAt 13 n) (srcAt 6 n))
  | 1 => .ok (.max (regAt 20 n) (srcAt 13 n) (srcAt 6 n))
  | 2 => .ok (.minu (regAt 20 n) (srcAt 13 n) (srcAt 6 n))
  | 3 => .ok (.maxu (regAt 20 n) (srcAt 13 n) (srcAt 6 n))
  | 4 => .ok (.seq (regAt 20 n) (srcAt 13 n) (srcAt 6 n))
  | 5 => .ok (.sne (regAt 20 n) (srcAt 13 n) (srcAt 6 n))
  | 6 => .ok (.slt (regAt 20 n) (srcAt 13 n) (srcAt 6 n))
  | 7 => .ok (.sltu (regAt 20 n) (srcAt 13 n) (srcAt 6 n))
  | 8 => .ok (.sel (regAt 20 n) (srcAt 13 n) (srcAt 6 n))
  | 9 => .ok (.clz (regAt 20 n) (srcAt 13 n))
  | 10 => .ok (.popc (regAt 20 n) (srcAt 13 n))
  | 11 => .ok (.sext (regAt 20 n) (srcAt 13 n) (.ofNat 6 (fld 7 6 n)))
  | 12 => .ok (.zext (regAt 20 n) (srcAt 13 n) (.ofNat 6 (fld 7 6 n)))
  | 13 => .ok (.mov (regAt 20 n) (srcAt 13 n))
  | _ => .error .unassignedMinor

def parse03 (n : Nat) : Except DecodeError Instr :=
  match fld 4 2 n with
  | 0 => .ok (.div (regAt 20 n) (srcAt 13 n) (srcAt 6 n) (.ofNat 4 (fld 0 4 n)))
  | 1 => .ok (.divu (regAt 20 n) (srcAt 13 n) (srcAt 6 n) (.ofNat 4 (fld 0 4 n)))
  | 2 => .ok (.rem (regAt 20 n) (srcAt 13 n) (srcAt 6 n) (.ofNat 4 (fld 0 4 n)))
  | _ => .ok (.remu (regAt 20 n) (srcAt 13 n) (srcAt 6 n) (.ofNat 4 (fld 0 4 n)))

def parse04 (n : Nat) : Except DecodeError Instr :=
  match fld 0 6 n with
  | 0 => .ok (.addx (regAt 20 n) (srcAt 13 n) (srcAt 6 n))
  | 1 => .ok (.subx (regAt 20 n) (srcAt 13 n) (srcAt 6 n))
  | 2 => .ok (.shlix (regAt 20 n) (srcAt 13 n) (.ofNat 6 (fld 7 6 n)))
  | 3 => .ok (.shrix (regAt 20 n) (srcAt 13 n) (.ofNat 6 (fld 7 6 n)))
  | 4 => .ok (.sltux (regAt 20 n) (srcAt 13 n) (srcAt 6 n))
  | _ => .error .unassignedMinor

def parse05 (n : Nat) : Except DecodeError Instr :=
  match fld 0 6 n with
  | 0 => .ok (.mand (mregAt 20 n) (msrcAt 13 n) (msrcAt 6 n))
  | 1 => .ok (.mor (mregAt 20 n) (msrcAt 13 n) (msrcAt 6 n))
  | 2 => .ok (.mxor (mregAt 20 n) (msrcAt 13 n) (msrcAt 6 n))
  | 3 => .ok (.mandn (mregAt 20 n) (msrcAt 13 n) (msrcAt 6 n))
  | 4 => .ok (.mnot (mregAt 20 n) (msrcAt 13 n))
  | 5 => .ok (.mmov (mregAt 20 n) (msrcAt 13 n))
  | 6 => .ok (.mall (mregAt 20 n))
  | 7 => .ok (.mclr (mregAt 20 n))
  | 8 => .ok (.mpopc (regAt 20 n) (msrcAt 13 n))
  | 9 => .ok (.mffs (regAt 20 n) (msrcAt 13 n))
  | 10 => .ok (.msetw (mregAt 20 n) (srcAt 13 n) (srcAt 6 n))
  | 11 => .ok (.mgetw (regAt 20 n) (msrcAt 13 n) (srcAt 6 n))
  | 12 => .ok (.msumw (regAt 20 n) (msrcAt 13 n))
  | 13 => .ok (.exmset (msrcAt 13 n))
  | 14 => .ok (.exmget (mregAt 20 n))
  | _ => .error .unassignedMinor

def parse06 (n : Nat) : Except DecodeError Instr :=
  match fld 0 6 n with
  | 0 => .ok (.modew (srcAt 13 n))
  | 1 => .ok (.srd (regAt 20 n) (n12At n))
  | 2 => .ok (.swr (n12At n) (regAt 20 n))
  | 3 => .ok (.stamp (regAt 20 n))
  | 4 => .ok (.trap (n12At n))
  | 5 => .ok (.brk (n12At n))
  | 6 => .ok (.regacq (.ofNat 3 (fld 7 3 n)))
  | 7 => .ok (.regacqNb (regAt 20 n) (.ofNat 3 (fld 7 3 n)))
  | 8 => .ok (.regrel (.ofNat 3 (fld 7 3 n)))
  | 9 => .ok (.node (regAt 20 n) (srcAt 13 n) (srcAt 6 n))
  | _ => .error .unassignedMinor

def parse08 (n : Nat) : Except DecodeError Instr :=
  match fld 0 1 n with
  | 0 => .ok (.addi (regAt 20 n) (srcAt 13 n) (.ofNat 12 (fld 1 12 n)))
  | _ => .error .unassignedMinor

def parse09 (n : Nat) : Except DecodeError Instr :=
  match fld 0 1 n with
  | 0 => .ok (.andi (regAt 20 n) (srcAt 13 n) (.ofNat 12 (fld 1 12 n)))
  | _ => .error .unassignedMinor

def parse0A (n : Nat) : Except DecodeError Instr :=
  match fld 0 1 n with
  | 0 => .ok (.ori (regAt 20 n) (srcAt 13 n) (.ofNat 12 (fld 1 12 n)))
  | _ => .error .unassignedMinor

def parse0B (n : Nat) : Except DecodeError Instr :=
  match fld 0 1 n with
  | 0 => .ok (.xori (regAt 20 n) (srcAt 13 n) (.ofNat 12 (fld 1 12 n)))
  | _ => .error .unassignedMinor

def parse0C (n : Nat) : Except DecodeError Instr :=
  match fld 0 1 n, fld 6 1 n with
  | 0, 0 => .ok (.shli (regAt 20 n) (srcAt 13 n) (.ofNat 5 (fld 1 5 n)))
  | 1, 0 => .ok (.shri (regAt 20 n) (srcAt 13 n) (.ofNat 5 (fld 1 5 n)))
  | 1, 1 => .ok (.srai (regAt 20 n) (srcAt 13 n) (.ofNat 5 (fld 1 5 n)))
  | _, _ => .error .unassignedMinor

def parse0D (n : Nat) : Except DecodeError Instr :=
  match fld 0 1 n with
  | 0 => .ok (.slti (regAt 20 n) (srcAt 13 n) (.ofNat 12 (fld 1 12 n)))
  | _ => .ok (.sltiu (regAt 20 n) (srcAt 13 n) (.ofNat 12 (fld 1 12 n)))

def parse0E (n : Nat) : Except DecodeError Instr :=
  match fld 0 1 n with
  | 0 => .ok (.addix (regAt 20 n) (srcAt 13 n) (.ofNat 12 (fld 1 12 n)))
  | _ => .error .unassignedMinor

def parse10 (n : Nat) : Except DecodeError Instr :=
  .ok (.lui (regAt 20 n) (.ofNat 20 (fld 0 20 n)))

def parse11 (n : Nat) : Except DecodeError Instr :=
  .ok (.addpc (regAt 20 n) (.ofNat 20 (fld 0 20 n)))

def parse12 (n : Nat) : Except DecodeError Instr :=
  .ok (.setmode (.ofNat 20 (fld 0 20 n)))

def parse13 (n : Nat) : Except DecodeError Instr :=
  .ok (.vli (regAt 20 n) (.ofNat 20 (fld 0 20 n)))

def parse14 (n : Nat) : Except DecodeError Instr :=
  .ok (.br (.ofNat 26 (fld 0 26 n)))

def parse15 (n : Nat) : Except DecodeError Instr :=
  match fld 19 1 n with
  | 0 => .ok (.bz (regAt 20 n) (.ofNat 19 (fld 0 19 n)))
  | _ => .ok (.bnz (regAt 20 n) (.ofNat 19 (fld 0 19 n)))

def parse16 (n : Nat) : Except DecodeError Instr :=
  match fld 20 2 n with
  | 0 => .ok (.bany (mregAt 22 n) (.ofNat 20 (fld 0 20 n)))
  | 1 => .ok (.ball (mregAt 22 n) (.ofNat 20 (fld 0 20 n)))
  | 2 => .ok (.bnone (mregAt 22 n) (.ofNat 20 (fld 0 20 n)))
  | _ => .error .unassignedMinor

def parse17 (n : Nat) : Except DecodeError Instr :=
  match fld 22 4 n with
  | 0 => .ok (.callr (srcAt 15 n))
  | 1 => .ok (.jmpr (srcAt 15 n))
  | 2 => .ok .ret
  | 3 => .ok .eret
  | 4 => .ok .entry
  | 5 => .ok .exit
  | 6 => .ok .nop
  | 7 => .ok .yield
  | _ => .error .unassignedMinor

def parse18 (n : Nat) : Except DecodeError Instr :=
  match fld 23 3 n with
  | 0 => .ok (.sif (mregAt 19 n))
  | 1 => .ok .selse
  | 2 => .ok .sendif
  | 3 => .ok .sloop
  | 4 => .ok (.sbrk (mregAt 19 n) (.ofNat 8 (fld 11 8 n)))
  | 5 => .ok (.scont (mregAt 19 n) (.ofNat 8 (fld 11 8 n)))
  | 6 => .ok (.sendlp (mregAt 19 n) (.ofNat 19 (fld 0 19 n)))
  | _ => .error .unassignedMinor

def parse20 (n : Nat) : Except DecodeError Instr :=
  match fld 0 6 n with
  | 0 => .ok (.vadd (regAt 20 n) (srcAt 13 n) (srcAt 6 n))
  | 1 => .ok (.vsub (regAt 20 n) (srcAt 13 n) (srcAt 6 n))
  | 2 => .ok (.vmul (regAt 20 n) (srcAt 13 n) (srcAt 6 n))
  | 3 => .ok (.vmulh (regAt 20 n) (srcAt 13 n) (srcAt 6 n))
  | 4 => .ok (.vmad (regAt 20 n) (srcAt 13 n) (srcAt 6 n))
  | 5 => .ok (.vmin (regAt 20 n) (srcAt 13 n) (srcAt 6 n))
  | 6 => .ok (.vmax (regAt 20 n) (srcAt 13 n) (srcAt 6 n))
  | _ => .error .unassignedMinor

def parse21 (n : Nat) : Except DecodeError Instr :=
  match fld 0 6 n with
  | 0 => .ok (.vand (regAt 20 n) (srcAt 13 n) (srcAt 6 n))
  | 1 => .ok (.vor (regAt 20 n) (srcAt 13 n) (srcAt 6 n))
  | 2 => .ok (.vxor (regAt 20 n) (srcAt 13 n) (srcAt 6 n))
  | 3 => .ok (.vandn (regAt 20 n) (srcAt 13 n) (srcAt 6 n))
  | 4 => .ok (.vshl (regAt 20 n) (srcAt 13 n) (srcAt 6 n))
  | 5 => .ok (.vshr (regAt 20 n) (srcAt 13 n) (srcAt 6 n))
  | 6 => .ok (.vsra (regAt 20 n) (srcAt 13 n) (srcAt 6 n))
  | _ => .error .unassignedMinor

def parse22 (n : Nat) : Except DecodeError Instr :=
  match fld 0 6 n with
  | 0 => .ok (.vcmp (.eq) (mregAt 20 n) (srcAt 13 n) (srcAt 6 n))
  | 1 => .ok (.vcmp (.ne) (mregAt 20 n) (srcAt 13 n) (srcAt 6 n))
  | 2 => .ok (.vcmp (.lt) (mregAt 20 n) (srcAt 13 n) (srcAt 6 n))
  | 3 => .ok (.vcmp (.ge) (mregAt 20 n) (srcAt 13 n) (srcAt 6 n))
  | 4 => .ok (.vcmp (.le) (mregAt 20 n) (srcAt 13 n) (srcAt 6 n))
  | 5 => .ok (.vcmp (.gt) (mregAt 20 n) (srcAt 13 n) (srcAt 6 n))
  | 8 => .ok (.vabs (regAt 20 n) (srcAt 13 n))
  | 9 => .ok (.vneg (regAt 20 n) (srcAt 13 n))
  | 10 => .ok (.vmov (regAt 20 n) (srcAt 13 n))
  | 11 => .ok (.vlane (regAt 20 n))
  | x => if x / 16 = 1 then .ok (.vsel (regAt 20 n) (srcAt 13 n) (srcAt 6 n) (mregAt 0 n)) else .error .unassignedMinor

def parse23 (n : Nat) : Except DecodeError Instr :=
  match fld 0 1 n with
  | 0 => .ok (.vaddi (regAt 20 n) (srcAt 13 n) (.ofNat 12 (fld 1 12 n)))
  | _ => .error .unassignedMinor

def parse24 (n : Nat) : Except DecodeError Instr :=
  match fld 0 1 n with
  | 0 => .ok (.vshli (regAt 20 n) (srcAt 13 n) (.ofNat 5 (fld 1 5 n)))
  | _ => .ok (.vshri (regAt 20 n) (srcAt 13 n) (.ofNat 5 (fld 1 5 n)))

def parse28 (n : Nat) : Except DecodeError Instr :=
  match fld 0 6 n with
  | 0 => .ok (.vfadd (regAt 20 n) (srcAt 13 n) (srcAt 6 n))
  | 1 => .ok (.vfsub (regAt 20 n) (srcAt 13 n) (srcAt 6 n))
  | 2 => .ok (.vfmul (regAt 20 n) (srcAt 13 n) (srcAt 6 n))
  | _ => .error .unassignedMinor

def parse29 (n : Nat) : Except DecodeError Instr :=
  match fld 0 6 n with
  | 0 => .ok (.vfma (regAt 20 n) (srcAt 13 n) (srcAt 6 n))
  | 1 => .ok (.vfms (regAt 20 n) (srcAt 13 n) (srcAt 6 n))
  | 2 => .ok (.vfnma (regAt 20 n) (srcAt 13 n) (srcAt 6 n))
  | _ => .error .unassignedMinor

def parse2A (n : Nat) : Except DecodeError Instr :=
  match fld 0 6 n with
  | 0 => .ok (.vfmin (regAt 20 n) (srcAt 13 n) (srcAt 6 n))
  | 1 => .ok (.vfmax (regAt 20 n) (srcAt 13 n) (srcAt 6 n))
  | 2 => .ok (.vfminm (regAt 20 n) (srcAt 13 n) (srcAt 6 n))
  | 3 => .ok (.vfmaxm (regAt 20 n) (srcAt 13 n) (srcAt 6 n))
  | 4 => .ok (.vfabs (regAt 20 n) (srcAt 13 n))
  | 5 => .ok (.vfneg (regAt 20 n) (srcAt 13 n))
  | 6 => .ok (.vfsgn (regAt 20 n) (srcAt 13 n))
  | 7 => .ok (.vfsgnK (regAt 20 n) (srcAt 13 n))
  | _ => .error .unassignedMinor

def parse2B (n : Nat) : Except DecodeError Instr :=
  match fld 0 6 n with
  | 0 => .ok (.vfcmp (.eq) (mregAt 20 n) (srcAt 13 n) (srcAt 6 n))
  | 1 => .ok (.vfcmp (.ne) (mregAt 20 n) (srcAt 13 n) (srcAt 6 n))
  | 2 => .ok (.vfcmp (.lt) (mregAt 20 n) (srcAt 13 n) (srcAt 6 n))
  | 3 => .ok (.vfcmp (.le) (mregAt 20 n) (srcAt 13 n) (srcAt 6 n))
  | 4 => .ok (.vfcmp (.gt) (mregAt 20 n) (srcAt 13 n) (srcAt 6 n))
  | 5 => .ok (.vfcmp (.ge) (mregAt 20 n) (srcAt 13 n) (srcAt 6 n))
  | 6 => .ok (.vfcmp (.un) (mregAt 20 n) (srcAt 13 n) (srcAt 6 n))
  | 7 => .ok (.vfcmp (.ord) (mregAt 20 n) (srcAt 13 n) (srcAt 6 n))
  | 8 => .ok (.vfcmpK (.eq) (mregAt 20 n) (srcAt 13 n) (srcAt 6 n))
  | 9 => .ok (.vfcmpK (.ne) (mregAt 20 n) (srcAt 13 n) (srcAt 6 n))
  | 10 => .ok (.vfcmpK (.lt) (mregAt 20 n) (srcAt 13 n) (srcAt 6 n))
  | 11 => .ok (.vfcmpK (.le) (mregAt 20 n) (srcAt 13 n) (srcAt 6 n))
  | 12 => .ok (.vfcmpK (.gt) (mregAt 20 n) (srcAt 13 n) (srcAt 6 n))
  | 13 => .ok (.vfcmpK (.ge) (mregAt 20 n) (srcAt 13 n) (srcAt 6 n))
  | 14 => .ok (.vfcmpK (.un) (mregAt 20 n) (srcAt 13 n) (srcAt 6 n))
  | 15 => .ok (.vfcmpK (.ord) (mregAt 20 n) (srcAt 13 n) (srcAt 6 n))
  | 16 => .ok (.vfclass (regAt 20 n) (srcAt 13 n))
  | _ => .error .unassignedMinor

def parse2C (n : Nat) : Except DecodeError Instr :=
  match fld 4 2 n with
  | 0 => .ok (.vfdiv (regAt 20 n) (srcAt 13 n) (srcAt 6 n) (.ofNat 4 (fld 0 4 n)))
  | 1 => .ok (.vfsqrt (regAt 20 n) (srcAt 13 n) (.ofNat 4 (fld 0 4 n)))
  | 2 => .ok (.vfrsq (regAt 20 n) (srcAt 13 n) (.ofNat 4 (fld 0 4 n)))
  | _ => .ok (.vfrcp (regAt 20 n) (srcAt 13 n) (.ofNat 4 (fld 0 4 n)))

def parse2D (n : Nat) : Except DecodeError Instr :=
  match fld 4 2 n with
  | 0 => .ok (.vfexp2 (regAt 20 n) (srcAt 13 n) (.ofNat 4 (fld 0 4 n)))
  | 1 => .ok (.vflog2 (regAt 20 n) (srcAt 13 n) (.ofNat 4 (fld 0 4 n)))
  | _ => .error .unassignedMinor

def parse30 (n : Nat) : Except DecodeError Instr :=
  if fld 5 1 n = 0 then .ok (.vcvt (regAt 20 n) (srcAt 13 n) (.ofNat 5 (fld 7 5 n)) (.ofNat 5 (fld 0 5 n)))
  else .ok (.vqnt (regAt 20 n) (srcAt 13 n) (srcAt 6 n) (.ofNat 5 (fld 0 5 n)))

def parse31 (n : Nat) : Except DecodeError Instr :=
  match fld 0 6 n with
  | 0 => .ok (.vpack (regAt 20 n) (srcAt 13 n) (srcAt 6 n))
  | 1 => .ok (.vunpk (regAt 20 n) (srcAt 13 n) (flagAt 7 n))
  | 2 => .ok (.vdot2 (regAt 20 n) (srcAt 13 n) (srcAt 6 n))
  | 3 => .ok (.vdot4 (regAt 20 n) (srcAt 13 n) (srcAt 6 n))
  | 4 => .ok (.vdot8 (regAt 20 n) (srcAt 13 n) (srcAt 6 n))
  | _ => .error .unassignedMinor

def parse32 (n : Nat) : Except DecodeError Instr :=
  match fld 4 2 n with
  | 0 => .ok (.vshfl (regAt 20 n) (srcAt 13 n) (srcAt 6 n) (.ofNat 4 (fld 0 4 n)))
  | 1 => .ok (.vbcast (regAt 20 n) (srcAt 13 n) (.ofNat 4 (fld 0 4 n)))
  | 2 => .ok (.vext (regAt 20 n) (srcAt 13 n) (srcAt 6 n) (.ofNat 4 (fld 0 4 n)))
  | _ => .ok (.vins (regAt 20 n) (srcAt 13 n) (srcAt 6 n) (.ofNat 4 (fld 0 4 n)))

def parse33 (n : Nat) : Except DecodeError Instr :=
  match fld 4 2 n with
  | 0 => .ok (.vredadd (regAt 20 n) (srcAt 13 n) (.ofNat 4 (fld 0 4 n)))
  | 1 => .ok (.vredmax (regAt 20 n) (srcAt 13 n) (.ofNat 4 (fld 0 4 n)))
  | 2 => .ok (.vredmin (regAt 20 n) (srcAt 13 n) (.ofNat 4 (fld 0 4 n)))
  | _ => .ok (.vscan (regAt 20 n) (srcAt 13 n) (.ofNat 4 (fld 0 4 n)))

def parse38 (n : Nat) : Except DecodeError Instr :=
  match fld 0 4 n with
  | 0 => .ok (.ldU8 (regAt 20 n) (memAt n))
  | 1 => .ok (.ldS8 (regAt 20 n) (memAt n))
  | 2 => .ok (.ldU16 (regAt 20 n) (memAt n))
  | 3 => .ok (.ldS16 (regAt 20 n) (memAt n))
  | 4 => .ok (.ld (regAt 20 n) (memAt n))
  | 5 => .ok (.ldD (regAt 20 n) (memAt n))
  | 6 => .ok (.stB (regAt 20 n) (memAt n))
  | 7 => .ok (.stH (regAt 20 n) (memAt n))
  | 8 => .ok (.st (regAt 20 n) (memAt n))
  | 9 => .ok (.stD (regAt 20 n) (memAt n))
  | 10 => .ok (.pref (memAt n))
  | 11 => .ok (.cwb (memAt n))
  | 12 => .ok (.cinv (memAt n))
  | 13 => .ok (.discard (memAt n))
  | _ => .error .unassignedMinor

def parse39 (n : Nat) : Except DecodeError Instr :=
  match fld 2 2 n with
  | 0 => .ok (.vld (regAt 20 n) (memAt n) (.ofNat 2 (fld 0 2 n)))
  | 1 => .ok (.vst (regAt 20 n) (memAt n) (.ofNat 2 (fld 0 2 n)))
  | 2 => .ok (.vlds (regAt 20 n) (memAt n) (.ofNat 2 (fld 0 2 n)))
  | _ => .ok (.vsts (regAt 20 n) (memAt n) (.ofNat 2 (fld 0 2 n)))

def parse3A (n : Nat) : Except DecodeError Instr :=
  match MemOrd.ofCode? (fld 4 4 n) with
  | none => .error .unassignedMinor
  | some r =>
    match fld 11 2 n, fld 8 3 n with
    | 0, 7 => .ok (.cas r (regAt 20 n) (srcAt 13 n) (.ofNat 4 (fld 0 4 n)))
    | 1, 6 => .ok (.stStrong r (regAt 20 n) (srcAt 13 n) (.ofNat 4 (fld 0 4 n)))
    | 1, 7 => .ok (.ldStrong r (regAt 20 n) (srcAt 13 n) (.ofNat 4 (fld 0 4 n)))
    | 2, 7 => .ok (.vcas r (regAt 20 n) (srcAt 13 n) (.ofNat 4 (fld 0 4 n)))
    | 3, 6 => .ok (.vstStrong r (regAt 20 n) (srcAt 13 n) (.ofNat 4 (fld 0 4 n)))
    | 3, 7 => .ok (.vldStrong r (regAt 20 n) (srcAt 13 n) (.ofNat 4 (fld 0 4 n)))
    | kind, op =>
      match AtomOp.ofCode? op with
      | none => .error .unassignedMinor
      | some o =>
        match kind with
        | 0 => .ok (.atom o r (regAt 20 n) (srcAt 13 n) (.ofNat 4 (fld 0 4 n)))
        | 1 => .ok (.red o r (regAt 20 n) (srcAt 13 n) (.ofNat 4 (fld 0 4 n)))
        | 2 => .ok (.vatom o r (regAt 20 n) (srcAt 13 n) (.ofNat 4 (fld 0 4 n)))
        | _ => .ok (.vred o r (regAt 20 n) (srcAt 13 n) (.ofNat 4 (fld 0 4 n)))

def parse3B (n : Nat) : Except DecodeError Instr :=
  match fld 0 6 n with
  | 4 => .ok (.fwait (srcAt 13 n))
  | 5 => .ok (.await (regAt 20 n) (srcAt 13 n))
  | 6 => .ok (.bellclr (.ofNat 2 (fld 7 2 n)))
  | 7 => .ok (.bwait (srcAt 13 n) (srcAt 6 n))
  | 8 => .ok (.arrive (regAt 20 n) (srcAt 13 n))
  | 9 => .ok (.arrivePub (regAt 20 n) (srcAt 13 n))
  | 10 => .ok (.arriveDrop (regAt 20 n) (srcAt 13 n))
  | 11 => .ok (.arriveDropPub (regAt 20 n) (srcAt 13 n))
  | 12 => .ok (.join (regAt 20 n) (srcAt 13 n))
  | 13 => .ok (.leave (regAt 20 n) (srcAt 13 n))
  | 14 => .ok (.clead (regAt 20 n) (srcAt 13 n))
  | x =>
    if x < 4 then
      match Scope.ofFenceCode? (fld 17 3 n) with
      | none => .error .unassignedMinor
      | some c => .ok (.fence (FenceKind.ofCode (fld 0 2 n)) c (flagAt 16 n) (flagAt 15 n) (regAt 20 n))
    else if x / 32 = 1 then
      match BellCond.ofCode? (fld 2 3 n) with
      | none => .error .unassignedMinor
      | some c => .ok (.bell c (regAt 20 n) (.ofNat 2 (fld 0 2 n)) (srcAt 13 n) (srcAt 6 n))
    else .error .unassignedMinor

def parse3C (n : Nat) : Except DecodeError Instr :=
  match fld 0 6 n with
  | 0 => .ok (.cpy (regAt 20 n) (srcAt 13 n) (srcAt 6 n))
  | 1 => .ok (.cpyt (regAt 20 n) (srcAt 13 n) (srcAt 6 n))
  | 2 => .ok (.gath (regAt 20 n) (srcAt 13 n))
  | 3 => .ok (.scat (regAt 20 n) (srcAt 13 n))
  | 4 => .ok (.cseal (.ofNat 6 (fld 7 6 n)))
  | 5 => .ok (.cwany (regAt 20 n) (srcAt 13 n))
  | 6 => .ok (.cwall (srcAt 13 n))
  | 7 => .ok (.cffr (regAt 20 n) (srcAt 13 n))
  | 8 => .ok (.ctclr (srcAt 13 n))
  | 9 => .ok (.coll (srcAt 13 n))
  | _ => .error .unassignedMinor

def parse3D (n : Nat) : Except DecodeError Instr :=
  match fld 4 4 n with
  | 0 => .ok (.mtile (regAt 20 n) (regAt 14 n) (regAt 8 n) (.ofNat 4 (fld 0 4 n)))
  | 1 => .ok (.mma (regAt 20 n) (regAt 14 n) (regAt 8 n) (.ofNat 4 (fld 0 4 n)))
  | 2 => .ok (.mzero (regAt 20 n) (regAt 14 n) (.ofNat 4 (fld 0 4 n)))
  | 3 => .ok (.maccrd (regAt 20 n) (regAt 14 n) (.ofNat 4 (fld 0 4 n)))
  | 4 => .ok (.maccwr (regAt 20 n) (regAt 14 n) (.ofNat 4 (fld 0 4 n)))
  | 5 => .ok (.maccld (regAt 20 n) (regAt 14 n) (regAt 8 n) (.ofNat 4 (fld 0 4 n)))
  | 6 => .ok (.maccst (regAt 20 n) (regAt 14 n) (regAt 8 n) (.ofNat 4 (fld 0 4 n)))
  | 7 => .ok (.acwin (regAt 20 n) (regAt 14 n) (regAt 8 n) (.ofNat 4 (fld 0 4 n)))
  | 8 => .ok (.mplan (regAt 20 n) (regAt 14 n) (regAt 8 n) (.ofNat 4 (fld 0 4 n)))
  | 9 => .ok (.mchk (regAt 20 n) (regAt 14 n) (.ofNat 4 (fld 0 4 n)))
  | _ => .error .unassignedMinor

/-- The instruction that the fields of a word name, by major and minor (07 R110, R111).  Reserved fields
and register classes are not looked at here. -/
def parse (n : Nat) : Except DecodeError Instr :=
  match fld 26 6 n with
  | 1 => parse01 n
  | 2 => parse02 n
  | 3 => parse03 n
  | 4 => parse04 n
  | 5 => parse05 n
  | 6 => parse06 n
  | 8 => parse08 n
  | 9 => parse09 n
  | 10 => parse0A n
  | 11 => parse0B n
  | 12 => parse0C n
  | 13 => parse0D n
  | 14 => parse0E n
  | 16 => parse10 n
  | 17 => parse11 n
  | 18 => parse12 n
  | 19 => parse13 n
  | 20 => parse14 n
  | 21 => parse15 n
  | 22 => parse16 n
  | 23 => parse17 n
  | 24 => parse18 n
  | 32 => parse20 n
  | 33 => parse21 n
  | 34 => parse22 n
  | 35 => parse23 n
  | 36 => parse24 n
  | 40 => parse28 n
  | 41 => parse29 n
  | 42 => parse2A n
  | 43 => parse2B n
  | 44 => parse2C n
  | 45 => parse2D n
  | 48 => parse30 n
  | 49 => parse31 n
  | 50 => parse32 n
  | 51 => parse33 n
  | 56 => parse38 n
  | 57 => parse39 n
  | 58 => parse3A n
  | 59 => parse3B n
  | 60 => parse3C n
  | 61 => parse3D n
  | _ => .error .reservedMajor

/-- The word of an instruction, from the formats of 07 R106 and the encoding tables of 09, 11, 13 and 17;
`none` for an event, which has no word. -/
def encodeNat : Instr → Option Nat
  | .add d a b => some (fmtRR 1 d.toNat a.bits b.bits 0)
  | .sub d a b => some (fmtRR 1 d.toNat a.bits b.bits 1)
  | .mul d a b => some (fmtRR 1 d.toNat a.bits b.bits 2)
  | .mulh d a b => some (fmtRR 1 d.toNat a.bits b.bits 3)
  | .mulhu d a b => some (fmtRR 1 d.toNat a.bits b.bits 4)
  | .and d a b => some (fmtRR 1 d.toNat a.bits b.bits 5)
  | .or d a b => some (fmtRR 1 d.toNat a.bits b.bits 6)
  | .xor d a b => some (fmtRR 1 d.toNat a.bits b.bits 7)
  | .andn d a b => some (fmtRR 1 d.toNat a.bits b.bits 8)
  | .shl d a b => some (fmtRR 1 d.toNat a.bits b.bits 9)
  | .shr d a b => some (fmtRR 1 d.toNat a.bits b.bits 10)
  | .sra d a b => some (fmtRR 1 d.toNat a.bits b.bits 11)
  | .min d a b => some (fmtRR 2 d.toNat a.bits b.bits 0)
  | .max d a b => some (fmtRR 2 d.toNat a.bits b.bits 1)
  | .minu d a b => some (fmtRR 2 d.toNat a.bits b.bits 2)
  | .maxu d a b => some (fmtRR 2 d.toNat a.bits b.bits 3)
  | .seq d a b => some (fmtRR 2 d.toNat a.bits b.bits 4)
  | .sne d a b => some (fmtRR 2 d.toNat a.bits b.bits 5)
  | .slt d a b => some (fmtRR 2 d.toNat a.bits b.bits 6)
  | .sltu d a b => some (fmtRR 2 d.toNat a.bits b.bits 7)
  | .sel d a b => some (fmtRR 2 d.toNat a.bits b.bits 8)
  | .clz d a => some (fmtRR 2 d.toNat a.bits 0 9)
  | .popc d a => some (fmtRR 2 d.toNat a.bits 0 10)
  | .sext d a n => some (fmtRR 2 d.toNat a.bits (2 * n.toNat) 11)
  | .zext d a n => some (fmtRR 2 d.toNat a.bits (2 * n.toNat) 12)
  | .mov d a => some (fmtRR 2 d.toNat a.bits 0 13)
  | .div d a b la => some (fmtRR 3 d.toNat a.bits b.bits (16 * 0 + la.toNat))
  | .divu d a b la => some (fmtRR 3 d.toNat a.bits b.bits (16 * 1 + la.toNat))
  | .rem d a b la => some (fmtRR 3 d.toNat a.bits b.bits (16 * 2 + la.toNat))
  | .remu d a b la => some (fmtRR 3 d.toNat a.bits b.bits (16 * 3 + la.toNat))
  | .addx d a b => some (fmtRR 4 d.toNat a.bits b.bits 0)
  | .subx d a b => some (fmtRR 4 d.toNat a.bits b.bits 1)
  | .shlix d a n => some (fmtRR 4 d.toNat a.bits (2 * n.toNat) 2)
  | .shrix d a n => some (fmtRR 4 d.toNat a.bits (2 * n.toNat) 3)
  | .sltux d a b => some (fmtRR 4 d.toNat a.bits b.bits 4)
  | .mand d a b => some (fmtRR 5 d.toNat a.bits b.bits 0)
  | .mor d a b => some (fmtRR 5 d.toNat a.bits b.bits 1)
  | .mxor d a b => some (fmtRR 5 d.toNat a.bits b.bits 2)
  | .mandn d a b => some (fmtRR 5 d.toNat a.bits b.bits 3)
  | .mnot d a => some (fmtRR 5 d.toNat a.bits 0 4)
  | .mmov d a => some (fmtRR 5 d.toNat a.bits 0 5)
  | .mall d => some (fmtRR 5 d.toNat 0 0 6)
  | .mclr d => some (fmtRR 5 d.toNat 0 0 7)
  | .mpopc d a => some (fmtRR 5 d.toNat a.bits 0 8)
  | .mffs d a => some (fmtRR 5 d.toNat a.bits 0 9)
  | .msetw d a b => some (fmtRR 5 d.toNat a.bits b.bits 10)
  | .mgetw d a b => some (fmtRR 5 d.toNat a.bits b.bits 11)
  | .msumw d a => some (fmtRR 5 d.toNat a.bits 0 12)
  | .exmset a => some (fmtRR 5 0 a.bits 0 13)
  | .exmget d => some (fmtRR 5 d.toNat 0 0 14)
  | .modew a => some (fmtRR 6 0 a.bits 0 0)
  | .srd d n => some (fmtN12 6 d.toNat n.toNat 1)
  | .swr n s => some (fmtN12 6 s.toNat n.toNat 2)
  | .stamp d => some (fmtRR 6 d.toNat 0 0 3)
  | .trap n => some (fmtN12 6 0 n.toNat 4)
  | .brk n => some (fmtN12 6 0 n.toNat 5)
  | .regacq k => some (fmtRR 6 0 0 (2 * k.toNat) 6)
  | .regacqNb d k => some (fmtRR 6 d.toNat 0 (2 * k.toNat) 7)
  | .regrel k => some (fmtRR 6 0 0 (2 * k.toNat) 8)
  | .node d a b => some (fmtRR 6 d.toNat a.bits b.bits 9)
  | .addi d a i => some (fmtRI 8 d.toNat a.bits i.toNat 0)
  | .andi d a i => some (fmtRI 9 d.toNat a.bits i.toNat 0)
  | .ori d a i => some (fmtRI 10 d.toNat a.bits i.toNat 0)
  | .xori d a i => some (fmtRI 11 d.toNat a.bits i.toNat 0)
  | .shli d a n => some (fmtRI 12 d.toNat a.bits n.toNat 0)
  | .shri d a n => some (fmtRI 12 d.toNat a.bits n.toNat 1)
  | .srai d a n => some (fmtRI 12 d.toNat a.bits (32 + n.toNat) 1)
  | .slti d a i => some (fmtRI 13 d.toNat a.bits i.toNat 0)
  | .sltiu d a i => some (fmtRI 13 d.toNat a.bits i.toNat 1)
  | .addix d a i => some (fmtRI 14 d.toNat a.bits i.toNat 0)
  | .lui d i => some (fmtI20 16 d.toNat i.toNat)
  | .addpc d i => some (fmtI20 17 d.toNat i.toNat)
  | .setmode i => some (fmtI20 18 0 i.toNat)
  | .vli d i => some (fmtI20 19 d.toNat i.toNat)
  | .br i => some (fmtSY 20 i.toNat)
  | .bz s i => some (fmtBS 21 s.toNat 0 i.toNat)
  | .bnz s i => some (fmtBS 21 s.toNat 1 i.toNat)
  | .bany m i => some (fmtBM 22 m.toNat 0 i.toNat)
  | .ball m i => some (fmtBM 22 m.toNat 1 i.toNat)
  | .bnone m i => some (fmtBM 22 m.toNat 2 i.toNat)
  | .callr a => some (fmtSY 23 (0 * 2 ^ 22 + a.bits * 2 ^ 15))
  | .jmpr a => some (fmtSY 23 (1 * 2 ^ 22 + a.bits * 2 ^ 15))
  | .ret => some (fmtSY 23 (2 * 2 ^ 22))
  | .eret => some (fmtSY 23 (3 * 2 ^ 22))
  | .entry => some (fmtSY 23 (4 * 2 ^ 22))
  | .exit => some (fmtSY 23 (5 * 2 ^ 22))
  | .nop => some (fmtSY 23 (6 * 2 ^ 22))
  | .yield => some (fmtSY 23 (7 * 2 ^ 22))
  | .sif m => some (fmtST 0 m.toNat 0)
  | .selse => some (fmtST 1 0 0)
  | .sendif => some (fmtST 2 0 0)
  | .sloop => some (fmtST 3 0 0)
  | .sbrk m d => some (fmtST 4 m.toNat (d.toNat * 2 ^ 11))
  | .scont m d => some (fmtST 5 m.toNat (d.toNat * 2 ^ 11))
  | .sendlp m i => some (fmtST 6 m.toNat i.toNat)
  | .vadd d a b => some (fmtRR 32 d.toNat a.bits b.bits 0)
  | .vsub d a b => some (fmtRR 32 d.toNat a.bits b.bits 1)
  | .vmul d a b => some (fmtRR 32 d.toNat a.bits b.bits 2)
  | .vmulh d a b => some (fmtRR 32 d.toNat a.bits b.bits 3)
  | .vmad d a b => some (fmtRR 32 d.toNat a.bits b.bits 4)
  | .vmin d a b => some (fmtRR 32 d.toNat a.bits b.bits 5)
  | .vmax d a b => some (fmtRR 32 d.toNat a.bits b.bits 6)
  | .vand d a b => some (fmtRR 33 d.toNat a.bits b.bits 0)
  | .vor d a b => some (fmtRR 33 d.toNat a.bits b.bits 1)
  | .vxor d a b => some (fmtRR 33 d.toNat a.bits b.bits 2)
  | .vandn d a b => some (fmtRR 33 d.toNat a.bits b.bits 3)
  | .vshl d a b => some (fmtRR 33 d.toNat a.bits b.bits 4)
  | .vshr d a b => some (fmtRR 33 d.toNat a.bits b.bits 5)
  | .vsra d a b => some (fmtRR 33 d.toNat a.bits b.bits 6)
  | .vcmp c d a b => some (fmtRR 34 d.toNat a.bits b.bits c.code)
  | .vabs d a => some (fmtRR 34 d.toNat a.bits 0 8)
  | .vneg d a => some (fmtRR 34 d.toNat a.bits 0 9)
  | .vmov d a => some (fmtRR 34 d.toNat a.bits 0 10)
  | .vlane d => some (fmtRR 34 d.toNat 0 0 11)
  | .vsel d a b k => some (fmtRR 34 d.toNat a.bits b.bits (16 + k.toNat))
  | .vaddi d a i => some (fmtRI 35 d.toNat a.bits i.toNat 0)
  | .vshli d a n => some (fmtRI 36 d.toNat a.bits n.toNat 0)
  | .vshri d a n => some (fmtRI 36 d.toNat a.bits n.toNat 1)
  | .vfadd d a b => some (fmtRR 40 d.toNat a.bits b.bits 0)
  | .vfsub d a b => some (fmtRR 40 d.toNat a.bits b.bits 1)
  | .vfmul d a b => some (fmtRR 40 d.toNat a.bits b.bits 2)
  | .vfma d a b => some (fmtRR 41 d.toNat a.bits b.bits 0)
  | .vfms d a b => some (fmtRR 41 d.toNat a.bits b.bits 1)
  | .vfnma d a b => some (fmtRR 41 d.toNat a.bits b.bits 2)
  | .vfmin d a b => some (fmtRR 42 d.toNat a.bits b.bits 0)
  | .vfmax d a b => some (fmtRR 42 d.toNat a.bits b.bits 1)
  | .vfminm d a b => some (fmtRR 42 d.toNat a.bits b.bits 2)
  | .vfmaxm d a b => some (fmtRR 42 d.toNat a.bits b.bits 3)
  | .vfabs d a => some (fmtRR 42 d.toNat a.bits 0 4)
  | .vfneg d a => some (fmtRR 42 d.toNat a.bits 0 5)
  | .vfsgn d a => some (fmtRR 42 d.toNat a.bits 0 6)
  | .vfsgnK d a => some (fmtRR 42 d.toNat a.bits 0 7)
  | .vfcmp c d a b => some (fmtRR 43 d.toNat a.bits b.bits c.code)
  | .vfcmpK c d a b => some (fmtRR 43 d.toNat a.bits b.bits (8 + c.code))
  | .vfclass d a => some (fmtRR 43 d.toNat a.bits 0 16)
  | .vfdiv d a b la => some (fmtRR 44 d.toNat a.bits b.bits (16 * 0 + la.toNat))
  | .vfsqrt d a la => some (fmtRR 44 d.toNat a.bits 0 (16 * 1 + la.toNat))
  | .vfrsq d a la => some (fmtRR 44 d.toNat a.bits 0 (16 * 2 + la.toNat))
  | .vfrcp d a la => some (fmtRR 44 d.toNat a.bits 0 (16 * 3 + la.toNat))
  | .vfexp2 d a la => some (fmtRR 45 d.toNat a.bits 0 (16 * 0 + la.toNat))
  | .vflog2 d a la => some (fmtRR 45 d.toNat a.bits 0 (16 * 1 + la.toNat))
  | .vcvt d a f sel => some (fmtRR 48 d.toNat a.bits (2 * f.toNat) sel.toNat)
  | .vqnt d a b f => some (fmtRR 48 d.toNat a.bits b.bits (32 + f.toNat))
  | .vpack d a b => some (fmtRR 49 d.toNat a.bits b.bits 0)
  | .vunpk d a sel => some (fmtRR 49 d.toNat a.bits (2 * sel.toNat) 1)
  | .vdot2 d a b => some (fmtRR 49 d.toNat a.bits b.bits 2)
  | .vdot4 d a b => some (fmtRR 49 d.toNat a.bits b.bits 3)
  | .vdot8 d a b => some (fmtRR 49 d.toNat a.bits b.bits 4)
  | .vshfl d a b la => some (fmtRR 50 d.toNat a.bits b.bits (16 * 0 + la.toNat))
  | .vbcast d a la => some (fmtRR 50 d.toNat a.bits 0 (16 * 1 + la.toNat))
  | .vext d a b la => some (fmtRR 50 d.toNat a.bits b.bits (16 * 2 + la.toNat))
  | .vins d a b la => some (fmtRR 50 d.toNat a.bits b.bits (16 * 3 + la.toNat))
  | .vredadd d a la => some (fmtRR 51 d.toNat a.bits 0 (16 * 0 + la.toNat))
  | .vredmax d a la => some (fmtRR 51 d.toNat a.bits 0 (16 * 1 + la.toNat))
  | .vredmin d a la => some (fmtRR 51 d.toNat a.bits 0 (16 * 2 + la.toNat))
  | .vscan d a la => some (fmtRR 51 d.toNat a.bits 0 (16 * 3 + la.toNat))
  | .ldU8 d mem => some (fmtMEM 56 d.toNat mem 0)
  | .ldS8 d mem => some (fmtMEM 56 d.toNat mem 1)
  | .ldU16 d mem => some (fmtMEM 56 d.toNat mem 2)
  | .ldS16 d mem => some (fmtMEM 56 d.toNat mem 3)
  | .ld d mem => some (fmtMEM 56 d.toNat mem 4)
  | .ldD d mem => some (fmtMEM 56 d.toNat mem 5)
  | .stB s mem => some (fmtMEM 56 s.toNat mem 6)
  | .stH s mem => some (fmtMEM 56 s.toNat mem 7)
  | .st s mem => some (fmtMEM 56 s.toNat mem 8)
  | .stD s mem => some (fmtMEM 56 s.toNat mem 9)
  | .pref mem => some (fmtMEM 56 0 mem 10)
  | .cwb mem => some (fmtMEM 56 0 mem 11)
  | .cinv mem => some (fmtMEM 56 0 mem 12)
  | .discard mem => some (fmtMEM 56 0 mem 13)
  | .vld d mem z => some (fmtMEM 57 d.toNat mem (0 + z.toNat))
  | .vst s mem z => some (fmtMEM 57 s.toNat mem (4 + z.toNat))
  | .vlds d mem z => some (fmtMEM 57 d.toNat mem (8 + z.toNat))
  | .vsts s mem z => some (fmtMEM 57 s.toNat mem (12 + z.toNat))
  | .atom o r d b la => some (fmtAT 0 o.code r.code d.toNat b.bits la.toNat)
  | .cas r d b la => some (fmtAT 0 7 r.code d.toNat b.bits la.toNat)
  | .red o r d b la => some (fmtAT 1 o.code r.code d.toNat b.bits la.toNat)
  | .stStrong r d b la => some (fmtAT 1 6 r.code d.toNat b.bits la.toNat)
  | .ldStrong r d b la => some (fmtAT 1 7 r.code d.toNat b.bits la.toNat)
  | .vatom o r d b la => some (fmtAT 2 o.code r.code d.toNat b.bits la.toNat)
  | .vcas r d b la => some (fmtAT 2 7 r.code d.toNat b.bits la.toNat)
  | .vred o r d b la => some (fmtAT 3 o.code r.code d.toNat b.bits la.toNat)
  | .vstStrong r d b la => some (fmtAT 3 6 r.code d.toNat b.bits la.toNat)
  | .vldStrong r d b la => some (fmtAT 3 7 r.code d.toNat b.bits la.toNat)
  | .fence k c uo cp d => some (fmtFence d.toNat c.fenceCode uo.toNat cp.toNat k.code)
  | .fwait a => some (fmtRR 59 0 a.bits 0 4)
  | .await d a => some (fmtRR 59 d.toNat a.bits 0 5)
  | .bellclr slot => some (fmtRR 59 0 0 (2 * slot.toNat) 6)
  | .bwait a b => some (fmtRR 59 0 a.bits b.bits 7)
  | .arrive d a => some (fmtRR 59 d.toNat a.bits 0 8)
  | .arrivePub d a => some (fmtRR 59 d.toNat a.bits 0 9)
  | .arriveDrop d a => some (fmtRR 59 d.toNat a.bits 0 10)
  | .arriveDropPub d a => some (fmtRR 59 d.toNat a.bits 0 11)
  | .join d a => some (fmtRR 59 d.toNat a.bits 0 12)
  | .leave d a => some (fmtRR 59 d.toNat a.bits 0 13)
  | .clead d a => some (fmtRR 59 d.toNat a.bits 0 14)
  | .bell c d slot a b => some (fmtRR 59 d.toNat a.bits b.bits (32 + 4 * c.code + slot.toNat))
  | .cpy d a b => some (fmtRR 60 d.toNat a.bits b.bits 0)
  | .cpyt d a b => some (fmtRR 60 d.toNat a.bits b.bits 1)
  | .gath d a => some (fmtRR 60 d.toNat a.bits 0 2)
  | .scat d a => some (fmtRR 60 d.toNat a.bits 0 3)
  | .cseal t => some (fmtRR 60 0 0 (2 * t.toNat) 4)
  | .cwany d a => some (fmtRR 60 d.toNat a.bits 0 5)
  | .cwall a => some (fmtRR 60 0 a.bits 0 6)
  | .cffr d a => some (fmtRR 60 d.toNat a.bits 0 7)
  | .ctclr a => some (fmtRR 60 0 a.bits 0 8)
  | .coll a => some (fmtRR 60 0 a.bits 0 9)
  | .mtile a b c la => some (fmtMX a.toNat b.toNat c.toNat 0 la.toNat)
  | .mma a b c la => some (fmtMX a.toNat b.toNat c.toNat 1 la.toNat)
  | .mzero a b la => some (fmtMX a.toNat b.toNat 0 2 la.toNat)
  | .maccrd a b la => some (fmtMX a.toNat b.toNat 0 3 la.toNat)
  | .maccwr a b la => some (fmtMX a.toNat b.toNat 0 4 la.toNat)
  | .maccld a b c la => some (fmtMX a.toNat b.toNat c.toNat 5 la.toNat)
  | .maccst a b c la => some (fmtMX a.toNat b.toNat c.toNat 6 la.toNat)
  | .acwin a b c la => some (fmtMX a.toNat b.toNat c.toNat 7 la.toNat)
  | .mplan a b c la => some (fmtMX a.toNat b.toNat c.toNat 8 la.toNat)
  | .mchk a b la => some (fmtMX a.toNat b.toNat 0 9 la.toNat)
  | .doorbell .. => none
  | .packetPrefetch .. => none
  | .drumRound => none
  | .graph .. => none
  | .nodePacket .. => none
  | .gang .. => none
  | .gangReserveRetry .. => none
  | .signal .. => none
  | .waitSignal .. => none
  | .rangeCommit .. => none
  | .marker .. => none
  | .create .. => none
  | .destroy .. => none
  | .update .. => none
  | .mapq .. => none
  | .unmapq .. => none
  | .resumeq .. => none
  | .preempt .. => none
  | .fwHandover .. => none
  | .fwHandoverSwitch => none
  | .teamPlacement => none
  | .slotYield .. => none
  | .teamExitComplete .. => none
  | .heldSuccessorEntry => none
  | .sliceEnd => none
  | .preemptionRequest => none
  | .contextSwitchIn => none
  | .shadowPreload => none
  | .stateSpill => none
  | .atomicPerform .. => none
  | .atomicReply .. => none
  | .writePerform .. => none
  | .copyPerform .. => none
  | .followOnIssue .. => none
  | .fenceComplete .. => none
  | .awaitTimeout .. => none
  | .collComplete .. => none
  | .kGroupStep .. => none
  | .matrixReset .. => none
  | .asyncTrapDelivery .. => none
  | .pageHomeChange .. => none
  | .invalidateContext .. => none
  | .invalidatePage .. => none
  | .tbloCapture => none
  | .registerWrite .. => none
  | .hostRequest .. => none
  | .peerRequest .. => none
  | .flitCrcError .. => none
  | .ucieLinkFailure .. => none
  | .eccError .. => none
  | .portBeatError .. => none
  | .dieLost .. => none
  | .hotSet .. => none
  | .hotClear .. => none
  | .powerThrottle => none
  | .setq0 => none
  | .route => none
  | .attest => none
  | .reset => none
  | .event => none
  | .coldReset => none
  | .ixletReset => none
  | .stop .. => none
  | .resume .. => none
  | .read .. => none
  | .write .. => none
  | .watch .. => none
  | .illegalOpcodeWord .. => none
  | .instructionFetchFault => none
  | .loadPerform .. => none
  | .throttleClear => none
  | .debugAttach .. => none

/-- The word of an instruction (07 R106). -/
def encode (i : Instr) : Option Word := (encodeNat i).map (BitVec.ofNat 32)

/-- Decoding a word: total, and rejecting by name (07 R112). -/
def decode (w : Word) : Except DecodeError Instr :=
  match parse w.toNat with
  | .error e => .error e
  | .ok i =>
    if !i.wf then .error .illegalOperand
    else if encodeNat i = some w.toNat then .ok i
    else .error .reservedField

/-- The word of four bytes in memory order, little-endian (07 R106). -/
def wordOfBytes (bs : List Byte) : Word := .ofNat 32 (leNat bs)

/-- Decoding the four bytes at an instruction address. -/
def decodeBytes (bs : List Byte) : Except DecodeError Instr := decode (wordOfBytes bs)

/-- The ENTRY word (09 R125). -/
def entryWord : Word := 0x5D000000#32

/-- The instruction that the decoder reads from an instruction whose bits are `w`, laid out as the
hardware stores a word.  Every K8 instruction is one 32-bit word, so the bits above `nbits` are zero. -/
def decodeTableWord (nbits w : Nat) : Option Instr :=
  (decodeBytes (leBytes 4 (w % 2 ^ nbits))).toOption

end Sys2Proof
end

