-- ==== Sys2Proof/Machine/Control.lean ====
section
/-!
DEFINITION. Branches, calls, transfers back and the structured opcodes: majors 0x14 to 0x18
(09 R125 to R135, 03 R40 to R42, R44).
-/
namespace Sys2Proof.Machine

/-! ### Branches and calls -/

/-- The address of a branch target: the branch's own address plus 4 × displacement (07 R107). -/
def branchTarget {n : Nat} (t : Team) (i : BitVec n) : Addr := t.pc + i.signExtend 64 <<< 2

/-- The link: the address of the next word in s63 (09 R126, R130). -/
def Team.linkTo (t : Team) : Team := t.setS 63 (lowWord (t.pc + 4#64))

/-- BR and CALL: one read of the target word, which the team executes next; an ENTRY there links (09 R126). -/
def execBr (i : BitVec 26) (s : State) : Result :=
  runRegs (fun _ => { dsts := [.s 63] })
    (fun t =>
      match fetchAt s t (branchTarget t i) with
      | .error e => .error e
      | .ok w =>
        .ok { (if w = entryWord then t.linkTo else t).goto (branchTarget t i) with fetched := some w }) s

/-- BZ and BNZ (09 R127). -/
def branchScalar (taken : Word → Bool) (r : Reg) (i : BitVec 19) : State → Result :=
  runRegs (fun _ => { srcs := [⟨.s r, false⟩] })
    fun t => .ok (if taken (t.sval r) then t.goto (branchTarget t i) else t.advance)

def execBz (r : Reg) (i : BitVec 19) (s : State) : Result := branchScalar (fun v => v == 0) r i s
def execBnz (r : Reg) (i : BitVec 19) (s : State) : Result := branchScalar (fun v => v != 0) r i s

/-- BANY, BALL and BNONE; ILLEGAL_MODE in structured style (09 R128, 03 R41). -/
def branchMask (taken : LaneBits → LaneBits → Bool) (m : MReg) (i : BitVec 20) : State → Result :=
  runRegs (fun t =>
      { srcs := [⟨.m m, false⟩], exm := true,
        early := if t.structured then some (.at .illegalMode 0 0) else none })
    fun t => .ok (if taken (t.mbits m) t.exm then t.goto (branchTarget t i) else t.advance)

def execBany (m : MReg) (i : BitVec 20) (s : State) : Result := branchMask (fun b e => b &&& e != 0) m i s
def execBall (m : MReg) (i : BitVec 20) (s : State) : Result := branchMask (fun b e => e &&& ~~~b == 0) m i s
def execBnone (m : MReg) (i : BitVec 20) (s : State) : Result := branchMask (fun b e => b &&& e == 0) m i s

/-- CALLR and JMPR: the checks of 09 R130, each before any effect. -/
def jumpPair (link : Bool) (a : Src) (s : State) : Result :=
  runRegs (fun _ => { srcs := [⟨.pair a.reg, a.last⟩], dsts := if link then [.s 63] else [] })
    (fun t =>
      let target := t.pair a.reg
      if target.toNat % 4 ≠ 0 then raiseAt .misaligned target
      else match fetchAt s t target with
        | .error e => .error e
        | .ok w =>
          if w ≠ entryWord then .error (.seen (s.placesAt t [target]) (.trap (.at .entryMissing target 0)))
          else .ok { (if link then t.linkTo else t).goto target with fetched := some w }) s

def execCallr (a : Src) (s : State) : Result := jumpPair true a s
def execJmpr (a : Src) (s : State) : Result := jumpPair false a s

/-- RET: within the 4 GiB region of the RET itself (09 R131). -/
def execRet (s : State) : Result :=
  runRegs (fun _ => { srcs := [⟨.s 63, false⟩] })
    (fun t =>
      let target := joinPair (t.sval 63) (highWord t.pc)
      if (t.sval 63).toNat % 4 ≠ 0 then raiseAt .misaligned target else .ok (t.goto target)) s

/-- ERET returns through the frame at stack offset s62 (09 R134); a watch sees the frame's read. -/
def execEret (s : State) : Result :=
  runState (fun _ _ => { srcs := [⟨.s 62, false⟩], dsts := [.s 63, .s 62] })
    (fun t s =>
      match returnFromTrap t s with
      | .error x => .error x
      | .ok s' => .ok (s', [⟨stackAddr t (t.sval 62), 32, false, none⟩])) s

/-- ENTRY only advances PC (09 R132). -/
def execEntry (s : State) : Result := runRegs (fun _ => {}) (fun t => .ok t.advance) s

/-- NOP only advances PC (09 R132). -/
def execNop (s : State) : Result := runRegs (fun _ => {}) (fun t => .ok t.advance) s

/-- YIELD ends every open promise; its effect on issue priority changes no result (09 R132, 03 R58). -/
def execYield (s : State) : Result :=
  runRegs (fun _ => {}) (fun t => .ok { t with promises := [] }.advance) s

/-- EXIT ends the team (03 R44).  The faults of follow-ons that no wait reported are delivered first
(13 R211). -/
def execExit (s : State) : Result :=
  match s.curTeam with
  | none => .fault .noTeam
  | some t =>
    match t.followFaults with
    | [] => .next (s.exitTeam t)
    | (cs, x) :: rest =>
      if s.frameHeld t then .next (s.stall t)
      else
        let t1 := { t with followFaults := rest }
        .next (((s.putTeam t1).takeTrap t1 x).discardRest t1.id (some cs) x)

/-! ### Structured opcodes (03 R42) -/

/-- The counters of all lanes below TW. -/
def Team.counters (t : Team) : List Nat := (List.range t.tw).map fun l => (t.nestAt l).toNat

def Team.setCounters (t : Team) (cs : List Nat) : Team := { t with nest := cs.map (BitVec.ofNat 8) }

/-- Whether the new counters fit in 8 bits; if not, NEST_OVERFLOW before any counter changes. -/
def countersFit (cs : List Nat) : Bool := cs.all fun c => c ≤ 255

/-- ILLEGAL_MODE in mask style (03 R41). -/
def structuredOnly (t : Team) : Option Trap := if t.structured then none else some (.at .illegalMode 0 0)

/-- A structured opcode with a condition mask: `f cond c` is a lane's new counter. -/
def nestWith (m : MReg) (f : Bool → Nat → Nat) : State → Result :=
  runRegs (fun t => { srcs := [⟨.m m, false⟩], early := structuredOnly t })
    fun t =>
      let cs := t.counters.mapIdx fun l c => f ((t.mbits m).getLsbD l) c
      if countersFit cs then .ok (t.setCounters cs).advance else raiseAt .nestOverflow

/-- A structured opcode without one. -/
def nestAll (f : Nat → Nat) : State → Result :=
  runRegs (fun t => { early := structuredOnly t })
    fun t =>
      let cs := t.counters.map f
      if countersFit cs then .ok (t.setCounters cs).advance else raiseAt .nestOverflow

def execSif (m : MReg) (s : State) : Result :=
  nestWith m (fun cond c => if c ≠ 0 then c + 1 else if cond then 0 else 1) s
def execSelse (s : State) : Result := nestAll (fun c => if c = 0 then 1 else if c = 1 then 0 else c) s
def execSendif (s : State) : Result := nestAll (fun c => c - 1) s
def execSloop (s : State) : Result := nestAll (fun c => if c ≠ 0 then c + 2 else 0) s
def execSbrk (m : MReg) (d : BitVec 8) (s : State) : Result :=
  nestWith m (fun cond c => if c = 0 ∧ cond then d.toNat + 2 else c) s
def execScont (m : MReg) (d : BitVec 8) (s : State) : Result :=
  nestWith m (fun cond c => if c = 0 ∧ cond then d.toNat + 1 else c) s

/-- The two passes of SENDLP over a lane's counter. -/
def sendlpLane (cond : Bool) (c : Nat) : Nat :=
  let c1 := if c = 1 then 0 else c
  if c1 = 0 ∧ cond = false then 2 else c1

/-- The last pass of SENDLP, when no lane goes on. -/
def sendlpLeave (c : Nat) : Nat := if c = 2 then 0 else if 2 < c then c - 2 else c

/-- SENDLP: back to the loop top while some lane's counter is 0 (03 R42). -/
def execSendlp (m : MReg) (i : BitVec 19) (s : State) : Result :=
  runRegs (fun t => { srcs := [⟨.m m, false⟩], early := structuredOnly t })
    (fun t =>
      let cs := t.counters.mapIdx fun l c => sendlpLane ((t.mbits m).getLsbD l) c
      if cs.any (fun c => c == 0) then .ok ((t.setCounters cs).goto (branchTarget t i))
      else .ok (t.setCounters (cs.map sendlpLeave)).advance) s

end Sys2Proof.Machine
end

