-- ==== Sys2Proof/Machine/Sync.lean ====
section
/-!
DEFINITION. Fences, bells, barriers and cohorts: major 0x3B (13 R197 to R205, 03 R45 to R51, 15 R235).
-/
namespace Sys2Proof.Machine

/-! ### Fences (13 R197, R198) -/

/-- The accesses and copies in flight that a fence issued now covers. -/
def coverSet (s : State) (t : Team) (uo cp : Bool) : List Nat :=
  let acc := s.flight.accesses.filter fun a => a.team == t.id && (a.covered || uo)
  let sealed_ := (s.flight.batches.filter fun b => b.team == t.id).flatMap (·.copies)
  let cps := if cp then (s.flight.copies.filter fun c => sealed_.contains c.id).map (·.id) else []
  acc.map (·.id) ++ cps

/-- The acquire of a completed fence (15 R225, R229). -/
def fenceAcquires (k : FenceKind) (c : Scope) : Option Scope :=
  match k with
  | .rl => none
  | .aq | .ar | .sc => some c

/-- A fence that covers nothing more completes (13 R198). -/
def State.fenceDone (s : State) (t : Team) (k : FenceKind) (c : Scope) : State :=
  s.acquireAt (towerOf t.core) (fenceAcquires k c)

/-- FENCE writes its ticket without waiting. -/
def execFence (k : FenceKind) (c : Scope) (uo cp : Bool) (d : Reg) (s : State) : Result :=
  runState (fun _ _ => { dsts := [.s d], ordered := true })
    (fun t s =>
      let cover := coverSet s t uo cp
      let t1 := { (t.setS d t.nextTicket).advance with nextTicket := t.nextTicket + 1 }
      if cover = [] then .ok ((s.putTeam t1).fenceDone t k c, [])
      else .ok (s.putTeam { t1 with fences := t1.fences ++ [⟨t.nextTicket, k, c, cover⟩] }, [])) s

/-- FWAIT t blocks until every fence with (t − u) mod 2^32 < 2^31 has completed. -/
def execFwait (a : Src) (s : State) : Result :=
  runRegs (fun _ => { srcs := [⟨.s a.reg, a.last⟩] })
    (fun t =>
      if t.fences.any fun f => (t.sval a.reg - f.ticket).toNat < 2 ^ 31 then .error .stall
      else .ok t.advance) s

/-! ### Bells (13 R199 to R202, 15 R235 to R238) -/

/-- The alignment of the b field of BELL (13 R199). -/
def bellAlign (c : BellCond) (w : Option Nat) : Nat :=
  match c with
  | .maskeq => if w = some 8 then 4 else 2
  | .eq | .ne | .lt | .ge | .ltu | .geu => if w = some 8 then 2 else 1

def bellTrap (t : Team) (c : BellCond) (b : Reg) : Option Trap :=
  if b.toNat % bellAlign c (typeWidth t.type) ≠ 0 then some (.at .illegalOpcode 0 0)
  else if typeWidth t.type = none then some (.at .illegalMode 0 0)
  else none

/-- The operand that b names. -/
def bellOpnd (c : BellCond) (w : Nat) (b : Reg) : Opnd :=
  match c with
  | .maskeq => if w = 8 then .quad b else .pair b
  | .eq | .ne | .lt | .ge | .ltu | .geu => if w = 8 then .pair b else .s b

/-- Every armed bell of the package: those of the teams' slots and those of waiting queues. -/
def State.armedBells (s : State) : List Armed :=
  (s.teams.flatMap fun t => t.bells.toList.filterMap (·.armed))
    ++ s.fe.queues.toList.filterMap fun q =>
      match q.wait with
      | .signal b _ => b
      | .none => none
      | .gang => none

/-- Bells that a home's table holds, and that its overflow list holds (15 R235, R238). -/
def State.tableCount (s : State) (home : Nat) (listed : Bool) : Nat :=
  (s.armedBells.filter fun b => b.home == home && b.listed == listed).length

/-- Where a further bell at a home goes: its table, its list, or nowhere (15 R238). -/
def State.bellRoom (s : State) (home : Nat) : Option Bool :=
  if s.tableCount home false < 16384 then some false
  else if s.tableCount home true < fld 0 16 s.dev.regs.ovfcap.toNat then some true
  else none

def Team.setSlot (t : Team) (slot : BitVec 2) (b : BellSlot) : Team :=
  { t with bells := t.bells.set slot.toNat b slot.isLt }

/-- A further bell takes its place: on an overflow list it occupies the list's next 32 bytes, whose contents no rule
gives (15 R238, 25 R350; log entry 80). -/
def State.listBell (s : State) (a : Armed) (team slot : Nat) : State :=
  if a.listed then
    let r := s.dev.regs
    let area := r.ovfhi.toNat * 2 ^ 32 + r.ovflo.toNat
    let entry := area + 32 * ((fld 0 16 r.ovfcap.toNat) * a.home + s.tableCount a.home true)
    s.writeLoc (physical entry) ((List.range 32).map (Config.overflowByte a.loc team slot))
  else s

/-- BELL: one atomic step at the home (13 R200).  A word of the control aperture, for which R235 names no home, counts at
base die 0 (DESIGN CHOICE, log entry 81).  POISON names the operand's address, as in ARRIVE and BWAIT, whichever of the two
4-byte words is poisoned (DESIGN CHOICE, log entry 127). -/
def execBell (c : BellCond) (d : Reg) (slot : BitVec 2) (a b : Src) (s : State) : Result :=
  runState (fun t _ =>
      { srcs := [⟨.pair a.reg, a.last⟩, ⟨bellOpnd c t.width b.reg, b.last⟩], dsts := [.s d],
        ordered := true, early := bellTrap t c b.reg })
    (fun t s =>
      let f : AForm := .absolute (t.pair a.reg)
      let w := t.width
      match accessPlace s t f w w .read with
      | .error e => .error e
      | .ok p =>
        if p.region = .hostCoherent ∨ p.region = .hostLink ∨ p.region = .peer then
          .error ((Stop.trap (.at .permission (t.pair a.reg) 3)).checked [p])
        else if s.heldBack (t.access f p w (.strongLoad (.scalar d false 0)) none none false) then
          .error (Stop.stall.checked [p])
        else
          let home := (p.home t.core).getD 0
          let t1 := (t.setSlot slot .off).advance
          let s1 := ((s.touch t.ctx [p]).servedAtHome (towerOf t.core) [p]).putTeam t1
          let tch : List Touch := [⟨t.pair a.reg, w, false, none⟩]
          if s.mem.anyBad p.loc w then
            .ok (s1.putTeam ((t1.setSP d (t.sval d) true).pend (poisonPend t.pc (t.pair a.reg))), tch)
          else
            let wide := w = 8
            let val : Addr := if wide then t.pair b.reg else (t.sval b.reg).setWidth 64
            let mask : Addr := match c with
              | .maskeq => if wide then t.pair (b.reg + 2#6) else (t.sval (b.reg + 1#6)).setWidth 64
              | .eq | .ne | .lt | .ge | .ltu | .geu => 0
            let bell : Armed := ⟨p.loc, w, home, c, val, mask, false⟩
            if bell.holds (.ofNat 64 (leNat (s.readPlace p w))) then .ok (s1.putTeam (t1.setS d 1), tch)
            else match s1.bellRoom home with
              | none => .error (.seen [p] .stall)
              | some listed =>
                .ok ((s1.listBell { bell with listed } t.id slot.toNat).modTeam t.id fun u =>
                  (u.setS d 0).setSlot slot ⟨some { bell with listed }, false⟩, tch)) s

/-- BELLCLR disarms the slot and clears its mark (13 R201). -/
def execBellclr (slot : BitVec 2) (s : State) : Result :=
  runRegs (fun _ => {}) (fun t => .ok (t.setSlot slot .off).advance) s

/-- The lowest slot marked fired. -/
def Team.firedSlot (t : Team) : Option (BitVec 2) :=
  [0#2, 1#2, 2#2, 3#2].find? fun k => (t.bells[k.toNat]'(k.isLt)).fired

/-- AWAIT (13 R202): a fired slot, no armed slot, or parked until a fire or the deadline. -/
def execAwait (d : Reg) (a : Src) (s : State) : Result :=
  match s.curTeam with
  | none => .fault .noTeam
  | some t0 =>
    let sh : Shape := { srcs := [⟨.s a.reg, a.last⟩], dsts := [.pair d] }
    let ticks := (t0.sval a.reg).toNat
    let parks := t0.firedSlot = none ∧ (t0.bells.any fun b => b.armed.isSome) ∧ ticks ≠ 0
    if parks ∧ sh.check t0 s = none then
      .next (s.putTeam { t0.begin with
        fetched := some s.sched.iw
        cond := .parkedAwait d a (if ticks = 0xFFFFFFFF then none else some ((s.coreTime t0.core).toNat + ticks)) })
    else
      runRegs (fun _ => sh)
        (fun t =>
          match t.firedSlot with
          | some k =>
            let slot := t.bells[k.toNat]'(k.isLt)
            .ok (((t.setSlot k { slot with fired := false }).setPair d
              (joinPair 0 (k.setWidth 32))).advance)
          | none =>
            if t.bells.any fun b => b.armed.isSome then .ok (t.setPair d (joinPair 1 0xFFFFFFFF#32)).advance
            else .ok (t.setPair d (joinPair 2 0xFFFFFFFF#32)).advance) s

/-! ### Barriers (03 R50, R51; 13 R203, R204) -/

/-- The checks of a barrier word's address (03 R50). -/
def barrierPlace (s : State) (t : Team) (va : Addr) (i : Intent) : Except Stop Place :=
  if va.toNat % 8 ≠ 0 then raiseAt .misaligned va
  else if va.toNat < vaultWindow then raiseAt .permission va 3
  else checkPlace s t va i

/-- The fields of a barrier word. -/
def arrived (w : Nat) : Nat := fld 0 7 w
def expect (w : Nat) : Nat := fld 8 7 w
def phase (w : Nat) : Nat := fld 16 32 w

/-- The word after an arrival (03 R51). -/
def arrival (drop : Bool) (w : Nat) : Nat :=
  let full := expect w = 0 ∨ expect w ≤ arrived w + 1
  let a := if full then 0 else arrived w + 1
  let p := if full then (phase w + 1) % 2 ^ 32 else phase w
  let e := if drop ∧ 0 < expect w then expect w - 1 else expect w
  a + fld 7 1 w * 2 ^ 7 + e * 2 ^ 8 + fld 15 1 w * 2 ^ 15 + p * 2 ^ 16 + fld 48 16 w * 2 ^ 48

/-- ARRIVE and its kinds: the arrival is a strong write with release, which waits for the team's accesses in flight that
lo places before it (15 R224), under PUB for all of them (13 R204). -/
def arrive (drop pub : Bool) (d : Reg) (a : Src) : State → Result :=
  runState (fun _ _ => { srcs := [⟨.pair a.reg, a.last⟩], dsts := [.s d], ordered := true })
    fun t s =>
      let va := t.pair a.reg
      match barrierPlace s t va .write with
      | .error e => .error e
      | .ok p =>
        let own := s.flight.accesses.filter fun x => x.team == t.id && !x.kind.isReply
        let write := t.access (.absolute va) p 8 (.strongStore []) none (some .co) false
        if s.heldBack write || (pub && own != []) then .error (Stop.stall.checked [p])
        else
          let t1 := t.advance
          let s1 := s.touch t.ctx [p]
          let tch : List Touch := [⟨va, 8, false, none⟩, ⟨va, 8, true, none⟩]
          if s.mem.anyBad p.loc 8 then
            .ok (s1.putTeam ((t1.setSP d (t1.sval d) true).pend (poisonPend t.pc va)), tch)
          else
            let w := leNat (s.readPlace p 8)
            .ok ((s1.putTeam (t1.setS d (.ofNat 32 (phase w)))).teamWrite (towerOf t.core) p
              (leBytes 8 (arrival drop w)), tch)

def execArrive (d : Reg) (a : Src) (s : State) : Result := arrive false false d a s
def execArrivePub (d : Reg) (a : Src) (s : State) : Result := arrive false true d a s
def execArriveDrop (d : Reg) (a : Src) (s : State) : Result := arrive true false d a s
def execArriveDropPub (d : Reg) (a : Src) (s : State) : Result := arrive true true d a s

/-- BWAIT returns when the phase differs, else parks the team until a write changes the phase; a team so woken has
waited, and the instruction completes (03 R51). -/
def execBwait (a b : Src) (s : State) : Result :=
  match s.curTeam with
  | none => .fault .noTeam
  | some t0 =>
    let sh : Shape := { srcs := [⟨.pair a.reg, a.last⟩, ⟨.s b.reg, b.last⟩], ordered := true }
    let va := t0.pair a.reg
    let done (s1 : State) : Result :=
      s.completed t0 (s1.putTeam (sh.retire t0.begin.advance)) [⟨va, 8, false, none⟩]
    if t0.cond = .woken then done s
    else match sh.check t0 s with
    | some e => finish s t0 (.error e)
    | none =>
      match barrierPlace s t0 va .read with
      | .error e => finish s t0 (.error e)
      | .ok p =>
        if s.heldBack (t0.access (.absolute va) p 8 (.strongLoad (.scalar 0 true 0)) (some .co) none false) then
          finish s t0 (.error (Stop.stall.checked [p]))
        else if s.mem.anyBad p.loc 8 then finish s t0 (.error (.seen [p] (.trap (.at .poison va 1))))
        else
          let s1 := s.touch t0.ctx [p]
          if phase (leNat (s.readPlace p 8)) = (t0.sval b.reg).toNat then
            .next (s1.putTeam { t0.begin with
              fetched := some s.sched.iw, cond := .parkedBarrier p.loc (t0.sval b.reg) })
          else done s1

/-! ### Cohorts (03 R45 to R49; 13 R203, R205) -/

/-- The cohort of a handle in the team's context and tower. -/
def State.cohort? (s : State) (t : Team) (h : BitVec 16) : Option Cohort :=
  s.cohorts.find? fun c => c.ctx == t.ctx && c.tower == towerOf t.core && c.handle == h

/-- Whether the team is a member of the cohort that a handle names. -/
def Team.memberOf (t : Team) (h : BitVec 16) : Bool := h != 0 && (t.cid0 == h || t.cid1 == h)

/-- JOIN's status and effect (03 R47). -/
def State.join (s : State) (t : Team) (h : BitVec 16) : Nat × State × Team :=
  let tower := towerOf t.core
  let named : Team := if t.cid0 = 0 then { t with cid0 := h } else { t with cid1 := h }
  if t.memberOf h then (4, s, t)
  else if t.cid0 != 0 && t.cid1 != 0 then (3, s, t)
  else match s.cohort? t h with
    | some c =>
      if 64 ≤ c.members.length then (2, s, t)
      else
        let put (x : Cohort) : Cohort :=
          if x.ctx = t.ctx ∧ x.tower = tower ∧ x.handle = h then { x with members := x.members ++ [t.id] } else x
        (0, { s with cohorts := s.cohorts.map put }, named)
    | none =>
      if 1024 ≤ (s.cohorts.filter fun c => c.tower == tower).length then (5, s, t)
      else (1, { s with cohorts := s.cohorts ++ [⟨t.ctx, tower, h, [t.id]⟩] }, named)

def execJoin (d : Reg) (a : Src) (s : State) : Result :=
  runState (fun _ _ => { srcs := [⟨.s a.reg, a.last⟩], dsts := [.s d] })
    (fun t s =>
      let h : BitVec 16 := (t.sval a.reg).setWidth 16
      if h = 0 then raiseAt .illegalMode
      else
        let (status, s1, t1) := s.join t h
        .ok (s1.putTeam (t1.setS d (.ofNat 32 status)).advance, [])) s

/-- LEAVE: status 0, or 1 for a cohort the team does not belong to (03 R48). -/
def execLeave (d : Reg) (a : Src) (s : State) : Result :=
  runState (fun _ _ => { srcs := [⟨.s a.reg, a.last⟩], dsts := [.s d] })
    (fun t s =>
      let h : BitVec 16 := (t.sval a.reg).setWidth 16
      if t.memberOf h then
        let t1 := { t with cid0 := if t.cid0 = h then 0 else t.cid0, cid1 := if t.cid1 = h then 0 else t.cid1 }
        .ok ({ s with cohorts := leaveCohort s.cohorts t.ctx (towerOf t.core) h t.id }.putTeam
          (t1.setS d 0).advance, [])
      else .ok (s.putTeam (t.setS d 1).advance, [])) s

/-- CLEAD: the team's age rank and the member count (13 R205). -/
def execClead (d : Reg) (a : Src) (s : State) : Result :=
  runRegs (fun _ => { srcs := [⟨.s a.reg, a.last⟩], dsts := [.s d] })
    (fun t =>
      let h : BitVec 16 := (t.sval a.reg).setWidth 16
      let v : Nat :=
        if t.memberOf h then
          match s.cohort? t h with
          | some c => c.members.idxOf t.id + c.members.length * 2 ^ 8
          | none => 2 ^ 31
        else 2 ^ 31
      .ok (t.setS d (.ofNat 32 v)).advance) s

/-- The CID register that holds a handle, as it reads (03 R49). -/
def cidWord (s : State) (t : Team) (h : BitVec 16) : Word :=
  if h = 0 then 0
  else match s.cohort? t h with
    | none => 0
    | some c =>
      .ofNat 32 (h.toNat + (c.members.head? == some t.id).toNat * 2 ^ 16 + c.members.length * 2 ^ 24)

end Sys2Proof.Machine
end

