-- ==== Sys2Proof/Machine/Matrix.lean ====
section
/-!
DEFINITION. Matrix instructions: major 0x3D (17 R250 to R268).
-/
namespace Sys2Proof.Machine

/-! ### Votes, windows, tiles -/

/-- The vote (17 R250): the format word of every active lane, `none` with no active lane. -/
def vote (t : Team) (a : Reg) : Except Stop (Option Word) :=
  match t.active with
  | [] => .ok none
  | l :: ls => if ls.all fun k => t.vval a k == t.vval a l then .ok (some (t.vval a l)) else raiseAt .formatDivergence

/-- The lowest of `n` rows from `first` on that lies outside the window [b, l), or at or above 256 (17 R254, R263). -/
def windowFail (b l first n : Nat) : Option Nat :=
  let e := min l 256
  if n = 0 then none
  else if first < b ∨ e ≤ first then some first
  else if e < first + n then some e
  else none

/-- ACC_WINDOW at the lowest failing row. -/
def windowCheck (b e first n : Nat) : Except Stop Unit :=
  match windowFail b e first n with
  | none => .ok ()
  | some r => raiseAt .accWindow (.ofNat 64 r)

/-- `n` bytes that must lie in the local-store window: PERMISSION outside it, TRANSLATION beyond 1 MiB
(17 R257). -/
def tileBytes (s : State) (t : Team) (va : Addr) (n : Nat) (i : Intent) : Except Stop Nat :=
  if va.toNat < localWindow then raiseAt .permission va 3
  else match checkPlace s t va i with
    | .error e => .error e
    | .ok p =>
      if 2 ^ 20 < va.toNat - localWindow + n then raiseAt .translation (.ofNat 64 (localWindow + 2 ^ 20)) 2
      else .ok p.loc

/-- A poisoned word among the bytes an instruction reads for itself (DEDUCED, log entry 13). -/
def readClean (s : State) (va : Addr) (loc n : Nat) : Except Stop Nat :=
  match (List.range (n / 4)).find? fun i => s.mem.wordBad (loc + 4 * i) with
  | some i => raiseAt .poison (va + .ofNat 64 (4 * i)) 1
  | none => .ok (s.mem.nat loc n)

/-- The traps of a list of conditions, first that fails. -/
def require (c : Bool) (x : Trap) : Except Stop Unit := if c then .ok () else .error (.trap x)

/-- A context that does not claim accumulator rows and sequencer state (19 R291). -/
def matrixClaim (s : State) (t : Team) : Option Trap :=
  let c := (s.ctxOf t).claim
  if c.getLsbD 1 && c.getLsbD 3 then none else some (.at .illegalMode 0 0)

/-! ### MTILE and MMA (17 R252, R256, R257, R259) -/

def matrixShape (a b c : Reg) (la : BitVec 4) (t : Team) (s : State) : Shape where
  srcs := [⟨.v a, false⟩, ⟨.s b, false⟩, ⟨.quad c, false⟩]
  vector := true
  la := la.toNat
  alone := true
  early := matrixClaim s t

/-- The DFM bits that govern a format word: those of AFMT and BFMT, and 24 for FP64 accumulation (17 R252). -/
def wordBits (w : Word) : List Nat := [wordA w, wordB w] ++ if wordC w = 0x18 then [24] else []

/-- The bytes of each A block that are read: descriptors, and the declared planes (17 R247, R257). -/
def blockRead (w : Word) : Nat := planeBase (wordA w) + 256 * wordPlanes w

/-- The addresses of the blocks of an A tile of m rows and k columns (17 R247). -/
def blockAddrs (w : Word) (base : Addr) (m k : Nat) : List Addr :=
  (List.range ((m + 63) / 64 * ((k + 15) / 16))).map fun i => base + .ofNat 64 (i * blockSize (wordA w))

/-- What the records of MTILE, or MMA's fixed shapes, say of the operands. -/
structure TileDims where
  aAddr : Addr
  bAddr : Addr
  bPitch : Nat
  m : Nat
  k : Nat
  n : Nat
deriving DecidableEq, Repr

/-- MTILE's records (17 R257, checks 1 to 3). -/
def tileRecords (s : State) (t : Team) (w : Word) (pa pb : Addr) : Except Stop TileDims := do
  require (pa.toNat % 16 == 0) (.at .misaligned pa 0)
  require (pb.toNat % 16 == 0) (.at .misaligned pb 0)
  let la ← tileBytes s t pa 16 .read
  let lb ← tileBytes s t pb 16 .read
  let ra ← readClean s pa la 16
  let rb ← readClean s pb lb 16
  let a := ShapeRec.ofNat ra
  let b := ShapeRec.ofNat rb
  require (!a.malformed && !b.malformed && a.layout == 1 && b.layout == 0 && a.fmt == wordA w
    && b.fmt == wordB w && a.cols == b.rows && b.cols ≤ 64) (.at .illegalMode 0 0)
  return ⟨a.addr, b.addr, b.pitch, a.rows, a.cols, b.cols⟩

/-- MMA's operands (17 R257, check 3). -/
def blockDims (w : Word) (pa pb : Addr) : Except Stop TileDims := do
  require (fieldWidth (wordB w) != 6) (.at .illegalMode 0 0)
  return ⟨pa, pb, rowBytes (wordB w) 64, 64, 16, 64⟩

/-- The trap of `n` bytes read at an address. -/
def tileFail (s : State) (t : Team) (n : Nat) (va : Addr) : Option Stop :=
  match tileBytes s t va n .read with
  | .error e => some e
  | .ok _ => none

/-- The blocks of A, or the rows of B, lie in the local store: `n` bytes at each address, in order. -/
def tilePieces (s : State) (t : Team) (n : Nat) (vas : List Addr) : Except Stop Unit :=
  match vas.findSome? (tileFail s t n) with
  | some e => .error e
  | none => .ok ()

/-- Check 6 of 07 R113 for MTILE and MMA, and what the sequencer captures; nothing with no active lane. -/
def matrixChecks (s : State) (t : Team) (tile : Bool) (iw : Word) (a b c : Reg) :
    Except Stop (Option (MatrixOp × List Touch)) := do
  match ← vote t a with
  | none => return none
  | some w =>
    let nvr := (s.ctxOf t).nvr
    require (wordLegal nvr w) (.at .illegalMode 0 0)
    match featureTrap s t.core (wordBits w) with
    | some x => throw (.trap x)
    | none => pure ()
    let control := t.sval b
    require (fld 9 23 control.toNat == 0) (.at .illegalMode 0 0)
    let pa := t.pair c
    let pb := t.pair (c + 2#6)
    let d ← if tile then tileRecords s t w pa pb else blockDims w pa pb
    require (d.aAddr.toNat % 256 == 0) (.at .misaligned d.aAddr 0)
    require (d.bAddr.toNat % 4 == 0 && (!tile || d.bPitch % 4 == 0)) (.at .misaligned d.bAddr 0)
    let rb := rowBytes (wordB w) d.n
    let blocks := blockAddrs w d.aAddr d.m d.k
    let rows := (List.range d.k).map fun k => d.bAddr + .ofNat 64 (k * d.bPitch)
    tilePieces s t (blockRead w) blocks
    let aLoc ← tileBytes s t d.aAddr (blockRead w) .read
    tilePieces s t rb rows
    let bLoc ← tileBytes s t d.bAddr rb .read
    windowCheck t.acb.toNat t.acl.toNat (fld 0 8 control.toNat) (accRows (wordC w) * d.m)
    let recs := if tile then [⟨pa, 16, false, none⟩, ⟨pb, 16, false, none⟩] else []
    let touches := recs ++ blocks.map (fun va => ⟨va, blockRead w, false, none⟩)
      ++ rows.map fun va => ⟨va, rb, false, none⟩
    return some
      (⟨iw, t.pc, w, control, aLoc, bLoc, d.bPitch, d.m, d.k, d.n, t.acb.toNat, t.acl.toNat, nvr, 0, 0, none, false⟩,
        touches)

/-- MTILE and MMA: after the checks the sequencer holds the instruction. -/
def matrixIssue (tile : Bool) (a b c : Reg) (la : BitVec 4) : State → Result :=
  runState (matrixShape a b c la)
    fun t s =>
      match matrixChecks s t tile s.sched.iw a b c with
      | .error e => .error e
      | .ok none => .ok (s.putTeam t.advance, [])
      | .ok (some (o, xs)) => .ok (s.putTeam { t.advance with matrix := t.matrix ++ [o] }, xs)

def execMtile (a b c : Reg) (la : BitVec 4) (s : State) : Result := matrixIssue true a b c la s
def execMma (a b c : Reg) (la : BitVec 4) (s : State) : Result := matrixIssue false a b c la s

/-! ### Accumulator transfers (17 R262 to R264) -/

/-- Cell `f` of a core's file as its context sees it: cell f mod 64 of row f div 64. -/
def flatKey (t : Team) (f : Nat) : Nat := cellKey t.ctx t.core (f / 64) (f % 64)

/-- The window check of a lane-addressed transfer: the lowest failing lane. -/
def flatCheck (t : Team) (f0 : Nat) : Except Stop Unit :=
  match t.active.find? fun l => (windowFail t.acb.toNat t.acl.toNat ((f0 + l) / 64) 1).isSome with
  | none => .ok ()
  | some l => .error (.trap { Trap.at .accWindow (.ofNat 64 ((f0 + l) / 64)) 0 with lane := some l })

/-- MZERO: every cell of the rows becomes zero, its poison cleared. -/
def execMzero (a b : Reg) (la : BitVec 4) (s : State) : Result :=
  runState (fun t s =>
      { srcs := [⟨.s a, false⟩, ⟨.s b, false⟩], la := la.toNat, ordered := true, cells := true,
        early := matrixClaim s t })
    (fun t s =>
      let first := (t.sval a).toNat
      let n := (t.sval b).toNat
      match windowCheck t.acb.toNat t.acl.toNat first n with
      | .error e => .error e
      | .ok () =>
        let keys := (List.range (64 * n)).map fun i => flatKey t (64 * first + i)
        .ok ({ s with mem := keys.foldl (fun m k => m.setCell k .zero) s.mem }.putTeam t.advance, [])) s

/-- MACCRD: the cell's bits and its poison go to the lane. -/
def execMaccrd (a b : Reg) (la : BitVec 4) (s : State) : Result :=
  runState (fun t s =>
      { srcs := [⟨.s b, false⟩], dsts := [.v a], vector := true, la := la.toNat, ordered := true, cells := true,
        early := matrixClaim s t })
    (fun t s =>
      let f0 := (t.sval b).toNat
      match flatCheck t f0 with
      | .error e => .error e
      | .ok () =>
        let lane (l : Nat) : Lane :=
          let c := s.mem.cell (flatKey t (f0 + l))
          ⟨c.val, c.poison⟩
        let t1 := t.setLanes a fun l => if t.effective.getLsbD l then some (lane l) else none
        .ok (s.putTeam t1.advance, [])) s

/-- MACCWR: the lane goes to the cell, whose poison is cleared. -/
def execMaccwr (a b : Reg) (la : BitVec 4) (s : State) : Result :=
  runState (fun t s =>
      { srcs := [⟨.s a, false⟩, ⟨.v b, false⟩], vector := true, la := la.toNat, ordered := true, cells := true,
        early := matrixClaim s t })
    (fun t s =>
      let f0 := (t.sval a).toNat
      match flatCheck t f0 with
      | .error e => .error e
      | .ok () =>
        let put (m : Memory) (l : Nat) : Memory := m.setCell (flatKey t (f0 + l)) ⟨t.vval b l, false⟩
        .ok ({ s with mem := t.active.foldl put s.mem }.putTeam t.advance, [])) s

/-- The accesses of MACCLD and MACCST: one per cell, with the cell's key.  With no row there is no access, and Pair(b) is
not checked for alignment (DESIGN CHOICE, log entry 103). -/
def cellAccesses (s : State) (t : Team) (store : Bool) (first n : Nat) (base : Addr) :
    Except Stop (List (Nat × Addr × Place)) :=
  let va (i : Nat) : Addr := base + .ofNat 64 (4 * i)
  let is := List.range (64 * n)
  match placesM (fun i => accessPlace s t (.absolute (va i)) 4 4 (if store then .write else .read)) is with
  | .error e => .error e
  | .ok ps => .ok ((is.zip ps).map fun x => (flatKey t (64 * first + x.1), va x.1, x.2))

/-- Both transfers with memory: the checks of 13 R181, then the window, then a step for each cell. -/
def cellTransfer (store : Bool) (step : State → Team → Nat × Addr × Place → State) (a b c : Reg)
    (la : BitVec 4) : State → Result :=
  runState (fun t s =>
      { srcs := [⟨.s a, false⟩, ⟨.pair b, false⟩, ⟨.s c, false⟩], la := la.toNat, alone := true,
        early := matrixClaim s t })
    fun t s =>
      let first := (t.sval a).toNat
      let n := (t.sval c).toNat
      match cellAccesses s t store first n (t.pair b) with
      | .error e => .error e
      | .ok as =>
        match windowCheck t.acb.toNat t.acl.toNat first n with
        | .error e => .error (e.checked (as.map fun x => x.2.2))
        | .ok () =>
          let s1 := (s.touch t.ctx (as.map fun x => x.2.2)).putTeam t.advance
          .ok (as.foldl (fun s x => step s t x) s1, as.map fun x => ⟨x.2.1, 4, store, none⟩)

/-- One cell loaded (21 R316), or its access lost with its link (13 R194). -/
def loadCell (s : State) (t : Team) (x : Nat × Addr × Place) : State :=
  let (k, va, p) := x
  if !s.reachable p then
    { s with mem := s.mem.setCell k ⟨0, true⟩ }.modTeam t.id fun u => u.pend (acquireFailed t.pc va)
  else
    let r := s.weakRead (towerOf t.core) false p 4
    let s1 := r.2.acquireAt (towerOf t.core) (p.order .rlx none)
    { s1 with mem := s1.mem.setCell k ⟨.ofNat 32 (leNat r.1.bytes), r.1.bad.1⟩ }

/-- One cell stored. -/
def storeCell (s : State) (t : Team) (x : Nat × Addr × Place) : State :=
  let (k, va, p) := x
  if !s.reachable p then s.modTeam t.id fun u => u.pend (acquireFailed t.pc va)
  else
    let c := s.mem.cell k
    let s1 := s.teamWrite (towerOf t.core) p (leBytes 4 c.val.toNat)
    if c.poison then s1.markWord (towerOf t.core) p true else s1

def execMaccld (a b c : Reg) (la : BitVec 4) (s : State) : Result := cellTransfer false loadCell a b c la s
def execMaccst (a b c : Reg) (la : BitVec 4) (s : State) : Result := cellTransfer true storeCell a b c la s

/-! ### ACWIN (17 R255) -/

/-- The status, and the member whose window changes. -/
def acwinTarget (s : State) (t : Team) (sel win : Nat) : Nat × Option Nat :=
  let newB := fld 0 9 win
  let newL := fld 16 9 win
  if newL < newB ∨ 256 < newL then (3, none)
  else match s.cohort? t (.ofNat 16 sel) with
    | none => (1, none)
    | some c =>
      if c.members.head? ≠ some t.id then (1, none)
      else match c.members[fld 16 6 sel]? with
        | none => (2, none)
        | some id => (0, some id)

/-- ACWIN.  POISON of b and c comes before the ILLEGAL_MODE of what their values hold (DESIGN CHOICE, log entry 77). -/
def execAcwin (a b c : Reg) (la : BitVec 4) (s : State) : Result :=
  runState (fun t s =>
      { srcs := [⟨.s b, false⟩, ⟨.s c, false⟩], dsts := [.s a], la := la.toNat, early := matrixClaim s t })
    (fun t s =>
      let sel := (t.sval b).toNat
      let win := (t.sval c).toNat
      if fld 22 10 sel ≠ 0 ∨ fld 9 7 win ≠ 0 ∨ fld 25 7 win ≠ 0 then raiseAt .illegalMode
      else
        let (status, target) := acwinTarget s t sel win
        let s1 := s.putTeam (t.setS a (.ofNat 32 status)).advance
        match target with
        | none => .ok (s1, [])
        | some id =>
          .ok (s1.modTeam id fun u => { u with acb := .ofNat 9 (fld 0 9 win), acl := .ofNat 9 (fld 16 9 win) },
            [])) s

/-! ### MPLAN (17 R265) -/

/-- The element register of MPLAN: a pair for FP64, as the first active lane's word says. -/
def mplanOpnd (t : Team) (a b : Reg) : Opnd :=
  match t.active with
  | [] => .v b
  | l :: _ => if wordA (t.vval a l) = 0x18 ∧ b.toNat % 2 = 0 then .vpair b else .v b

/-- The positions that MPLAN writes, each with its planed element and its lane. -/
def mplanPositions (t : Team) (F : Nat) (b : Reg) (p0 : Nat) : List (Nat × Planed × Nat) :=
  t.active.flatMap fun l =>
    ((t.elemsOf F b l).zipIdx.map fun x => (p0 + l * elemCount F + x.2, plan F x.1, l)).filter fun x => x.1 < 1024

/-- The descriptors of the positions, a 16-bit store each. -/
def State.writeDescriptors (s : State) (base F : Nat) (ps : List (Nat × Planed × Nat)) : State :=
  if hasDescriptor F then ps.foldl (fun s x => s.writeLoc (base + 2 * x.1) (leBytes 2 x.2.1.descriptor)) s else s

/-- Byte `k` of the P or N mask of plane `j` (from 1) is updated, as one read-modify-write that changes the bits of the
positions alone. -/
def State.writeMask (s : State) (base F j : Nat) (neg : Bool) (ps : List (Nat × Planed × Nat)) (k : Nat) : State :=
  let o := base + maskByte F j (8 * k) neg
  let set (x : Planed) : Bool := x.digits.getD (j - 1) 0 == if neg then -1 else 1
  s.writeLoc o [(ps.filter fun x => x.1 / 8 == k).foldl (fun b x => withBit (x.1 % 8) (set x.2.1) b) (s.mem.byte o)]

/-- The masks that an element of `F` writes: plane, and P or N. -/
def maskPlanes (F : Nat) : List (Nat × Bool) :=
  (List.range (planeCount F)).flatMap fun j => [(j + 1, false), (j + 1, true)]

/-- The writes of MPLAN (17 R265): descriptors, then every mask byte that holds a position, once. -/
def State.writePositions (s : State) (base F : Nat) (ps : List (Nat × Planed × Nat)) : State :=
  let ks := (ps.map fun x => x.1 / 8).eraseDups
  (maskPlanes F).foldl (fun s m => ks.foldl (fun s k => s.writeMask base F m.1 m.2 ps k) s) (s.writeDescriptors base F ps)

/-- How a watch sees those writes. -/
def positionTouches (base : Addr) (F q l : Nat) (x : Planed) : List Touch :=
  (if hasDescriptor F then [⟨base + .ofNat 64 (2 * q), 2, true, some l⟩] else [])
    ++ (List.range x.digits.length).flatMap fun j =>
      [⟨base + .ofNat 64 (maskByte F (j + 1) q false), 1, true, some l⟩,
        ⟨base + .ofNat 64 (maskByte F (j + 1) q true), 1, true, some l⟩]

/-- MPLAN.  ILLEGAL_MODE of the voted word comes after REG_BOUND and POISON, which the vote needs (DESIGN CHOICE, log
entry 77).  An element whose position is 1,024 or more is not planned, and its invalid digit raises no NV (DESIGN CHOICE,
log entry 102). -/
def execMplan (a b c : Reg) (la : BitVec 4) (s : State) : Result :=
  runState (fun t s =>
      { srcs := [⟨.v a, false⟩, ⟨mplanOpnd t a b, false⟩, ⟨.pair c, false⟩, ⟨.s (c + 2#6), false⟩],
        unread := [⟨.quad c, false⟩], vector := true, la := la.toNat, alone := true,
        early := matrixClaim s t })
    (fun t s => do
      match ← vote t a with
      | none => return (s.putTeam t.advance, [])
      | some w =>
        let F := wordA w
        require (fld 24 8 w.toNat == 0 && (F != 0x18 || b.toNat % 2 == 0)) (.at .illegalMode 0 0)
        let va := t.pair c
        require (va.toNat % 256 == 0) (.at .misaligned va 0)
        let base ← tileBytes s t va (blockSize F) .write
        let ps := mplanPositions t F b (t.sval (c + 2#6)).toNat
        let nv := ps.any fun x => x.2.1.bad
        let s1 := s.putTeam (t.raiseFlags (if nv then fNV else 0)).advance
        return (s1.writePositions base F ps,
          ps.flatMap fun x => positionTouches va F x.1 x.2.2 x.2.1)) s

/-! ### MCHK (17 R268) -/

/-- MCHK's word. -/
def mchkWord (s : State) (t : Team) : Word :=
  .ofNat 32 (t.reruns.toNat + (s.cores.failedA.getLsbD t.core).toNat * 2 ^ 16
    + (s.cores.failedB.getLsbD t.core).toNat * 2 ^ 17)

def execMchk (a b : Reg) (la : BitVec 4) (s : State) : Result :=
  runState (fun t s => { srcs := [⟨.s b, false⟩], dsts := [.s a], la := la.toNat, early := matrixClaim s t })
    (fun t s =>
      if (t.sval b).toNat / 2 ≠ 0 then raiseAt .illegalMode
      else if t.matrixPending then .error .stall
      else
        let t1 := if (t.sval b).getLsbD 0 then { t with reruns := 0 } else t
        .ok (s.putTeam (t1.setS a (mchkWord s t)).advance, [])) s

end Sys2Proof.Machine
end

