-- ==== Sys2Proof/Machine/Copy.lean ====
section
/-!
DEFINITION. Copies, tags and collectives: major 0x3C (13 R206 to R216, 17 R248).
-/
namespace Sys2Proof.Machine

/-! ### Bytes of a copy -/

/-- The checks of 13 R181 on consecutive bytes, each access's alignment apart. -/
def bytePlaces (s : State) (t : Team) (va : Addr) (n : Nat) (i : Intent) : Except Stop (List ByteAt) :=
  let at_ (k : Nat) : Addr := va + .ofNat 64 k
  match placesM (fun k => accessPlace s t (.absolute (at_ k)) 1 1 i) (List.range n) with
  | .error e => .error e
  | .ok ps => .ok (ps.zipIdx.map fun x => ⟨x.1, at_ x.2⟩)

/-- The places of bytes. -/
def placesIn (bs : List ByteAt) : List Place := bs.map (·.place)

/-- The same on a list of pieces, each an address and a length: their bytes, piece by piece. -/
def piecePlaces (s : State) (t : Team) (i : Intent) : List (Addr × Nat) → Except Stop (List (List ByteAt))
  | [] => .ok []
  | p :: ps =>
    match bytePlaces s t p.1 p.2 i with
    | .error e => .error e
    | .ok bs =>
      match piecePlaces s t i ps with
      | .error e => .error (e.checked (placesIn bs))
      | .ok ls => .ok (bs :: ls)

/-- A byte of a destination and where it comes from; of two writes of one byte the later prevails (13 R212). -/
def pairUp : List ByteAt → List ByteSrc → List Move
  | d :: ds, b :: bs =>
    let rest := pairUp ds bs
    if rest.any fun m => m.dst.loc == d.place.loc then rest else ⟨d.place, d.va, b, false⟩ :: rest
  | _, _ => []

/-- A place that cannot be reached (25 R347). -/
def State.lost (s : State) (p : Place) : Bool := !s.reachable p

/-- A byte of memory as it stands; one whose read is lost reads as poison (25 R347, 13 R208). -/
def State.byteNow (s : State) (lost : Place → Bool) (p : Place) : ByteSrc :=
  if lost p then .fixed 0 true else .fixed ((s.readPlace p 1).headD 0) (s.mem.wordBad p.loc)

/-- The source of a byte: itself, or as it stands where the copy also writes it (13 R209). -/
def State.byteSource (s : State) (lost : Place → Bool) (dsts : List ByteAt) (b : ByteAt) : ByteSrc :=
  if dsts.any fun d => d.place.loc == b.place.loc then s.byteNow lost b.place else .loc b.place b.va

/-- Whether two bytes lie in one aligned word. -/
def sameWord (p q : Place) : Bool := p.loc / 4 == q.loc / 4

/-- A move clears its word's poison if the copy writes all of the word (21 R314). -/
def withClears (ms : List Move) : List Move :=
  ms.map fun m => { m with clears := (ms.filter fun x => sameWord x.dst m.dst).length == 4 }

/-! ### Performing (13 R209, R210; 21 R314) -/

/-- The bytes a move brings, with their poison; the address out of reach instead (13 R208). -/
def State.moveSource (s : State) (b : ByteSrc) : Except Addr (Byte × Bool) :=
  match b with
  | .fixed v p => .ok (v, p)
  | .loc p va => if s.reachable p then .ok ((s.readPlace p 1).headD 0, s.mem.wordBad p.loc) else .error va

/-- ACQUIRE_FAILED, once for a copy (13 R208). -/
def State.copyFailed (s : State) (team : Nat) (pc va : Addr) : State :=
  s.modTeam team fun t =>
    if t.traps.any fun x => x.code == .acquireFailed && x.pcw == some pc then t else t.pend (acquireFailed pc va)

/-- The moves that remain when one of a word has brought poison: none of them clears the word's poison any more. -/
def dirtied (m : Move) (rest : List Move) : List Move :=
  rest.map fun x => if sameWord x.dst m.dst then { x with clears := false } else x

/-- A copy reads a byte where it stands at its home (15 R223). -/
def State.sourceRead (s : State) (tower : Nat) : ByteSrc → State
  | .loc p _ => s.servedAtHome tower [p]
  | .fixed _ _ => s

/-- One move performs, `rest` being the moves that remain; a poisoned byte poisons its word, the last clean
one of a word that the copy writes whole clears it. -/
def State.performMove (s : State) (tower : Nat) (c : Copy) (m : Move) (rest : List Move) : State × List Move :=
  if !s.reachable m.dst then (s.copyFailed c.team c.pc m.va, rest)
  else
    match s.moveSource m.src with
    | .error va => ((s.copyFailed c.team c.pc va).markWord tower m.dst true, dirtied m rest)
    | .ok (v, bad) =>
      let s1 := (s.sourceRead tower m.src).teamWrite tower m.dst [v]
      if bad then (s1.markWord tower m.dst true, dirtied m rest)
      else if m.clears && !(rest.any fun x => sameWord x.dst m.dst) then (s1.markWord tower m.dst false, rest)
      else (s1, rest)

/-- Moves perform one after another, at most `fuel` of them. -/
def State.performMoves (tower : Nat) (c : Copy) : Nat → State → List Move → State
  | 0, s, _ => s
  | _ + 1, s, [] => s
  | fuel + 1, s, m :: rest =>
    let r := s.performMove tower c m rest
    State.performMoves tower c fuel r.1 r.2

/-- A copy whose bytes have not all performed: its team's later copies read after it (15 R224, copy source). -/
def Copy.moving (c : Copy) : Bool := !c.begun || c.moves != [] || c.coll.isSome

/-- Whether the earlier copies that the copy's reads come after have performed. -/
def State.mayBegin (s : State) (c : Copy) : Bool :=
  c.after.all fun b => !(s.flight.copies.any fun x => x.id == b && x.moving)

/-- A copy's bytes have performed: the copy is done, or its follow-on remains to be issued (13 R211). -/
def State.copyMoved (s : State) (c : Copy) : State :=
  match c.followOn with
  | none => s.endCopy c.id
  | some _ =>
    { s with flight := { s.flight with
        copies := s.flight.copies.map fun x => if x.id = c.id then { x with begun := true, moves := [] } else x } }

/-- The team's copies in flight that have not performed. -/
def State.copiesBefore (s : State) (t : Team) : List Nat :=
  (s.flight.copies.filter fun c => c.team == t.id && c.moving).map (·.id)

/-- The 64 KiB pages of places. -/
def pagesOf (ps : List Place) : List Nat := (ps.map fun p => p.loc / 2 ^ 16).eraseDups

/-- The pages whose entries translate the bytes of a copy (21 R309). -/
def State.mappedBy (s : State) (c : Context) (p : CopyPlan) : List VPage :=
  (((p.rows.flatten ++ p.dsts).map fun b => b.va.toNat / 2 ^ 16).eraseDups.filterMap fun k =>
    s.pageOf c (.ofNat 64 (2 ^ 16 * k))).eraseDups

/-! ### Planes of a tile (17 R247, R248) -/

/-- The 4 bytes of a mask word of 32 positions: the positions whose digit is `v`. -/
def maskWordBytes (j : Nat) (v : Int) (ps : List (Planed × Bool)) : List ByteSrc :=
  let bad := ps.any (·.2)
  let byte (qs : List (Planed × Bool)) : Byte :=
    .ofNat 8 (qs.foldr (fun q acc => (q.1.digits.getD j 0 == v).toNat + 2 * acc) 0)
  (List.range 4).map fun y => .fixed (byte ((ps.drop (8 * y)).take 8)) bad

/-- The descriptor bytes of two neighbouring positions. -/
def descriptorBytes (ps : List (Planed × Bool)) : List ByteSrc :=
  (ps.flatMap fun q => leBytes 2 q.1.descriptor).map fun b => .fixed b (ps.any (·.2))

/-- A block's bytes from its 1,024 positions, poison by word (17 R247, R248). -/
def blockBytes (F : Nat) (ps : List (Planed × Bool)) : List ByteSrc :=
  let chunk (n i : Nat) : List (Planed × Bool) := (ps.drop (n * i)).take n
  let descs := if hasDescriptor F then (List.range 512).flatMap fun i => descriptorBytes (chunk 2 i) else []
  descs ++ (List.range (planeCount F)).flatMap fun j =>
    (List.range 32).flatMap (fun i => maskWordBytes j 1 (chunk 32 i))
      ++ (List.range 32).flatMap (fun i => maskWordBytes j (-1) (chunk 32 i))

/-- A position outside the tile (17 R248). -/
def Planed.outside : Planed := ⟨0, 0, [], false⟩

/-- Element `j` of a row whose bytes stand at `ps`: its field, and whether a source word is poisoned or its read lost. -/
def placedElem (s : State) (lost : Place → Bool) (F : Nat) (ps : List ByteAt) (j : Nat) : Nat × Bool :=
  let (o, b) := elemPlace F j
  let n := if fieldWidth F = 6 then 4 else (fieldWidth F + 7) / 8
  let v := leNat ((((ps.drop o).take n)).flatMap fun p => s.readPlace p.place 1)
  let (o1, n1) := elemBytes F j
  (fld b (fieldWidth F) v, ((ps.drop o1).take n1).any fun p => s.mem.wordBad p.place.loc || lost p.place)

/-- The bytes of the planes of a tile whose rows' bytes are `rows`, block by block (17 R247).  An SD8, SD16 or TERN2 digit
that is invalid is planed as 0, as R62 takes it, and raises no flag (DESIGN CHOICE, log entry 89). -/
def planeBytes (s : State) (lost : Place → Bool) (F k : Nat) (rows : List (List ByteAt)) : List ByteSrc :=
  let planed := rows.map fun r => (List.range k).map fun j =>
    let e := placedElem s lost F r j
    (plan F e.1, e.2)
  let at_ (i j : Nat) : Planed × Bool := (planed.getD i []).getD j (Planed.outside, false)
  (List.range ((rows.length + 63) / 64)).flatMap fun b =>
    (List.range ((k + 15) / 16)).flatMap fun g =>
      blockBytes F ((List.range 1024).map fun q => at_ (64 * b + q / 16) (16 * g + q % 16))

/-! ### Beginning and issue -/

/-- The moves of a copy whose reads begin now, of which some are lost (13 R209, R210). -/
def State.movesOf (s : State) (lost : Place → Bool) (p : CopyPlan) : List Move :=
  withClears (pairUp p.dsts (match p.planes with
    | none => p.rows.flatten.map (s.byteSource lost p.dsts)
    | some (F, k) => planeBytes s lost F k p.rows))

/-- The bytes that a copy reads as it begins: all of a tile that becomes planes, else those it also writes. -/
def CopyPlan.readFirst (p : CopyPlan) : List ByteAt :=
  match p.planes with
  | some _ => p.rows.flatten
  | none => p.rows.flatten.filter fun b => p.dsts.any fun d => d.place.loc == b.place.loc

/-- A copy's reads begin; the first of what it reads now whose read is lost is told (25 R347, 13 R208). -/
def State.beginCopy (s : State) (tower : Nat) (lost : Place → Bool) (c : Copy) : State × Copy :=
  if c.begun then (s, c)
  else
    let s1 := s.servedAtHome tower (placesIn c.plan.readFirst)
    let s2 := match c.plan.readFirst.find? fun b => lost b.place with
      | none => s1
      | some b => s1.copyFailed c.team c.pc b.va
    (s2, { c with begun := true, moves := s.movesOf lost c.plan })

/-- A copy's bytes all perform, in order. -/
def State.performCopy (s : State) (tower : Nat) (c : Copy) : State :=
  let r := s.beginCopy tower s.lost c
  (State.performMoves tower r.2 r.2.moves.length r.1 r.2.moves).copyMoved r.2

/-- A copy is issued: in flight when the turn defers or an earlier copy of the team has yet to perform, else performed
at once; it joins the team's unsealed copies (13 R208, R213; 15 R224).  `recs` are the bytes it read at issue. -/
def State.startCopy (s : State) (t : Team) (recs : List Place) (p : CopyPlan) (o : Option MatrixOp) : State :=
  let ps := recs ++ placesIn (p.rows.flatten ++ p.dsts)
  let c : Copy := ⟨s.flight.nextId, t.id, t.pc, s.copiesBefore t, pagesOf ps, s.mappedBy (s.ctxOf t) p, p, false,
    [], o, none⟩
  let s1 := ((s.touch t.ctx ps).servedAtHome (towerOf t.core) recs).putTeam { t.advance with unsealed := t.unsealed ++ [c.id] }
  let s2 := { s1 with flight := { s1.flight with
    copies := s1.flight.copies ++ [c], nextId := s1.flight.nextId + 1 } }
  if p.dsts != [] && (s.sched.defer || c.after != []) then s2
  else s2.performCopy (towerOf t.core) c

/-- How a watch sees a piece. -/
def pieceTouches (ps : List (Addr × Nat)) (writes : Bool) : List Touch :=
  (ps.filter fun p => p.2 != 0).map fun p => ⟨p.1, p.2, writes, none⟩

/-- The part of a copy that is the same for every kind: the checks of its bytes, reads first (DEDUCED, log
entry 13), and its issue. -/
def copyPieces (s : State) (t : Team) (recs : List Place) (src dst : List (Addr × Nat)) (planes : Option (Nat × Nat))
    (o : Option MatrixOp) (more : List Touch) : Except Stop (State × List Touch) :=
  match piecePlaces s t .read src with
  | .error e => .error (.seen recs e)
  | .ok rows =>
    match piecePlaces s t .write dst with
    | .error e => .error (.seen recs (e.checked (placesIn rows.flatten)))
    | .ok ds =>
      .ok (s.startCopy t recs ⟨rows, ds.flatten, planes⟩ o, more ++ pieceTouches src false ++ pieceTouches dst true)

/-! ### CPY -/

def execCpy (d : Reg) (a b : Src) (s : State) : Result :=
  runState (fun _ _ =>
      { srcs := [⟨.pair d, false⟩, ⟨.pair a.reg, a.last⟩, ⟨.s b.reg, b.last⟩], alone := true })
    (fun t s =>
      let n := (t.sval b.reg).toNat
      copyPieces s t [] [(t.pair a.reg, n)] [(t.pair d, n)] none none []) s

/-! ### CPYT (13 R210, R211; 17 R247, R248) -/

/-- Bytes that an instruction reads for itself, word by word, each checked as a load (13 R211, step 2; R212, R215): their
value and their places. -/
def recordBytesAt (s : State) (t : Team) (va : Addr) (n : Nat) : Except Stop (Nat × List Place) :=
  let at_ (k : Nat) : Addr := va + .ofNat 64 (4 * k)
  match placesM (fun k => accessPlace s t (.absolute (at_ k)) 4 4 .read) (List.range (n / 4)) with
  | .error e => .error e
  | .ok ps =>
    match ps.findIdx? fun p => !s.reachable p, ps.findIdx? fun p => s.mem.wordBad p.loc with
    | some k, _ => .error ((Stop.trap (acquireFailed t.pc (at_ k))).checked ps)
    | none, some k => afterSeeing ps (raiseAt .poison (at_ k) 1)
    | none, none => .ok (leNat (ps.flatMap fun p => s.readPlace p 4), ps)

/-- Whether the pair of records fits a row of the table of 13 R210. -/
def tilesPair (src dst : ShapeRec) : Bool :=
  !src.malformed && !dst.malformed && src.layout == 0
    && src.fmt == dst.fmt && src.rows == dst.rows && src.cols == dst.cols

/-- The rows of a LAYOUT 0 tile, as pieces. -/
def ShapeRec.pieces (r : ShapeRec) : List (Addr × Nat) :=
  (List.range r.rows).map fun i => (r.addr + .ofNat 64 (i * r.pitch), rowBytes r.fmt r.cols)

/-- The follow-on command of a non-zero b (13 R211): its own checks, and what is captured. -/
def followOn (s : State) (t : Team) (w : Word) : Except Stop (Option MatrixOp) :=
  let checked (tile : Bool) (a b c : Reg) : Except Stop (Option MatrixOp) :=
    match (matrixShape a b c 0 t s).check t s with
    | some e => .error e
    | none =>
      match matrixChecks s t tile w a b c with
      | .error e => .error e
      | .ok r => .ok (r.map (·.1))
  if w = 0 then .ok none
  else match decode w with
    | .ok (.mtile a b c _) => checked true a b c
    | .ok (.mma a b c _) => checked false a b c
    | _ => raiseAt .illegalOpcode

/-- The bytes that a CPYT writes: its rows, or its planes at a 256-byte boundary (13 R210). -/
def tileTarget (dst : ShapeRec) : List (Addr × Nat) :=
  if dst.layout = 0 then dst.pieces else [(dst.addr, planeTileSize dst.fmt dst.rows dst.cols)]

/-- The checks of a CPYT's bytes: those it reads, then MISALIGNED of planes, then those it writes (log entry 13). -/
def copyTile (s : State) (t : Team) (recs : List Place) (src dst : ShapeRec) (w : Word) (more : List Touch) :
    Except Stop (State × List Touch) :=
  match followOn s t w with
  | .error e => .error (.seen recs e)
  | .ok o =>
    if dst.layout = 0 then copyPieces s t recs src.pieces (tileTarget dst) none o more
    else match piecePlaces s t .read src.pieces with
      | .error e => .error (.seen recs e)
      | .ok rows =>
        if dst.addr.toNat % 256 ≠ 0 then
          .error (.seen recs ((Stop.trap (.at .misaligned dst.addr 0)).checked (placesIn rows.flatten)))
        else copyPieces s t recs src.pieces (tileTarget dst) (some (src.fmt, src.cols)) o more

def execCpyt (d : Reg) (a b : Src) (s : State) : Result :=
  runState (fun _ _ =>
      { srcs := [⟨.pair d, false⟩, ⟨.pair a.reg, a.last⟩, ⟨.s b.reg, b.last⟩], alone := true })
    (fun t s => do
      let pd := t.pair d
      let ps := t.pair a.reg
      require (pd.toNat % 16 == 0) (.at .misaligned pd 0)
      require (ps.toNat % 16 == 0) (.at .misaligned ps 0)
      let rd ← recordBytesAt s t pd 16
      let rs ← afterSeeing rd.2 (recordBytesAt s t ps 16)
      let dst := ShapeRec.ofNat rd.1
      let src := ShapeRec.ofNat rs.1
      let recs := rd.2 ++ rs.2
      afterSeeing recs (require (tilesPair src dst) (.at .illegalMode 0 0))
      copyTile s t recs src dst (t.sval b.reg) [⟨pd, 16, false, none⟩, ⟨ps, 16, false, none⟩]) s

/-! ### GATH and SCAT (13 R212) -/

/-- The list's fields. -/
structure CopyList where
  base : Addr
  idx : Addr
  count : Nat
  esize : Nat
  rsv : Nat
deriving DecidableEq, Repr

def CopyList.ofNat (x : Nat) : CopyList := ⟨.ofNat 64 x, .ofNat 64 (x / 2 ^ 64), fld 128 32 x, fld 160 32 x, fld 192 64 x⟩

/-- ESIZE: a power of two from 1 to 4,096; rsv zero. -/
def CopyList.legal (l : CopyList) : Bool := (List.range 13).any (fun k => l.esize == 2 ^ k) && l.rsv == 0

/-- The addresses of the elements on the scattered side, from the offset table, and where its entries lie.  Each offset is
read as a 4-byte load, so that an IDX that is no multiple of 4 raises MISALIGNED (DESIGN CHOICE, log entry 93). -/
def listElements (s : State) (t : Team) (l : CopyList) : Except Stop (List Addr × List Place) :=
  (List.range l.count).foldlM (fun acc i => do
    let o ← afterSeeing acc.2 (recordBytesAt s t (l.idx + .ofNat 64 (4 * i)) 4)
    return (acc.1 ++ [l.base + (BitVec.ofNat 32 o.1).signExtend 64], acc.2 ++ o.2)) ([], [])

/-- The first address that is not aligned to ESIZE. -/
def alignedAll (as : List Addr) (n : Nat) : Except Stop Unit :=
  match as.find? fun a => a.toNat % n != 0 with
  | none => .ok ()
  | some a => raiseAt .misaligned a

/-- GATH, and SCAT with `scatter`.  MISALIGNED of any element, read side first, comes before the checks of their bytes
(DESIGN CHOICE, log entry 78). -/
def listCopy (scatter : Bool) (d : Reg) (a : Src) : State → Result :=
  runState (fun _ _ => { srcs := [⟨.pair d, false⟩, ⟨.pair a.reg, a.last⟩], alone := true })
    fun t s => do
      let va := t.pair a.reg
      require (va.toNat % 8 == 0) (.at .misaligned va 0)
      let r ← recordBytesAt s t va 32
      let l := CopyList.ofNat r.1
      afterSeeing r.2 (require l.legal (.at .illegalMode 0 0))
      let es ← afterSeeing r.2 (listElements s t l)
      let recs := r.2 ++ es.2
      let dense := (List.range l.count).map fun i => t.pair d + .ofNat 64 (i * l.esize)
      afterSeeing recs (alignedAll (if scatter then dense else es.1) l.esize)
      afterSeeing recs (alignedAll (if scatter then es.1 else dense) l.esize)
      let pieces (as : List Addr) : List (Addr × Nat) := as.map fun x => (x, l.esize)
      let reads : List Touch := [⟨va, 32, false, none⟩, ⟨l.idx, 4 * l.count, false, none⟩]
      copyPieces s t recs (pieces (if scatter then dense else es.1)) (pieces (if scatter then es.1 else dense)) none none
        (reads.filter fun x => x.size != 0)

def execGath (d : Reg) (a : Src) (s : State) : Result := listCopy false d a s
def execScat (d : Reg) (a : Src) (s : State) : Result := listCopy true d a s

/-! ### Tags (13 R213) -/

/-- The batches bound to a tag of a core, in a context. -/
def State.bound (s : State) (ctx core tag : Nat) : List Batch :=
  s.flight.batches.filter fun b => b.ctx == ctx && b.core == core && b.tag == tag

/-- A batch has performed when none of its copies is in flight. -/
def State.performed (s : State) (b : Batch) : Bool := b.copies.all fun c => !(s.flight.copies.any fun x => x.id == c)

/-- The bit of a tag. -/
def State.tagSet (s : State) (ctx core tag : Nat) : Bool :=
  let bs := s.bound ctx core tag
  bs != [] && bs.all s.performed

/-- CTB, as a 64-bit value. -/
def State.ctb (s : State) (ctx core : Nat) : Addr :=
  .ofNat 64 ((List.range 64).foldr (fun k acc => (s.tagSet ctx core k).toNat + 2 * acc) 0)

def execCseal (k : BitVec 6) (s : State) : Result :=
  runState (fun _ _ => {})
    (fun t s =>
      let b : Batch := ⟨s.flight.nextId, t.id, t.ctx, t.core, k.toNat, t.unsealed⟩
      .ok ({ s with flight := { s.flight with
          batches := s.flight.batches ++ [b], nextId := s.flight.nextId + 1 } }.putTeam
        { t.advance with unsealed := [] }, [])) s

/-- The tags that a mask names, lowest first. -/
def namedTags (m : Addr) : List Nat := (List.range 64).filter fun k => m.getLsbD k

/-- The lowest set tag of a mask; 0xFFFF_FFFF for none. -/
def lowestTag (s : State) (t : Team) (m : Addr) : Word :=
  match (namedTags m).find? fun k => s.tagSet t.ctx t.core k with
  | some k => .ofNat 32 k
  | none => 0xFFFFFFFF#32

/-- The first fault of a follow-on whose batch is bound to a named tag (13 R211). -/
def coveredFault (s : State) (t : Team) (m : Addr) : Option (List Nat × Trap) :=
  t.followFaults.find? fun f =>
    s.flight.batches.any fun b => b.team == t.id && f.1.any b.copies.contains && m.getLsbD b.tag

/-- A tag instruction: its operands, the faults of follow-ons that it delivers first, its effect. -/
def tagOp (d : List Opnd) (a : Src) (effect : Team → State → Addr → Except Stop State) (s : State) : Result :=
  let sh : Shape := { srcs := [⟨.pair a.reg, a.last⟩], dsts := d }
  match s.curTeam with
  | none => .fault .noTeam
  | some t =>
    match sh.check t s, coveredFault s t (t.pair a.reg) with
    | none, some f =>
      if s.frameHeld t then .next (s.stall t)
      else
        let t1 := { t with followFaults := t.followFaults.filter fun x => x != f }
        .next (((s.putTeam t1).takeTrap t1 f.2).discardRest t1.id (some f.1) f.2)
    | none, none =>
      runState (fun _ _ => sh) (fun t s =>
        match effect t s (t.pair a.reg) with
        | .error e => .error e
        | .ok s' => .ok (s', [])) s
    | some e, _ => finish s t (.error e)

def execCwany (d : Reg) (a : Src) (s : State) : Result :=
  tagOp [.s d] a (fun t s m =>
    if m ≠ 0 ∧ lowestTag s t m = 0xFFFFFFFF#32 then .error .stall
    else .ok (s.putTeam (t.setS d (lowestTag s t m)).advance)) s

def execCwall (a : Src) (s : State) : Result :=
  tagOp [] a (fun t s m =>
    if (namedTags m).all fun k => s.tagSet t.ctx t.core k then .ok (s.putTeam t.advance) else .error .stall) s

def execCffr (d : Reg) (a : Src) (s : State) : Result :=
  tagOp [.s d] a (fun t s m => .ok (s.putTeam (t.setS d (lowestTag s t m)).advance)) s

def execCtclr (a : Src) (s : State) : Result :=
  tagOp [] a (fun t s m =>
    let gone (b : Batch) : Bool := b.ctx == t.ctx && b.core == t.core && m.getLsbD b.tag && s.tagSet t.ctx t.core b.tag
    .ok ({ s with flight := { s.flight with batches := s.flight.batches.filter fun b => !gone b } }.putTeam
      t.advance)) s

/-! ### COLL (13 R215) -/

/-- The fields of a descriptor's 64 bytes. -/
structure CollDesc where
  send : Addr
  recv : Addr
  count : Nat
  op : Nat
  red : Nat
  fmt : Nat
  rnd : Nat
  ctl : Nat
  group : Nat
  rank : Nat
  nranks : Nat
  root : Nat
  rsv : Nat
deriving DecidableEq, Repr

def CollDesc.ofNat (x : Nat) : CollDesc where
  send := .ofNat 64 x
  recv := .ofNat 64 (x / 2 ^ 64)
  count := fld 128 32 x
  op := fld 160 8 x
  red := fld 168 8 x
  fmt := fld 176 5 x
  rnd := fld 181 3 x
  ctl := fld 184 8 x
  group := fld 192 32 x
  rank := fld 224 16 x
  nranks := fld 240 16 x
  root := fld 256 16 x
  rsv := fld 272 16 x + fld 352 160 x

/-- Whether the descriptor is well formed for the context's NVR and the group table (13 R215, 25 R348). -/
def CollDesc.legal (c : CollDesc) (nvr groups : Nat) : Bool :=
  let sums := c.op ≤ 1 || c.op == 4
  c.op ≤ 4 && c.red ≤ 2 && c.ctl / 2 == 0 && c.rsv == 0 && rndOk nvr c.rnd
    && (if sums then [0x14, 0x15, 0x17, 0x18, 0x0A, 0x0B].contains c.fmt else 8 ≤ fieldWidth c.fmt)
    && 1 ≤ c.nranks && c.nranks ≤ 4096 && c.rank < c.nranks && (c.op < 3 || c.root < c.nranks)
    && c.group < groups

/-- Bytes that the rank reads and writes (13 R216). -/
def CollDesc.sizes (c : CollDesc) : Nat × Nat :=
  let chunk := c.count * (fieldWidth c.fmt / 8)
  match c.op with
  | 0 => (chunk, chunk)
  | 1 => (c.nranks * chunk, chunk)
  | 2 => (chunk, c.nranks * chunk)
  | 3 => (if c.rank = c.root then chunk else 0, chunk)
  | _ => (chunk, if c.rank = c.root then chunk else 0)

/-- NRANKS of a group's entry, and a rank's record: DEVID and tower (25 R348). -/
def State.groupRanks (s : State) (g : Nat) : Nat := s.mem.nat (s.dev.regs.groupEntry g) 2
def State.rankRecord (s : State) (g r : Nat) : Nat × Nat :=
  let w := s.mem.nat (physical (s.mem.nat (s.dev.regs.groupEntry g + 8) 8 + 4 * r)) 4
  (fld 0 12 w, fld 12 2 w)

/-- The rank that a COLL of a device and tower belongs to, whose COLLs R216 counts: the one it claims where the group
table's record of that rank names them, else the lowest that does name them (DEDUCED, log entry 88). -/
def State.rankOf (s : State) (g device tower claimed : Nat) : Nat :=
  if s.rankRecord g claimed = (device, tower) then claimed
  else ((List.range (s.groupRanks g)).find? fun r => s.rankRecord g r == (device, tower)).getD claimed

def execColl (a : Src) (s : State) : Result :=
  runState (fun _ _ => { srcs := [⟨.pair a.reg, a.last⟩], alone := true })
    (fun t s => do
      let va := t.pair a.reg
      require (va.toNat % 64 == 0) (.at .misaligned va 0)
      let r ← recordBytesAt s t va 64
      let c := CollDesc.ofNat r.1
      afterSeeing r.2 (require (c.legal (s.ctxOf t).nvr (fld 0 13 s.dev.regs.grpcnt.toNat)) (.at .illegalMode 0 0))
      let (ns, nr) := c.sizes
      let ps ← afterSeeing r.2 (bytePlaces s t c.send ns .read)
      let rs ← afterSeeing r.2 (afterChecking (placesIn ps) (bytePlaces s t c.recv nr .write))
      let report ← afterSeeing r.2 (afterChecking (placesIn (ps ++ rs)) (bytePlaces s t (va + 36#64) 8 .write))
      let tower := towerOf t.core
      let rank := s.rankOf c.group (fld 0 12 s.dev.regs.devid.toNat) tower c.rank
      let key := 4096 * c.group + rank
      let k := Assoc.get 0 s.dev.rounds key
      let part : CollPart :=
        ⟨rank, ps, rs, report, va, c.send, c.count, c.op, c.red, c.fmt, c.rnd, c.ctl % 2 == 1, c.group, c.rank, c.nranks,
          c.root, k, tower⟩
      let seen := r.2 ++ placesIn (ps ++ rs ++ report)
      let copy : Copy :=
        ⟨s.flight.nextId, t.id, t.pc, s.copiesBefore t, pagesOf seen, s.mappedBy (s.ctxOf t) ⟨[ps], rs ++ report, none⟩,
          ⟨[ps], rs ++ report, none⟩, false, [], none, some part⟩
      let s1 := ((s.touch t.ctx seen).servedAtHome tower r.2).putTeam
        { t.advance with unsealed := t.unsealed ++ [copy.id] }
      let touches : List Touch := ⟨va, 64, false, none⟩ ::
        (pieceTouches [(c.send, ns)] false ++ pieceTouches [(c.recv, nr), (va + 36#64, 8)] true)
      return ({ s1 with
          flight := { s1.flight with copies := s1.flight.copies ++ [copy], nextId := s1.flight.nextId + 1 }
          dev := { s1.dev with rounds := Assoc.set 0 s1.dev.rounds key (k + 1) } }, touches)) s

end Sys2Proof.Machine
end

