-- ==== Sys2Proof/Machine/Iterative.lean ====
section
/-!
DEFINITION. The iterative floating-point instructions: majors 0x2C and 0x2D (11 R162, R165 to R167), their
special operands (05 R69), recurrences (05 R81, R82) and continuation records (05 R83 to R86).
-/
namespace Sys2Proof.Machine

/-- The instructions of the class (05 R84, OP). -/
inductive IterOp where
  | div | sqrt | rsq | rcp | exp2 | log2
deriving DecidableEq, Repr

def IterOp.code : IterOp → Nat
  | .div => 0x10 | .sqrt => 0x11 | .rsq => 0x12 | .rcp => 0x13 | .exp2 => 0x14 | .log2 => 0x15

/-- Whether the instruction has a recurrence (05 R83). -/
def IterOp.recurs : IterOp → Bool
  | .div | .sqrt | .rcp => true
  | .rsq | .exp2 | .log2 => false

/-! ### Operands whose result R69 fixes -/

def one : FVal := .fin false 1 0

/-- The operands of a division: VFRCP divides 1.0 (05 R81). -/
def IterOp.operands (o : IterOp) (a b : FVal) : FVal × FVal :=
  match o with
  | .rcp => (one, a)
  | .div => (a, b)
  | .sqrt | .rsq | .exp2 | .log2 => (a, one)

/-- The rows of R69 for a division, with an exact zero quotient. -/
def divSpecial (f : Fmt) (a b : FVal) : Option Out :=
  let neg := a.neg? != b.neg?
  match a, b with
  | .inf _, .inf _ => some ⟨f.nanBits, fNV⟩
  | .inf _, _ => some ⟨f.infBits neg, 0⟩
  | _, .inf _ => some ⟨f.signBits neg, 0⟩
  | _, _ =>
    if b.isZero then (if a.isZero then some ⟨f.nanBits, fNV⟩ else some ⟨f.infBits neg, fDZ⟩)
    else if a.isZero then some ⟨f.signBits neg, 0⟩
    else none

/-- The rows of R69 for the functions of one operand. -/
def oneSpecial (o : IterOp) (f : Fmt) (a : FVal) : Option Out :=
  match o with
  | .sqrt =>
    if a.isZero then some ⟨f.signBits a.neg?, 0⟩
    else if a.neg? then some ⟨f.nanBits, fNV⟩
    else if a = .inf false then some ⟨f.infBits false, 0⟩
    else none
  | .rsq =>
    if a.isZero then some ⟨f.infBits a.neg?, fDZ⟩
    else if a.neg? then some ⟨f.nanBits, fNV⟩
    else if a = .inf false then some ⟨f.signBits false, 0⟩
    else none
  | .exp2 =>
    match a with
    | .inf true => some ⟨0, 0⟩
    | .inf false => some ⟨f.infBits false, 0⟩
    | .fin _ _ _ => none
    | .nan _ => none
  | .log2 =>
    if a.isZero then some ⟨f.infBits true, fDZ⟩
    else if a.neg? then some ⟨f.nanBits, fNV⟩
    else if a = .inf false then some ⟨f.infBits false, 0⟩
    else if a.eqv one then some ⟨0, 0⟩
    else none
  | .div | .rcp => none

/-- The result R69 fixes for the operands, if it does. -/
def iterSpecial (o : IterOp) (f : Fmt) (a b : FVal) : Option Out :=
  match nanRow f (if o = .div then [a, b] else [a]) with
  | some r => some r
  | none =>
    match o with
    | .div | .rcp => divSpecial f (o.operands a b).1 (o.operands a b).2
    | .sqrt | .rsq | .exp2 | .log2 => oneSpecial o f a

/-! ### Results from the sources (05 R68) -/

/-- The numerator and exponent of a finite value. -/
def FVal.parts : FVal → Bool × Nat × Int
  | .fin neg n e => (neg, n, e)
  | .nan _ => (false, 0, 0)
  | .inf _ => (false, 0, 0)

def quotientMag (n : Nat) (e : Int) (m : Nat) (k : Int) : Mag :=
  ⟨n * upPow (e - k), m * downPow (e - k), false⟩

/-- The exact function of operands that are not special, rounded once. -/
def iterExact (o : IterOp) (f : Fmt) (rnd key : Nat) (a b : FVal) : Out :=
  let (na, n, e) := a.parts
  match o with
  | .div | .rcp =>
    let (nx, x, ex) := (o.operands a b).1.parts
    let (ny, y, ey) := (o.operands a b).2.parts
    f.round rnd false (nx != ny) (quotientMag x ex y ey)
  | .sqrt => f.round rnd false false ⟨n * upPow e, downPow e, true⟩
  | .rsq => f.round rnd false false ⟨downPow e, n * upPow e, true⟩
  | .exp2 => if n = 0 then f.round rnd false false ⟨1, 1, false⟩ else exp2Out f rnd key na n e
  | .log2 => log2Out f rnd key n e

/-! ### The recurrences (05 R81, R82), in units of 2^−scale -/

/-- The digits of an element: n = p + 2; none for an instruction without a recurrence. -/
def IterOp.digits (o : IterOp) (f : Fmt) : Nat := if o.recurs then f.p + 2 else 0

/-- Norm: the significand in units of 2^−scale, and the exponent. -/
def normUnits (scale n : Nat) : Int := (n * 2 ^ scale / 2 ^ n.log2 : Nat)
def normExp (n : Nat) (e : Int) : Int := (n.log2 : Int) + e

/-- The state of a recurrence: the digits so far, their weighted sum, and w. -/
structure Rec where
  ds : List Int
  sum : Int
  w : Int
deriving DecidableEq, Repr

def signDigit (w : Int) : Int := if 0 < w then 1 else if w < 0 then -1 else 0

/-- Steps of the division recurrence; the sum is Q × 2^(j−1). -/
def divSteps (mb : Int) : Nat → Rec → Rec
  | 0, r => r
  | k + 1, r =>
    let q := signDigit r.w
    divSteps mb k ⟨r.ds ++ [q], 2 * r.sum + q, 2 * r.w - q * mb⟩

/-- Steps of the square-root recurrence from digit `j`; the sum is S × 2^(j−1). -/
def sqrtSteps (scale : Nat) : Nat → Nat → Rec → Rec
  | 0, _, r => r
  | k + 1, j, r =>
    let s := signDigit r.w
    -- 2 × S × s and |s| × 2^−j, in units of 2^−scale
    let cross := 2 * r.sum * s * 2 ^ scale / 2 ^ (j - 1)
    let own := (s.natAbs : Int) * 2 ^ scale / 2 ^ j
    sqrtSteps scale k (j + 1) ⟨r.ds ++ [s], 2 * r.sum + s, 2 * r.w - cross - own⟩

/-- Where each element's fields lie in a record: digits, residual, and the residual's scale (05 R85). -/
def elemDigits (T i digits : Nat) : Nat := if elemCount T = 2 then fld (56 * i) 56 digits else digits
def elemResidual (T i residual : Nat) : Int :=
  if elemCount T = 2 then
    let x := fld (56 * i) 56 residual
    if 2 ^ 55 ≤ x then (x : Int) - 2 ^ 56 else x
  else if 2 ^ 111 ≤ residual then (residual : Int) - 2 ^ 112 else residual
def recScale (T : Nat) : Nat := if elemCount T = 2 then 48 else 104

/-- m and h of R82 for a positive number. -/
def rootParts (scale n : Nat) (e : Int) : Int × Int :=
  let ex := normExp n e
  if ex % 2 = 0 then (normUnits scale n, ex / 2) else (2 * normUnits scale n, (ex - 1) / 2)

/-- The state from which a recurrence starts. -/
def recStart (o : IterOp) (scale : Nat) (a b : FVal) : Rec :=
  match o with
  | .sqrt => ⟨[], 1, (rootParts scale a.parts.2.1 a.parts.2.2).1 - 2 ^ scale⟩
  | .div | .rcp | .rsq | .exp2 | .log2 =>
    ⟨[], 0, normUnits scale (o.operands a b).1.parts.2.1 / 2⟩

/-- `k` further steps. -/
def recRun (o : IterOp) (scale k : Nat) (a b : FVal) (r : Rec) : Rec :=
  match o with
  | .sqrt => sqrtSteps scale k (r.ds.length + 1) r
  | .div | .rcp | .rsq | .exp2 | .log2 =>
    divSteps (normUnits scale (o.operands a b).2.parts.2.1) k r

/-- The result after digit `n`, from any state (05 R86). -/
def recResult (o : IterOp) (f : Fmt) (rnd scale n : Nat) (a b : FVal) (r : Rec) : Out :=
  match o with
  | .sqrt =>
    let (_, x, e) := a.parts
    let h := (rootParts scale x e).2
    -- S in units of 2^−n, w in units of 2^−scale
    let s1 := if r.w < 0 then r.sum - 1 else r.sum
    let w1 := if r.w < 0 then r.w + 2 * r.sum * 2 ^ scale / 2 ^ n - 2 ^ scale / 2 ^ n else r.w
    let rad := s1 * s1 * 2 ^ scale + w1 * 2 ^ n
    if rad = 0 then ⟨0, 0⟩
    else if rad < 0 then ⟨f.nanBits, fNV⟩
    else f.round rnd false false ⟨rad.toNat * upPow (2 * h), 2 ^ (2 * n + scale) * downPow (2 * h), true⟩
  | .div | .rcp | .rsq | .exp2 | .log2 =>
    let (nx, x, ex) := (o.operands a b).1.parts
    let (ny, y, ey) := (o.operands a b).2.parts
    let mb := normUnits scale y
    let q1 := if r.w < 0 then r.sum - 1 else r.sum
    let w1 := if r.w < 0 then r.w + mb else r.w
    let v := q1 * mb + w1
    let k := normExp x ex - normExp y ey
    if v = 0 then ⟨f.signBits (nx != ny), 0⟩
    else f.round rnd false ((nx != ny) != (v < 0))
      ⟨v.natAbs * upPow k, mb.toNat * 2 ^ (n - 1) * downPow k, false⟩

/-! ### Records (05 R83 to R86) -/

/-- The states a record gives the elements of a lane, or none where R86 discards it. -/
def Dcr.states (r : Dcr) (o : IterOp) (T rnd : Nat) : Option (List Rec) :=
  let n := o.digits (typeFmt T)
  if r.usable o.code T rnd n then
    (List.range (elemCount T)).mapM fun i =>
      let field := elemDigits T i r.digits
      match digitsOf field r.count with
      | none => none
      | some ds =>
        if field / 2 ^ (2 * r.count) = 0 then
          some ⟨ds, ds.foldl (fun q d => 2 * q + d) (if o = .sqrt then 1 else 0), elemResidual T i r.residual⟩
        else none
  else none

/-- One lane: each element by R69, from its record, or from the sources. -/
def iterLane (o : IterOp) (t : Team) (rs : List Reg) (l : Nat) : List Out :=
  let T := t.type
  let f := typeFmt T
  let n := o.digits f
  let cols := columns (elemCount T) (rs.map fun r => t.elemsOf T r l)
  let ops := cols.map fun c => (fpValue T (c.headD 0), fpValue T ((c.drop 1).headD 0))
  let special := ops.any fun x => (iterSpecial o f x.1 x.2).isSome
  let fresh := cols.zip ops |>.map fun x =>
    match iterSpecial o f x.2.1 x.2.2 with
    | some r => r
    | none => iterExact o f t.rnd (x.1.headD 0) x.2.1 x.2.2
  match t.dcr? (some l) with
  | none => fresh
  | some d =>
    match d.states o T t.rnd with
    | none => fresh
    | some sts =>
      if special then fresh
      else if o.recurs then
        ops.zip sts |>.map fun x =>
          let r := recRun o (recScale T) (n - d.count) x.1.1 x.1.2 x.2
          let out := recResult o f t.rnd (recScale T) n x.1.1 x.1.2 r
          ⟨out.bits, out.flags ||| d.fl⟩
      else fresh.map fun x => ⟨x.bits, x.flags ||| d.fl⟩

/-- The record a lane writes after `k` digits (05 R83, R84); no digit is produced where R69 fixes every
element. -/
def iterRecord (o : IterOp) (t : Team) (rs : List Reg) (k l : Nat) : Dcr :=
  let T := t.type
  let f := typeFmt T
  let cols := columns (elemCount T) (rs.map fun r => t.elemsOf T r l)
  let ops := cols.map fun c => (fpValue T (c.headD 0), fpValue T ((c.drop 1).headD 0))
  let fixed := ops.all fun x => (iterSpecial o f x.1 x.2).isSome
  let kk := if fixed then 0 else min k (o.digits f)
  let parts := ops.map fun x =>
    match iterSpecial o f x.1 x.2 with
    | some r => (true, r.flags, 0, 0)
    | none =>
      if o.recurs then
        let r := recRun o (recScale T) kk x.1 x.2 (recStart o (recScale T) x.1 x.2)
        (false, 0, digitField r.ds, (r.w % 2 ^ (if elemCount T = 2 then 56 else 112)).toNat)
      else (false, 0, 0, 0)
  let at_ (i : Nat) := parts.getD i (false, 0, 0, 0)
  let second := elemCount T = 2
  Dcr.make t.pc (some l) o.code kk t.rnd T (unionFlags (parts.map (·.2.1)))
    ((at_ 0).1.toNat + 2 * (second && (at_ 1).1).toNat)
    ((at_ 0).2.2.1 + if second then (at_ 1).2.2.1 * 2 ^ 56 else 0)
    ((at_ 0).2.2.2 + if second then (at_ 1).2.2.2 * 2 ^ 56 else 0)

/-! ### The instructions (11 R162) -/

/-- An iterative instruction: every lane completes, the records are used up (11 R166). -/
def iterative (o : IterOp) (d : Reg) (srcs : List Src) (la : BitVec 4) (s : State) : Result :=
  runRegs (fun t => { vecShape s t setF typeBits d srcs false with la := la.toNat })
    (fun t =>
      let outs := t.perActive (iterLane o t (srcs.map (·.reg)))
      .ok { ((t.setOuts t.type d outs).openProducer d (t.type == 0x18) (flagsOf outs)).advance with
        dcrs := [] }) s

def execVfdiv (d : Reg) (a b : Src) (la : BitVec 4) (s : State) : Result := iterative .div d [a, b] la s
def execVfsqrt (d : Reg) (a : Src) (la : BitVec 4) (s : State) : Result := iterative .sqrt d [a] la s
def execVfrsq (d : Reg) (a : Src) (la : BitVec 4) (s : State) : Result := iterative .rsq d [a] la s
def execVfrcp (d : Reg) (a : Src) (la : BitVec 4) (s : State) : Result := iterative .rcp d [a] la s
def execVfexp2 (d : Reg) (a : Src) (la : BitVec 4) (s : State) : Result := iterative .exp2 d [a] la s
def execVflog2 (d : Reg) (a : Src) (la : BitVec 4) (s : State) : Result := iterative .log2 d [a] la s

end Sys2Proof.Machine
end

