-- ==== Sys2Proof/Machine/Accept.lean ====
section
/-!
DEFINITION. Node descriptors and the ready pool (19 R277 to R283).
-/
namespace Sys2Proof.Machine

/-! ### What the front end reads -/

/-- `n` bytes of one page as the front end reads them through a context's translations. -/
def State.peek (s : State) (c : Context) (va : Addr) (n : Nat) : Option Nat :=
  match s.feTranslate c va .read with
  | .error _ => none
  | .ok p => if s.reachable p then some (leNat (s.readPlace p n)) else none

/-- Whether the front end may use an address so. -/
def State.usable (s : State) (c : Context) (va : Addr) (i : Intent) : Bool :=
  match s.feTranslate c va i with
  | .error _ => false
  | .ok _ => true

/-! ### Descriptors (19 R277, R278) -/

/-- The fields of a descriptor's 128 bytes. -/
def Desc.ofNat (x : Nat) : Desc where
  entry := .ofNat 64 x
  nid := .ofNat 32 (x / 2 ^ 64)
  teams := fld 96 16 x
  geom := .ofNat 32 (x / 2 ^ 128)
  lsmem := fld 160 32 x
  stack := .ofNat 64 (x / 2 ^ 192)
  ss := .ofNat 32 (x / 2 ^ 256)
  featIdx := fld 288 16 x
  heat := fld 304 12 x
  pred := .ofNat 32 (x / 2 ^ 320)
  nsucc := fld 352 8 x
  succ := .ofNat 64 (x / 2 ^ 384)
  opnd := .ofNat 64 (x / 2 ^ 448)
  receipt := .ofNat 64 (x / 2 ^ 512)
  signal := .ofNat 64 (x / 2 ^ 576)
  sigval := .ofNat 64 (x / 2 ^ 640)
  sigop := fld 704 2 x

/-- The reserved bits of a descriptor. -/
def descReserved (x : Nat) : Nat :=
  fld 112 16 x + fld 316 4 x + fld 360 24 x + fld 706 30 x + fld 736 32 x

def Desc.width (d : Desc) : Nat := fld 0 6 d.geom.toNat
def Desc.structured (d : Desc) : Bool := d.geom.getLsbD 6
def Desc.blocks (d : Desc) : Nat := fld 8 4 d.geom.toNat
def Desc.limit (d : Desc) : Nat := fld 12 4 d.geom.toNat
def Desc.vbase (d : Desc) : Nat := fld 16 3 d.geom.toNat
def Desc.towers (d : Desc) : Nat := fld 20 4 d.geom.toNat
def Desc.prio (d : Desc) : Nat := fld 24 3 d.geom.toNat
def Desc.nopnd (d : Desc) : Nat := fld 27 3 d.geom.toNat

/-- Every field in its range (19 R280, first two conditions): the alignment of an address field too whose address is not
used and so not translated (DESIGN CHOICE, log entry 124). -/
def Desc.inRange (d : Desc) : Bool :=
  d.entry.toNat % 4 == 0 && 1 ≤ d.teams
    && 1 ≤ d.width && d.width ≤ 32 && !d.geom.getLsbD 7
    && 1 ≤ d.blocks && d.blocks ≤ 8 && d.blocks ≤ d.limit && d.limit ≤ 8 && d.vbase == 0
    && !d.geom.getLsbD 19 && d.nopnd ≤ 6 && fld 30 2 d.geom.toNat == 0
    && d.lsmem % 64 == 0 && d.lsmem ≤ 2 ^ 20
    && d.stack.toNat % 16 == 0 && d.ss.toNat % 16 == 0
    && d.succ.toNat % 8 == 0 && d.opnd.toNat % 16 == 0
    && d.receipt.toNat % 64 == 0 && d.signal.toNat % 8 == 0 && d.sigop ≤ 2

/-! ### Which cores may run a node (19 R283) -/

/-- Whether the emulation vector has a routine for bit `b` (23 R329). -/
def State.vectorSet (s : State) (c : Context) (b : Nat) : Bool :=
  b ≤ 64 && match s.peek c (c.feattab + .ofNat 64 (128 * c.featcnt + 8 * b)) 8 with
    | some v => v != 0
    | none => false

/-- REQ and BOUND of a feature-table entry; a BOUND bit whose vector entry is 0 counts as unbound (23 R329). -/
def State.features (s : State) (c : Context) (idx : Nat) : Option (BitVec 512 × BitVec 512) :=
  match s.peek c (c.feattab + .ofNat 64 (128 * idx)) 64, s.peek c (c.feattab + .ofNat 64 (128 * idx + 64)) 64 with
  | some r, some b =>
    let bound := (List.range 65).filter fun i => bit i b && s.vectorSet c i
    some (.ofNat 512 r, .ofNat 512 (bound.foldr (fun i acc => acc + 2 ^ i) 0))
  | _, _ => none

/-- Condition 1: enabled, in a permitted tower. -/
def Desc.permits (s : State) (d : Desc) (core : Nat) : Bool :=
  isCore core && s.cores.enabled.getLsbD core && (d.towers == 0 || bit (towerOf core) d.towers)

/-- Condition 2: no required feature is missing. -/
def featureFit (s : State) (core : Nat) (f : BitVec 512 × BitVec 512) : Bool :=
  f.1 == 0 || (List.range 512).all fun b => !f.1.getLsbD b || dfmBit s core b || f.2.getLsbD b

/-- Whether no bit of REQ needs an emulation routine on the core (19 R285). -/
def nativeFit (s : State) (core : Nat) (f : BitVec 512 × BitVec 512) : Bool :=
  f.1 == 0 || (List.range 512).all fun b => !f.1.getLsbD b || dfmBit s core b

def coreList : List Nat := (List.range 512).filter isCore

/-! ### Acceptance (19 R280) -/

/-- An address that a descriptor names translates for the context, with the access it needs; in the local-store window it
does where the context claims local store (01 R29, R30), of which the front end reads and writes nothing (log entry 8). -/
def State.names (s : State) (c : Context) (va : Addr) (i : Intent) : Bool :=
  match translate s c 0 va i with
  | .error _ => false
  | .ok _ => true

/-- The declared operand records: their tiles' addresses readable, and with `formed` the records well formed. -/
def State.operandsOk (s : State) (c : Context) (d : Desc) (formed : Bool) : Bool :=
  (List.range d.nopnd).all fun i =>
    match s.peek c (d.opnd + .ofNat 64 (16 * i)) 16 with
    | none => false
    | some x =>
      let r := ShapeRec.ofNat x
      (!formed || !r.malformed) && s.names c r.addr .read

/-- The addresses that a descriptor names. -/
def State.addressesOk (s : State) (c : Context) (d : Desc) : Bool :=
  s.names c d.entry .read
    && (d.ss == 0 || s.names c d.stack .read)
    && (d.nsucc == 0 || s.names c d.succ .read)
    && (d.nopnd == 0 || s.names c d.opnd .read)
    && (d.receipt == 0 || (s.names c d.receipt .read && s.names c d.receipt .write))
    && (d.signal == 0 || (s.names c d.signal .read && s.names c d.signal .write))

/-- BCOOL, the BUDGET of a core whose tower is not HOT (25 R350, R352). -/
def Device.bcool (d : Device) : Nat := fld 8 12 d.regs.therm.toNat
def Device.bhot (d : Device) : Nat := fld 20 12 d.regs.therm.toNat

/-- A core that meets the first two conditions of R283 exists. -/
def State.someCore (s : State) (c : Context) (d : Desc) : Bool :=
  match s.features c d.featIdx with
  | none => false
  | some f => coreList.any fun k => d.permits s k && featureFit s k f

/-- The conditions of R280 on a descriptor's 128 bytes; `fresh` asks that PRED be 0, `formed` that the operand records be
well formed. -/
def State.descOk (s : State) (c : Context) (x : Nat) (fresh formed : Bool) : Bool :=
  let d := Desc.ofNat x
  descReserved x == 0 && d.inRange && (d.lsmem == 0 || c.claim.getLsbD 0) && d.featIdx < c.featcnt
    && d.heat ≤ s.dev.bcool && s.someCore c d && s.operandsOk c d formed && s.addressesOk c d
    && (!fresh || d.pred == 0)

/-- The descriptor at an address, if the front end accepts it. -/
def State.accept (s : State) (c : Context) (addr : Addr) (fresh : Bool) : Option Desc :=
  match s.peek c addr 128 with
  | none => none
  | some x => if s.descOk c x fresh true then some (Desc.ofNat x) else none

/-- ERR of a packet whose descriptor is rejected (19 R274): 5 where nothing but a malformed operand record is at fault,
or where the descriptor itself is out of reach, else 3 (DESIGN CHOICE between rows that both name it, log entry 83). -/
def State.rejectErr (s : State) (c : Context) (addr : Addr) (fresh : Bool) : Nat :=
  match s.peek c addr 128 with
  | none => 5
  | some x => if s.descOk c x fresh false then 5 else 3

/-! ### The ready pool (19 R281) -/

/-- A node as it is accepted. -/
def Node.fresh (id ctx : Nat) (queue : Option Nat) (addr : Addr) (d : Desc) (prio : Nat) : Node where
  id := id
  ctx := ctx
  queue := queue
  descAddr := addr
  desc := d
  prio := prio
  placed := 0
  exited := 0
  status := 0
  faults := 0
  start := 0
  finish := 0
  reruns := 0
  cores := []
  profileN := false
  halfWidth := false
  emulated := false
  yields := 0
  gang := none

def State.prioOf (s : State) (id : Nat) : Nat :=
  match s.node? id with
  | none => 0
  | some n => n.prio

/-- The pool with a node after every node of its priority or a higher one. -/
def State.poolWith (s : State) (id prio : Nat) : List Nat :=
  s.fe.pool.takeWhile (fun x => prio ≤ s.prioOf x) ++ id :: s.fe.pool.dropWhile fun x => prio ≤ s.prioOf x

/-- A new node, in the pool or not. -/
def State.addNode (s : State) (n : Node) : State :=
  { s with nodes := s.nodes ++ [n], sched := { s.sched with nextName := s.sched.nextName + 1 } }

/-- What the front end reads of a feature-table entry and of the emulation vector (19 R283, 23 R329). -/
def State.featureAddrs (s : State) (c : Context) (idx : Nat) : List Addr :=
  let at_ := c.feattab + .ofNat 64 (128 * idx)
  let bound := (s.peek c (at_ + 64#64) 64).getD 0
  [at_, at_ + 64#64] ++ ((List.range 65).filter fun b => bit b bound).map fun b =>
    c.feattab + .ofNat 64 (128 * c.featcnt + 8 * b)

/-- The addresses that a descriptor names, its own first (19 R280). -/
def State.namedBy (s : State) (c : Context) (addr : Addr) (d : Desc) : List Addr :=
  [addr, d.entry] ++ (if d.ss = 0 then [] else [d.stack]) ++ (if d.nsucc = 0 then [] else [d.succ])
    ++ (if d.nopnd = 0 then [] else [d.opnd])
    ++ (if d.receipt = 0 then [] else [d.receipt]) ++ (if d.signal = 0 then [] else [d.signal])
    ++ ((List.range d.nopnd).filterMap fun i =>
      (s.peek c (d.opnd + .ofNat 64 (16 * i)) 16).map fun x => (ShapeRec.ofNat x).addr)
    ++ s.featureAddrs c d.featIdx

/-- The translations that the checks of a descriptor make, whether or not it is accepted (21 R319; log entry 66). -/
def State.touchDesc (s : State) (ctx : Nat) (addr : Addr) : State :=
  match s.ctx? ctx with
  | none => s
  | some c =>
    match s.peek c addr 128 with
    | none => s.touchFe ctx [addr]
    | some x => s.touchFe ctx (s.namedBy c addr (Desc.ofNat x))

/-- An accepted descriptor is entered. -/
def State.enter (s : State) (ctx : Nat) (queue : Option Nat) (addr : Addr) (d : Desc) (prio : Nat) : State :=
  let id := s.sched.nextName
  let s1 := s.addNode (.fresh id ctx queue addr d prio)
  { s1 with fe := { s1.fe with pool := s.poolWith id prio } }.touchDesc ctx addr

/-- A submission stalls on a full pool, and behind held successors (19 R281, R288). -/
def State.poolBusy (s : State) : Bool := 4096 ≤ s.fe.pool.length || s.fe.held != []

end Sys2Proof.Machine
end

