-- ==== Sys2Proof/Machine/System.lean ====
section
/-!
DEFINITION. Special registers and system instructions: majors 0x06 and 0x12 (07 R94 to R99, 09 R137 to R143,
25 R350, 21 R309, R312).
-/
namespace Sys2Proof.Machine

/-! ### MODE (07 R96, 09 R138) -/

/-- SETMODE, MODEW and SWR to 0x000. -/
def setMode (s : State) (t : Team) (v : Word) : Except Stop Team :=
  if modeOk (s.ctxOf t).nvr v then .ok { t with mode := v } else raiseAt .illegalMode

def execModew (a : Src) (s : State) : Result :=
  runRegs (fun _ => { srcs := [⟨.s a.reg, a.last⟩] })
    (fun t => match setMode s t (t.sval a.reg) with
      | .error e => .error e
      | .ok t1 => .ok t1.advance) s

def execSetmode (i : BitVec 20) (s : State) : Result :=
  runRegs (fun _ => {})
    (fun t => match setMode s t (i.setWidth 32) with
      | .error e => .error e
      | .ok t1 => .ok t1.advance) s

/-! ### Which special registers exist (07 R94, R95; 25 R350; 21 R309) -/

/-- Numbers below 0x100 that R94 lists. -/
def userSpecial (n : Nat) : Bool :=
  n ≤ 4 || (0x10 ≤ n && n ≤ 0x14) || (0x18 ≤ n && n ≤ 0x1C) || (0x20 ≤ n && n ≤ 0x31)
    || (0x40 ≤ n && n ≤ 0x42) || (0x50 ≤ n && n ≤ 0x60)

/-- Numbers from 0x100 on that R350 and R309 list. -/
def privSpecial (n : Nat) : Bool :=
  n == 0x100 || n == 0x101 || n == 0x102 || n == 0x104 || n == 0x105 || n == 0x106 || n == 0x108
    || n == 0x109 || n == 0x10A || n == 0x10C || n == 0x110 || n == 0x111 || n == 0x112
    || n == 0x120 || n == 0x121 || n == 0x122

/-- ILLEGAL_OPCODE and PRIVILEGE of a special register number. -/
def specialTrap (s : State) (t : Team) (n : Nat) : Option Trap :=
  if n < 0x100 then (if userSpecial n then none else some (.at .illegalOpcode 0 0))
  else if !(s.ctxOf t).priv then some (.at .privilege (.ofNat 64 n) 0)
  else if privSpecial n then none
  else some (.at .illegalOpcode 0 0)

/-! ### Values -/

/-- BUDGET of a core (19 R284, 25 R352). -/
def State.budget (s : State) (core : Nat) : Nat :=
  if s.dev.hot.getLsbD (towerOf core) then s.dev.bhot else s.dev.bcool

/-- The lowest-numbered enabled core of the `n` indices from `lo` on. -/
def State.firstEnabled (s : State) (lo n : Nat) : Option Nat :=
  ((List.range n).find? fun i => isCore (lo + i) && s.cores.enabled.getLsbD (lo + i)).map (lo + ·)

/-- The core that hosts the teller of cluster `k`, a core index over 8 (13 R193). -/
def State.tellerHost (s : State) (k : Nat) : Option Nat :=
  match s.firstEnabled (8 * k) 8 with
  | some c => some c
  | none =>
    match s.firstEnabled (64 * (k / 8)) 64 with
    | some c => some c
    | none =>
      match s.firstEnabled (128 * (k / 16)) 128 with
      | some c => some c
      | none => s.firstEnabled 0 512

/-- The 48 clusters (01 R14). -/
def clusterList : List Nat := (List.range 64).filter fun k => k % 8 < 6

/-- The tellers that a core hosts. -/
def State.tellersOn (s : State) (core : Nat) : Nat :=
  (clusterList.filter fun k => s.tellerHost k == some core).length

/-- The teams of the running context resident on a core (19 R283). -/
def State.residents (s : State) (core : Nat) : List Team :=
  s.teams.filter fun t => t.core == core && t.ctx == s.fe.running && !t.yielded

/-- What the tellers of a core take of its allowance. -/
def State.tellersHeat (s : State) (core : Nat) : Nat := (List.replicate (s.tellersOn core) Config.tellerHeat).sum

/-- AVAIL of a core. -/
def State.avail (s : State) (core : Nat) : Nat :=
  s.budget core - ((s.residents core).map (·.heat)).sum - s.tellersHeat core

/-- TAR (19 R284). -/
def tarWord (s : State) (core : Nat) : Word :=
  .ofNat 32 (s.avail core + s.budget core * 2 ^ 12 + (Assoc.get 0 s.dev.colTemp core).toNat * 2 ^ 24
    + (s.dev.hot.getLsbD (towerOf core)).toNat * 2 ^ 31)

/-- DPCAP (01 R21). -/
def dpcapWord (s : State) (core : Nat) : Word :=
  let half := s.cores.half.getLsbD core
  let n := profileN s core
  .ofNat 32 (n.toNat + half.toNat * 2 + (half && s.cores.hsel.getLsbD core).toNat * 4 + (!n).toNat * 8
    + (if half then 16 else 32) * 2 ^ 16 + (if half then 32 else 64) * 2 ^ 24)

/-- What a read of a special register returns (07 R94 and the rules it names). -/
def specialValue (s : State) (t : Team) (n : Nat) : Word :=
  match n with
  | 0x000 => t.mode
  | 0x001 => summaryWord t.exm
  | 0x002 => .ofNat 32 (s.ctxOf t).nvr
  | 0x003 => t.flags
  | 0x004 => t.lavc
  | 0x010 => t.index.setWidth 32
  | 0x011 => .ofNat 32 t.tw
  | 0x012 => t.nid
  | 0x013 => cidWord s t t.cid0
  | 0x014 => cidWord s t t.cid1
  | 0x018 => t.vbase.setWidth 32
  | 0x019 => t.blocks.setWidth 32
  | 0x01A => t.acb.setWidth 32
  | 0x01B => t.acl.setWidth 32
  | 0x01C => t.slim
  | 0x030 => lowWord (s.ctb t.ctx t.core)
  | 0x031 => highWord (s.ctb t.ctx t.core)
  | 0x040 => .ofNat 32 t.core
  | 0x041 => dpcapWord s t.core
  | 0x042 => tarWord s t.core
  | 0x060 => Config.impl
  | 0x100 => lowWord (s.coreTime t.core)
  | 0x101 => highWord t.tbCapture
  | 0x102 => s.dev.regs.hanglim
  | 0x104 => s.dev.regs.ovflo
  | 0x105 => s.dev.regs.ovfhi
  | 0x106 => s.dev.regs.ovfcap
  | 0x108 => s.dev.regs.grplo
  | 0x109 => s.dev.regs.grphi
  | 0x10A => s.dev.regs.grpcnt
  | 0x10C => s.dev.regs.devid
  | 0x110 => s.dev.regs.xval
  | 0x111 => s.dev.regs.xvah
  | 0x120 => s.dev.regs.therm
  | 0x121 => s.dev.regs.pcap
  | 0x122 => s.dev.regs.pnow
  | _ =>
    if 0x20 ≤ n ∧ n < 0x30 then
      let i : BitVec 3 := .ofNat 3 ((n - 0x20) / 2)
      if n % 2 = 0 then (t.qStart[i.toNat]'(i.isLt)) else (t.qLen[i.toNat]'(i.isLt))
    else if 0x50 ≤ n ∧ n < 0x60 then dfmWord s t.core (n - 0x50)
    else 0

/-- SRD waits for matrix instructions before it reads FLAGS, to which they still add (07 R95, 17 R258). -/
def execSrd (d : Reg) (n : BitVec 12) (s : State) : Result :=
  runRegs (fun t => { dsts := [.s d], exm := n == 1#12, early := specialTrap s t n.toNat })
    (fun t =>
      if n = 3#12 ∧ t.matrixPending then .error .stall
      else
        let t1 := if n = 0x100#12 then { t with tbCapture := s.coreTime t.core } else t
        .ok (t1.setS d (specialValue s t n.toNat)).advance) s

/-! ### Writes (09 R139) -/

/-- A write of a register of the team; a read-only one is left alone. -/
def Team.writeSpecial (t : Team) (n : Nat) (v : Word) : Team :=
  match n with
  | 0x003 => { t with flags := v &&& 0x1F#32 }
  | 0x004 => { t with lavc := v &&& 0xFFFFFF#32 }
  | 0x01C => { t with slim := v &&& 0xFFFFFFF0#32 }
  | _ =>
    if 0x20 ≤ n ∧ n < 0x30 then
      let i : BitVec 3 := .ofNat 3 ((n - 0x20) / 2)
      if n % 2 = 0 then { t with qStart := t.qStart.set i.toNat v i.isLt }
      else { t with qLen := t.qLen.set i.toNat v i.isLt }
    else t

/-- A write of a device-wide register (25 R350); 0x104 to 0x106 are locked while an overflow list holds an
entry. -/
def Privileged.write (r : Privileged) (locked : Bool) (plimit : Nat) (n : Nat) (v : Word) : Privileged :=
  match n with
  | 0x102 => { r with hanglim := v }
  | 0x104 => if locked then r else { r with ovflo := v &&& 0xFFFF0000#32 }
  | 0x105 => if locked then r else { r with ovfhi := v &&& 0xFFFFF#32 }
  | 0x106 => if locked then r else { r with ovfcap := v &&& 0xFFFF#32 }
  | 0x108 => { r with grplo := v }
  | 0x109 => { r with grphi := v &&& 0xFFFFF#32 }
  | 0x10A => { r with grpcnt := v &&& 0x1FFF#32 }
  | 0x10C => { r with devid := v &&& 0xFFF#32 }
  | 0x110 => { r with xval := v }
  | 0x111 => { r with xvah := v }
  | 0x121 => { r with pcap := .ofNat 32 (min (fld 0 12 v.toNat) plimit) }
  | _ => r

def State.writeDevice (s : State) (n : Nat) (v : Word) : State :=
  let locked := s.armedBells.any (·.listed)
  { s with dev := { s.dev with regs := s.dev.regs.write locked s.dev.flash.plimit.toNat n v } }

/-! ### Invalidation (21 R309, R312) -/

/-- A pending translation is tried again: the team issues its instruction from the start; of a team stopped for the
debugger, when it is resumed. -/
def Team.retry (t : Team) : Team :=
  match t.cond with
  | .pendingTranslation _ _ => { t with cond := .ready, retried := true }
  | .stopped _ (.translation _ _) => { t with retried := true }
  | .stopped _ _ => t
  | .ready | .stalled | .woken | .exiting => t
  | .parkedAwait _ _ _ => t
  | .parkedBarrier _ _ => t

/-- Every pending translation of a context is tried again. -/
def State.retryContext (s : State) (ctx : Nat) : State :=
  { s with teams := s.teams.map fun t => if t.ctx = ctx then t.retry else t }

/-- The address of a pending translation. -/
def Team.pendingAddr (t : Team) : Option Addr :=
  match t.cond with
  | .pendingTranslation a _ => some a
  | .stopped _ (.translation a _) => some a
  | .stopped _ _ => none
  | .ready | .stalled | .woken | .exiting => none
  | .parkedAwait _ _ _ => none
  | .parkedBarrier _ _ => none

/-- Those whose address lies in the 1 GiB region of an address. -/
def State.retryRegion (s : State) (ctx : Nat) (va : Addr) : State :=
  let covered (t : Team) : Bool := t.pendingAddr.any fun a => a.toNat / 2 ^ 30 == va.toNat / 2 ^ 30
  { s with teams := s.teams.map fun t => if t.ctx = ctx ∧ covered t then t.retry else t }

/-- Whether a team is one of a context's. -/
def State.inCtx (s : State) (ctx team : Nat) : Bool := s.teams.any fun t => t.id == team && t.ctx == ctx

/-- An access or copy of a team of the context is in flight. -/
def State.contextBusy (s : State) (ctx : Nat) : Bool :=
  s.flight.accesses.any (fun a => s.inCtx ctx a.team) || s.flight.copies.any fun c => s.inCtx ctx c.team

/-- One of those that the page which holds an address translated, of any size (21 R309). -/
def State.pageBusy (s : State) (ctx : Nat) (va : Addr) : Bool :=
  s.flight.accesses.any (fun a => s.inCtx ctx a.team && a.page.any fun g => g.holds va)
    || s.flight.copies.any fun c => s.inCtx ctx c.team && c.mapped.any fun g => g.holds va

/-- SWR to 0x112: nothing is cached here, so the command only waits for the accesses in flight that the translations which
it names translated, and tries pending translations again. -/
def invalidate (s : State) (v : Word) : Except Stop State :=
  let ctx := fld 0 16 v.toNat
  let va := joinPair s.dev.regs.xval s.dev.regs.xvah
  let op := fld 16 2 v.toNat
  if (s.ctx? ctx).isNone ∨ 2 ≤ op then .ok s
  else if if op = 0 then s.contextBusy ctx else s.pageBusy ctx va then .error .stall
  else .ok (if op = 0 then s.retryContext ctx else s.retryRegion ctx va)

def execSwr (n : BitVec 12) (r : Reg) (s : State) : Result :=
  runState (fun t s => { srcs := [⟨.s r, false⟩], early := specialTrap s t n.toNat })
    (fun t s =>
      let v := t.sval r
      if n = 0#12 then
        match setMode s t v with
        | .error e => .error e
        | .ok t1 => .ok (s.putTeam t1.advance, [])
      else if n = 3#12 ∧ t.matrixPending then .error .stall
      else if n = 0x112#12 then
        match invalidate s v with
        | .error e => .error e
        | .ok s1 => .ok (s1.putTeam t.advance, [])
      else .ok ((s.writeDevice n.toNat v).putTeam (t.writeSpecial n.toNat v).advance, [])) s

/-! ### STAMP, TRAP, BRK (09 R140, R141) -/

def execStamp (d : Reg) (s : State) : Result :=
  runRegs (fun _ => { dsts := [.pair d] }) (fun t => .ok (t.setPair d (s.coreTime t.core)).advance) s

/-- SOFTWARE with the stopping point after the instruction; it waits as every trap does (15 R224). -/
def execTrap (n : BitVec 12) (s : State) : Result :=
  match s.curTeam with
  | none => .fault .noTeam
  | some t =>
    let t1 := ({} : Shape).retire t.begin.advance
    if s.frameHeld t then .next (s.stall t)
    else .next ((s.putTeam t1).takeTrap t1 ⟨.software, n.setWidth 64, 0, none, some t.pc⟩)

/-- BREAK with the stopping point at the instruction. -/
def execBrk (n : BitVec 12) (s : State) : Result :=
  match s.curTeam with
  | none => .fault .noTeam
  | some t => .next (s.takeTrap t (.at .break_ (n.setWidth 64) 0))

/-! ### REGACQ and REGREL (09 R142, 03 R54) -/

/-- The virtual registers from `lo` to `hi` − 1 become dead. -/
def Team.killRange (t : Team) (lo hi : Nat) : Team :=
  { t with vregs := .ofFn fun i : Fin 64 => if lo ≤ i.val ∧ i.val < hi then VReg.dead else t.vregs[i] }

/-- The window grows by `k` blocks, whose registers are dead. -/
def Team.grow (t : Team) (k : Nat) : Team :=
  let top := t.vbase.toNat + t.blocks.toNat
  { t.killRange (8 * top) (8 * (top + k)) with blocks := .ofNat 4 (t.blocks.toNat + k) }

/-- REG_BOUND of a request: the highest register it would create. -/
def acquireTrap (t : Team) (k : Nat) : Option Trap :=
  let top := t.vbase.toNat + t.blocks.toNat + k
  if 8 < top then some (.at .regBound (.ofNat 64 (8 * top - 1)) 0) else none

def execRegacq (k : BitVec 3) (s : State) : Result :=
  runRegs (fun t => { early := acquireTrap t k.toNat })
    (fun t =>
      if t.blockLimit.toNat < t.blocks.toNat + k.toNat then .error .stall
      else .ok (t.grow k.toNat).advance) s

def execRegacqNb (d : Reg) (k : BitVec 3) (s : State) : Result :=
  runRegs (fun t => { dsts := [.s d], early := acquireTrap t k.toNat })
    (fun t =>
      if t.blockLimit.toNat < t.blocks.toNat + k.toNat then .ok (t.setS d 1).advance
      else .ok ((t.grow k.toNat).setS d 0).advance) s

/-- REGREL waits for loads in flight to the registers it releases: an earlier load writes them first (03 R35). -/
def execRegrel (k : BitVec 3) (s : State) : Result :=
  runRegs (fun t =>
      { early := if t.blocks.toNat < k.toNat + 1 then some (.at .regBound (8 * t.vbase.setWidth 64) 0) else none
        unread := [⟨.vgroup (.ofNat 6 (8 * (t.blocks.toNat - k.toNat))) (8 * k.toNat), false⟩] })
    (fun t =>
      let top := t.vbase.toNat + t.blocks.toNat
      .ok { t.killRange (8 * (top - k.toNat)) (8 * top) with
        blocks := .ofNat 4 (t.blocks.toNat - k.toNat) }.advance) s

/-! ### NODE (09 R143, 19 R280, R281) -/

/-- A sealed copy of the team is in flight. -/
def State.sealedBusy (s : State) (t : Team) : Bool :=
  s.flight.batches.any fun b => b.team == t.id && !s.performed b

def execNode (d : Reg) (a b : Src) (s : State) : Result :=
  runState (fun _ _ =>
      { srcs := [⟨.pair a.reg, a.last⟩, ⟨.s b.reg, b.last⟩], dsts := [.s d], alone := true })
    (fun t s =>
      let va := t.pair a.reg
      if va.toNat % 128 ≠ 0 then raiseAt .misaligned va
      else match checkPlace s t va .read with
        | .error e => .error e
        | .ok p =>
          if s.sealedBusy t ∨ s.poolBusy then .error (Stop.stall.checked [p])
          else
            let s1 := s.touchNamed t.ctx [p]
            let read : List Touch := [⟨va, 128, false, none⟩]
            match s.accept (s.ctxOf t) va true with
            | none => .ok ((s1.touchDesc t.ctx va).putTeam (t.setS d 1).advance, read)
            | some desc =>
              .ok ((s1.enter t.ctx none va desc (fld 0 3 (t.sval b.reg).toNat)).putTeam (t.setS d 0).advance, read)) s

end Sys2Proof.Machine
end

