-- ==== Sys2Proof/Machine/Place.lean ====
section
/-!
DEFINITION. Dispatch, completion and preemption (19 R281 to R296; 03 R43, R44, R52, R55, R56).
-/
namespace Sys2Proof.Machine

/-- An event that the state gives nothing to act on. -/
def notEnabled : Result := .fault .eventNotEnabled

/-! ### Eligible cores (19 R283, R285) -/

def rowSum (l : List Nat) : Nat := l.foldr (· + ·) 0

/-- Whether a queue is one of a context's. -/
def State.queueOf (s : State) (ctx q : Nat) : Bool := (s.queue q).map.any fun m => m.ctx == ctx

/-- Slots of a core that gang reservations of queues other than `own` hold (19 R287).  What a gang of a switched-out context
is held binds its own context alone, as its teams' slots do: each context finds the whole of a core while it runs (R283;
DEDUCED, log entry 109). -/
def State.heldSlots (s : State) (own : Option Nat) (core : Nat) : Nat :=
  (s.fe.gangHolds.filter fun h => h.2 == core && some h.1 != own && s.queueOf s.fe.running h.1).length

/-- Conditions 3 to 5: a slot, lanes, local store and allowance for a team of width `tw`. -/
def State.hasRoom (s : State) (own : Option Nat) (core tw lsmem heat : Nat) : Bool :=
  let ts := s.residents core
  let k := s.tellersOn core
  ts.length + k + s.heldSlots own core < 32
    && rowSum (ts.map Team.tw) + 32 * k + tw ≤ 4096
    && rowSum (ts.map (·.lsmem)) + lsmem ≤ 2 ^ 20
    && heat ≤ s.avail core

/-- The cores eligible for the next team of a node, of those that `allowed` names; a core whose array has wholly
failed takes no new team (17 R266).  With a feature-table entry that no longer translates there is none, so that the node
waits (DESIGN CHOICE, log entry 120). -/
def State.eligible (s : State) (n : Node) (own : Option Nat) (allowed : Nat → Bool) : List Nat :=
  match (s.ctx? n.ctx).bind fun c => s.features c n.desc.featIdx with
  | none => []
  | some f =>
    coreList.filter fun c =>
      n.desc.permits s c && allowed c && featureFit s c f && !s.arrayFailed c
        && s.hasRoom own c (32 * n.desc.width) n.desc.lsmem n.desc.heat

/-- The members that satisfy `p`, if any does; else all. -/
def prefer (p : Nat → Bool) (l : List Nat) : List Nat := if l.any p then l.filter p else l

/-- Those whose second component is the highest. -/
def highest (l : List (Nat × Nat)) : List Nat :=
  let m := l.foldr (fun x acc => max x.2 acc) 0
  (l.filter fun x => x.2 == m).map (·.1)

/-- The choice among eligible cores (19 R285). -/
def State.chooseCore (s : State) (n : Node) (cs : List Nat) : Option Nat :=
  let l := match (s.ctx? n.ctx).bind fun x => s.features x n.desc.featIdx with
    | none => cs
    | some f => prefer (nativeFit s · f) cs
  let l := prefer (fun c => !s.cores.half.getLsbD c) l
  let l := prefer (fun c => (s.residents c).any fun t => t.node == n.id) l
  (highest (l.map fun c => (c, s.avail c))).head?

/-! ### Placement (19 R286; 03 R43, R52) -/

/-- A team as it starts: the registers of R43 and R52, masks zero, the window of GEOM. -/
def Team.fresh (id : Nat) (n : Node) (core : Nat) : Team :=
  let d := n.desc
  let tw := 32 * d.width
  let z : Vector SReg 64 := Vector.replicate 64 SReg.zero
  { id := id
    ctx := n.ctx
    node := n.id
    index := .ofNat 16 n.placed
    nid := d.nid
    passes := d.width
    structured := d.structured
    core := core
    pc := d.entry
    fetched := none
    sregs := (((z.set 4 (.live (lowWord n.descAddr) false)).set 5 (.live (highWord n.descAddr) false)).set 61
      (.live d.ss false)).set 62 (.live d.ss false)
    vregs := Vector.replicate 64 VReg.dead
    masks := Vector.replicate 16 MaskReg.zero
    exmBits := lanesBelow tw
    exmPoison := 0
    nest := if d.structured then List.replicate tw 0 else []
    mode := 0x17
    flags := 0
    lavc := 0
    qStart := Vector.replicate 8 0
    qLen := Vector.replicate 8 0
    slim := 0
    vbase := .ofNat 3 d.vbase
    blocks := .ofNat 4 d.blocks
    blockLimit := .ofNat 4 d.limit
    acb := 0
    acl := 0
    cid0 := 0
    cid1 := 0
    stackBase := d.stack
    ss := d.ss
    lsmem := d.lsmem
    heat := d.heat
    featIdx := d.featIdx
    bells := Vector.replicate 4 BellSlot.off
    nextTicket := 1
    fences := []
    unsealed := []
    matrix := []
    reruns := 0
    dcrs := []
    tbCapture := 0
    traps := []
    followFaults := []
    corr := 0
    promises := []
    issued := 0
    producer := none
    cond := .ready
    retried := false
    yielded := false }

/-- Bits of the touched-dies mask that a placement sets (21 R319). -/
def placedDies (core : Nat) : Word :=
  (1#32 <<< (1 + towerOf core)) ||| (1#32 <<< (8 + pairOf core)) ||| (1#32 <<< (16 + pairOf core))

/-- The next team of a node is placed on a core: the node's record of it, and the acquire at .SY with which the
team starts (19 R270, R288). -/
def State.placeTeam (s : State) (n : Node) (core : Nat) : State :=
  let n1 := { n with
    placed := n.placed + 1
    start := if n.placed = 0 then s.dev.time else n.start
    cores := if n.cores.contains core then n.cores else n.cores ++ [core]
    profileN := n.profileN || Sys2Proof.Machine.profileN s core
    halfWidth := n.halfWidth || s.cores.half.getLsbD core }
  let t := Team.fresh s.sched.nextName n core
  let s1 := { s.putNode n1 with
    teams := s.teams ++ [t]
    sched := { s.sched with nextName := s.sched.nextName + 1 } }
  let features (c : Context) : List Addr :=
    [c.feattab + .ofNat 64 (128 * n.desc.featIdx), c.feattab + .ofNat 64 (128 * c.featcnt)]
  let s2 := s1.modCtx n.ctx fun c => { c with touched := c.touched ||| placedDies core }
  (s2.touchFe n.ctx (((s.ctx? n.ctx).map features).getD [])).acquireAt (towerOf core) (some .sy)

/-- The pool without the nodes whose teams are all placed (19 R281). -/
def State.leavePool (s : State) (id : Nat) : State :=
  match s.node? id with
  | none => s
  | some n =>
    if n.desc.teams ≤ n.placed then { s with fe := { s.fe with pool := s.fe.pool.filter (· != id) } } else s

/-- A yielded team that is ready for placement on its own core (03 R56, 15 R237, 21 R302). -/
def Team.returns (t : Team) : Bool :=
  t.yielded && match t.cond with
    | .ready | .stalled | .woken => true
    | .parkedAwait _ _ _ => t.traps != []
    | .parkedBarrier _ _ => t.traps != []
    | .pendingTranslation _ _ => false
    | .stopped _ _ => false
    | .exiting => false

/-- A yielded team of the running context whose wait has ended and whose registers await no reply. -/
def State.mayReturn (s : State) (t : Team) : Bool :=
  t.returns && t.ctx == s.fe.running && !(s.flight.accesses.any fun a => a.team == t.id && a.kind.dst?.isSome)

/-- The yielded team that is placed next. -/
def State.returning (s : State) : Option Team :=
  s.teams.find? fun t => s.mayReturn t && s.hasRoom none t.core t.tw t.lsmem t.heat

/-- The node and the core of the next placement from the pool. -/
def State.nextPlacement (s : State) : Option (Node × Nat) :=
  s.fe.pool.findSome? fun id =>
    match s.node? id with
    | none => none
    | some n =>
      if n.ctx = s.fe.running ∧ n.placed < n.desc.teams then
        (s.chooseCore n (s.eligible n none fun _ => true)).map fun c => (n, c)
      else none

/-- A placement: a yielded team whose wait has ended before any unplaced team (19 R285). -/
def execTeamPlacement (s : State) : Result :=
  if s.fe.gated then notEnabled
  else match s.returning with
    | some t => .next (s.putTeam { t with yielded := false })
    | none =>
      match s.nextPlacement with
      | none => notEnabled
      | some (n, core) => .next ((s.placeTeam n core).leavePool n.id)

/-! ### Slots that are freed (19 R287) -/

/-- The pairs that a waiting GANG packet permits: PAIRS of its parts, in the bytes fetched. -/
def gangPairs (packet : List Byte) : Nat :=
  let n := fld 0 3 (leNat ((packet.drop 4).take 1))
  (List.range n).foldl (fun m i => m ||| leNat ((packet.drop (8 + 12 * i + 8)).take 1)) 0

/-- The queues of a context at whose head a GANG packet waits. -/
def State.gangQueues (s : State) (ctx : Nat) : List Nat :=
  (List.range 128).filter fun q => (s.queue q).wait == .gang && s.queueOf ctx q

/-- Those whose packet permits a core's pair. -/
def State.gangWaiters (s : State) (ctx core : Nat) : List Nat :=
  (s.gangQueues ctx).filter fun q => match (s.queue q).prefetched with
    | [] => false
    | (_, b) :: _ => bit (pairOf core) (gangPairs b)

/-- A slot of a core, one of a context's, is freed: it is held for its first GANG packet that waits on the core's pair
(log entry 109). -/
def State.freeSlot (s : State) (ctx core : Nat) : State :=
  match s.gangWaiters ctx core with
  | [] => s
  | q :: _ => { s with fe := { s.fe with gangHolds := s.fe.gangHolds ++ [(q, core)] } }

/-- The team is parked (03 R56). -/
def Team.parked (t : Team) : Bool :=
  match t.cond with
  | .parkedAwait _ _ _ => true
  | .parkedBarrier _ _ => true
  | .ready | .stalled | .woken | .exiting => false
  | .pendingTranslation _ _ => false
  | .stopped _ _ => false

/-- The slot of a parked team is yielded: its state is saved, its promises end (07 R103). -/
def State.yieldSlot (s : State) (t : Team) : State :=
  (s.putTeam { t with yielded := true, promises := [] }).modNode t.node fun n => { n with yields := n.yields + 1 }

/-- The teams that a core has no room for: yielded there, their wait ended (03 R57, 19 R285). -/
def State.crowdedOut (s : State) (core : Nat) : List Team :=
  s.teams.filter fun u => u.core == core && s.mayReturn u && !s.hasRoom none core u.tw u.lsmem u.heat

/-- Of these, the team for which the slot that a parked team yields makes enough room. -/
def State.returnsFor (s : State) (t : Team) : Option Team :=
  (s.crowdedOut t.core).find? fun u => (s.yieldSlot t).hasRoom none u.core u.tw u.lsmem u.heat

/-- A parked team yields its slot (03 R56), gang teams apart (19 R287): while its core has no room for a yielded team whose
wait has ended, so that R57's promise holds whatever the number of free slots (DEDUCED, log entry 84), else to the next
unplaced team of its node.  Of such a team that needs more than one slot the placement follows the last yield. -/
def execSlotYield (id : Nat) (s : State) : Result :=
  match s.team? id with
  | none => notEnabled
  | some t =>
    match s.node? t.node with
    | none => notEnabled
    | some n =>
      if s.fe.gated ∨ t.ctx ≠ s.fe.running ∨ t.yielded ∨ !t.parked ∨ n.gang.isSome then notEnabled
      else
        let s1 := s.yieldSlot t
        if s.crowdedOut t.core ≠ [] then
          match s.returnsFor t with
          | some u => .next (s1.putTeam { u with yielded := false })
          | none => .next s1
        else match s1.node? n.id with
          | none => notEnabled
          | some n1 =>
            if n.desc.teams ≤ n.placed ∨ (s1.eligible n1 none fun c => c == t.core) = [] then notEnabled
            else .next ((s1.placeTeam n1 t.core).leavePool n.id)

/-! ### Receipts (19 R289) -/

/-- NCORES, FIRST and PAIRS. -/
def Node.pairs (n : Node) : Nat := n.cores.foldl (fun m c => m ||| 2 ^ pairOf c) 0
def Node.firstCore (n : Node) : Nat := (n.cores.min?).getD 0
def Node.kind (n : Node) : Nat := n.profileN.toNat + 2 * n.halfWidth.toNat + 4 * n.emulated.toNat

/-- The 64 bytes of a receipt. -/
def receiptBytes (n : Node) (status : Nat) (signal : Nat) : List Byte :=
  leBytes 4 status ++ leBytes 4 n.faults.toNat ++ leBytes 8 n.start.toNat ++ leBytes 8 n.finish.toNat
    ++ leBytes 4 n.desc.nid.toNat ++ leBytes 4 n.reruns.toNat
    ++ leBytes 2 n.cores.length ++ leBytes 2 n.firstCore ++ leBytes 1 n.pairs ++ leBytes 1 n.kind
    ++ leBytes 2 0 ++ leBytes 4 n.yields.toNat ++ leBytes 4 0 ++ leBytes 8 signal ++ leBytes 8 0

/-- A receipt of a node that never ran: STATUS and NID, every other field zero (19 R288). -/
def bareReceipt (nid : Word) (status : Nat) : List Byte :=
  leBytes 4 status ++ leBytes 20 0 ++ leBytes 4 nid.toNat ++ leBytes 36 0

/-- A write to an address that a context's translations make writable, else none (19 R288, 25 R347). -/
def State.postVa (s : State) (ctx : Nat) (va : Addr) (bs : List Byte) : State :=
  match s.ctx? ctx with
  | none => s
  | some c =>
    let s1 := s.touchFe ctx [va]
    match s.feTranslate c va .write with
    | .error _ => s1
    | .ok p => if s.reachable p then s1.writePlace p bs else s1

/-! ### The signal update and the packets' read-modify-writes (19 R273, R288) -/

/-- The word after an update: op 1 adds, op 2 writes, anything else leaves it. -/
def updatedWord (op : Nat) (v : BitVec 64) (old : Nat) : Nat :=
  match op with
  | 1 => (old + v.toNat) % 2 ^ 64
  | 2 => v.toNat
  | _ => old

/-- Where the front end may read and write an 8-byte word. -/
def State.wordPlace (s : State) (ctx : Nat) (va : Addr) : Option Place :=
  match s.ctx? ctx with
  | none => none
  | some c =>
    match s.feTranslate c va .read, s.feTranslate c va .write with
    | .ok _, .ok p => if s.reachable p then some p else none
    | _, _ => none

/-- What comes between the halves of a read-modify-write by the front end: nothing where the word's home makes it one step;
over a link without native atomics the teller reads, then writes, and writes of the host or a peer may fall between (13
R195, 15 R243, 25 R346; log entry 18). -/
def State.halfWay (s : State) (p : Place) : State := if s.splitAtomic p then s.between else s

/-- A strong read-modify-write by the front end; a poisoned word is not written (21 R314). -/
def State.updateWord (s0 : State) (p : Place) (op : Nat) (v : BitVec 64) : State :=
  let s := s0.settle p.loc 8
  if s.mem.anyBad p.loc 8 then s
  else (s.halfWay p).writePlace p (leBytes 8 (updatedWord op v (leNat (s.readPlace p 8))))

/-- The value of the signal word after the update, as the receipt carries it: what it holds where the update does not
write it; 0 when there is none, and where the word is no longer usable (DESIGN CHOICE, log entry 110). -/
def State.signalValue (s0 : State) (ctx : Nat) (d : Desc) : Nat :=
  if d.sigop = 0 ∨ d.signal = 0 then 0
  else match s0.wordPlace ctx d.signal with
    | none => 0
    | some p =>
      let s := s0.settle p.loc 8
      let old := leNat (s.readPlace p 8)
      if s.mem.anyBad p.loc 8 then old else updatedWord d.sigop d.sigval old

/-- Step 3: the signal update, where the word can be written. -/
def State.signalUpdate (s : State) (ctx : Nat) (d : Desc) : State :=
  if d.sigop = 0 ∨ d.signal = 0 then s
  else match s.wordPlace ctx d.signal with
    | none => s.touchFe ctx [d.signal]
    | some p => (s.touchFe ctx [d.signal]).updateWord p d.sigop d.sigval

/-! ### Successors (19 R288) -/

/-- The receipt of a rejected successor, where its descriptor lets one be written. -/
def State.rejectSuccessor (s : State) (ctx : Nat) (addr : Addr) : State :=
  match s.ctx? ctx with
  | none => s
  | some c =>
    match s.peek c (addr + 8#64) 4, s.peek c (addr + 64#64) 8 with
    | some nid, some r =>
      if r = 0 ∨ r % 64 ≠ 0 then s else (s.touchFe ctx [addr + 64#64]).postVa ctx (.ofNat 64 r) (bareReceipt (.ofNat 32 nid) 3)
    | _, _ => s

/-- The pool has no room for a successor. -/
def State.poolFull (s : State) : Bool := 4096 ≤ s.fe.pool.length

/-- A node from a queue counts for that queue's FENCE until it completes. -/
def State.countFor (s : State) (queue : Option Nat) (id : Nat) : State :=
  match queue with
  | none => s
  | some q => s.putQueue q { s.queue q with entered := (s.queue q).entered ++ [id] }

/-- A successor whose PRED reached 0: checked under R280, entered at its PRIO or held.  An entry of SUCC that is no multiple
of 128 is rejected here, when the word at its offset 40 has reached 0 (DESIGN CHOICE, log entry 119). -/
def State.enterSuccessor (s : State) (ctx : Nat) (addr : Addr) : State :=
  match s.ctx? ctx with
  | none => s
  | some c =>
    match (if addr.toNat % 128 = 0 then s.accept c addr false else none) with
    | none => (s.touchDesc ctx addr).rejectSuccessor ctx addr
    | some d =>
      if s.poolBusy then { s with fe := { s.fe with held := s.fe.held ++ [⟨ctx, addr, d⟩] } }
      else s.enter ctx none addr d d.prio

/-- The decrement of one successor's PRED. -/
def State.decrementPred (s0 : State) (ctx : Nat) (addr : Addr) : State :=
  let s := s0.touchFe ctx [addr + 40#64]
  match s.wordPlace ctx (addr + 40#64) with
  | none => s.rejectSuccessor ctx addr
  | some p =>
    let s1 := s.settle p.loc 4
    let old := leNat (s1.readPlace p 4)
    if s1.mem.anyBad p.loc 4 ∨ old = 0 then s1
    else
      let s2 := (s1.halfWay p).writePlace p (leBytes 4 (old - 1))
      if old = 1 then s2.enterSuccessor ctx addr else s2

/-- Steps 4 and 5, in SUCC order; an entry that cannot be read names no successor. -/
def State.decrementSuccessors (s : State) (ctx : Nat) (d : Desc) : State :=
  (List.range d.nsucc).foldl (fun s i =>
    let va := d.succ + .ofNat 64 (8 * i)
    match (s.ctx? ctx).bind fun c => s.peek c va 8 with
    | none => s
    | some a => (s.touchFe ctx [va]).decrementPred ctx (.ofNat 64 a)) s

/-- Step 6: the node counts as complete for FENCE, and the front end keeps nothing of it. -/
def State.forgetNode (s : State) (id : Nat) : State :=
  { s with
    nodes := s.nodes.filter fun n => n.id != id
    fe := { s.fe with
      pool := s.fe.pool.filter (· != id)
      queues := s.fe.queues.map fun q => { q with entered := q.entered.filter (· != id) } } }

/-- The completion of a node whose last team has exited (19 R288). -/
def State.completeNode (s : State) (n : Node) : State :=
  let n1 := { n with finish := s.dev.time }
  let s1 := if n.desc.receipt = 0 then s
    else s.postVa n.ctx n.desc.receipt (receiptBytes n1 n1.status (s.signalValue n.ctx n.desc))
  let s2 := s1.signalUpdate n.ctx n.desc
  let s3 := if n.status = 0 then s2.decrementSuccessors n.ctx n.desc else s2
  s3.forgetNode n.id

/-! ### Preemption (19 R292, R294) -/

/-- A team that is ready, for R292: neither parked, stopped, exiting nor holding a pending translation. -/
def Team.wantsIssue (t : Team) : Bool :=
  match t.cond with
  | .ready | .stalled | .woken => true
  | .parkedAwait _ _ _ => t.traps != []
  | .parkedBarrier _ _ => t.traps != []
  | .pendingTranslation _ _ => false
  | .stopped _ _ => false
  | .exiting => false

/-- A context has a node in the pool. -/
def State.hasNode (s : State) (ctx : Nat) : Bool :=
  s.fe.pool.any fun id => match s.node? id with
    | none => false
    | some n => n.ctx == ctx

/-- A context has a ready node: one in the pool, or those of a GANG packet that waits (R287), which is placed in no other
way than in its context's slices.  A successor that waits for room in the pool is ready when it enters it (DEDUCED, log
entry 108). -/
def State.readyNode (s : State) (ctx : Nat) : Bool := s.hasNode ctx || s.gangQueues ctx != []

/-- RUNNABLE (19 R292): a ready node, a ready team, or WAKEPEND. -/
def State.runnable (s : State) (c : Context) : Bool :=
  s.readyNode c.ctxid || s.teams.any (fun t => t.ctx == c.ctxid && t.wantsIssue) || c.wakePend

/-- The same without the fires that take effect at the end of the running slice only: WAKEPEND that was set since the slice
began, and the teams that fires have made ready since then (19 R292). -/
def State.runnableNow (s : State) (c : Context) : Bool :=
  s.readyNode c.ctxid
    || s.teams.any (fun t => t.ctx == c.ctxid && t.wantsIssue && !(c.lateTeams.contains t.id && t.cond == .woken))
    || (c.wakePend && !c.wakeLate)

/-- Another entry than the running context's is runnable. -/
def State.otherRunnable (s : State) : Bool :=
  s.fe.contexts.any fun c => c.ctxid != s.fe.running && s.runnable c

/-- A slice ends: the fires since it began take effect (19 R292). -/
def State.sliceEnds (s : State) : State :=
  { s with fe := { s.fe with
    contexts := s.fe.contexts.map fun c => { c with wakeLate := false, lateTeams := [] } } }

/-- The instruction at a team's pc, if it can be fetched and decoded. -/
def State.nextInstr (s : State) (t : Team) : Option Instr :=
  match fetch32 s t t.pc with
  | .error _ => none
  | .ok w =>
    match decode w with
    | .ok i => some i
    | .error _ => none

/-- A team stands between a producer and the consumer that cancels it: no stopping point (05 R78). -/
def State.inPair (s : State) (t : Team) : Bool :=
  match s.nextInstr t with
  | some (.vfcmpK _ _ a b) => cancels t.producer t.pc [a, b]
  | some (.vfsgnK _ a) => cancels t.producer t.pc [a]
  | _ => false

/-- The records of a vector instruction stopped inside: those of the active lanes of each pass that has begun
(05 R79, 11 R165). -/
def vectorRecords (s : State) (t : Team) (o : IterOp) (d : Reg) (srcs : List Src) (n : Nat) : Option (List Dcr) :=
  if ((vecShape s t setF typeBits d srcs false).check t s).isSome then none
  else some (t.active.filterMap fun l =>
    (Config.stopDigits n (l / 32)).map fun k => iterRecord o t (srcs.map (·.reg)) (k l) l)

/-- The record of a scalar division stopped inside. -/
def scalarRecord (s : State) (t : Team) (isSigned : Bool) (op : Nat) (d : Reg) (a b : Src) (n : Nat) :
    Option (List Dcr) :=
  let sh : Shape := { srcs := [⟨.s a.reg, a.last⟩, ⟨.s b.reg, b.last⟩], dsts := [.s d] }
  if (sh.check t s).isSome then none
  else (Config.stopDigits n 0).map fun k =>
    [divRecord t.pc isSigned op (min (k 0) 32) (t.sval a.reg) (t.sval b.reg)]

/-- What an asynchronous stop may leave of an instruction of the iterative class; none for any other, and none
where an earlier stop's records still stand (05 R79). -/
def stopRecords (s : State) (t : Team) (n : Nat) : Option (List Dcr) :=
  if t.dcrs != [] then none
  else match s.nextInstr t with
    | some (.div d a b _) => scalarRecord s t true 0x01 d a b n
    | some (.divu d a b _) => scalarRecord s t false 0x02 d a b n
    | some (.rem d a b _) => scalarRecord s t true 0x03 d a b n
    | some (.remu d a b _) => scalarRecord s t false 0x04 d a b n
    | some (.vfdiv d a b _) => vectorRecords s t .div d [a, b] n
    | some (.vfsqrt d a _) => vectorRecords s t .sqrt d [a] n
    | some (.vfrsq d a _) => vectorRecords s t .rsq d [a] n
    | some (.vfrcp d a _) => vectorRecords s t .rcp d [a] n
    | some (.vfexp2 d a _) => vectorRecords s t .exp2 d [a] n
    | some (.vflog2 d a _) => vectorRecords s t .log2 d [a] n
    | _ => none

/-- A team at an asynchronous stop: its promises end (07 R103), it fetches again on resumption (09 R126), and an
instruction of the iterative class that it
was in may leave records, in a context that claims them (05 R79, 19 R291, 01 R24). -/
def State.stopTeam (s : State) (n : Nat) (t : Team) : Team :=
  let inside : Bool := match t.cond with
    | .ready | .stalled => true
    | .parkedAwait _ _ _ => false
    | .parkedBarrier _ _ => false
    | .pendingTranslation _ _ => false
    | .stopped _ _ => false
    | .woken | .exiting => false
  let keeps := inside && !t.yielded && Config.recordsDigits && (s.ctxOf t).claim.getLsbD 4 && Config.stopKeeps n
  { t with
    promises := []
    fetched := if inside then none else t.fetched
    dcrs := if keeps then (stopRecords s t n).getD t.dcrs else t.dcrs }

/-- A preemption request (19 R294): the running context's teams stop.  A team inside a cancelling pair first
issues its second instruction (05 R78; see `State.mayIssue`). -/
def State.gate (s : State) : State :=
  if s.fe.gated then s
  else
    let n := s.sched.freeCount
    let stop (i : Nat) (t : Team) : Team := if t.ctx = s.fe.running then s.stopTeam (n + i) t else t
    { s with
      teams := s.teams.mapIdx stop
      fe := { s.fe with gated := true }
      sched := { s.sched with freeCount := n + s.teams.length } }

/-- The running context holds no team, resident or saved, and no node in the pool. -/
def State.idle (s : State) : Bool := !(s.teams.any fun t => t.ctx == s.fe.running) && !s.hasNode s.fe.running

/-- The running context is idle, and another entry is runnable: preemption is requested at once.  A fire since the slice
began makes none runnable for that (19 R292; DEDUCED, log entry 85). -/
def State.idlePreempt (s : State) : State :=
  if s.idle && s.fe.contexts.any (fun c => c.ctxid != s.fe.running && s.runnableNow c) then s.gate else s

/-! ### Exit and completion as events -/

/-- Everything the team issued has performed (03 R44). -/
def State.quiet (s : State) (t : Team) : Bool :=
  !s.busy t && !(s.flight.copies.any fun c => c.team == t.id) && t.fences == [] && t.matrix == []

/-- An exiting team counts as exited: its slot is freed, and its node completes with its last team. -/
def execTeamExitComplete (id : Nat) (s : State) : Result :=
  match s.team? id with
  | none => notEnabled
  | some t =>
    if t.cond ≠ .exiting ∨ !s.quiet t then notEnabled
    else
      let s1 := { s with teams := s.teams.filter fun u => u.id != id }.freeSlot t.ctx t.core
      let s2 := s1.modNode t.node fun n => { n with exited := n.exited + 1 }
      match s2.node? t.node with
      | none => .next s2.idlePreempt
      | some n => .next (if n.desc.teams ≤ n.exited then s2.completeNode n else s2).idlePreempt

/-- A held successor takes room in the pool (19 R288). -/
def execHeldSuccessorEntry (s : State) : Result :=
  match s.fe.held with
  | [] => notEnabled
  | h :: rest =>
    if s.poolFull then notEnabled
    else .next ({ s with fe := { s.fe with held := rest } }.enter h.ctx none h.descAddr h.desc h.desc.prio)

end Sys2Proof.Machine
end

