-- ==== Sys2Proof/Machine/Drum.lean ====
section
/-!
DEFINITION. Hardware queues and the drum's rounds (19 R270 to R276).  A packet is handled as the number that its
64 bytes hold.
-/
namespace Sys2Proof.Machine

/-! ### Packets (19 R271, R273) -/

def packetType (p : Nat) : Nat := fld 0 8 p
def packetFence (p : Nat) : Bool := bit 8 p
/-- SEQ16 × 2^16 + SEQ. -/
def packetStamp (p : Nat) : Nat := fld 9 1 p * 2 ^ 16 + fld 16 16 p
/-- `n` bytes of the body. -/
def packetBytes (o n p : Nat) : Nat := fld (8 * o) (8 * n) p
def packetAddr (o p : Nat) : Addr := .ofNat 64 (packetBytes o 8 p)

/-- The bits of a GANG packet that are reserved, past its NPARTS parts and in each of them. -/
def gangRsv (p : Nat) : Nat :=
  let n := fld 32 3 p
  fld 35 29 p + rowSum ((List.range n).map fun i => fld (64 + 96 * i + 72) 24 p) + fld (64 + 96 * n) (448 - 96 * n) p

/-- The reserved bits of a CONTEXT_CTL packet (19 R293). -/
def controlRsv (p : Nat) : Nat :=
  packetBytes 5 1 p + match packetBytes 4 1 p with
    | 0 => packetBytes 16 40 p
    | 1 => packetBytes 8 48 p
    | 2 => packetBytes 16 40 p
    | 3 => packetBytes 18 6 p + packetBytes 32 24 p
    | 4 => packetBytes 8 8 p + packetBytes 17 39 p
    | 5 => packetBytes 8 8 p + fld 137 7 p + packetBytes 18 38 p
    | 6 => packetBytes 8 48 p
    | _ => 0

/-- The reserved bits of the body. -/
def packetRsv (p : Nat) : Nat :=
  match packetType p with
  | 0x01 => packetBytes 4 4 p + packetBytes 20 44 p
  | 0x02 => packetBytes 4 4 p + fld 131 381 p
  | 0x03 => gangRsv p
  | 0x04 => packetBytes 4 4 p + fld 194 318 p
  | 0x05 => packetBytes 4 4 p + fld 259 253 p
  | 0x06 => packetBytes 4 4 p + packetBytes 24 40 p
  | 0x07 => controlRsv p
  | 0x08 => packetBytes 4 4 p + packetBytes 24 40 p
  | 0x09 => packetBytes 4 4 p + packetBytes 20 4 p + packetBytes 32 32 p
  | _ => 0

/-- Fields in their ranges and addresses in their alignments. -/
def packetInRange (p : Nat) : Bool :=
  match packetType p with
  | 0x01 => packetBytes 8 8 p % 128 == 0 && 1 ≤ packetBytes 16 4 p && packetBytes 16 4 p ≤ 4096
  | 0x02 => packetBytes 8 8 p % 128 == 0
  | 0x03 =>
    let n := fld 32 3 p
    1 ≤ n && n ≤ 4 && (List.range n).all fun i => packetBytes (8 + 12 * i) 8 p % 128 == 0
  | 0x04 => packetBytes 8 8 p % 8 == 0 && (fld 192 2 p == 1 || fld 192 2 p == 2)
  | 0x05 => packetBytes 8 8 p % 8 == 0 && fld 256 3 p ≤ 6
  | 0x06 => packetBytes 8 8 p % 64 == 0
  | 0x07 => packetBytes 56 8 p % 8 == 0
  | 0x08 => packetBytes 8 8 p % 16 == 0
  | 0x09 => packetBytes 24 8 p % 8 == 0
  | _ => false

/-- ERR 1 and ERR 2 of R274, which the packet alone decides; of a packet that is both malformed and of a privileged type,
ERR 1 (DESIGN CHOICE: R274 orders them nowhere; log entry 96). -/
def packetErr (priv : Bool) (p : Nat) : Nat :=
  if fld 10 6 p ≠ 0 ∨ packetRsv p ≠ 0 ∨ !packetInRange p then 1
  else if (packetType p = 7 ∨ packetType p = 9) ∧ !priv then 2
  else 0

/-- The place of a type in a round (19 R275). -/
def typeRank (p : Nat) : Nat :=
  match packetType p with
  | 0x07 => 0
  | 0x09 => 1
  | 0x06 => 2
  | 0x05 => 3
  | 0x04 => 4
  | 0x03 => 5
  | 0x01 => 6
  | 0x02 => 7
  | _ => 8

/-! ### Fetching (19 R272) -/

/-- The context of a queue. -/
def State.queueCtx (s : State) (q : Nat) : Option Context := (s.queue q).map.bind fun m => s.ctx? m.ctx

/-- The address of the slot of count `c` of a ring. -/
def QueueMap.slot (m : QueueMap) (r : Addr) (c : Word) : Addr := r + .ofNat 64 (64 * (c.toNat % 2 ^ m.k))

/-- The 64 bytes of the slot of count `c`, through the translations of the queue's context (log entry 8), at one instant:
of a body that its producer still changes the model reads no mix of old and new words but those that instants show
(DESIGN CHOICE, log entry 95).  None where the slot no longer translates or cannot be reached: the queue then has no packet
and does not halt (DESIGN CHOICE, log entry 117). -/
def State.fetchSlot (s : State) (q : Nat) (c : Word) : Option (List Byte) :=
  match (s.queue q).map, s.queueCtx q with
  | some m, some x =>
    match m.ring with
    | none => none
    | some r =>
      match s.feTranslate x (m.slot r c) .read with
      | .error _ => none
      | .ok p => if s.reachable p then some (s.readPlace p 64) else none
  | _, _ => none

/-- Packets published and not finished with. -/
def Queue.published (x : Queue) : Nat := (x.doorbell - x.consumed).toNat

/-- A write of a queue's doorbell from outside the device (19 R270, 25 R349). -/
def execDoorbell (q : Nat) (p : Word) (s : State) : Result :=
  if 128 ≤ q then notEnabled else .next (s.ringDoorbell q p)

/-- Translations of the ring slots of counts `cs` (21 R319). -/
def State.touchSlots (s : State) (q : Nat) (cs : List Word) : State :=
  match (s.queue q).map with
  | none => s
  | some m =>
    match m.ring with
    | none => s
    | some r => s.touchFe m.ctx (cs.map (m.slot r))

/-- The fetcher reads the next `n` published packets of a queue, at most 16 ahead of its head packet. -/
def execPacketPrefetch (q n : Nat) (s : State) : Result :=
  let x := s.queue q
  let have_ := x.prefetched.length
  if n = 0 ∨ 17 < have_ + n ∨ x.published < have_ + n ∨ x.halt then notEnabled
  else
    let counts := (List.range n).map fun i => x.consumed + .ofNat 32 (have_ + i)
    match counts.mapM fun c => (s.fetchSlot q c).map fun b => (c, b) with
    | none => notEnabled
    | some ps => .next ((s.touchSlots q counts).putQueue q { x with prefetched := x.prefetched ++ ps })

/-- The home of the head packet's slot joins the touched dies of the queue's context (21 R319). -/
def State.touchSlot (s : State) (q : Nat) : State := s.touchSlots q [(s.queue q).consumed]

/-- The head packet of a queue: its header is read again, a differing copy is discarded with every later one, the
progress of a GRAPH packet with another header is forgotten, and the stamp decides whether the packet is present. -/
def State.head (s : State) (q : Nat) : State × Option Nat :=
  let x := s.queue q
  if x.halt || x.published == 0 then (s, none)
  else match s.fetchSlot q x.consumed with
    | none => (s, none)
    | some now =>
      let kept := match x.prefetched with
        | (c, b) :: _ => c == x.consumed && b.take 4 == now.take 4
        | [] => false
      let pre := if kept then x.prefetched else [(x.consumed, now)]
      let index := if .ofNat 32 (leNat (now.take 4)) = x.graphHead then x.graphNext else 0
      if packetStamp (leNat now) = x.consumed.toNat % 2 ^ 17 then
        ((s.touchSlot q).putQueue q { x with prefetched := pre, graphNext := index }, (pre.head?).map fun e => leNat e.2)
      else ((s.touchSlot q).putQueue q { x with prefetched := [], graphNext := index }, none)

/-! ### A packet's end -/

/-- A queue is unmapped; its doorbell register keeps the last P written (25 R349). -/
def State.unmapQueue (s : State) (q : Nat) : State :=
  (s.dropHead q).putQueue q { Queue.unmapped with doorbell := (s.queue q).doorbell }

/-- A packet is no longer being processed: an UNMAPQ that waited for it takes effect (19 R293). -/
def State.packetLeft (s : State) (q : Nat) : State :=
  if (s.queue q).leaving && !(s.fe.bank.any fun b => b.2 == q) then s.unmapQueue q else s

/-- A packet is finished with: CONSUMED advances and the status word is written (19 R270). -/
def State.consume (s : State) (q : Nat) : State :=
  let x := s.queue q
  (s.updateQueue q { x with
    consumed := x.consumed + 1, prefetched := x.prefetched.tail, graphNext := 0, graphHead := 0, wait := .none }).packetLeft q

/-- The result word of a CONTEXT_CTL packet (19 R293); none is written for address 0. -/
def State.writeResult (s : State) (ctx : Nat) (va : Addr) (code : Nat) : State :=
  if va = 0 then s else s.postVa ctx va (leBytes 8 code)

/-- A result address that cannot be written. -/
def State.resultLost (s : State) (c : Context) (va : Addr) : Bool := va != 0 && !s.usable c va .write

/-- A CONTEXT_CTL packet of an unassigned OP, for which the opcode table has no row. -/
def unassignedOp (p : Nat) : Bool := packetType p == 7 && 7 ≤ packetBytes 4 1 p

/-- Such a packet gives result 1 (19 R293). -/
def State.refuseOp (s : State) (q p : Nat) : State :=
  match s.queueCtx q with
  | none => s
  | some c =>
    if s.resultLost c (packetAddr 56 p) then s.haltQueue q 5
    else (s.writeResult c.ctxid (packetAddr 56 p) 1).consume q

/-- Packets of unassigned OPs at the front of the round are processed in their turn. -/
def State.refuseOps : Nat → State → State
  | 0, s => s
  | k + 1, s =>
    match s.fe.round with
    | [] => s
    | q :: rest =>
      match (s.queue q).prefetched with
      | [] => s
      | (_, b) :: _ =>
        if unassignedOp (leNat b) then
          State.refuseOps k ({ s with fe := { s.fe with round := rest } }.refuseOp q (leNat b)).idlePreempt
        else s

/-- How the processing of a packet ends: it is finished with, it stays at its queue's head, or it halts the
queue (19 R274, R275). -/
inductive PacketEnd where
  | done (s : State)
  | stays (s : State)
  | halts (err : Nat) (s : State)

/-- The end of a packet's processing: it is finished with, stays at the head, or halts its queue. -/
def PacketEnd.ended (q : Nat) : PacketEnd → State
  | .done s => s.consume q
  | .stays s => s.packetLeft q
  | .halts err s => (s.haltQueue q err).packetLeft q

/-- The end of a packet's processing; the round then goes on past packets that have no row of their own. -/
def PacketEnd.close (q : Nat) (e : PacketEnd) : State := State.refuseOps 32 (e.ended q).idlePreempt

/-- The packet that the drum processes next: the first of the round, of queue `q` and of type `type`. -/
def packetEvent (q type : Nat) (f : State → Nat → PacketEnd) (s : State) : Result :=
  match s.fe.round, (s.queue q).prefetched with
  | q' :: rest, (_, b) :: _ =>
    if q' = q ∧ packetType (leNat b) = type then
      .next ((f { s with fe := { s.fe with round := rest } } (leNat b)).close q)
    else notEnabled
  | _, _ => notEnabled

/-! ### Waiting packets (19 R271, R273, R275) -/

/-- CC of a WAIT_SIGNAL packet. -/
def ccOf (n : Nat) : BellCond :=
  match n with
  | 0 => .eq
  | 1 => .ne
  | 2 => .lt
  | 3 => .ge
  | 4 => .ltu
  | 5 => .geu
  | _ => .maskeq

/-- The bell that a WAIT_SIGNAL packet describes, at a place. -/
def waitBell (p : Nat) (at_ : Place) : Armed :=
  ⟨at_.loc, 8, (at_.home 0).getD 0, ccOf (fld 256 3 p), packetAddr 16 p, packetAddr 24 p, false⟩

/-- The condition of a WAIT_SIGNAL packet on the word as it stands. -/
def State.waitHolds (s : State) (p : Nat) (at_ : Place) : Bool :=
  (waitBell p at_).holds (.ofNat 64 (leNat (s.readPlace at_ 8)))

/-- A WAIT_SIGNAL whose condition has come true passes: its bell has fired, or, of a word that no bell table
holds, the value just read satisfies it. -/
def State.settleWait (s : State) (q : Nat) : State :=
  let x := s.queue q
  match x.wait with
  | .signal none true => s.consume q
  | .signal none false =>
    match x.prefetched, s.queueCtx q with
    | (_, b) :: _, some c =>
      match s.feTranslate c (packetAddr 8 (leNat b)) .read with
      | .error _ => s.haltQueue q 5
      | .ok at_ => if s.reachable at_ && s.waitHolds (leNat b) at_ then s.consume q else s
    | _, _ => s
  | .signal (some _) _ => s
  | .none => s
  | .gang => s

/-- A head packet waits under FENCE (SIGNAL and RANGE_COMMIT as if it were set; a GRAPH packet that already
entered nodes does not wait for them), or for the hand-over of an earlier one. -/
def State.waitsUnder (s : State) (q p : Nat) : Bool :=
  let x := s.queue q
  ((packetFence p || packetType p == 4 || packetType p == 6) && x.entered != [] && x.graphNext == 0)
    || (packetType p == 9 && s.fe.bank.isSome)

/-- The queue's packet to process in this round. -/
def State.packetToProcess (s : State) (q : Nat) : State × Option Nat :=
  let s1 := s.settleWait q
  if (s1.queue q).wait != .none then (s1, none)
  else
    let r := s1.head q
    match r.2 with
    | none => r
    | some p => if r.1.waitsUnder q p then (r.1, none) else r

/-! ### A round (19 R275) -/

/-- A lane takes the packet of the next queue in its rotation that has one. -/
def State.takeLane (s : State) (lane : Fin 32) : State × Option (Nat × Nat) :=
  let r := s.fe.rotation[lane]
  [0#2, 1#2, 2#2, 3#2].foldl (fun acc j =>
    match acc.2 with
    | some _ => acc
    | none =>
      let q := lane.val + 32 * (r + j).toNat
      let x := acc.1.packetToProcess q
      match x.2 with
      | none => (x.1, none)
      | some p =>
        ({ x.1 with fe := { x.1.fe with rotation := x.1.fe.rotation.set lane.val (r + j + 1) lane.isLt } },
          some (q, p))) (s, none)

/-- A packet that a lane took: a malformed one halts its queue, any other joins the round. -/
def State.classify (s : State) (q p : Nat) : State × Option (Nat × Nat) :=
  match s.queueCtx q with
  | none => (s, none)
  | some c =>
    let err := packetErr c.priv p
    if err ≠ 0 then (s.haltQueue q err, none) else (s, some (typeRank p, q))

/-- A round begins: each lane takes its packet, and they stand in the order of their types; a queue that a later lane's
halt has stopped meanwhile is out. -/
def execDrumRound (s : State) : Result :=
  if s.fe.round ≠ [] then notEnabled
  else
    let r := (List.finRange 32).foldl (fun (acc : State × List (Nat × Nat)) lane =>
      let x := acc.1.takeLane lane
      match x.2 with
      | none => (x.1, acc.2)
      | some (q, p) =>
        let y := x.1.classify q p
        (y.1, acc.2 ++ y.2.toList)) (s, [])
    let round := ((List.range 9).flatMap fun k => (r.2.filter fun e => e.1 == k).map (·.2)).filter fun q =>
      !(r.1.queue q).halt
    .next (State.refuseOps 32 { r.1 with fe := { r.1.fe with round := round } })

end Sys2Proof.Machine
end

