-- ==== Sys2Proof/Machine/Packets.lean ====
section
/-!
DEFINITION. The packets that any queue may carry (19 R273, R282, R287; 21 R310, R311; 15 R231).
-/
namespace Sys2Proof.Machine

/-- A packet event of a queue whose context is in the run list. -/
def forQueue (q : Nat) (s : State) (f : Context → PacketEnd) : PacketEnd :=
  match s.queueCtx q with
  | none => .stays s
  | some c => f c

/-! ### NODE and GRAPH (19 R280 to R282) -/

/-- An accepted node of a packet enters the pool and counts for its queue. -/
def State.enterFrom (s : State) (c : Context) (q : Nat) (addr : Addr) (d : Desc) (prio : Nat) : State :=
  (s.enter c.ctxid (some q) addr d prio).countFor (some q) s.sched.nextName

/-- A NODE packet: the descriptor's address, the acceptance, room in the pool. -/
def execNodePacket (q : Nat) : State → Result :=
  packetEvent q 2 fun s p => forQueue q s fun c =>
    let va := packetAddr 8 p
    let v := s.touchDesc c.ctxid va
    if !s.usable c va .read then .halts 5 v
    else if s.poolBusy then .stays v
    else match s.accept c va true with
      | none => .halts (s.rejectErr c va true) v
      | some d => .done (v.enterFrom c q va d (fld 128 3 p))

/-- Progress of the GRAPH packet `p`, which its header names later (19 R272, R274). -/
def State.graphAt (s : State) (q p i : Nat) : State :=
  s.putQueue q { s.queue q with graphNext := i, graphHead := .ofNat 32 (fld 0 32 p) }

/-- The descriptors of a region from index `i` on, `k` of them. -/
def State.graphFrom (c : Context) (q p : Nat) (region : Addr) : Nat → Nat → State → PacketEnd
  | 0, _, s => .done s
  | k + 1, i, s =>
    let addr := region + .ofNat 64 (128 * i)
    let v := s.touchDesc c.ctxid addr
    match s.peek c (addr + 40#64) 4 with
    | none => .halts 5 (v.graphAt q p i)
    | some pred =>
      if pred ≠ 0 then State.graphFrom c q p region k (i + 1) v
      else if s.poolBusy then .stays (v.graphAt q p i)
      else match s.accept c addr false with
        | none => .halts (s.rejectErr c addr false) (v.graphAt q p i)
        | some d => State.graphFrom c q p region k (i + 1) (v.enterFrom c q addr d d.prio)

/-- A GRAPH packet goes on from the descriptor it had reached (19 R274, R275). -/
def execGraph (q : Nat) : State → Result :=
  packetEvent q 1 fun s p => forQueue q s fun c =>
    let i := (s.queue q).graphNext
    State.graphFrom c q p (packetAddr 8 p) (packetBytes 16 4 p - i) i s

/-! ### GANG (19 R287) -/

/-- DESC and PAIRS of the parts. -/
def gangParts (p : Nat) : List (Addr × Nat) :=
  (List.range (fld 32 3 p)).map fun i => (packetAddr (8 + 12 * i) p, packetBytes (16 + 12 * i) 1 p)

/-- How many teams of a node an empty core takes, its tellers apart: slots, lanes, local store, allowance. -/
def State.emptyCapacity (s : State) (d : Desc) (core : Nat) : Nat :=
  let k := s.tellersOn core
  let per (total each : Nat) (n : Nat) : Nat := if each = 0 then n else min n (total / each)
  per (s.dev.bcool - s.tellersHeat core) d.heat
    (per (2 ^ 20) d.lsmem (per (4096 - 32 * k) (32 * d.width) (32 - k)))

/-- A part fits in its pairs when they are empty. -/
def State.partFits (s : State) (c : Context) (d : Desc) (pairs : Nat) : Bool :=
  match s.features c d.featIdx with
  | none => false
  | some f =>
    let cs := coreList.filter fun k =>
      d.permits s k && bit (pairOf k) pairs && featureFit s k f && !s.arrayFailed k
    d.teams ≤ rowSum (cs.map (s.emptyCapacity d))

/-- The parts' descriptors as accepted, or the error of the first that fails. -/
def State.acceptParts (s : State) (c : Context) : List (Addr × Nat) → Except Nat (List (Addr × Desc))
  | [] => .ok []
  | (a, pairs) :: rest =>
    if !s.usable c a .read then .error 5
    else match s.accept c a true with
      | none => .error (s.rejectErr c a true)
      | some d =>
        if !s.partFits c d pairs then .error 5
        else match s.acceptParts c rest with
          | .error e => .error e
          | .ok ds => .ok ((a, d) :: ds)

/-- Every team of a part gets a slot on the part's pairs, one after another, or none does. -/
def State.placeAll (q id pairs : Nat) : Nat → State → Option State
  | 0, s => some s
  | k + 1, s =>
    match s.node? id with
    | none => none
    | some n =>
      match s.chooseCore n (s.eligible n (some q) fun c => bit (pairOf c) pairs) with
      | none => none
      | some core => State.placeAll q id pairs k (s.placeTeam n core)

/-- Every part is placed, or none. -/
def State.placeParts (q : Nat) : List (Node × Nat) → State → Option State
  | [], s => some s
  | (n, pairs) :: rest, s =>
    match State.placeAll q n.id pairs n.desc.teams s with
    | none => none
    | some s1 => State.placeParts q rest s1

/-- Reserve, and commit or roll back: the nodes of the parts stand in the state, unplaced until the commit.  A gang may take
room ahead of a yielded team whose wait has ended (DESIGN CHOICE: R285 and R287 do not order them; log entry 97). -/
def State.tryGang (s : State) (q p : Nat) (c : Context) : PacketEnd :=
  let ns := s.nodes.filter fun n => n.gang == some q && n.placed == 0
  let parts := ns.zip ((gangParts p).map (·.2))
  let waiting := s.putQueue q { s.queue q with wait := .gang }
  if s.fe.gated ∨ s.fe.running ≠ c.ctxid then .stays waiting
  else match State.placeParts q parts s with
    | none => .stays waiting
    | some s1 =>
      let s2 := ns.foldl (fun s n => s.countFor (some q) n.id) s1
      .done { s2 with fe := { s2.fe with gangHolds := s2.fe.gangHolds.filter fun h => h.1 != q } }

def execGang (q : Nat) : State → Result :=
  packetEvent q 3 fun s p => forQueue q s fun c =>
    let v := (gangParts p).foldl (fun s a => s.touchDesc c.ctxid a.1) s
    match s.acceptParts c (gangParts p) with
    | .error e => .halts e v
    | .ok ds =>
      let s1 := ds.foldl (fun s d =>
        s.addNode { Node.fresh s.sched.nextName c.ctxid (some q) d.1 d.2 d.2.prio with gang := some q }) v
      s1.tryGang q p c

/-- A queue's GANG packet, if one waits, tries its reservation again. -/
def State.gangAgain (s : State) (q : Nat) : Option PacketEnd :=
  match (s.queue q).wait, (s.queue q).prefetched with
  | .gang, (_, b) :: _ => some (forQueue q s fun c => s.tryGang q (leNat b) c)
  | _, _ => none

/-- A waiting GANG packet tries its reservation again. -/
def execGangReserveRetry (q : Nat) (s : State) : Result :=
  match s.gangAgain q with
  | some e => .next (e.close q)
  | none => notEnabled

/-- The waiting gangs of a context try theirs, since the whole of every core is free to it again (19 R283, R287). -/
def State.retryGangs (s : State) (ctx : Nat) : State :=
  (s.gangQueues ctx).foldl (fun s q => ((s.gangAgain q).map (PacketEnd.ended q)).getD s) s

/-! ### SIGNAL, WAIT_SIGNAL and MARKER (19 R273) -/

/-- A strong read-modify-write at .SY with release. -/
def execSignal (q : Nat) : State → Result :=
  packetEvent q 4 fun s p => forQueue q s fun c =>
    let v := s.touchFe c.ctxid [packetAddr 8 p]
    match s.wordPlace c.ctxid (packetAddr 8 p) with
    | none => .halts 5 v
    | some at_ => .done (v.updateWord at_ (fld 192 2 p) (packetAddr 16 p))

/-- Whether a bell table holds a word (15 R235, 19 R273): every word but those of host and peer memory. -/
def Place.hasBell (p : Place) : Bool :=
  match p.region with
  | .device _ => true
  | .vault _ => true
  | .localStore | .aperture => true
  | .hostCoherent | .hostLink | .peer => false

/-- The condition holds already, or the front end arms its bell, or it reads the word in every round; a word out of reach
lacks the access (19 R274, 25 R347). -/
def execWaitSignal (q : Nat) : State → Result :=
  packetEvent q 5 fun s p => forQueue q s fun c =>
    let s := s.touchFe c.ctxid [packetAddr 8 p]
    match s.feTranslate c (packetAddr 8 p) .read with
    | .error _ => .halts 5 s
    | .ok at_ =>
      let await (s : State) (b : Option Armed) : PacketEnd := .stays (s.putQueue q { s.queue q with wait := .signal b false })
      if !s.reachable at_ then .halts 5 s
      else if s.waitHolds p at_ then .done s
      else if !at_.hasBell then await s none
      else match s.bellRoom (waitBell p at_).home with
        | none => .stays s
        | some listed =>
          let b := { waitBell p at_ with listed }
          await (s.listBell b q 4) (some b)

/-- VALUE, then the time base. -/
def execMarker (q : Nat) : State → Result :=
  packetEvent q 8 fun s p => forQueue q s fun c =>
    let s := s.touchFe c.ctxid [packetAddr 8 p]
    match s.feTranslate c (packetAddr 8 p) .write with
    | .error _ => .halts 5 s
    | .ok at_ =>
      if !s.reachable at_ then .halts 5 s
      else
        .done ((s.writePlace at_ (leBytes 8 (packetBytes 16 8 p))).writePlace { at_ with loc := at_.loc + 8 }
          (leBytes 8 s.dev.time.toNat))

/-! ### RANGE_COMMIT (21 R310, R311; 15 R231) -/

/-- A range-register image. -/
def Range.ofNat (x : Nat) : Range where
  vstart := .ofNat 64 x
  vlen := .ofNat 64 (x / 2 ^ 64)
  pbase := .ofNat 64 (x / 2 ^ 128)
  attr := .ofNat 64 (x / 2 ^ 192)
  shape := .ofNat 128 (x / 2 ^ 256)
  version := 0

/-- ATTR: V set, MEM, KIND and HC as in a leaf entry; bit 7 and bits [63:12] are rsv, and ignored (00 R11; DEDUCED, log
entry 70). -/
def attrOk (a : Nat) : Bool := bit 0 a && (placeOf (a % 2 ^ 12) 0).isSome

/-- An image that keeps R310. -/
def imageOk (x : Nat) : Bool :=
  let r := Range.ofNat x
  canonical r.vstart && r.vstart.toNat % 2 ^ 16 == 0 && r.vlen.toNat % 2 ^ 16 == 0
    && r.pbase.toNat % 2 ^ 16 == 0 && r.pbase.toNat < 2 ^ 52 && attrOk r.attr.toNat && fld 384 128 x == 0
    && (r.vlen == 0 || (!(ShapeRec.ofNat r.shape.toNat).malformed && r.holds (ShapeRec.ofNat r.shape.toNat).addr))

/-- Two enabled spans overlap. -/
def Range.overlaps (a b : Range) : Bool :=
  a.vlen != 0 && b.vlen != 0 && a.vstart.toNat < b.vstart.toNat + b.vlen.toNat
    && b.vstart.toNat < a.vstart.toNat + a.vlen.toNat

/-- The resulting set of R311: no span in the windows' region, no two that overlap. -/
def rangesOk (rs : List (Nat × Range)) : Bool :=
  rs.all fun a =>
    (a.2.vlen == 0 || a.2.vstart.toNat + a.2.vlen.toNat ≤ vaultWindow)
      && rs.all fun b => a.1 == b.1 || !a.2.overlaps b.2

/-- The registers after a commit; a disabled range is not listed. -/
def commitRanges (old : List (Nat × Range)) (select : Nat) (images : List Nat) : List (Nat × Range) :=
  (List.range 64).filterMap fun r =>
    let x : Option Range :=
      if bit r select then some (Range.ofNat (images.getD r 0))
      else (old.find? fun e => e.1 == r).map (·.2)
    (x.filter fun y => y.vlen != 0).map fun y => (r, y)

/-- The 64 images, of which the selected are read. -/
def State.readImages (s : State) (c : Context) (va : Addr) (select : Nat) : Option (List Nat) :=
  (List.range 64).mapM fun r => if bit r select then s.peek c (va + .ofNat 64 (64 * r)) 64 else some 0

/-- An access leaves the flight. -/
def State.endAccess (s : State) (id : Nat) : State :=
  { s with flight := { s.flight with accesses := s.flight.accesses.filter fun a => a.id != id } }

/-- Every access in flight of the teams that `p` names performs, in the order of issue. -/
def State.performAll (s : State) (p : Nat → Bool) : State :=
  (s.flight.accesses.filter fun a => p a.team).foldl (fun s a => (s.performWhole false a).endAccess a.id) s

/-- The addresses of the selected images. -/
def imageAddrs (va : Addr) (select : Nat) : List Addr :=
  ((List.range 64).filter fun r => bit r select).map fun r => va + .ofNat 64 (64 * r)

/-- The commit takes effect at one point of every team's program order, and acts as a release and an acquire at
.SY of them all. -/
def State.commit (s : State) (c : Context) (rs : List (Nat × Range)) : State :=
  let s1 := s.performAll (s.inCtx c.ctxid)
  let s2 := { s1 with flight := { s1.flight with lines := [] } }
  (s2.modCtx c.ctxid fun c => { c with ranges := rs }).retryContext c.ctxid

/-- RANGE_COMMIT; it waits for the copies of the context's teams, whose checked pages it may translate anew (13
R208). -/
def execRangeCommit (q : Nat) : State → Result :=
  packetEvent q 6 fun s p => forQueue q s fun c =>
    let select := packetBytes 16 8 p
    let va := packetAddr 8 p
    let v := s.touchFe c.ctxid (va :: imageAddrs va select)
    match (if s.usable c va .read then s.readImages c va select else none) with
    | none => .halts 5 v
    | some images =>
      let rs := commitRanges c.ranges select images
      if ((List.range 64).all fun r => !bit r select || imageOk (images.getD r 0)) && rangesOk rs then
        if s.flight.copies.any fun x => s.inCtx c.ctxid x.team then .stays v
        else .done (v.commit c rs)
      else .halts 5 v

end Sys2Proof.Machine
end

