-- ==== Sys2Proof/Machine/RunList.lean ====
section
/-!
DEFINITION. The run list: CONTEXT_CTL (19 R291, R293, R296), slices and switches (R292, R294, R295), and the
firmware hand-over (R297, 25 R355).
-/
namespace Sys2Proof.Machine

/-! ### Entry images (19 R291) -/

/-- The ranges of an entry image's fields.  No rule makes its reserved bits zero, so they are ignored (00_scope R11). -/
def entryOk (x : Nat) : Bool :=
  let slice := fld 32 32 x
  1 ≤ fld 0 16 x && (fld 16 8 x == 1 || fld 16 8 x == 2) && 10 ≤ slice && slice ≤ 1000000
    && fld 128 64 x % 2 ^ 21 == 0 && fld 192 64 x % 256 == 0 && fld 256 64 x % 128 == 0 && fld 320 16 x ≤ 4096

/-- The bound of R296 in cycles, at the maxima of its table. -/
def latencyBound (claim : Nat) : Nat :=
  let scan := [1048576, 65536, 32768, 8192, 132096].zipIdx.map fun f => if bit f.2 claim then 2 * f.1 else 0
  32 + (2 * 53 + 1) + 96 + (600064 + 511) / 512 + (rowSum scan + 511) / 512

/-- PLIM, in ns, against the bound at 1.75 GHz. -/
def plimOk (x : Nat) : Bool := 4 * latencyBound (fld 96 8 x) ≤ 7 * fld 64 32 x

/-- A new context from its image. -/
def Context.ofImage (x : Nat) : Context where
  ctxid := fld 0 16 x
  nvr := fld 16 8 x
  priv := bit 24 x
  wakeUrg := bit 25 x
  wakePend := false
  wakeLate := false
  lateTeams := []
  slice := .ofNat 32 (x / 2 ^ 32)
  plim := .ofNat 32 (x / 2 ^ 64)
  claim := .ofNat 8 (fld 96 5 x)
  ptroot := .ofNat 64 (x / 2 ^ 128)
  trapvec := .ofNat 64 (x / 2 ^ 192)
  feattab := .ofNat 64 (x / 2 ^ 256)
  featcnt := fld 320 16 x
  save := .ofNat 64 (x / 2 ^ 384)
  ranges := []
  produced := 0
  touched := 1
  update := none
  attached := false
  watches := []

/-- What UPDATE replaces, at the next switch-in. -/
def Context.applyUpdate (c : Context) : Context :=
  match c.update with
  | none => c
  | some bs =>
    let x := Context.ofImage (leNat bs)
    { c with
      slice := x.slice, plim := x.plim, wakeUrg := x.wakeUrg, claim := x.claim
      feattab := x.feattab, featcnt := x.featcnt, save := x.save, update := none }

/-- The image at an address of the issuing queue's context. -/
def State.entryImage (s : State) (c : Context) (va : Addr) (ctxid : Nat) : Except Nat Nat :=
  if va.toNat % 64 ≠ 0 then .error 1
  else match s.peek c va 64 with
    | none => .error 1
    | some x => if entryOk x ∧ fld 0 16 x = ctxid then .ok x else .error 1

/-! ### CONTEXT_CTL (19 R293) -/

/-- The addresses that a CONTEXT_CTL packet makes the front end translate, with the context: RESULT, an entry image, a ring
and its status word (21 R319). -/
def controlReads (c : Context) (p : Nat) : List (Nat × Addr) :=
  let result : List (Nat × Addr) := if packetAddr 56 p = 0 then [] else [(c.ctxid, packetAddr 56 p)]
  result ++ match packetBytes 4 1 p with
    | 0 | 2 => if (packetAddr 8 p).toNat % 64 = 0 then [(c.ctxid, packetAddr 8 p)] else []
    | 3 => [(packetBytes 6 2 p, packetAddr 8 p), (packetBytes 6 2 p, packetAddr 24 p)]
    | _ => []

/-- Those translations. -/
def State.touchControl (s : State) (c : Context) (p : Nat) : State :=
  (controlReads c p).foldl (fun s x => s.touchFe x.1 [x.2]) s

/-- The operation that a packet carries, on the context that it names: `f` answers the result code, or the state
of a request done.  A RESULT that cannot be written halts the queue (R274). -/
def controlEvent (q op : Nat) (f : State → Context → Nat → Nat → Except Nat State) (s : State) : Result :=
  match (s.queue q).prefetched with
  | [] => notEnabled
  | (_, b) :: _ =>
    if packetBytes 4 1 (leNat b) ≠ op then notEnabled
    else packetEvent q 7 (fun s p => forQueue q s fun c =>
      let v := s.touchControl c p
      if s.resultLost c (packetAddr 56 p) then .halts 5 v
      else match f v c p (packetBytes 6 2 p) with
        | .error code => .done (v.writeResult c.ctxid (packetAddr 56 p) code)
        | .ok s1 => .done (s1.writeResult c.ctxid (packetAddr 56 p) 0)) s

/-- CREATE and UPDATE: a malformed image is answered before a context that exists, or does not (DESIGN CHOICE, log entry
104). -/
def execCreate (q : Nat) : State → Result :=
  controlEvent q 0 fun s c p ctxid =>
    match s.entryImage c (packetAddr 8 p) ctxid with
    | .error e => .error e
    | .ok x =>
      if (s.ctx? ctxid).isSome ∨ 64 ≤ s.fe.contexts.length then .error 2
      else if !plimOk x then .error 3
      else .ok { s with fe := { s.fe with contexts := s.fe.contexts ++ [Context.ofImage x] } }

/-- UPDATE: the image is answered before the context here too (log entry 104). -/
def execUpdate (q : Nat) : State → Result :=
  controlEvent q 2 fun s c p ctxid =>
    match s.entryImage c (packetAddr 8 p) ctxid with
    | .error e => .error e
    | .ok x =>
      match s.ctx? ctxid with
      | none => .error 2
      | some _ =>
        if !plimOk x then .error 3
        else .ok (s.modCtx ctxid fun c => { c with update := some (leBytes 64 x) })

/-- Overrun of a queue whose CONSUMED or ring has changed (19 R270): after RESUMEQ, whose result is 0, the queue may so halt
again at once, with ERR 4 (DESIGN CHOICE, log entry 122). -/
def State.checkOverrun (s : State) (q : Nat) : State :=
  match (s.queue q).map with
  | none => s
  | some m => if 2 ^ m.k < (s.queue q).published then s.haltQueue q 4 else s

/-- A ring and a status word that MAPQ and SETQ0 accept. -/
def State.ringOk (s : State) (c : Context) (k : Nat) (ring status : Addr) : Bool :=
  4 ≤ k && k ≤ 16 && ring.toNat % (2 ^ k * 64) == 0 && s.usable c ring .read
    && status.toNat % 8 == 0 && s.usable c status .write

/-- The queue is mapped with CONSUMED 0 and nothing published yet (log entry 36). -/
def State.mapQueue (s : State) (q : Nat) (m : QueueMap) : State :=
  s.updateQueue q { Queue.unmapped with map := some m }

/-- MAPQ: a queue number is checked first, then the context, then the ring; result 4 is that of a queue which is mapped, and
no other request is busy (DESIGN CHOICE, log entries 104 and 105). -/
def execMapq (q : Nat) : State → Result :=
  controlEvent q 3 fun s _ p ctxid =>
    let target := packetBytes 16 1 p
    let k := packetBytes 17 1 p
    if 128 ≤ target then .error 1
    else match s.ctx? ctxid with
      | none => .error 2
      | some c =>
        if !s.ringOk c k (packetAddr 8 p) (packetAddr 24 p) then .error 1
        else if (s.queue target).map.isSome then .error 4
        else .ok (s.mapQueue target ⟨ctxid, k, some (packetAddr 8 p), packetAddr 24 p⟩)

/-- The queue that UNMAPQ and RESUMEQ name, mapped to the context; result 1 where it is not (DESIGN CHOICE, log entry
106). -/
def State.namedQueue (s : State) (p ctxid : Nat) : Except Nat Nat :=
  let target := packetBytes 16 1 p
  if 128 ≤ target then .error 1
  else match s.ctx? ctxid with
    | none => .error 2
    | some _ =>
      match (s.queue target).map with
      | none => .error 1
      | some m => if m.ctx = ctxid then .ok target else .error 1

/-- A packet of the queue is being processed: the issuing one, one taken in this round, or a hand-over. -/
def State.processing (s : State) (q target : Nat) : Bool :=
  target == q || s.fe.round.contains target || match s.fe.bank with
    | none => false
    | some b => b.2 == target

def execUnmapq (q : Nat) : State → Result :=
  controlEvent q 4 fun s _ p ctxid =>
    match s.namedQueue p ctxid with
    | .error e => .error e
    | .ok target =>
      if s.processing q target then .ok (s.putQueue target { s.queue target with leaving := true })
      else .ok (s.unmapQueue target)

/-- RESUMEQ; of a queue that is not halted it changes nothing, with result 0 (DESIGN CHOICE, log entry 107). -/
def execResumeq (q : Nat) : State → Result :=
  controlEvent q 5 fun s _ p ctxid =>
    match s.namedQueue p ctxid with
    | .error e => .error e
    | .ok target =>
      let x := s.queue target
      if !x.halt then .ok s
      else
        let skip := fld 136 1 p = 1
        .ok ((s.updateQueue target { x with
          halt := false, err := 0
          consumed := if skip then x.consumed + 1 else x.consumed
          graphNext := if skip then 0 else x.graphNext }).checkOverrun target)

def execPreempt (q : Nat) : State → Result :=
  controlEvent q 6 fun s _ _ ctxid =>
    match s.ctx? ctxid with
    | none => .error 2
    | some _ =>
      let s1 := s.gate
      .ok { s1 with fe := { s1.fe with next := some ctxid } }

/-! ### DESTROY (19 R290, R293) -/

/-- A collective has lost a rank or a link for good: its COLLs of this device end with STATUS 2 (13 R216). -/
def State.breakColl (s : State) (p : CollPart) : State :=
  let others := s.dev.brokenColls.filter fun e => e != (p.group, p.round)
  { s with dev := { s.dev with brokenColls := others ++ [(p.group, p.round)] } }

/-- What the context's teams have in flight performs (13 R194, 15 R244), in the order of issue; a COLL whose collective has
not completed goes with its team, and its rank is lost to the others (DESIGN CHOICE, log entry 101). -/
def State.drainContext (s : State) (ctx : Nat) : State :=
  let s1 := s.performAll (s.inCtx ctx)
  (s1.flight.copies.filter fun c => s1.inCtx ctx c.team).foldl (fun s c =>
    (match c.coll with
      | some p => s.breakColl p
      | none => s.performCopy (s.towerFor c.team) c).endCopy c.id) s1

/-- STATUS 4 receipts: of the nodes entered and not complete, and of the held successors.  END and SIGNAL are 0, whatever
SIGOP is, and of a held successor every field but STATUS and NID (DESIGN CHOICE, log entry 118). -/
def State.destroyReceipts (s : State) (ctx : Nat) : State :=
  let own := s.nodes.filter fun n => n.ctx == ctx && !(n.gang.isSome && n.placed == 0)
  let s1 := own.foldl (fun s n =>
    if n.desc.receipt = 0 then s else s.postVa ctx n.desc.receipt (receiptBytes n 4 0)) s
  (s.fe.held.filter fun h => h.ctx == ctx).foldl (fun s h =>
    if h.desc.receipt = 0 then s else s.postVa ctx h.desc.receipt (bareReceipt h.desc.nid 4)) s1

/-- Local stores, accumulator rows and their poison of a context are gone. -/
def Memory.dropContext (m : Memory) (ctx : Nat) : Memory where
  cells := Assoc.erase (localLoc ctx 0 0) (512 * 2 ^ 20) m.cells
  poison := Assoc.erase (localLoc ctx 0 0 / 4) (512 * 2 ^ 18) m.poison
  acc := Assoc.erase (cellKey ctx 0 0 0) (512 * 256 * 64) m.acc

/-- The context leaves the run list with its teams, nodes, queues and bells. -/
def State.removeContext (s : State) (ctx : Nat) : State :=
  let mine (id : Nat) : Bool := s.inCtx ctx id
  let s1 := (List.range 128).foldl (fun s q =>
    match (s.queue q).map with
    | none => s
    | some m => if m.ctx = ctx then s.unmapQueue q else s) s
  let gone := (s1.nodes.filter fun n => n.ctx == ctx).map (·.id)
  { s1 with
    mem := s1.mem.dropContext ctx
    flight := { s1.flight with
      accesses := s1.flight.accesses.filter fun a => !mine a.team
      copies := s1.flight.copies.filter fun c => !mine c.team
      batches := s1.flight.batches.filter fun b => b.ctx != ctx }
    cohorts := s1.cohorts.filter fun c => c.ctx != ctx
    nodes := s1.nodes.filter fun n => n.ctx != ctx
    teams := s1.teams.filter fun t => t.ctx != ctx
    fe := { s1.fe with
      pool := s1.fe.pool.filter fun id => !gone.contains id
      held := s1.fe.held.filter fun h => h.ctx != ctx
      queues := s1.fe.queues.map fun q => { q with entered := q.entered.filter fun id => !gone.contains id }
      contexts := s1.fe.contexts.filter fun c => c.ctxid != ctx
      running := if s1.fe.running = ctx then 0 else s1.fe.running
      gated := s1.fe.gated || s1.fe.running == ctx
      next := s1.fe.next.filter (· != ctx)
      preloaded := s1.fe.preloaded.filter (· != ctx)
      unspilled := s1.fe.unspilled.filter (· != ctx)
      unitHolders := s1.fe.unitHolders.filter fun h => h.ctx != ctx } }

/-- DESTROY: receipts, the result word and CONSUMED are written before the context's translations go. -/
def execDestroy (q : Nat) (s : State) : Result :=
  match (s.queue q).prefetched with
  | [] => notEnabled
  | (_, b) :: _ =>
    if packetBytes 4 1 (leNat b) ≠ 1 then notEnabled
    else packetEvent q 7 (fun s p => forQueue q s fun c =>
      let ctxid := packetBytes 6 2 p
      let s := s.touchControl c p
      let report (s : State) (code : Nat) : State := s.writeResult c.ctxid (packetAddr 56 p) code
      if s.resultLost c (packetAddr 56 p) then .halts 5 s
      else if ctxid = 1 then .done (report s 1)
      else if (s.ctx? ctxid).isNone then .done (report s 2)
      else .stays (((report ((s.drainContext ctxid).destroyReceipts ctxid) 0).consume q).removeContext ctxid)) s

/-! ### Slices and switches (19 R292, R294, R295) -/

/-- Ticks of a slice: SLICE µs at 1 GHz. -/
def Context.sliceTicks (c : Context) : Nat := 1000 * c.slice.toNat

/-- The end of the running context's slice.  Where no other entry is runnable then, a whole new slice begins (DESIGN CHOICE,
log entry 99). -/
def execSliceEnd (s : State) : Result :=
  match s.ctx? s.fe.running with
  | none => notEnabled
  | some c =>
    if s.fe.gated ∨ s.dev.time.toNat < s.fe.sliceStart.toNat + c.sliceTicks then notEnabled
    else
      let s1 := { s.sliceEnds with fe := { s.sliceEnds.fe with sliceStart := s.dev.time } }
      .next (if s1.otherRunnable then s1.gate else s1)

/-- A preemption request reaches the cores: as an event of its own at any time, whatever caused it (DESIGN CHOICE, log entry
111). -/
def execPreemptionRequest (s : State) : Result :=
  if s.fe.gated ∨ (s.ctx? s.fe.running).isNone then notEnabled else .next s.gate

/-- The entries after the running one, in circular order, the running one last. -/
def State.circular (s : State) : List Context :=
  match s.fe.contexts.findIdx? fun c => c.ctxid == s.fe.running with
  | none => s.fe.contexts
  | some i => s.fe.contexts.drop (i + 1) ++ s.fe.contexts.take (i + 1)

/-- The next context: the one that PREEMPT named, else an urgent wake, else the next runnable entry. -/
def State.nextContext (s : State) : Option Context :=
  match s.fe.next.bind s.ctx? with
  | some c => some c
  | none =>
    match s.circular.find? fun c => c.wakeUrg && c.wakePend with
    | some c => some c
    | none => s.circular.find? s.runnable

/-- TOUCHED of a context's fault log (21 R303, R319). -/
def State.writeTouched (s : State) (ctx : Nat) : State :=
  match s.ctx? ctx with
  | none => s
  | some c => s.writeLoc (physical (c.save.toNat + 8)) (leBytes 4 c.touched.toNat)

/-- The incoming context issues: an UPDATE takes effect, WAKEPEND clears, pending translations and the reservations of
waiting gangs (R287) are tried again.  The old
one's state awaits its spill; the new one's, where it still does, is in the bank (19 R294). -/
def State.switchTo (s : State) (ctx : Nat) : State :=
  let old := s.fe.running
  let s1 := if old = ctx then s else s.writeTouched old
  let s2 := s1.sliceEnds.modCtx ctx fun c => { c.applyUpdate with wakePend := false }
  let owed := s2.fe.unspilled.filter (· != ctx)
  ({ s2 with fe := { s2.fe with
      running := ctx
      gated := false
      next := none
      sliceStart := s2.dev.time
      preloaded := s2.fe.preloaded.filter (· != ctx)
      unspilled := if old = ctx ∨ (s.ctx? old).isNone then owed else owed.filter (· != old) ++ [old] } }.retryContext
        ctx).retryGangs ctx |>.idlePreempt

/-- Every team of the running context has reached a stopping point (05 R78). -/
def State.stopped (s : State) : Bool := !s.teams.any fun t => t.ctx == s.fe.running && s.inPair t

/-- Replies are in flight to registers of a context's teams, which a switch-in waits for (13 R194). -/
def State.awaitsReplies (s : State) (ctx : Nat) : Bool :=
  s.flight.accesses.any fun a => a.kind.dst?.isSome && s.inCtx ctx a.team

def execContextSwitchIn (s : State) : Result :=
  if !s.fe.gated ∨ !s.stopped then notEnabled
  else match s.nextContext with
    | none => notEnabled
    | some c => if s.awaitsReplies c.ctxid then notEnabled else .next (s.switchTo c.ctxid)

/-- The background engine preloads the next context's team state: no result depends on it (19 R294). -/
def execShadowPreload (s : State) : Result :=
  if s.fe.gated then notEnabled
  else match s.nextContext with
    | none => notEnabled
    | some c => .next { s with fe := { s.fe with preloaded := some c.ctxid } }

/-- The engine writes a context's state to its SAVE area, after the fault log: bytes whose layout no rule gives (19 R294,
R295; log entry 38). -/
def State.spillTo (s : State) (ctx : Nat) : State :=
  match s.ctx? ctx with
  | none => s
  | some c =>
    (List.range Config.spillSize).foldl (fun r i =>
      r.writeLoc (physical (c.save.toNat + 0x8000 + i)) [Config.spillByte ctx s.dev.time.toNat i]) s

/-- The spill of the context that has awaited its spill longest is made and has finished (19 R294). -/
def execStateSpill (s : State) : Result :=
  match s.fe.unspilled with
  | [] => notEnabled
  | ctx :: rest =>
    let s1 := s.spillTo ctx
    .next { s1 with fe := { s1.fe with unspilled := rest } }

/-! ### Firmware hand-over (19 R297, 25 R355) -/

/-- LENGTH bytes through a context's translations. -/
def State.peekBytes (s : State) (c : Context) (va : Addr) (n : Nat) : Option (List Byte) :=
  (List.range n).mapM fun i =>
    match s.feTranslate c (va + .ofNat 64 i) .read with
    | .error _ => none
    | .ok p => if s.reachable p then (s.readPlace p 1).head? else none

/-- Addresses on every page of `n` bytes. -/
def imagePages (va : Addr) (n : Nat) : List Addr :=
  ((List.range (n / 2 ^ 16 + 1)).map fun i => va + .ofNat 64 (2 ^ 16 * i)) ++ [va + .ofNat 64 (n - 1)]

/-- The layout of R355, and the security version, of which the fuses accept `svn` and later ones. -/
def firmwareFormed (svn : Nat) (bs : List Byte) : Bool :=
  let h := leNat (bs.take 64)
  64 ≤ bs.length && fld 0 32 h == 0x4E475746 && fld 32 32 h % 4 == 0 && bs.length == 1932 + fld 32 32 h
    && fld 128 384 h == 0 && svn ≤ fld 64 32 h

/-- The state-block versions that an image accepts. -/
def firmwareTakes (bs : List Byte) (version : Nat) : Bool :=
  let v := leNat ((bs.drop 12).take 4)
  fld 0 16 v ≤ version && version ≤ fld 16 16 v

/-- FW_HANDOVER: the image goes into the second bank and is verified; the switch follows at the next quiescent
point, and until then the packet stays. -/
def execFwHandover (q : Nat) : State → Result :=
  packetEvent q 9 fun s p => forQueue q s fun c =>
    let v := s.touchFe c.ctxid (packetAddr 24 p :: imagePages (packetAddr 8 p) (packetBytes 16 4 p))
    if !s.usable c (packetAddr 24 p) .write then .halts 5 v
    else match s.peekBytes c (packetAddr 8 p) (packetBytes 16 4 p) with
      | none => .halts 5 v
      | some bs =>
        let report (code : Nat) : PacketEnd := .done (v.postVa c.ctxid (packetAddr 24 p) (leBytes 8 code))
        if !firmwareFormed s.dev.fusedSvn bs then report 3
        else if !Config.firmwareSigned bs then report 1
        else .stays { v with fe := { v.fe with bank := some (bs, q) } }

/-- The new firmware takes the state block or not; every queue's prefetched packets are fetched again, but for
the head of a queue that waits. -/
def execFwHandoverSwitch (s : State) : Result :=
  match s.fe.bank, s.fe.round with
  | some (bs, q), [] =>
    match (s.queue q).prefetched with
    | [] => notEnabled
    | (_, b) :: _ =>
      let takes := firmwareTakes bs (Config.stateVersion s.fe.firmware)
      let report (s : State) (code : Nat) : State := match s.queueCtx q with
        | none => s
        | some c => s.postVa c.ctxid (packetAddr 24 (leNat b)) (leBytes 8 code)
      let s1 := { s with fe := { s.fe with bank := none, firmware := if takes then bs else s.fe.firmware } }
      let s2 := (report s1 (if takes then 0 else 2)).consume q
      .next { s2 with fe := { s2.fe with queues := s2.fe.queues.map fun x =>
        { x with prefetched := if x.wait == .none then [] else x.prefetched.take 1 } } }
  | _, _ => notEnabled

end Sys2Proof.Machine
end

