-- ==== Sys2Proof/Machine/Perform.lean ====
section
/-!
DEFINITION. Events of what is in flight: accesses, atomics, copies, fences, waits, collectives (13 R194, R198,
R202, R208 to R216; 15 R227), and steps and resets of the matrix array (17 R260, 21 R318).
-/
namespace Sys2Proof.Machine

/-! ### Accesses (15 R224, R227) -/

def State.access? (s : State) (id : Nat) : Option Access := s.flight.accesses.find? fun a => a.id == id

/-- The accesses that lo places before it have performed. -/
def State.mayPerform (s : State) (a : Access) : Bool :=
  a.after.all fun b => !(s.flight.accesses.any fun x => x.id == b)

/-- An access after an event of its own: a teller that has read keeps the access in flight until it writes; a reply
follows the access; else it is done (13 R193 to R195). -/
def State.owes (s : State) (a : Access) : Option AccessKind → State
  | some (.update old bs dst) =>
    { s with flight := { s.flight with accesses := s.flight.accesses.map fun x =>
        if x.id = a.id then { a with kind := .update old bs dst, after := [] } else x } }
  | k => s.replied a k

/-- An access of a kind performs. -/
def performEvent (id : Nat) (keep : Bool) (kind : AccessKind → Bool) (s : State) : Result :=
  match s.access? id with
  | none => notEnabled
  | some a =>
    if !kind a.kind ∨ !s.mayPerform a then notEnabled
    else
      let r := s.performAccess (s.towerFor a.team) keep a
      .next (r.state.owes a r.reply)

def AccessKind.isLoad : AccessKind → Bool
  | .load _ => true
  | .strongLoad _ => true
  | .store _ | .strongStore _ | .atomic .. | .cas .. | .update .. | .reply .. => false
def AccessKind.isStore : AccessKind → Bool
  | .store _ => true
  | .strongStore _ => true
  | .load _ | .strongLoad _ | .atomic .. | .cas .. | .update .. | .reply .. => false
/-- An atomic, whole or with its teller's write still to come. -/
def AccessKind.isUpdate : AccessKind → Bool
  | .update .. => true
  | .atomic .. => true
  | .cas .. => true
  | .load _ | .strongLoad _ | .store _ | .strongStore _ | .reply .. => false

def execLoadPerform (id : Nat) (keep : Bool) (s : State) : Result := performEvent id keep AccessKind.isLoad s
def execWritePerform (id : Nat) (s : State) : Result := performEvent id false AccessKind.isStore s
def execAtomicPerform (id : Nat) (s : State) : Result := performEvent id false AccessKind.isUpdate s
def execAtomicReply (id : Nat) (s : State) : Result := performEvent id false AccessKind.isReply s

/-! ### Fences and AWAIT -/

/-- A fence completes once every access and copy it covers has performed (13 R198). -/
def execFenceComplete (id : Nat) (ticket : Word) (s : State) : Result :=
  match s.team? id with
  | none => notEnabled
  | some t =>
    match t.fences.find? fun f => f.ticket == ticket with
    | none => notEnabled
    | some f =>
      if f.cover.any fun c => s.flight.accesses.any (fun a => a.id == c) || s.flight.copies.any fun x => x.id == c
      then notEnabled
      else .next ((s.putTeam { t with fences := t.fences.filter fun g => g.ticket != ticket }).fenceDone t
        f.kind f.scope)

/-- AWAIT's deadline has come (13 R202): its destination takes 1 and 0xFFFF_FFFF. -/
def execAwaitTimeout (id : Nat) (s : State) : Result :=
  match s.team? id with
  | none => notEnabled
  | some t =>
    match t.cond with
    | .parkedAwait d a (some deadline) =>
      if (s.coreTime t.core).toNat < deadline then notEnabled
      else
        let sh : Shape := { srcs := [⟨.s a.reg, a.last⟩], dsts := [.pair d] }
        .next (s.putTeam (sh.retire ((t.begin.setPair d (joinPair 1 0xFFFFFFFF#32)).advance)))
    | .parkedAwait _ _ none => notEnabled
    | .ready => notEnabled
    | .stalled => notEnabled
    | .woken => notEnabled
    | .parkedBarrier _ _ => notEnabled
    | .pendingTranslation _ _ => notEnabled
    | .stopped _ _ => notEnabled
    | .exiting => notEnabled

/-! ### Copies (13 R209, R211) -/

def State.copy? (s : State) (id : Nat) : Option Copy := s.flight.copies.find? fun c => c.id == id

def State.putCopy (s : State) (c : Copy) : State :=
  { s with flight := { s.flight with copies := s.flight.copies.map fun x => if x.id = c.id then c else x } }

/-- Bytes of a copy perform, each named by its place among those that remain. -/
def State.performBytes (tower : Nat) (c : Copy) : List Nat → State → List Move → Option (State × List Move)
  | [], s, ms => some (s, ms)
  | i :: is, s, ms =>
    match ms[i]? with
    | none => none
    | some m =>
      let r := s.performMove tower c m (ms.eraseIdx i)
      State.performBytes tower c is r.1 r.2

/-- Bytes of a copy perform, its reads beginning with the first of them; a collective performs as a whole. -/
def execCopyPerform (id : Nat) (bytes : List Nat) (s : State) : Result :=
  match s.copy? id with
  | none => notEnabled
  | some c =>
    if bytes = [] ∨ c.coll.isSome ∨ !s.mayBegin c then notEnabled
    else
      let b := s.beginCopy (s.towerFor c.team) s.lost c
      match State.performBytes (s.towerFor c.team) b.2 bytes b.1 b.2.moves with
      | none => notEnabled
      | some (s1, ms) =>
        let c1 := { b.2 with moves := ms }
        let s2 := s1.putCopy c1
        .next (if ms = [] then s2.copyMoved c1 else s2)

/-- The copy engine issues a follow-on to the array once every byte the copy writes has performed. -/
def execFollowOnIssue (id : Nat) (s : State) : Result :=
  match s.copy? id with
  | none => notEnabled
  | some c =>
    match c.followOn, c.begun, c.moves with
    | some o, true, [] =>
      .next ((s.putCopy { c with followOn := none }).modTeam c.team fun t =>
        { t with matrix := t.matrix ++ [{ o with followOn := some c.id }] })
    | _, _, _ => notEnabled

/-! ### Collectives (13 R216, 05 R89, 25 R348) -/

/-- What a rank brings, in the form of a remote rank's part, with the rank that issued its COLL; a poisoned byte is
marked. -/
structure RankData where
  issuer : Nat
  part : RankPart
  bad : List Bool
deriving DecidableEq, Repr

/-- A byte and its poison, of one read when a copy began. -/
def ByteSrc.pair : ByteSrc → Byte × Bool
  | .fixed v p => (v, p)
  | .loc _ _ => (0, false)

def CollPart.data (s : State) (p : CollPart) : RankData where
  issuer := p.issuer
  part := {
    rank := p.rank, op := p.op, red := p.red, fmt := p.fmt, rnd := p.rnd, ctl := p.sat.toNat, count := p.count
    nranks := p.nranks, root := p.root, device := s.dev.regs.devid.setWidth 12, tower := p.tower
    send := p.send.map fun x => (s.byteNow s.lost x.place).pair.1 }
  bad := p.send.map fun x => (s.byteNow s.lost x.place).pair.2

/-- What a rank of another device brings. -/
def RankPart.data (s : State) (g : Nat) (r : RankPart) : RankData :=
  ⟨s.rankOf g r.device.toNat r.tower r.rank, r, r.send.map fun _ => false⟩

/-- Whether two ranks agree on what R216 names. -/
def partsAgree (a b : RankPart) : Bool :=
  a.op == b.op && a.red == b.red && a.fmt == b.fmt && a.rnd == b.rnd && a.ctl == b.ctl && a.count == b.count
    && a.nranks == b.nranks && (a.op < 3 || a.root == b.root)

/-- STATUS 1: a disagreement, a rank claimed twice, another NRANKS or another engine than the group table has. -/
def State.collWrong (s : State) (g : Nat) (ds : List RankData) : Bool :=
  ds.any (fun a => ds.any fun b => !partsAgree a.part b.part)
    || ds.any (fun a => (ds.filter fun b => b.part.rank == a.part.rank).length != 1)
    || ds.any (fun a => a.part.nranks != s.groupRanks g
        || s.rankRecord g a.part.rank != (a.part.device.toNat, a.part.tower))

/-- A rank that cannot take part: its tower's base die is lost, or no port leads to its device (25 R347). -/
def State.rankLost (s : State) (g r : Nat) : Bool :=
  let (dev, tower) := s.rankRecord g r
  if dev = s.dev.regs.devid.toNat then s.homeLost tower else s.portsTo dev == 0

/-- Element `j` of a rank's buffer, with its poison. -/
def RankData.elem (d : RankData) (w j : Nat) : Nat × Bool :=
  (leNat ((d.part.send.drop (w * j)).take w), ((d.bad.drop (w * j)).take w).any id)

/-- A single operand of a reduction: a NaN becomes the canonical one, a signalling NaN raises NV (05 R63; log entry 75). -/
def Fmt.quieted (f : Fmt) (v : Nat) : Out :=
  let x := f.decode v
  if x.isNan then ⟨f.nanBits, if x.isSNan then fNV else 0⟩ else ⟨v, 0⟩

/-- Tree of 05 R89. -/
def collTree (f : Fmt) (rnd : Nat) : Nat → List Nat → Out
  | 0, vs => f.quieted (vs.headD 0)
  | fuel + 1, vs =>
    if vs.length ≤ 1 then f.quieted (vs.headD 0)
    else
      let h := (vs.length + 1) / 2
      let a := collTree f rnd fuel (vs.take h)
      let b := collTree f rnd fuel (vs.drop h)
      let r := addOut f rnd (f.decode a.bits) (f.decode b.bits)
      ⟨r.bits, r.flags ||| a.flags ||| b.flags⟩

/-- The largest or the smallest of the values: as VFMAX and VFMIN combine them, their NV gathered, or as integers (11 R157). -/
def collPick (larger : Bool) (T rnd : Nat) : List Nat → Out
  | [] => ⟨0, 0⟩
  | v :: rest =>
    if setF T then
      rest.foldl (fun a b =>
        let r := pickOut larger true T rnd false [a.bits, b]
        ⟨r.bits, a.flags ||| r.flags⟩) ((typeFmt T).quieted v)
    else ⟨rest.foldl (atomNew (if larger then .max else .min) T rnd false) v, 0⟩

/-- The reduction of one element over the ranks: Tree for a floating-point sum, Fit of the exact sum for an
integer one, max and min as R157. -/
def collReduce (p : RankPart) (vs : List Nat) : Out :=
  let T := p.fmt
  if p.red = 0 then
    if setF T then collTree (typeFmt T) p.rnd 13 vs
    else ⟨fit T (p.ctl == 1) ((vs.map fun v => (intValue T v).1).foldr (· + ·) 0), 0⟩
  else collPick (p.red == 1) T p.rnd vs

/-- The elements that a rank receives, each with its poison, and the flags of their reductions; `ds` in rank
order. -/
def collResult (ds : List RankData) (me : RankPart) : List (Nat × Bool) × Nat :=
  let w := fieldWidth me.fmt / 8
  let column (j : Nat) : (Nat × Bool) × Nat :=
    let es := ds.map fun d => d.elem w j
    let o := collReduce me (es.map (·.1))
    ((o.bits, es.any (·.2)), o.flags)
  let sums (lo : Nat) : List (Nat × Bool) × Nat :=
    let cs := (List.range me.count).map fun j => column (lo + j)
    (cs.map (·.1), cs.foldl (fun f c => f ||| c.2) 0)
  let all (d : RankData) : List (Nat × Bool) := (List.range me.count).map fun j => d.elem w j
  match me.op with
  | 0 => sums 0
  | 1 => sums (me.rank * me.count)
  | 2 => (ds.flatMap all, 0)
  | 3 => ((ds.filter fun d => d.part.rank == me.root).flatMap all, 0)
  | _ => if me.rank = me.root then sums 0 else ([], 0)

/-- A copy of a collective performs: RECV, STATUS and FLAGS, then it is done (13 R216). -/
def State.finishColl (s : State) (c : Copy) (p : CollPart) (es : List (Nat × Bool)) (status flags : Nat) : State :=
  let w := fieldWidth p.fmt / 8
  let bytes : List ByteSrc := es.flatMap fun e => (leBytes w e.1).map fun b => .fixed b e.2
  let report : List ByteSrc := (leBytes 4 status ++ leBytes 4 flags).map fun b => .fixed b false
  let ms := withClears (pairUp (p.recv.take bytes.length ++ p.report) (bytes ++ report))
  (State.performMoves p.tower c ms.length s ms).endCopy c.id

/-- A rank whose SEND holds poison: POISON at its team's next boundary (21 R314); of bytes out of reach,
ACQUIRE_FAILED (25 R347). -/
def State.collPoison (s : State) (c : Copy) (p : CollPart) : State :=
  let lost := p.send.find? fun x => !s.reachable x.place
  let s1 := match lost with
    | none => s
    | some x => s.copyFailed c.team c.pc x.va
  match p.send.find? fun x => s.reachable x.place && s.mem.wordBad x.place.loc with
  | none => s1
  | some x => s1.modTeam c.team fun t => t.pend (poisonPend c.pc (x.va - .ofNat 64 (x.va.toNat % 4)))

/-- The ranks of this device in a collective, by group and round (13 R216). -/
def State.localRanks (s : State) (g round : Nat) : List (Copy × CollPart) :=
  s.flight.copies.filterMap fun c =>
    match c.coll with
    | none => none
    | some p => if p.group = g ∧ p.round = round then some (c, p) else none

/-- A collective completes at every rank of this device: `remote` is what the other devices bring.  Each rank of the
group has issued its COLL, or is lost, unless the collective is broken; each of this device's has come after its team's
earlier copies, and its reads leave no older copies of lines in its tower (15 R223).  A rank that is lost before the end
gives STATUS 2, whether it had issued or not; where STATUS 1 fits as well, it is 1, but 2 for a broken collective (DESIGN
CHOICE, log entry 50). -/
def execCollComplete (id : Nat) (remote : List RankPart) (s : State) : Result :=
  match (s.copy? id).bind (·.coll) with
  | none => notEnabled
  | some p0 =>
    let g := p0.group
    let locals := s.localRanks g p0.round
    let ds := locals.map (fun x => x.2.data s) ++ remote.map (RankPart.data s g)
    let once := ds.all fun d => (ds.filter fun x => x.issuer == d.issuer).length == 1
    let missing := (List.range (s.groupRanks g)).filter fun r => !(ds.any fun d => d.issuer == r)
    let lost := (List.range (s.groupRanks g)).filter (s.rankLost g)
    let close (f : RankData → List (Nat × Bool) × Nat) (status : Nat) : Result :=
      .next ((locals.zip ds).foldl (fun s x =>
        let r := f x.2
        let s1 := s.servedAtHome x.1.2.tower (placesIn x.1.2.send)
        (s1.collPoison x.1.1 x.1.2).finishColl x.1.1 x.1.2 r.1 status r.2) s)
    if !locals.all fun x => s.mayBegin x.1 then notEnabled
    else if s.dev.brokenColls.contains (g, p0.round) then close (fun _ => ([], 0)) 2
    else if !once ∨ !(missing.all lost.contains) then notEnabled
    else if s.collWrong g ds then close (fun _ => ([], 0)) 1
    else if lost ≠ [] then close (fun _ => ([], 0)) 2
    else
      let ordered := (List.range p0.nranks).flatMap fun r => ds.filter fun d => d.part.rank == r
      close (fun d => collResult ordered d.part) 0

/-! ### The matrix array (17 R260, R266, R267; 21 R318) -/

/-- The team is stopped for the debugger (21 R321). -/
def Team.isStopped (t : Team) : Bool :=
  match t.cond with
  | .stopped _ _ => true
  | .ready | .stalled | .woken | .exiting => false
  | .parkedAwait _ _ _ => false
  | .parkedBarrier _ _ => false
  | .pendingTranslation _ _ => false

/-- A K-group step; none begins while a stop or a throttle withholds it (17 R260, 19 R294, 25 R353). -/
def execKGroupStep (id : Nat) (check : StepCheck) (s : State) : Result :=
  match s.team? id with
  | none => notEnabled
  | some t =>
    match t.matrix with
    | [] => notEnabled
    | o :: _ =>
      if t.ctx ≠ s.fe.running ∨ s.fe.gated ∨ t.yielded ∨ t.isStopped ∨ s.dev.throttled then notEnabled
      else .next (s.matrixStep t o check)

/-- The rows of a team's window (17 R254). -/
def Team.windowRows (t : Team) : List Nat :=
  (List.range 256).filter fun r => t.acb.toNat ≤ r && r < t.acl.toNat

/-- The rows of a team's window are poisoned. -/
def Memory.poisonWindow (m : Memory) (t : Team) : Memory :=
  (t.windowRows.flatMap fun r => (List.range 64).map fun j => cellKey t.ctx t.core r j).foldl
    (fun m k => m.setCell k { m.cell k with poison := true }) m

/-- What a reset of the array does to a team of the core: its pending instructions go, with the follow-ons of `copies`,
and it receives MATRIX_RESET once (13 R211). -/
def Team.matrixReset (core : Nat) (held : Bool) (copies : List Nat) (t : Team) : Team :=
  let x : Trap := ⟨.matrixReset, .ofNat 64 core, 0, none, none⟩
  let follow := t.matrix.filterMap (·.followOn) ++ copies
  let t1 := if held then { t with matrix := [] } else t
  if t.windowRows ≠ [] then t1.pend x
  else if held ∧ follow ≠ [] then { t1 with followFaults := t1.followFaults ++ [(follow, x)] }
  else t1

/-- The follow-on that a copy still carries is discarded; a copy whose bytes have performed is then done. -/
def State.dropFollowOn (s : State) (id : Nat) : State :=
  { s with flight := { s.flight with
      copies := (s.flight.copies.map fun c => if c.id = id then { c with followOn := none } else c).filter
        fun c => !(c.id == id && c.begun && c.moves == []) } }

/-- The copies of a team whose follow-on has not been issued yet. -/
def State.unissued (s : State) (team : Nat) : List Nat :=
  (s.flight.copies.filter fun c => c.team == team && c.followOn.isSome).map (·.id)

/-- The array of a core is reset after a hang (21 R318); HANGLIM 0 allows none. -/
def execMatrixReset (core : Nat) (s : State) : Result :=
  let held (t : Team) : Bool := t.core == core && s.fe.unitHolders.contains ⟨1, core, t.ctx⟩
  let ts := s.teams.filter held
  if s.dev.regs.hanglim = 0 ∨ !(ts.any fun t => t.matrix != []) then notEnabled
  else
    let issued := (ts.flatMap (·.matrix)).filterMap (·.followOn)
    let unissued := ts.flatMap fun t => s.unissued t.id
    let s1 := { s with
      mem := ts.foldl Memory.poisonWindow s.mem
      teams := s.teams.map fun t => if t.core = core then t.matrixReset core (held t) (s.unissued t.id) else t }
    .next (unissued.foldl State.dropFollowOn (issued.foldl State.endCopy s1))

end Sys2Proof.Machine
end

