-- ==== Sys2Proof/Machine/Faults.lean ====
section
/-!
DEFINITION. Delivery of traps at boundaries, fetch faults, upsets, lasting faults and lost dies (21 R302, R308,
R313 to R320; 07 R112; 25 R343, R347, R349).
-/
namespace Sys2Proof.Machine

/-! ### Traps at a boundary (21 R302) -/

/-- The order in which pending traps are delivered. -/
def asyncOrder : List TrapCode := [.dieLost, .matrixReset, .arrayFault, .poison, .acquireFailed]

/-- The pending trap that is delivered first, and the others. -/
def Team.nextTrap (t : Team) : Option (Trap × List Trap) :=
  match asyncOrder.findSome? fun c => t.traps.find? fun x => x.code == c with
  | none => none
  | some x => some (x, t.traps.erase x)

/-- A boundary of the team, which a pending trap may take: it is ready, stalled or parked, and not between a
producer and its cancelling consumer (05 R78). -/
def State.atBoundary (s : State) (t : Team) : Bool :=
  !s.inPair t && match t.cond with
    | .ready | .stalled | .woken => true
    | .parkedAwait _ _ _ => true
    | .parkedBarrier _ _ => true
    | .pendingTranslation _ _ => false
    | .stopped _ _ => false
    | .exiting => false

/-- A team that is on its core, in the running context, which no stop request has reached. -/
def State.runs (s : State) (t : Team) : Bool := t.ctx == s.fe.running && !s.fe.gated && !t.yielded

/-- Delivery of the first pending trap, once no earlier access of the team comes before its frame (15 R224); a wait ends,
and its instruction executes again after the handler. -/
def execAsyncTrapDelivery (id : Nat) (s : State) : Result :=
  match s.team? id with
  | none => notEnabled
  | some t =>
    match t.nextTrap with
    | none => notEnabled
    | some (x, rest) =>
      if !s.runs t ∨ !s.atBoundary t ∨ s.frameHeld t then notEnabled
      else
        let t1 := { t with
          traps := rest, cond := .ready, producer := none, promises := [], retried := false, fetched := none }
        .next (((s.putTeam t1).takeAsync t1 x).discardRest id none x)

/-- A word that decodes to no instruction (07 R112). -/
def execIllegalOpcodeWord (w : Word) (s : State) : Result :=
  match s.curTeam, decode w with
  | none, _ => .fault .noTeam
  | some t, .error _ => .next (s.takeTrap t (.at .illegalOpcode 0 0))
  | some _, .ok _ => notEnabled

/-- The team fetches its next word anew. -/
def refetch (t : Team) : Team := { t with fetched := none }

/-- The team's next word cannot be fetched (09 R127, 21 R308, R314, 25 R347). -/
def execInstructionFetchFault (s : State) : Result :=
  match s.curTeam with
  | none => .fault .noTeam
  | some t =>
    match fetchAt s t t.pc with
    | .ok _ => notEnabled
    | .error e =>
      match e.finish s t with
      | .next s1 => .next (s1.modTeam t.id refetch)
      | .fault f => .fault f
      | .refused r => .refused r

/-! ### Storage errors (21 R313 to R315) -/

/-- A corrected error counts for the team, up to 127 (21 R304). -/
def Team.countCorrected (t : Team) : Team := { t with corr := if t.corr = 127 then t.corr else t.corr + 1 }

def SReg.spoil : SReg → SReg
  | .dead => .dead
  | .live v _ => .live v true

def VReg.spoil (l : Nat) : VReg → VReg
  | .dead => .dead
  | .live ls => .live (ls.mapIdx fun i x => if i = l then { x with poison := true } else x)

def MaskReg.spoil (w : Nat) : MaskReg → MaskReg
  | .dead => .dead
  | .live b p => .live b (p ||| 1#32 <<< w)

/-- The team whose CORR a corrected error there counts for: whose register or cell it is in, or that reads the word. -/
def eccTeam : EccSite → Option Nat
  | .memory reader _ => reader
  | .cleanLine reader _ => reader
  | .scalar t _ => some t
  | .vector t _ _ => some t
  | .mask t _ _ => some t
  | .exm t _ => some t
  | .cell t _ _ => some t

/-- Poison of a memory word: all of its 32-byte granule in HBM, else the word. -/
def Memory.spoil (m : Memory) (loc : Nat) : Memory :=
  if loc < hbmSize then (List.range 8).foldl (fun m i => m.setWordBad (loc / 32 * 32 + 4 * i) true) m
  else m.setWordBad loc true

/-- Locations that the device stores: HBM, vaults, local stores, and, in the last-level cache, lines of host-coherent pages
(25 R345). -/
def deviceStores (loc : Nat) : Bool := loc < hbmSize || (hostLoc 0 ≤ loc && loc < peerLoc 0) || vaultLoc 0 0 ≤ loc

/-- Poison where the storage error is; a register that holds no word takes none. -/
def State.spoil (s : State) : EccSite → State
  | .memory _ loc => { s with mem := s.mem.spoil loc }
  | .cleanLine _ loc => { s with mem := s.mem.spoil loc }
  | .scalar t r =>
    if r = 0#6 then s
    else s.modTeam t fun t => { t with sregs := t.sregs.set r.toNat (t.sregs[r.toNat]'(r.isLt)).spoil r.isLt }
  | .vector t r l =>
    if h : r < 64 then s.modTeam t fun t => { t with vregs := t.vregs.set r (t.vregs[r].spoil l) h } else s
  | .mask t m w =>
    if m = 0#4 ∨ 32 ≤ w then s
    else s.modTeam t fun t =>
      { t with masks := t.masks.set m.toNat ((t.masks[m.toNat]'(m.isLt)).spoil w) m.isLt }
  | .exm t w =>
    if 32 ≤ w then s
    else s.modTeam t fun t =>
      if t.structured then t else { t with exmPoison := t.exmPoison ||| 1#32 <<< w }
  | .cell t row col =>
    match s.team? t with
    | none => s
    | some t =>
      let k := cellKey t.ctx t.core row col
      { s with mem := s.mem.setCell k { s.mem.cell k with poison := true } }

/-- The site exists. -/
def State.siteExists (s : State) : EccSite → Bool
  | .memory reader loc => deviceStores loc && reader.all fun t => (s.team? t).isSome
  | .cleanLine reader loc => deviceStores loc && reader.all fun t => (s.team? t).isSome
  | .scalar t _ => (s.team? t).isSome
  | .vector t r _ => (s.team? t).isSome && r < 64
  | .mask t _ w => (s.team? t).isSome && w < 32
  | .exm t w => (s.team? t).isSome && w < 32
  | .cell t row col => (s.team? t).isSome && row < 256 && col < 64

def execEccError (site : EccSite) (outcome : EccOutcome) (s : State) : Result :=
  if !s.siteExists site then notEnabled
  else match outcome with
    | .corrected =>
      match eccTeam site with
      | none => .next s
      | some t => .next (s.modTeam t Team.countCorrected)
    | .retried => .next s
    | .poisoned => .next (s.spoil site)

/-! ### Teams that end where they stand -/

/-- A team ends through a trap that no vector decides (21 R301, R317, R320): the record is ASYNC, its pending
matrix steps go. -/
def State.endTeam (s : State) (id : Nat) (x : Trap) : State :=
  match s.team? id with
  | none => s
  | some t =>
    if t.cond = .exiting then s
    else
      let s1 := (t.matrix.filterMap (·.followOn)).foldl State.endCopy
        (s.putTeam { t with matrix := [], yielded := false })
      s1.endThrough ((s1.team? id).getD t) x true

/-! ### Vertical ports (21 R317) -/

/-- The accumulator contents of a core are lost, in every context. -/
def Memory.dropCore (m : Memory) (core : Nat) : Memory :=
  { m with acc := m.acc.filter fun e => e.1 / (256 * 64) % 512 != core }

/-- A core is disabled: its teams, resident, yielded and saved, end through ARRAY_FAULT with CAUSE 2. -/
def State.disableCore (s : State) (core : Nat) : State :=
  let x : Trap := ⟨.arrayFault, .ofNat 64 core, 2, none, none⟩
  let s1 := { s with
    cores := { s.cores with enabled := setCore s.cores.enabled core false }
    mem := s.mem.dropCore core }
  ((s.teams.filter fun t => t.core == core).map (·.id)).foldl (fun s id => s.endTeam id x) s1

/-- An error in a vertical-port beat of a half in service: sent again, or a lasting fault of that half. -/
def execPortBeatError (core : Nat) (half second : Bool) (s : State) : Result :=
  let c := s.cores
  let inUse := !c.half.getLsbD core || c.hsel.getLsbD core == half
  if !isCore core ∨ !c.enabled.getLsbD core ∨ !inUse then notEnabled
  else if !second then .next s
  else if c.half.getLsbD core then .next (s.disableCore core)
  else .next (s.narrow core (!half))

/-! ### Lost dies (21 R319, R320; 25 R343, R349) -/

/-- The dies that go with a die. -/
def dieSet (die : Nat) : Word :=
  if 1 ≤ die ∧ die ≤ 4 then
    let t := die - 1
    1#32 <<< die ||| 3#32 <<< (8 + 2 * t) ||| 3#32 <<< (16 + 2 * t)
  else 1#32 <<< die

/-- A number that R18 gives to a die. -/
def isDie (d : Nat) : Bool := d ≤ 4 || (8 ≤ d && d < 24)

/-- The dies on which a core lies. -/
def coreDies (core : Nat) : Word := placedDies core

/-- The event word (25 R349): the kind, and the die or port. -/
def State.postEvent (s : State) (kind n : Nat) : State :=
  match s.dev.eventWord with
  | none => s
  | some a => (s.settle (hostLoc a.toNat) 8).writeLoc (hostLoc a.toNat) (leBytes 8 (kind + n * 2 ^ 8))

/-- DIE_LOST for one team of an affected context: its end on a lost die, else a trap at its next boundary. -/
def State.teamLost (s : State) (lost : Word) (die : Nat) (id : Nat) : State :=
  let x : Trap := ⟨.dieLost, .ofNat 64 die, 0, none, none⟩
  match s.team? id with
  | none => s
  | some t =>
    if coreDies t.core &&& lost != 0 then s.endTeam id x
    else if t.cond = .exiting then s
    else s.putTeam (t.pend x)

/-- The loss of a die other than die 0. -/
def State.loseDie (s : State) (die : Nat) : State :=
  let lost := dieSet die
  let hit (ctx : Nat) : Bool := s.fe.contexts.any fun c => c.ctxid == ctx && c.touched &&& lost != 0
  let s1 := { s with dev := { s.dev with lostDies := s.dev.lostDies ||| lost } }
  let s2 := ((s.teams.filter fun t => hit t.ctx).map (·.id)).foldl (fun s id => s.teamLost lost die id) s1
  let s3 := (s.fe.contexts.map (·.ctxid)).foldl State.writeTouched s2
  s3.postEvent 1 die

/-- The loss of die 0 stops the device: STATE 4, no record, no receipt; the event word tells of it as of any other die
(25 R349). -/
def execDieLost (die : Nat) (s : State) : Result :=
  if !isDie die ∨ s.dev.lostDies.getLsbD die then notEnabled
  else if die = 0 then
    .next ({ s with dev := { s.dev with status := 4, lostDies := s.dev.lostDies ||| 1 } }.postEvent 1 0)
  else .next (s.loseDie die)

/-- A UCIe link that fails after retry: the module of a base die counts as its loss, a bridge is marked down. -/
def execUcieLinkFailure (link : UcieLink) (s : State) : Result :=
  match link with
  | .feModule t =>
    if 4 ≤ t ∨ s.dev.lostDies.getLsbD (1 + t) then notEnabled else .next (s.loseDie (1 + t))
  | .bridge a b =>
    if 4 ≤ a ∨ 4 ≤ b ∨ b ≤ a ∨ s.dev.bridgesDown.contains (a, b) then notEnabled
    else .next { s with dev := { s.dev with bridgesDown := s.dev.bridgesDown ++ [(a, b)] } }

/-! ### Links (21 R313, 25 R347) -/

/-- A place behind a link. -/
def State.behind (s : State) (link : Link) (p : Place) : Bool :=
  match link, p.region with
  | .ixlet, .hostCoherent => true
  | .ixlet, .hostLink => true
  | .sprinda port, .peer => (s.portsTo (Config.peerOf (p.loc - peerLoc 0)).toNat).getLsbD port
  | _, _ => false

/-- An access outstanding on a failed link: the far end may have performed it (an atomic on a poisoned word writes
nothing, R314), the destination is poisoned, the team receives ACQUIRE_FAILED. -/
def State.failAccess (s0 : State) (done : Bool) (a : Access) : State :=
  let s := if a.kind.isAtomic then s0.settle a.place.loc a.size else s0
  let old := leNat (s.readPlace a.place a.size)
  let written : Option (List Byte) := match a.kind with
    | .store bs => some bs
    | .strongStore bs => some bs
    | .atomic op fp isSigned rnd sat v _ =>
      some (leBytes a.size (atomNew op (atomType a.size fp isSigned) rnd sat old v.toNat))
    | .cas expected new _ =>
      if old = expected.toNat % 2 ^ (8 * a.size) then some (leBytes a.size new.toNat) else none
    | .update _ bs _ => some bs
    | .load _ | .strongLoad _ | .reply .. => none
  let s1 := match done && !(a.kind.isAtomic && s.mem.anyBad a.place.loc a.size), written with
    | true, some bs => s.writeLoc a.place.loc bs
    | _, _ => s
  (s1.unreachable a).endAccess a.id

/-- Whether the far end can have performed what `done` names: nothing of it came after an access that has not performed
(15 R224, R242). -/
def State.failsInOrder (s : State) (failing : List Access) (done : List Nat) : Bool :=
  (failing.filter fun a => done.contains a.id).all fun a => a.after.all fun b =>
    !(s.flight.accesses.any fun x => x.id == b) || (done.contains b && failing.any fun x => x.id == b)

/-- The address of a move whose read or write crosses a link. -/
def State.crossing (s : State) (link : Link) (m : Move) : Option Addr :=
  match m.src with
  | .loc p va => if s.behind link p then some va else if s.behind link m.dst then some m.va else none
  | .fixed _ _ => if s.behind link m.dst then some m.va else none

/-- What a copy has yet to read and write over a link: the address of its first byte there, of reads that have not begun
and of moves (13 R208). -/
def State.firstCrossing (s : State) (link : Link) (c : Copy) : Option Addr :=
  let unread := if c.begun then none else (c.plan.readFirst.find? fun b => s.behind link b.place).map (·.va)
  match unread with
  | some va => some va
  | none => (if c.begun then c.moves else s.movesOf s.lost c.plan).findSome? (s.crossing link)

/-- A copy with byte accesses outstanding on a failed link (13 R208): bytes written across it hold their prior or
their copied value, words whose source read was lost hold poison, and the rest of the copy performs. -/
def State.failCopy (s0 : State) (link : Link) (done : Bool) (c0 : Copy) : State :=
  if c0.coll.isSome ∨ !s0.mayBegin c0 then s0
  else match s0.firstCrossing link c0 with
    | none => s0
    | some va =>
      let tower := s0.towerFor c0.team
      let (s, c) := s0.beginCopy tower (fun p => s0.lost p || s0.behind link p) c0
      let lostSource (m : Move) : Bool := match m.src with
        | .loc p _ => s0.behind link p
        | .fixed _ _ => false
      let gone := c.moves.filter lostSource
      let s1 := s.copyFailed c.team c.pc va
      let s2 := gone.foldl (fun s m => s.markWord tower m.dst true) s1
      let rest := gone.foldl (fun ms m => dirtied m ms)
        (c.moves.filter fun m => !lostSource m && (done || !s0.behind link m.dst))
      ((State.performMoves tower c rest.length s2 rest).putCopy { c with moves := [] }).copyMoved c

/-- The first byte of a COLL's buffers, STATUS and FLAGS that lies behind a link. -/
def State.collBehind (s : State) (link : Link) (p : CollPart) : Option Addr :=
  ((p.send ++ p.recv ++ p.report).find? fun x => s.behind link x.place).map (·.va)

/-- A collective can have a step on a link: a buffer behind it, or a rank of its group on another device, to which the port
leads (25 R347). -/
def State.collCrosses (s : State) (link : Link) (p : CollPart) : Bool :=
  (s.collBehind link p).isSome || match link with
    | .ixlet => false
    | .sprinda port => (List.range (s.groupRanks p.group)).any fun r =>
        let dev := (s.rankRecord p.group r).1
        dev != s.dev.regs.devid.toNat && (s.portsTo dev).getLsbD port

/-- A collective loses a link: STATUS 2 at every rank of this device, RECV as it was; a team with a buffer behind the link
receives ACQUIRE_FAILED.  Its COLLs that have yet to be issued, or to begin, find it broken (13 R208, R216, 25 R347; log
entry 101). -/
def State.failColl (link : Link) (s : State) (p : CollPart) : State :=
  (((s.localRanks p.group p.round).filter fun x => s.mayBegin x.1).foldl (fun s x =>
    let s1 := match s.collBehind link x.2 with
      | none => s
      | some va => s.copyFailed x.1.team x.1.pc va
    s1.finishColl x.1 x.2 [] 2 0) s).breakColl p

/-- A CRC error of a flit: replayed, or the link fails.  `lost` names what is outstanding on the link, all of it on
Ixlet; `done` those of them that the far end performed.  A collective fails as a whole, if it can have a step there. -/
def execFlitCrcError (link : Link) (second : Bool) (lost done : List Nat) (s : State) : Result :=
  let outstanding := s.flight.accesses.filter fun a => s.behind link a.place
  let named := outstanding.filter fun a => lost.contains a.id
  let failing := match link with
    | .ixlet => outstanding
    | .sprinda _ => named
  let exists_ : Bool := match link with
    | .ixlet => true
    | .sprinda port => port < 24 && !s.dev.portsDown.getLsbD port
  if !exists_ then notEnabled
  else if !second then .next s
  else if !s.failsInOrder failing done then notEnabled
  else
    let half (a : Access) : Bool := a.kind.isUpdate && !a.kind.isAtomic
    let s1 := (failing.filter half ++ failing.filter fun a => !half a).foldl (fun s a => s.failAccess (done.contains a.id) a) s
    let copies := s.flight.copies.filter fun c => link == .ixlet || lost.contains c.id
    let s2 := copies.foldl (fun s c => s.failCopy link (done.contains c.id) c) (if copies = [] then s1 else s1.tellersDone)
    let colls := (copies.filter s.mayBegin).filterMap fun c => c.coll.filter (s.collCrosses link)
    let s3 := colls.foldl (State.failColl link) s2
    match link with
    | .ixlet => .next s3
    | .sprinda port =>
      .next ({ s3 with dev := { s3.dev with portsDown := s3.dev.portsDown ||| 1#24 <<< port } }.postEvent 2 port)

end Sys2Proof.Machine
end

