-- ==== Sys2Proof/Machine/Sha.lean ====
section
/-!
DEFINITION. SHA-384, which the report of ATTEST and the key hashes of 25 R354 and R357 name.  The spec does not spell the
function out: it is taken from FIPS 180-4 (PRESUMED, log entry 86).
-/
namespace Sys2Proof.Machine

/-! ### Constants: fractions of the roots of primes -/

/-- The integer `k`-th root of `n`, bit by bit: `r` stands so far, and `b` bits are still to be decided. -/
def rootBits (k n : Nat) : (b : Nat) → (r : Nat) → Nat
  | 0, r => r
  | b + 1, r => rootBits k n b (if (r + 2 ^ b) ^ k ≤ n then r + 2 ^ b else r)

/-- The first 64 bits of the fraction of the `k`-th root of `p`, for roots below 16. -/
def rootFraction (k p : Nat) : Addr := .ofNat 64 (rootBits k (p * 2 ^ (64 * k)) 68 0)

/-- The first 80 primes. -/
def shaPrimes : List Nat :=
  (List.range 410).filter fun n => 1 < n && (List.range n).all fun d => d ≤ 1 || n % d != 0

/-- The constants of the 80 rounds. -/
def shaConstants : List Addr := shaPrimes.map (rootFraction 3)

/-- The hash value before the first block. -/
def shaStart : List Addr := ((shaPrimes.drop 8).take 8).map (rootFraction 2)

/-! ### A block -/

/-- The exclusive OR of two rotations of a word and a third term. -/
def twisted (m n : Nat) (last x : Addr) : Addr := last ^^^ (x.rotateRight m ^^^ x.rotateRight n)

/-- One round, with its constant: the eight words change, and the 16 words of the message that come next move on by
one. -/
def shaRound (now : List Addr × List Addr) (constant : Addr) : List Addr × List Addr :=
  let v (i : Nat) : Addr := now.1.getD i 0
  let w (i : Nat) : Addr := now.2.getD i 0
  let choice := v 6 ^^^ (v 4 &&& (v 5 ^^^ v 6))
  let most := (v 2 &&& (v 0 ||| v 1)) ||| (v 0 &&& v 1)
  let into := w 0 + constant + choice + twisted 14 18 ((v 4).rotateRight 41) (v 4) + v 7
  let first := into + most + twisted 28 34 ((v 0).rotateRight 39) (v 0)
  let word := w 0 + twisted 1 8 (w 1 >>> 7) (w 1) + w 9 + twisted 19 61 (w 14 >>> 6) (w 14)
  (first :: now.1.take 3 ++ (v 3 + into) :: (now.1.drop 4).take 3, now.2.drop 1 ++ [word])

/-- The hash value after a block of 16 words. -/
def shaBlock (v block : List Addr) : List Addr := List.zipWith (· + ·) v (shaConstants.foldl shaRound (v, block)).1

/-! ### A message -/

/-- `n` bytes of a number, the most significant first. -/
def beBytes (n x : Nat) : List Byte := (leBytes n x).reverse

/-- The message with its padding: whole blocks of 128 bytes. -/
def shaPadded (m : List Byte) : List Byte :=
  m ++ [0x80] ++ List.replicate ((239 - m.length % 128) % 128) 0 ++ beBytes 16 (8 * m.length)

/-- The words of block `i`, each of eight bytes, the most significant first. -/
def shaWords (m : List Byte) (i : Nat) : List Addr :=
  (List.range 16).map fun j => .ofNat 64 (leNat ((m.drop (128 * i + 8 * j)).take 8).reverse)

/-- The SHA-384 hash of a message: 48 bytes. -/
def sha384 (m : List Byte) : List Byte :=
  let p := shaPadded m
  let v := (List.range (p.length / 128)).foldl (fun v i => shaBlock v (shaWords p i)) shaStart
  (v.take 6).flatMap fun x => beBytes 8 x.toNat

end Sys2Proof.Machine
end

