-- ==== Sys2Proof/Machine/Manage.lean ====
section
/-!
DEFINITION. The management unit and the links: mailbox commands, resets, temperature and power, registers and
translations from outside a team, requests of the host and of peers (25 R344, R347 to R359; 13 R196; 15 R232,
R241; 21 R309).
-/
namespace Sys2Proof.Machine

/-! ### Mailbox commands (25 R349) -/

/-- An 8-byte operand word. -/
def Device.operand (d : Device) (o : Nat) : Nat := leNat (Assoc.getAll 0 d.mailbox o 8)

/-- The running command ends: its code at byte 0x800, which a bell may watch (15 R236). -/
def State.commandDone (s : State) (code : Byte) : State :=
  { s with dev := { s.dev with command := none, mailbox := Assoc.set 0 s.dev.mailbox 0x800 code } }.afterWrite
    (mailboxLoc + 0x800) 1

/-- The command that was written to the mailbox, of number `k`: `f` answers an error code or the state. -/
def mailboxCommand (k : Nat) (f : State → Except Byte State) (s : State) : Result :=
  match s.dev.command with
  | none => notEnabled
  | some c =>
    if c.toNat ≠ k then notEnabled
    else match f s with
      | .error e => .next (s.commandDone e)
      | .ok s1 => .next (s1.commandDone 0)

/-- SETQ0: the ring of queue 0, through the translations of the context it is mapped to (19 R270; log entry 8); what
was fetched from an earlier ring is dropped.  It answers 2 for a queue 0 that is unmapped (DESIGN CHOICE, log entry 114). -/
def execSetq0 (s : State) : Result :=
  mailboxCommand 1 (fun s =>
    let d := s.dev
    match (s.queue 0).map, s.queueCtx 0 with
    | some m, some c =>
      let ring : Addr := .ofNat 64 (d.operand 8)
      let status : Addr := .ofNat 64 (d.operand 24)
      if s.ringOk c (d.operand 16) ring status then
        .ok ((((s.touchFe c.ctxid [ring, status]).dropHead 0).updateQueue 0 { s.queue 0 with
          map := some { m with k := d.operand 16, ring := some ring, status := status }
          prefetched := [], wait := .none, graphNext := 0 }).checkOverrun 0)
      else .error 2
    | _, _ => .error 2) s

/-- ROUTE: one entry of the route table (25 R347). -/
def execRoute (s : State) : Result :=
  mailboxCommand 2 (fun s =>
    let dev := s.dev.operand 8
    let mask := s.dev.operand 16
    if 4096 ≤ dev ∨ 2 ^ 24 ≤ mask then .error 2
    else .ok { s with dev := { s.dev with routes := Assoc.set 0 s.dev.routes dev (.ofNat 24 mask) } }) s

/-- The 256 bytes of the configuration record (25 R358). -/
def Record.bytes (r : Record) : List Byte :=
  leBytes 4 r.magic.toNat ++ leBytes 12 r.serial.toNat ++ leBytes 48 r.enable.toNat ++ leBytes 48 r.half.toNat
    ++ leBytes 48 r.hsel.toNat ++ leBytes 1 r.profile.toNat ++ leBytes 1 (r.nativeAtomics.toNat + 2 * r.flagsRsv.toNat)
    ++ leBytes 48 r.vaultAbsent.toNat ++ leBytes 1 r.thot.toNat ++ leBytes 1 r.ttrip.toNat
    ++ leBytes 2 r.bcool.toNat ++ leBytes 2 r.bhot.toNat ++ leBytes 2 r.plimit.toNat ++ leBytes 2 r.devid.toNat
    ++ leBytes 36 r.rsv.toNat

/-- The report of ATTEST (25 R357) with the leaf it uses; the record is hashed without its signatures (log entry 86). -/
def reportBytes (s : State) (leaf : Nat) : List Byte :=
  Assoc.getAll 0 s.dev.mailbox 8 48 ++ sha384 s.fe.firmware ++ sha384 s.dev.flash.bytes ++ leBytes 8 s.dev.time.toNat
    ++ leBytes 4 leaf ++ leBytes 100 0

/-- Device memory holds `n` bytes at a physical address, the aperture apart (log entry 71). -/
def inDeviceMemory (a n : Nat) : Bool :=
  a + n ≤ 2 ^ 52 && physical a + n ≤ hbmSize && (a + n ≤ apertureBase || apertureBase + apertureSize ≤ a)

/-- ATTEST: the leaf counter advances, then the report and both signatures are written (25 R356, R357).  Error 2 of its
address comes before error 3 of its leaf (DESIGN CHOICE, log entry 100). -/
def execAttest (s : State) : Result :=
  mailboxCommand 3 (fun s =>
    let a := s.dev.operand 56
    let leaf := s.dev.lmsNext
    if !inDeviceMemory a (256 + 96 + 1772) then .error 2
    else if 2 ^ 20 ≤ leaf then .error 3
    else
      let r := reportBytes s leaf
      let s1 := { s with dev := { s.dev with lmsNext := leaf + 1 } }
      .ok (s1.writeLoc (physical a) (r ++ leBytes 96 (Config.identityEcdsa r).toNat
        ++ leBytes 1772 (Config.identityLms r leaf).toNat))) s

/-- EVENT: the address of the event word in host memory, 8-aligned and below 2^52 (DESIGN CHOICE, log entry 114). -/
def execEvent (s : State) : Result :=
  mailboxCommand 5 (fun s =>
    let a := s.dev.operand 8
    if a % 8 ≠ 0 ∨ 2 ^ 52 ≤ a then .error 2
    else .ok { s with dev := { s.dev with eventWord := some (.ofNat 64 a) } }) s

/-! ### Resets (25 R358, R359) -/

/-- The record is accepted: its signatures verify, MAGIC is right, every field lies in its range, no rsv bit is set, and
no HSEL bit stands without its HALF bit. -/
def Record.accepted (r : Record) : Bool :=
  Config.recordSigned (r.bytes ++ r.signatures) && r.magic == 0x47434B50#32 && r.flagsRsv == 0 && r.rsv == 0
    && 70 ≤ r.thot.toNat && r.thot.toNat ≤ 95 && r.thot.toNat + 10 ≤ r.ttrip.toNat && r.ttrip.toNat ≤ 110
    && r.bcool.toNat ≤ 4095 && r.bhot.toNat ≤ r.bcool.toNat && 600 ≤ r.plimit.toNat && r.plimit.toNat ≤ 2400
    && r.devid.toNat < 4096 && r.hsel &&& ~~~r.half == 0

/-- Memory after step 5: HBM, vaults and local stores zero, all poison cleared; host and peer memory stand. -/
def Memory.afterReset (m : Memory) : Memory :=
  ⟨m.cells.filter fun e => hostLoc 0 ≤ e.1 && e.1 < vaultLoc 0 0, [], []⟩

/-- Flash, the LMS counter and the fused values survive; what the sensors read, and a die that is lost, are no
matter of the sequence. -/
def Device.afterReset (d : Device) : Device :=
  { Device.initial with
    flash := d.flash, image := d.image, fusedSvn := d.fusedSvn, lmsNext := d.lmsNext
    regs := Privileged.load d.flash, mailbox := d.mailbox, lostDies := d.lostDies
    stackTemp := d.stackTemp, colTemp := d.colTemp }

/-- The firmware image in flash is accepted (25 R354, R355). -/
def Device.imageAccepted (d : Device) : Bool := firmwareFormed d.fusedSvn d.image && Config.firmwareSigned d.image

/-- A reset discards every context, node and team, and what they have in flight. -/
def State.discarded (s : State) : State :=
  { s with
    fe := { FrontEnd.load s.fe.firmware with queues := Vector.replicate 128 Queue.unmapped, contexts := [], running := 0 }
    flight := Flight.empty
    cohorts := []
    nodes := []
    teams := []
    sched := { s.sched with cur := none } }

/-- Step 1 of R359: STATE 0, with nothing of what ran before. -/
def State.enterReset (s : State) : State := { s.discarded with dev := { s.dev with status := 0, command := none } }

/-- Steps 2 to 7 of R359; where a record or image is refused the sequence stops with STATE 2 or 3 (log entry 58). -/
def State.startUp (s : State) : State :=
  if !s.dev.flash.accepted then { s with dev := { s.dev with status := 2 } }
  else if !s.dev.imageAccepted then { s with dev := { s.dev with status := 3 } }
  else
    { s with
      dev := s.dev.afterReset
      fe := FrontEnd.load s.dev.image
      cores := Cores.load s.dev.flash
      mem := s.mem.afterReset }

/-- A reset that no loss of die 0 prevents (21 R320). -/
def resetEvent (s : State) : Result := if s.dev.lostDies.getLsbD 0 then notEnabled else .next s.enterReset

def execColdReset (s : State) : Result := resetEvent s
def execIxletReset (s : State) : Result := resetEvent s

/-- RESET: a warm reset; its code stands at byte 0x800 afterwards.  A device without die 0 answers 2 (DESIGN CHOICE, log
entry 114). -/
def execReset (s : State) : Result :=
  mailboxCommand 4 (fun s => if s.dev.lostDies.getLsbD 0 then .error 2 else .ok s.enterReset) s

/-! ### Temperature and power (25 R352, R353) -/

/-- The eight sensors of a tower's stacks. -/
def State.stackTemps (s : State) (tower : Nat) : List Nat :=
  (List.range 8).map fun i => (Assoc.get 0 s.dev.stackTemp (8 * tower + i)).toNat

def State.thot (s : State) : Nat := fld 0 8 s.dev.regs.therm.toNat

/-- HOT of a tower sets when a sensor reads above THOT; BUDGET changes with it. -/
def execHotSet (tower : Nat) (s : State) : Result :=
  if 4 ≤ tower ∨ s.dev.hot.getLsbD tower ∨ !((s.stackTemps tower).any fun t => s.thot < t) then notEnabled
  else .next { s with dev := { s.dev with hot := s.dev.hot ||| 1#4 <<< tower } }

/-- It clears when every one of them reads THOT − 3 or less. -/
def execHotClear (tower : Nat) (s : State) : Result :=
  if 4 ≤ tower ∨ !s.dev.hot.getLsbD tower ∨ !((s.stackTemps tower).all fun t => t + 3 ≤ s.thot) then notEnabled
  else .next { s with dev := { s.dev with hot := s.dev.hot &&& ~~~(1#4 <<< tower) } }

/-- PNOW exceeds PCAP, or a column sensor reads at or above the trip temperature. -/
def State.overPower (s : State) : Bool :=
  fld 0 12 s.dev.regs.pcap.toNat < fld 0 12 s.dev.regs.pnow.toNat
    || s.dev.colTemp.any fun e => s.dev.flash.ttrip.toNat ≤ e.2.toNat

/-- The device withholds issue opportunities and K-group steps until the condition clears. -/
def execPowerThrottle (s : State) : Result :=
  if s.dev.throttled ∨ !s.overPower then notEnabled
  else .next { s with dev := { s.dev with throttled := true } }

def execThrottleClear (s : State) : Result :=
  if !s.dev.throttled ∨ s.overPower then notEnabled
  else .next { s with dev := { s.dev with throttled := false } }

/-! ### Registers (25 R350, 09 R139) -/

/-- A register takes a written value, as it does inside SWR. -/
def execRegisterWrite (n : BitVec 12) (v : Word) (s : State) : Result :=
  if 0x100 ≤ n.toNat then (if privSpecial n.toNat then .next (s.writeDevice n.toNat v) else notEnabled)
  else match s.curTeam with
    | none => .fault .noTeam
    | some t => .next (s.putTeam (t.writeSpecial n.toNat v))

/-- The capture of the time base that a read of TBLO makes for its team. -/
def execTbloCapture (s : State) : Result :=
  match s.curTeam with
  | none => .fault .noTeam
  | some t => .next (s.putTeam { t with tbCapture := s.coreTime t.core })

/-! ### Translations (21 R309; 13 R196; 15 R232) -/

/-- An invalidation completes once what was translated has performed. -/
def execInvalidateContext (ctx : BitVec 16) (s : State) : Result :=
  if (s.ctx? ctx.toNat).isNone then .next s
  else if s.contextBusy ctx.toNat then notEnabled
  else .next (s.retryContext ctx.toNat)

def execInvalidatePage (ctx : BitVec 16) (va : Addr) (s : State) : Result :=
  if (s.ctx? ctx.toNat).isNone then .next s
  else if s.pageBusy ctx.toNat va then notEnabled
  else .next (s.retryRegion ctx.toNat va)

/-- The physical page that a leaf entry maps. -/
def leafBase (pte : Nat) : Nat := fld 16 36 pte * 2 ^ 16

/-- A leaf entry of device memory for a page of `pageBits`, without reserved bits. -/
def deviceLeaf (pageBits pte : Nat) : Bool :=
  bit 0 pte && bit 7 pte && fld 8 2 pte == 0 && fld 12 4 pte == 0 && fld 52 8 pte == 0
    && leafBase pte % 2 ^ pageBits == 0 && !inAperture (leafBase pte)

/-- The contents and the poison of `size` bytes at `old` pass to `new`. -/
def Memory.movePage (m : Memory) (old new size : Nat) : Memory :=
  if old = new then m
  else
    let cells := m.cells.filter fun e => old ≤ e.1 && e.1 < old + size
    let bad := m.poison.filter fun e => old ≤ 4 * e.1 && 4 * e.1 < old + size
    { m with
      cells := cells.foldl (fun l e => Assoc.set 0 l (e.1 - old + new) e.2) (Assoc.erase new size m.cells)
      poison := bad.foldl (fun l e => Assoc.set false l (e.1 - old / 4 + new / 4) e.2)
        (Assoc.erase (new / 4) (size / 4) m.poison) }

/-- A page of `size` bytes whose contents pass from `old` to `new`, homed in tower `home` from then on. -/
structure PageMove where
  old : Nat
  new : Nat
  size : Nat
  home : Nat
deriving DecidableEq, Repr

def PageMove.holds (m : PageMove) (loc : Nat) : Bool := m.old ≤ loc && loc < m.old + m.size

/-- A bell armed on the page watches it at its new home, of whose table or overflow list it takes a place as any further
bell does (15 R235, R238); none where both are full. -/
def State.moveBell (s : State) (m : PageMove) (a : Armed) (owner slot : Nat) : Option (State × Armed) :=
  if !m.holds a.loc then some (s, a)
  else
    let there := { a with loc := a.loc - m.old + m.new, home := m.home }
    if a.home = m.home then some (s, there)
    else (s.bellRoom m.home).map fun listed => (s.listBell { there with listed } owner slot, { there with listed })

/-- The bell of a team's slot. -/
def State.moveSlot (m : PageMove) (s : State) (x : Nat × BitVec 2) : Option State :=
  match s.team? x.1 with
  | none => some s
  | some t =>
    let b := t.bells[x.2.toNat]'(x.2.isLt)
    match b.armed with
    | none => some s
    | some a => (s.moveBell m a t.id x.2.toNat).map fun r =>
      r.1.modTeam t.id fun t => t.setSlot x.2 { b with armed := some r.2 }

/-- The bell of a queue's WAIT_SIGNAL. -/
def State.moveWait (m : PageMove) (s : State) (q : Nat) : Option State :=
  match (s.queue q).wait with
  | .signal (some a) f => (s.moveBell m a q 4).map fun r =>
      r.1.putQueue q { r.1.queue q with wait := .signal (some r.2) f }
  | .signal none _ => some s
  | .none => some s
  | .gang => some s

/-- Every bell armed on the page, one after another. -/
def State.moveBells (s : State) (m : PageMove) : Option State :=
  let slots := s.teams.flatMap fun t => [0#2, 1#2, 2#2, 3#2].map fun k => (t.id, k)
  (slots.foldlM (State.moveSlot m) s).bind fun s1 => (List.range 128).foldlM (State.moveWait m) s1

/-- What the page's change of home waits for: copies that have checked the page (13 R208), and every access to it but
atomics that can perform now (13 R196, 15 R232). -/
def State.pageHeld (s : State) (inPage : Nat → Bool) : Bool :=
  let here := s.flight.accesses.filter fun a => inPage a.place.loc && !a.kind.isReply
  s.flight.copies.any (fun c => c.pages.any fun g => inPage (2 ^ 16 * g))
    || here.any fun a => !a.kind.isAtomic || a.after.any fun b =>
      s.flight.accesses.any (fun x => x.id == b) && !(here.any fun x => x.id == b)

/-- A page of device memory changes its home: atomics issued to the old one perform, the contents and the bells pass
over, copies of the lines of either page are dropped, and the entry at `pte` becomes `entry` (13 R196, 15 R232).  It waits
for room for the bells at the new home (DEDUCED, log entry 94). -/
def execPageHomeChange (pte pageBits : Nat) (entry : BitVec 64) (s : State) : Result :=
  let old := s.mem.nat pte 8
  let size := 2 ^ pageBits
  let o := physical (leafBase old)
  let n := physical (leafBase entry.toNat)
  let inPage (l : Nat) : Bool := o ≤ l && l < o + size
  let inNew (l : Nat) : Bool := n ≤ l && l < n + size
  if !(pageBits == 16 || pageBits == 21 || pageBits == 30) ∨ hbmSize < pte + 8 ∨ !deviceLeaf pageBits old
      ∨ !deviceLeaf pageBits entry.toNat ∨ old % 2 ^ 8 ≠ entry.toNat % 2 ^ 8 ∨ s.pageHeld inPage then notEnabled
  else
    let move : PageMove := ⟨o, n, size, fld 10 2 entry.toNat⟩
    let s1 : State := (s.flight.accesses.filter fun a => inPage a.place.loc && !a.kind.isReply).foldl
      (fun s a =>
        let r := s.performAccess (s.towerFor a.team) false a
        r.state.owes a r.reply) s
    let s2 : State := { s1 with
      mem := s1.mem.movePage o n size
      flight := { s1.flight with
        lines := s1.flight.lines.filter fun c => !inPage (128 * c.line) && !inNew (128 * c.line)
        stored := (s1.flight.stored ++ (s1.flight.stored.filter fun e => inPage (128 * e.2)).map fun e =>
          (e.1, e.2 - o / 128 + n / 128)).eraseDups } }
    match s2.moveBells move with
    | none => notEnabled
    | some s3 => .next (s3.writeLoc pte (leBytes 8 entry.toNat))

/-! ### Requests over the links (15 R241, 25 R344) -/

/-- Where `n` bytes at a device physical address lie: wholly in the aperture or wholly outside it. -/
def linkPlace (a n : Nat) : Option Place :=
  if apertureBase ≤ a ∧ a + n ≤ apertureBase + apertureSize then some ⟨a, .so, .aperture⟩
  else if inDeviceMemory a n then some ⟨physical a, .rc, .device 0⟩
  else none

/-- A request performs: a read answers its bytes, a write takes its place and fires bells. -/
def linkRequest (aperture : Bool) (r : BusReq) (s : State) : Result :=
  let (a, n) := match r with
    | .read a n _ => (a.toNat, n)
    | .write a bs _ => (a.toNat, bs.length)
  match linkPlace a n with
  | none => notEnabled
  | some p =>
    if p.region = .aperture ∧ !aperture then notEnabled
    else match r with
      | .read _ _ _ => .next { s with dev := { s.dev with busReply := s.readPlace p n } }
      | .write _ bs _ => .next (s.writePlace p bs)

/-- A request of the host over Ixlet: device memory and the control aperture. -/
def execHostRequest (r : BusReq) (s : State) : Result := linkRequest true r s

/-- A request of a peer over a Sprinda port that is up. -/
def execPeerRequest (device : BitVec 12) (r : BusReq) (s : State) : Result :=
  if s.portsTo device.toNat = 0 then notEnabled else linkRequest false r s

end Sys2Proof.Machine
end

