-- ==== Sys2Proof/Machine/Debug.lean ====
section
/-!
DEFINITION. The debug unit (25 R360; 21 R321, R322; 11 R167).
-/
namespace Sys2Proof.Machine

/-- A command returns a code, and a value for READ. -/
def State.debugReply (s : State) (code : Nat) (v : BitVec 256) : State :=
  { s with dev := { s.dev with debugCode := code, debugValue := v } }

/-- The team that a command names; an exiting team is none any more. -/
def State.debugTeam (s : State) (r : TeamRef) : Option Team :=
  s.teams.find? fun t =>
    t.ctx == r.ctx.toNat && t.nid == r.nid && t.index == r.team && t.cond != .exiting

/-- Codes 1, 2 and 3 in their order, then the command on the team; what is malformed may depend on the team. -/
def onTeam (r : TeamRef) (malformed : Option Team → Bool) (f : Team → Result) (s : State) : Result :=
  let code (n : Nat) : Result := .next (s.debugReply n 0)
  if malformed (s.debugTeam r) then code 1
  else match s.ctx? r.ctx.toNat, s.debugTeam r with
    | some c, some t => if c.attached then f t else code 3
    | _, _ => code 2

/-- A team that is stopped and has drained (21 R321): no returning access of it is in flight. -/
def State.drained (s : State) (t : Team) : Bool :=
  t.isStopped && !s.flight.accesses.any fun a => a.team == t.id && a.kind.dst?.isSome

/-- What a stop keeps of what the team was doing (03 R51, 21 R312, R321). -/
def Condition.kept : Condition → Kept
  | .ready => .none
  | .stalled => .again
  | .woken => .woken
  | .parkedAwait _ _ _ => .again
  | .parkedBarrier _ _ => .again
  | .pendingTranslation a l => .translation a l
  | .stopped _ k => k
  | .exiting => .none

/-- STOP: an asynchronous stop; not between a producer and its cancelling consumer (05 R78). -/
def execStop (r : TeamRef) (s : State) : Result :=
  onTeam r (fun _ => false) (fun t =>
    if t.isStopped then .next (s.debugReply 0 0)
    else if s.inPair t then notEnabled
    else
      let word := match t.cond.kept with
        | .woken => t.fetched
        | .translation _ _ => t.fetched
        | .none | .again => none
      let t1 := { s.stopTeam s.sched.freeCount t with cond := .stopped false t.cond.kept, fetched := word }
      let s1 := { s with sched := { s.sched with freeCount := s.sched.freeCount + 1 } }
      .next ((s1.putTeam t1).debugReply 0 0)) s

/-- What a stopped team does when it is resumed: a pending translation that an event has tried again meanwhile issues its
instruction, another stays pending (21 R312). -/
def Team.resumed (t : Team) : Condition :=
  match t.cond with
  | .stopped _ .none => .ready
  | .stopped _ .again => .stalled
  | .stopped _ .woken => .woken
  | .stopped _ (.translation a l) => if t.retried then .ready else .pendingTranslation a l
  | c => c

/-- RESUME: the team continues from its stopping point. -/
def execResume (r : TeamRef) (s : State) : Result :=
  onTeam r (fun _ => false) (fun t =>
    if !s.drained t then .next (s.debugReply 4 0)
    else .next ((s.putTeam { t with cond := t.resumed }).debugReply 0 0)) s

/-! ### Items -/

/-- An item that names no state of a team is malformed (21 R322). -/
def itemMalformed : DebugItem → Bool
  | .pc => false
  | .scalar _ => false
  | .vector _ _ => false
  | .mask _ _ => false
  | .exm _ => false
  | .special n => !userSpecial n.toNat
  | .nest _ => false
  | .dcr _ => false
  | .memory va => va.toNat % 4 != 0

/-- Lanes, mask words and counters that the team has. -/
def itemExists (t : Team) : DebugItem → Bool
  | .pc => true
  | .scalar _ => true
  | .vector _ l => l < t.tw
  | .mask _ w => w < t.passes
  | .exm w => w < t.passes
  | .special _ => true
  | .nest l => t.structured && l < t.tw
  | .dcr none => true
  | .dcr (some l) => l < t.tw
  | .memory _ => true

/-- A vector register's virtual number is what the debugger names. -/
def Team.vregAt (t : Team) (r : Reg) : VReg := t.vregs[r.toNat]'(r.isLt)

/-- The value of an item, none where memory cannot be read. -/
def debugRead (s : State) (t : Team) : DebugItem → Option (BitVec 256)
  | .pc => some (t.pc.setWidth 256)
  | .scalar r => some ((t.sval r).setWidth 256)
  | .vector r l => some (((t.vregAt r).lane l).val.setWidth 256)
  | .mask m w => some ((maskWord (t.mbits m) w).setWidth 256)
  | .exm w => some ((maskWord t.exm w).setWidth 256)
  | .special n => some ((specialValue s t n.toNat).setWidth 256)
  | .nest l => some ((t.nestAt l).setWidth 256)
  | .dcr l => some (match t.dcr? l with
    | none => 0
    | some d => d.record)
  | .memory va =>
    match translate s (s.ctxOf t) t.core va .read with
    | .error _ => none
    | .ok p =>
      if !s.reachable p then none else some (.ofNat 256 (leNat (s.readPlace p 4)))

/-- The translation that a memory item makes (21 R319). -/
def State.touchItem (s : State) (t : Team) : DebugItem → State
  | .memory va => s.touch t.ctx (s.placesAt t [va])
  | .pc | .scalar _ | .vector _ _ | .mask _ _ | .exm _ | .special _ | .nest _ | .dcr _ => s

/-- Code 1 of READ: an item that does not exist, or memory that cannot be read. -/
def readMalformed (s : State) (item : DebugItem) (t : Option Team) : Bool :=
  itemMalformed item || t.any fun t => !itemExists t item || (debugRead s t item).isNone

def execRead (r : TeamRef) (item : DebugItem) (s : State) : Result :=
  onTeam r (readMalformed s item) (fun t =>
    if !s.drained t then .next (s.debugReply 4 0)
    else .next ((s.touchItem t item).debugReply 0 ((debugRead s t item).getD 0))) s

/-- The opcode of the records at a team's stopping point: an instruction of the iterative class (05 R84). -/
def iterativeAt (s : State) (t : Team) : Option (Nat × Bool) :=
  match s.nextInstr t with
  | some (.div _ _ _ _) => some (0x01, true)
  | some (.divu _ _ _ _) => some (0x02, true)
  | some (.rem _ _ _ _) => some (0x03, true)
  | some (.remu _ _ _ _) => some (0x04, true)
  | some (.vfdiv _ _ _ _) => some (0x10, false)
  | some (.vfsqrt _ _ _) => some (0x11, false)
  | some (.vfrsq _ _ _) => some (0x12, false)
  | some (.vfrcp _ _ _) => some (0x13, false)
  | some (.vfexp2 _ _ _) => some (0x14, false)
  | some (.vflog2 _ _ _) => some (0x15, false)
  | _ => none

/-- The lane of a record that a debugger may write (21 R322): none for a scalar instruction, a lane of the saved
effective mask for a vector one. -/
def recordLaneOk (s : State) (t : Team) (lane : Option Nat) : Bool :=
  match iterativeAt s t, lane with
  | some (_, true), none => true
  | some (_, false), some l => l < t.tw && t.effective.getLsbD l
  | _, _ => false

/-- A write of a special register that holds a team's own state (03 R35): MODE under R96, FLAGS, LAVC, SLIM, the
queue registers, the accumulator window, the cohort handles, VBASE where the window still fits, and VBOUND, whose blocks
outside the new window become dead (03 R54).  Any other register's write is malformed (log entry 54). -/
def debugSpecial (s : State) (t : Team) (n : Nat) (v : Word) : Option Team :=
  if n = 0 then (if modeOk (s.ctxOf t).nvr v then some { t with mode := v } else none)
  else if n = 0x13 then some { t with cid0 := v.setWidth 16 }
  else if n = 0x14 then some { t with cid1 := v.setWidth 16 }
  else if n = 0x18 then (if v.toNat + t.blocks.toNat ≤ 8 then some { t with vbase := v.setWidth 3 } else none)
  else if n = 0x19 then
    if 1 ≤ v.toNat ∧ t.vbase.toNat + v.toNat ≤ 8 then
      some { t.killRange (8 * (t.vbase.toNat + v.toNat)) 64 with blocks := v.setWidth 4 }
    else none
  else if n = 0x1A then some { t with acb := v.setWidth 9 }
  else if n = 0x1B then some { t with acl := v.setWidth 9 }
  else if n = 3 ∨ n = 4 ∨ n = 0x1C ∨ (0x20 ≤ n ∧ n < 0x30) then some (t.writeSpecial n v)
  else none

/-- A write of PC: the team goes on there, and nothing of its last instruction stands any more. -/
def Team.redirect (t : Team) (pc : Addr) : Team :=
  let byTrap := match t.cond with
    | .stopped b _ => b
    | _ => false
  { t with pc := pc, cond := .stopped byTrap .none, retried := false, fetched := none }

/-- The moves of a copy into one word perform, at most `fuel` of them. -/
def State.landWord (p : Place) (tower : Nat) (c : Copy) : Nat → State → List Move → State × List Move
  | 0, s, ms => (s, ms)
  | fuel + 1, s, ms =>
    match ms.findIdx? fun m => sameWord m.dst p with
    | none => (s, ms)
    | some i =>
      match ms[i]? with
      | none => (s, ms)
      | some m =>
        let r := s.performMove tower c m (ms.eraseIdx i)
        State.landWord p tower c fuel r.1 r.2

/-- A word that a copy has begun to write takes the rest of it before a debugger's write lands there (21 R322). -/
def State.landCopy (s : State) (p : Place) (c : Copy) : State :=
  let all := (c.plan.dsts.filter fun d => sameWord d.place p).map (·.place.loc)
  let left := (c.moves.filter fun m => sameWord m.dst p).length
  if 0 < left ∧ left < all.eraseDups.length then
    let r := State.landWord p (s.towerFor c.team) c 4 s c.moves
    let c1 := { c with moves := r.2 }
    if r.2 = [] then (r.1.putCopy c1).copyMoved c1 else r.1.putCopy c1
  else s

/-- The same of every copy in flight. -/
def State.landCopies (s : State) (p : Place) : State := (s.flight.copies.filter (·.begun)).foldl (fun s c => s.landCopy p c) s

/-- A debugger's write replaces the value, makes the register live and clears its poison (21 R322). -/
def debugWrite (s : State) (t : Team) (item : DebugItem) (v : BitVec 256) : Option State :=
  let w : Word := v.setWidth 32
  match item with
  | .pc => if v.toNat % 4 = 0 then some (s.putTeam (t.redirect (v.setWidth 64))) else none
  | .scalar r => some (s.putTeam (t.setS r w))
  | .vector r l =>
    let old := t.vregAt r
    let lanes := (List.range t.tw).map fun i => if i = l then (⟨w, false⟩ : Lane) else old.lane i
    some (s.putTeam { t with vregs := t.vregs.set r.toNat (.live lanes) r.isLt })
  | .mask m i => some (s.putTeam (t.setMWord m i w))
  | .exm i =>
    if t.structured then none
    else
      let hole : LaneBits := ~~~((BitVec.allOnes 32).setWidth 1024 <<< (32 * i))
      some (s.putTeam { t with
        exmBits := (t.exmBits &&& hole) ||| (w.setWidth 1024 <<< (32 * i))
        exmPoison := t.exmPoison &&& ~~~(1#32 <<< i) })
  | .special n => (debugSpecial s t n.toNat w).map s.putTeam
  | .nest l =>
    some (s.putTeam { t with nest := (List.range t.tw).map fun i =>
      if i = l then v.setWidth 8 else t.nestAt i })
  | .dcr lane =>
    if recordLaneOk s t lane then
      some (s.putTeam { t with
        dcrs := (t.dcrs.filter fun d => d.lane != lane && d.pc == t.pc) ++ [⟨t.pc, lane, v⟩] })
    else none
  | .memory va =>
    match translate s (s.ctxOf t) t.core va .write with
    | .error _ => none
    | .ok p =>
      if !s.reachable p then none
      else some ((s.landCopies p).writePlace p (leBytes 4 w.toNat))

/-- Code 1 of WRITE: an item that does not exist or takes no such value, or memory that cannot be written. -/
def writeMalformed (s : State) (item : DebugItem) (v : BitVec 256) (t : Option Team) : Bool :=
  itemMalformed item || t.any fun t => !itemExists t item || (debugWrite s t item v).isNone

def execWrite (r : TeamRef) (item : DebugItem) (v : BitVec 256) (s : State) : Result :=
  onTeam r (writeMalformed s item v) (fun t =>
    if !s.drained t then .next (s.debugReply 4 0)
    else .next (((debugWrite (s.touchItem t item) t item v).getD s).debugReply 0 0)) s

/-! ### Watches and attachment (25 R360) -/

/-- WATCH sets or clears one of four watches of a context. -/
def execWatch (ctx : BitVec 16) (slot : Nat) (w : Option Watch) (s : State) : Result :=
  let code (n : Nat) : Result := .next (s.debugReply n 0)
  let ok : Bool := slot < 4 && match w with
    | none => true
    | some x => x.base.toNat % 8 == 0 && (x.reads || x.writes)
  if !ok then code 1
  else match s.ctx? ctx.toNat with
    | none => code 2
    | some c =>
      if !c.attached then code 3
      else
        let others := c.watches.filter fun e => e.1 != slot
        .next ((s.modCtx c.ctxid fun c => { c with
          watches := others ++ (w.map fun x => (slot, x)).toList }).debugReply 0 0)

/-- The mailbox of the debug page marks a context attached or no longer attached. -/
def execDebugAttach (ctx : BitVec 16) (on : Bool) (s : State) : Result :=
  match s.ctx? ctx.toNat with
  | none => .next (s.debugReply 2 0)
  | some _ => .next ((s.modCtx ctx.toNat fun c => { c with attached := on }).debugReply 0 0)

end Sys2Proof.Machine
end

