-- ==== Sys2Proof/Machine/Mask.lean ====
section
/-!
DEFINITION. The mask operations of major 0x05 (09 R136; 03 R36 to R38).  EXM gates none of them.
-/
namespace Sys2Proof.Machine

def MSrc.use (a : MSrc) : Use := ⟨.m a.reg, a.last⟩

/-- Two mask sources and a mask destination. -/
def maskRR (f : LaneBits → LaneBits → LaneBits) (d : MReg) (a b : MSrc) : State → Result :=
  runRegs (fun _ => { srcs := [MSrc.use a, MSrc.use b], dsts := [.m d] })
    fun t => .ok (t.setM d (f (t.mbits a.reg) (t.mbits b.reg))).advance

/-- One mask source and a mask destination. -/
def maskR (f : LaneBits → LaneBits) (d : MReg) (a : MSrc) : State → Result :=
  runRegs (fun _ => { srcs := [MSrc.use a], dsts := [.m d] })
    fun t => .ok (t.setM d (f (t.mbits a.reg))).advance

/-- A mask destination alone. -/
def maskSet (b : LaneBits) (d : MReg) : State → Result :=
  runRegs (fun _ => { dsts := [.m d] }) fun t => .ok (t.setM d b).advance

/-- One mask source and a scalar destination. -/
def maskToScalar (f : Nat → LaneBits → Word) (d : Reg) (a : MSrc) : State → Result :=
  runRegs (fun _ => { srcs := [MSrc.use a], dsts := [.s d] })
    fun t => .ok (t.setS d (f t.tw (t.mbits a.reg))).advance

/-- The lowest lane below `n` whose bit is set; all ones if none. -/
def firstSet (n : Nat) (b : LaneBits) : Word :=
  match (List.range n).find? fun l => b.getLsbD l with
  | some l => .ofNat 32 l
  | none => 0xFFFFFFFF#32

/-- The number of set bits below `n`. -/
def countSet (n : Nat) (b : LaneBits) : Word := .ofNat 32 ((List.range n).countP fun l => b.getLsbD l)

def execMand (d : MReg) (a b : MSrc) (s : State) : Result := maskRR (· &&& ·) d a b s
def execMor (d : MReg) (a b : MSrc) (s : State) : Result := maskRR (· ||| ·) d a b s
def execMxor (d : MReg) (a b : MSrc) (s : State) : Result := maskRR (· ^^^ ·) d a b s
def execMandn (d : MReg) (a b : MSrc) (s : State) : Result := maskRR (fun x y => x &&& ~~~y) d a b s
def execMnot (d : MReg) (a : MSrc) (s : State) : Result := maskR (fun x => ~~~x) d a s
def execMmov (d : MReg) (a : MSrc) (s : State) : Result := maskR id d a s
def execMall (d : MReg) (s : State) : Result := maskSet (.allOnes 1024) d s
def execMclr (d : MReg) (s : State) : Result := maskSet 0 d s
def execMpopc (d : Reg) (a : MSrc) (s : State) : Result := maskToScalar countSet d a s
def execMffs (d : Reg) (a : MSrc) (s : State) : Result := maskToScalar firstSet d a s
def execMsumw (d : Reg) (a : MSrc) (s : State) : Result := maskToScalar (fun _ b => summaryWord b) d a s

/-- MSETW: word a of md := b (09 R136). -/
def execMsetw (d : MReg) (a b : Src) (s : State) : Result :=
  runRegs (fun _ => { srcs := [⟨.s a.reg, a.last⟩, ⟨.s b.reg, b.last⟩], dsts := [.m d] })
    (fun t => .ok (t.setMWord d (t.sval a.reg).toNat (t.sval b.reg)).advance) s

/-- MGETW: sd := word b of ma, 0 at or beyond TW / 32; it reads that word alone (09 R136, 21 R315). -/
def execMgetw (d : Reg) (a : MSrc) (b : Src) (s : State) : Result :=
  runRegs (fun _ => { srcs := [⟨.s b.reg, b.last⟩], unread := [MSrc.use a], dsts := [.s d] })
    (fun t =>
      let w := (t.sval b.reg).toNat
      if w < t.passes && (t.mbad a.reg).getLsbD w then raiseAt .poison (a.reg.setWidth 64)
      else .ok (t.setS d (if w < t.passes then maskWord (t.mbits a.reg) w else 0)).advance) s

/-- EXMSET: EXM := ma; ILLEGAL_MODE in structured style (03 R38, R41). -/
def execExmset (a : MSrc) (s : State) : Result :=
  runRegs (fun t =>
      { srcs := [MSrc.use a], early := if t.structured then some (.at .illegalMode 0 0) else none })
    (fun t => .ok { t with exmBits := t.mbits a.reg &&& lanesBelow t.tw, exmPoison := 0 }.advance) s

/-- EXMGET: md := EXM, legal in both styles. -/
def execExmget (d : MReg) (s : State) : Result :=
  runRegs (fun _ => { dsts := [.m d], exm := true }) (fun t => .ok (t.setM d t.exm).advance) s

end Sys2Proof.Machine
end

