-- ==== Sys2Proof/Machine/Packed.lean ====
section
/-!
DEFINITION. Conversion and packed instructions: majors 0x30 and 0x31 (11 R168 to R172).
-/
namespace Sys2Proof.Machine

/-! ### VCVT and VQNT -/

/-- The DFM bit that gates a conversion: 64 when a format is FP64 (11 R146). -/
def convertBits (S D : Nat) : List Nat := if S = 0x18 || D = 0x18 then [64] else []

/-- The value 0 that a source index beyond n(S) supplies (11 R168). -/
def zeroSource (S : Nat) : CVal := if isIntClass S then .int 0 else .fp (.fin false 0 0)

/-- One element converted: its field and flags (05 R70 to R74, R91; 11 R169). -/
def convertElem (nvr S D rnd : Nat) (sat : Bool) (x : Nat) : Out :=
  let v := readElem S x
  let o := convert nvr D rnd sat (flushSource nvr S D v.1)
  ⟨o.bits, o.flags ||| v.2⟩

/-- Where VCVT starts: its first source element, its first destination field, and how many (11 R168). -/
structure CvtPlan where
  s0 : Nat
  d0 : Nat
  k : Nat
deriving DecidableEq, Repr

def cvtPlan (S D sel : Nat) : Option CvtPlan :=
  let ns := elemCount S
  let nd := elemCount D
  let k := min ns nd
  let s0 := if nd < ns then sel * k else 0
  let d0 := if ns < nd then sel * k else 0
  if ns ≤ s0 || nd ≤ d0 || (ns == nd && sel != 0) then none else some ⟨s0, d0, k⟩

/-- An old field of type `T` that an instruction writes again: its unused bits are written as zero (05 R64, 11 R147). -/
def keepField (T x : Nat) : Nat :=
  match fpFmt T with
  | none => x
  | some f => if T = 0x16 then x / 2 ^ 13 * 2 ^ 13 else x % 2 ^ (f.s + f.e + f.m)

/-- VCVT in one lane: the new fields of vd, the others kept. -/
def cvtLane (nvr S D rnd : Nat) (sat : Bool) (p : CvtPlan) (src old : List Nat) : List Out :=
  (List.range (elemCount D)).map fun j =>
    if p.d0 ≤ j ∧ j < p.d0 + p.k then
      let i := p.s0 + (j - p.d0)
      if i < elemCount S then convertElem nvr S D rnd sat (src.getD i 0)
      else ⟨(convert nvr D rnd sat (zeroSource S)).bits, 0⟩
    else ⟨keepField D (old.getD j 0), 0⟩

/-- The flags of the conversions alone: a source beyond n(S) raises none. -/
def execVcvt (d : Reg) (a : Src) (f sel : BitVec 5) (s : State) : Result :=
  runRegs (fun t =>
      let S := t.type
      let D := f.toNat
      let keeps := match cvtPlan S D sel.toNat with
        | some p => p.k != elemCount D
        | none => false
      { srcs := [⟨vField S a.reg, a.last⟩] ++ (if keeps then [⟨vField D d, false⟩] else []),
        dsts := [vField D d], vector := true,
        early := typeTrap (pairFields S [a.reg] ++ pairFields D [d]) (cvtPlan S D sel.toNat).isSome,
        feature := featureTrap s t.core (convertBits S D) })
    (fun t =>
      let S := t.type
      let D := f.toNat
      match cvtPlan S D sel.toNat with
      | none => raiseAt .illegalMode
      | some p =>
        let outs := t.perActive fun l =>
          cvtLane (s.ctxOf t).nvr S D t.rnd t.sat p (t.elemsOf S a.reg l) (t.elemsOf D d l)
        .ok ((t.setOuts D d outs).raiseFlags (flagsOf outs)).advance) s

/-- A source element as a real number, whatever its class (11 R170). -/
def realOf : CVal → FVal
  | .int v => .fin (v < 0) v.natAbs 0
  | .fp v => v

/-- y := x × 2^(c − 127); code 255 is a NaN (11 R170). -/
def scaleBy (c : Nat) (v : FVal) : FVal :=
  if c = 255 then .nan false
  else match v with
    | .fin neg n e => .fin neg n (e + c - 127)
    | .inf neg => .inf neg
    | .nan q => .nan q

/-- One element of VQNT: under code 255 the element is not read. -/
def quantElem (nvr S D rnd : Nat) (sat : Bool) (c x : Nat) : Out :=
  let v := readElem S x
  let y := scaleBy c (realOf (flushSource nvr S D v.1))
  let o := convert nvr D rnd sat (.fp y)
  ⟨o.bits, o.flags ||| if c = 255 then 0 else v.2⟩

/-- VQNT in one lane: the results at the bottom, the old fields moved up (11 R170). -/
def quantLane (nvr S D rnd : Nat) (sat : Bool) (c : Nat) (src old : List Nat) : List Out :=
  let k := min (elemCount S) (elemCount D)
  (List.range (elemCount D)).map fun j =>
    if j < k then quantElem nvr S D rnd sat c (src.getD j 0) else ⟨keepField D (old.getD (j - k) 0), 0⟩

def execVqnt (d : Reg) (a b : Src) (f : BitVec 5) (s : State) : Result :=
  runRegs (fun t =>
      let S := t.type
      let D := f.toNat
      let keeps := elemCount S < elemCount D
      { srcs := [⟨vField S a.reg, a.last⟩, ⟨.v b.reg, b.last⟩]
          ++ (if keeps then [⟨vField D d, false⟩] else []),
        dsts := [vField D d], vector := true,
        early := typeTrap (pairFields S [a.reg] ++ pairFields D [d]) true,
        feature := featureTrap s t.core (convertBits S D) })
    (fun t =>
      let S := t.type
      let D := f.toNat
      let outs := t.perActive fun l =>
        quantLane (s.ctxOf t).nvr S D t.rnd t.sat (fld 0 8 (t.vval b.reg l).toNat)
          (t.elemsOf S a.reg l) (t.elemsOf D d l)
      .ok ((t.setOuts D d outs).raiseFlags (flagsOf outs)).advance) s

/-! ### VPACK, VUNPK, VDOT (11 R171, R172) -/

/-- An integer of `w` bits, signed or not. -/
def wideInt (w : Nat) (isSigned : Bool) (x : Nat) : Int :=
  if isSigned && 2 ^ (w - 1) ≤ x % 2 ^ w then ((x % 2 ^ w : Nat) : Int) - 2 ^ w else (x % 2 ^ w : Nat)

/-- The fields and checks of a packed instruction. -/
def packShape (t : Team) (accept : Nat → Bool) (d : Reg) (srcs : List Src) (readsD : Bool) : Shape where
  srcs := (srcs.map fun a => ⟨.v a.reg, a.last⟩) ++ (if readsD then [⟨.v d, false⟩] else [])
  dsts := [.v d]
  vector := true
  early := typeTrap [] (accept t.type)

/-- VPACK: elements of width 2w, narrowed by Fit. -/
def packLane (T : Nat) (sat : Bool) (a b : Word) : Nat :=
  let w := fieldWidth T
  let half := 32 / w / 2
  let wide (x : Word) (i : Nat) : Int := wideInt (2 * w) (isSignedInt T) (fld (2 * w * i) (2 * w) x.toNat)
  packFields w ((List.range (2 * half)).map fun i =>
    fit T sat (if i < half then wide a i else wide b (i - half)))

def execVpack (d : Reg) (a b : Src) (s : State) : Result :=
  runRegs (fun t => packShape t setPack d [a, b] false)
    (fun t => .ok (t.setActive d fun l =>
      .ofNat 32 (packLane t.type t.sat (t.vval a.reg l) (t.vval b.reg l))).advance) s

/-- VUNPK: half the fields, extended to width 2w. -/
def unpackLane (T sel : Nat) (a : Word) : Nat :=
  let w := fieldWidth T
  let half := 32 / w / 2
  packFields (2 * w) ((List.range half).map fun i =>
    (wideInt w (isSignedInt T) (fld (w * (sel * half + i)) w a.toNat) % 2 ^ (2 * w)).toNat)

def execVunpk (d : Reg) (a : Src) (sel : Bool) (s : State) : Result :=
  runRegs (fun t => packShape t setPack d [a] false)
    (fun t => .ok (t.setActive d fun l => .ofNat 32 (unpackLane t.type sel.toNat (t.vval a.reg l))).advance) s

/-- VDOTn: the old word and the exact sum of products, written once (11 R172). -/
def dotLane (T : Nat) (sat : Bool) (a b acc : Word) : Out :=
  let unsigned := isUnsignedInt T
  let xs := (elems T a.toNat).zip (elems T b.toNat)
  let sum := xs.foldl (fun s x => s + (intValue T x.1).1 * (intValue T x.2).1) 0
  let bad := xs.any fun x => (intValue T x.1).2 || (intValue T x.2).2
  ⟨fit (if unsigned then 0x0B else 0x0A) sat ((if unsigned then (acc.toNat : Int) else acc.toInt) + sum),
    if bad then fNV else 0⟩

def dotProduct (accept : Nat → Bool) (d : Reg) (a b : Src) : State → Result :=
  runRegs (fun t => packShape t accept d [a, b] true)
    fun t =>
      let out (l : Nat) : Out := dotLane t.type t.sat (t.vval a.reg l) (t.vval b.reg l) (t.vval d l)
      .ok ((t.setActive d fun l => .ofNat 32 (out l).bits).raiseFlags
        (unionFlags (t.active.map fun l => (out l).flags))).advance

def execVdot2 (d : Reg) (a b : Src) (s : State) : Result := dotProduct (fun T => T ≤ 2) d a b s
def execVdot4 (d : Reg) (a b : Src) (s : State) : Result := dotProduct (fun T => T == 4 || T == 5) d a b s
def execVdot8 (d : Reg) (a b : Src) (s : State) : Result := dotProduct (fun T => T == 6 || T == 7) d a b s

end Sys2Proof.Machine
end

