-- ==== Sys2Proof/Machine/Dispatch.lean ====
section
/-!
DEFINITION. The dispatch: one arm per row of the opcode table, each one call of that row's meaning.
-/
namespace Sys2Proof.Machine

def exec (i : Instr) (s : State) : Host.Outcome State Fault Refusal :=
  match i with
  | .add d a b => Sys2Proof.Machine.execAdd d a b s
  | .sub d a b => Sys2Proof.Machine.execSub d a b s
  | .mul d a b => Sys2Proof.Machine.execMul d a b s
  | .mulh d a b => Sys2Proof.Machine.execMulh d a b s
  | .mulhu d a b => Sys2Proof.Machine.execMulhu d a b s
  | .and d a b => Sys2Proof.Machine.execAnd d a b s
  | .or d a b => Sys2Proof.Machine.execOr d a b s
  | .xor d a b => Sys2Proof.Machine.execXor d a b s
  | .andn d a b => Sys2Proof.Machine.execAndn d a b s
  | .shl d a b => Sys2Proof.Machine.execShl d a b s
  | .shr d a b => Sys2Proof.Machine.execShr d a b s
  | .sra d a b => Sys2Proof.Machine.execSra d a b s
  | .min d a b => Sys2Proof.Machine.execMin d a b s
  | .max d a b => Sys2Proof.Machine.execMax d a b s
  | .minu d a b => Sys2Proof.Machine.execMinu d a b s
  | .maxu d a b => Sys2Proof.Machine.execMaxu d a b s
  | .seq d a b => Sys2Proof.Machine.execSeq d a b s
  | .sne d a b => Sys2Proof.Machine.execSne d a b s
  | .slt d a b => Sys2Proof.Machine.execSlt d a b s
  | .sltu d a b => Sys2Proof.Machine.execSltu d a b s
  | .sel d a b => Sys2Proof.Machine.execSel d a b s
  | .clz d a => Sys2Proof.Machine.execClz d a s
  | .popc d a => Sys2Proof.Machine.execPopc d a s
  | .sext d a n => Sys2Proof.Machine.execSext d a n s
  | .zext d a n => Sys2Proof.Machine.execZext d a n s
  | .mov d a => Sys2Proof.Machine.execMov d a s
  | .div d a b la => Sys2Proof.Machine.execDiv d a b la s
  | .divu d a b la => Sys2Proof.Machine.execDivu d a b la s
  | .rem d a b la => Sys2Proof.Machine.execRem d a b la s
  | .remu d a b la => Sys2Proof.Machine.execRemu d a b la s
  | .addx d a b => Sys2Proof.Machine.execAddx d a b s
  | .subx d a b => Sys2Proof.Machine.execSubx d a b s
  | .shlix d a n => Sys2Proof.Machine.execShlix d a n s
  | .shrix d a n => Sys2Proof.Machine.execShrix d a n s
  | .sltux d a b => Sys2Proof.Machine.execSltux d a b s
  | .mand d a b => Sys2Proof.Machine.execMand d a b s
  | .mor d a b => Sys2Proof.Machine.execMor d a b s
  | .mxor d a b => Sys2Proof.Machine.execMxor d a b s
  | .mandn d a b => Sys2Proof.Machine.execMandn d a b s
  | .mnot d a => Sys2Proof.Machine.execMnot d a s
  | .mmov d a => Sys2Proof.Machine.execMmov d a s
  | .mall d => Sys2Proof.Machine.execMall d s
  | .mclr d => Sys2Proof.Machine.execMclr d s
  | .mpopc d a => Sys2Proof.Machine.execMpopc d a s
  | .mffs d a => Sys2Proof.Machine.execMffs d a s
  | .msetw d a b => Sys2Proof.Machine.execMsetw d a b s
  | .mgetw d a b => Sys2Proof.Machine.execMgetw d a b s
  | .msumw d a => Sys2Proof.Machine.execMsumw d a s
  | .exmset a => Sys2Proof.Machine.execExmset a s
  | .exmget d => Sys2Proof.Machine.execExmget d s
  | .modew a => Sys2Proof.Machine.execModew a s
  | .srd d n => Sys2Proof.Machine.execSrd d n s
  | .swr n r => Sys2Proof.Machine.execSwr n r s
  | .stamp d => Sys2Proof.Machine.execStamp d s
  | .trap n => Sys2Proof.Machine.execTrap n s
  | .brk n => Sys2Proof.Machine.execBrk n s
  | .regacq k => Sys2Proof.Machine.execRegacq k s
  | .regacqNb d k => Sys2Proof.Machine.execRegacqNb d k s
  | .regrel k => Sys2Proof.Machine.execRegrel k s
  | .node d a b => Sys2Proof.Machine.execNode d a b s
  | .addi d a imm => Sys2Proof.Machine.execAddi d a imm s
  | .andi d a imm => Sys2Proof.Machine.execAndi d a imm s
  | .ori d a imm => Sys2Proof.Machine.execOri d a imm s
  | .xori d a imm => Sys2Proof.Machine.execXori d a imm s
  | .shli d a n => Sys2Proof.Machine.execShli d a n s
  | .shri d a n => Sys2Proof.Machine.execShri d a n s
  | .srai d a n => Sys2Proof.Machine.execSrai d a n s
  | .slti d a imm => Sys2Proof.Machine.execSlti d a imm s
  | .sltiu d a imm => Sys2Proof.Machine.execSltiu d a imm s
  | .addix d a imm => Sys2Proof.Machine.execAddix d a imm s
  | .lui d imm => Sys2Proof.Machine.execLui d imm s
  | .addpc d imm => Sys2Proof.Machine.execAddpc d imm s
  | .setmode imm => Sys2Proof.Machine.execSetmode imm s
  | .vli d imm => Sys2Proof.Machine.execVli d imm s
  | .br imm => Sys2Proof.Machine.execBr imm s
  | .bz r imm => Sys2Proof.Machine.execBz r imm s
  | .bnz r imm => Sys2Proof.Machine.execBnz r imm s
  | .bany m imm => Sys2Proof.Machine.execBany m imm s
  | .ball m imm => Sys2Proof.Machine.execBall m imm s
  | .bnone m imm => Sys2Proof.Machine.execBnone m imm s
  | .callr a => Sys2Proof.Machine.execCallr a s
  | .jmpr a => Sys2Proof.Machine.execJmpr a s
  | .ret => Sys2Proof.Machine.execRet s
  | .eret => Sys2Proof.Machine.execEret s
  | .entry => Sys2Proof.Machine.execEntry s
  | .exit => Sys2Proof.Machine.execExit s
  | .nop => Sys2Proof.Machine.execNop s
  | .yield => Sys2Proof.Machine.execYield s
  | .sif m => Sys2Proof.Machine.execSif m s
  | .selse => Sys2Proof.Machine.execSelse s
  | .sendif => Sys2Proof.Machine.execSendif s
  | .sloop => Sys2Proof.Machine.execSloop s
  | .sbrk m d => Sys2Proof.Machine.execSbrk m d s
  | .scont m d => Sys2Proof.Machine.execScont m d s
  | .sendlp m imm => Sys2Proof.Machine.execSendlp m imm s
  | .vadd d a b => Sys2Proof.Machine.execVadd d a b s
  | .vsub d a b => Sys2Proof.Machine.execVsub d a b s
  | .vmul d a b => Sys2Proof.Machine.execVmul d a b s
  | .vmulh d a b => Sys2Proof.Machine.execVmulh d a b s
  | .vmad d a b => Sys2Proof.Machine.execVmad d a b s
  | .vmin d a b => Sys2Proof.Machine.execVmin d a b s
  | .vmax d a b => Sys2Proof.Machine.execVmax d a b s
  | .vand d a b => Sys2Proof.Machine.execVand d a b s
  | .vor d a b => Sys2Proof.Machine.execVor d a b s
  | .vxor d a b => Sys2Proof.Machine.execVxor d a b s
  | .vandn d a b => Sys2Proof.Machine.execVandn d a b s
  | .vshl d a b => Sys2Proof.Machine.execVshl d a b s
  | .vshr d a b => Sys2Proof.Machine.execVshr d a b s
  | .vsra d a b => Sys2Proof.Machine.execVsra d a b s
  | .vcmp c d a b => Sys2Proof.Machine.execVcmp c d a b s
  | .vabs d a => Sys2Proof.Machine.execVabs d a s
  | .vneg d a => Sys2Proof.Machine.execVneg d a s
  | .vmov d a => Sys2Proof.Machine.execVmov d a s
  | .vlane d => Sys2Proof.Machine.execVlane d s
  | .vsel d a b k => Sys2Proof.Machine.execVsel d a b k s
  | .vaddi d a imm => Sys2Proof.Machine.execVaddi d a imm s
  | .vshli d a n => Sys2Proof.Machine.execVshli d a n s
  | .vshri d a n => Sys2Proof.Machine.execVshri d a n s
  | .vfadd d a b => Sys2Proof.Machine.execVfadd d a b s
  | .vfsub d a b => Sys2Proof.Machine.execVfsub d a b s
  | .vfmul d a b => Sys2Proof.Machine.execVfmul d a b s
  | .vfma d a b => Sys2Proof.Machine.execVfma d a b s
  | .vfms d a b => Sys2Proof.Machine.execVfms d a b s
  | .vfnma d a b => Sys2Proof.Machine.execVfnma d a b s
  | .vfmin d a b => Sys2Proof.Machine.execVfmin d a b s
  | .vfmax d a b => Sys2Proof.Machine.execVfmax d a b s
  | .vfminm d a b => Sys2Proof.Machine.execVfminm d a b s
  | .vfmaxm d a b => Sys2Proof.Machine.execVfmaxm d a b s
  | .vfabs d a => Sys2Proof.Machine.execVfabs d a s
  | .vfneg d a => Sys2Proof.Machine.execVfneg d a s
  | .vfsgn d a => Sys2Proof.Machine.execVfsgn d a s
  | .vfsgnK d a => Sys2Proof.Machine.execVfsgnK d a s
  | .vfcmp c d a b => Sys2Proof.Machine.execVfcmp c d a b s
  | .vfcmpK c d a b => Sys2Proof.Machine.execVfcmpK c d a b s
  | .vfclass d a => Sys2Proof.Machine.execVfclass d a s
  | .vfdiv d a b la => Sys2Proof.Machine.execVfdiv d a b la s
  | .vfsqrt d a la => Sys2Proof.Machine.execVfsqrt d a la s
  | .vfrsq d a la => Sys2Proof.Machine.execVfrsq d a la s
  | .vfrcp d a la => Sys2Proof.Machine.execVfrcp d a la s
  | .vfexp2 d a la => Sys2Proof.Machine.execVfexp2 d a la s
  | .vflog2 d a la => Sys2Proof.Machine.execVflog2 d a la s
  | .vcvt d a f sel => Sys2Proof.Machine.execVcvt d a f sel s
  | .vqnt d a b f => Sys2Proof.Machine.execVqnt d a b f s
  | .vpack d a b => Sys2Proof.Machine.execVpack d a b s
  | .vunpk d a sel => Sys2Proof.Machine.execVunpk d a sel s
  | .vdot2 d a b => Sys2Proof.Machine.execVdot2 d a b s
  | .vdot4 d a b => Sys2Proof.Machine.execVdot4 d a b s
  | .vdot8 d a b => Sys2Proof.Machine.execVdot8 d a b s
  | .vshfl d a b la => Sys2Proof.Machine.execVshfl d a b la s
  | .vbcast d a la => Sys2Proof.Machine.execVbcast d a la s
  | .vext d a b la => Sys2Proof.Machine.execVext d a b la s
  | .vins d a b la => Sys2Proof.Machine.execVins d a b la s
  | .vredadd d a la => Sys2Proof.Machine.execVredadd d a la s
  | .vredmax d a la => Sys2Proof.Machine.execVredmax d a la s
  | .vredmin d a la => Sys2Proof.Machine.execVredmin d a la s
  | .vscan d a la => Sys2Proof.Machine.execVscan d a la s
  | .ldU8 d mem => Sys2Proof.Machine.execLdU8 d mem s
  | .ldS8 d mem => Sys2Proof.Machine.execLdS8 d mem s
  | .ldU16 d mem => Sys2Proof.Machine.execLdU16 d mem s
  | .ldS16 d mem => Sys2Proof.Machine.execLdS16 d mem s
  | .ld d mem => Sys2Proof.Machine.execLd d mem s
  | .ldD d mem => Sys2Proof.Machine.execLdD d mem s
  | .stB r mem => Sys2Proof.Machine.execStB r mem s
  | .stH r mem => Sys2Proof.Machine.execStH r mem s
  | .st r mem => Sys2Proof.Machine.execSt r mem s
  | .stD r mem => Sys2Proof.Machine.execStD r mem s
  | .pref mem => Sys2Proof.Machine.execPref mem s
  | .cwb mem => Sys2Proof.Machine.execCwb mem s
  | .cinv mem => Sys2Proof.Machine.execCinv mem s
  | .discard mem => Sys2Proof.Machine.execDiscard mem s
  | .vld d mem z => Sys2Proof.Machine.execVld d mem z s
  | .vst r mem z => Sys2Proof.Machine.execVst r mem z s
  | .vlds d mem z => Sys2Proof.Machine.execVlds d mem z s
  | .vsts r mem z => Sys2Proof.Machine.execVsts r mem z s
  | .atom o r d b la => Sys2Proof.Machine.execAtom o r d b la s
  | .cas r d b la => Sys2Proof.Machine.execCas r d b la s
  | .red o r d b la => Sys2Proof.Machine.execRed o r d b la s
  | .stStrong r d b la => Sys2Proof.Machine.execStStrong r d b la s
  | .ldStrong r d b la => Sys2Proof.Machine.execLdStrong r d b la s
  | .vatom o r d b la => Sys2Proof.Machine.execVatom o r d b la s
  | .vcas r d b la => Sys2Proof.Machine.execVcas r d b la s
  | .vred o r d b la => Sys2Proof.Machine.execVred o r d b la s
  | .vstStrong r d b la => Sys2Proof.Machine.execVstStrong r d b la s
  | .vldStrong r d b la => Sys2Proof.Machine.execVldStrong r d b la s
  | .fence k c uo cp d => Sys2Proof.Machine.execFence k c uo cp d s
  | .fwait a => Sys2Proof.Machine.execFwait a s
  | .await d a => Sys2Proof.Machine.execAwait d a s
  | .bellclr slot => Sys2Proof.Machine.execBellclr slot s
  | .bwait a b => Sys2Proof.Machine.execBwait a b s
  | .arrive d a => Sys2Proof.Machine.execArrive d a s
  | .arrivePub d a => Sys2Proof.Machine.execArrivePub d a s
  | .arriveDrop d a => Sys2Proof.Machine.execArriveDrop d a s
  | .arriveDropPub d a => Sys2Proof.Machine.execArriveDropPub d a s
  | .join d a => Sys2Proof.Machine.execJoin d a s
  | .leave d a => Sys2Proof.Machine.execLeave d a s
  | .clead d a => Sys2Proof.Machine.execClead d a s
  | .bell c d slot a b => Sys2Proof.Machine.execBell c d slot a b s
  | .cpy d a b => Sys2Proof.Machine.execCpy d a b s
  | .cpyt d a b => Sys2Proof.Machine.execCpyt d a b s
  | .gath d a => Sys2Proof.Machine.execGath d a s
  | .scat d a => Sys2Proof.Machine.execScat d a s
  | .cseal t => Sys2Proof.Machine.execCseal t s
  | .cwany d a => Sys2Proof.Machine.execCwany d a s
  | .cwall a => Sys2Proof.Machine.execCwall a s
  | .cffr d a => Sys2Proof.Machine.execCffr d a s
  | .ctclr a => Sys2Proof.Machine.execCtclr a s
  | .coll a => Sys2Proof.Machine.execColl a s
  | .mtile a b c la => Sys2Proof.Machine.execMtile a b c la s
  | .mma a b c la => Sys2Proof.Machine.execMma a b c la s
  | .mzero a b la => Sys2Proof.Machine.execMzero a b la s
  | .maccrd a b la => Sys2Proof.Machine.execMaccrd a b la s
  | .maccwr a b la => Sys2Proof.Machine.execMaccwr a b la s
  | .maccld a b c la => Sys2Proof.Machine.execMaccld a b c la s
  | .maccst a b c la => Sys2Proof.Machine.execMaccst a b c la s
  | .acwin a b c la => Sys2Proof.Machine.execAcwin a b c la s
  | .mplan a b c la => Sys2Proof.Machine.execMplan a b c la s
  | .mchk a b la => Sys2Proof.Machine.execMchk a b la s
  | .doorbell queue count => Sys2Proof.Machine.execDoorbell queue count s
  | .packetPrefetch queue n => Sys2Proof.Machine.execPacketPrefetch queue n s
  | .drumRound => Sys2Proof.Machine.execDrumRound s
  | .graph queue => Sys2Proof.Machine.execGraph queue s
  | .nodePacket queue => Sys2Proof.Machine.execNodePacket queue s
  | .gang queue => Sys2Proof.Machine.execGang queue s
  | .gangReserveRetry queue => Sys2Proof.Machine.execGangReserveRetry queue s
  | .signal queue => Sys2Proof.Machine.execSignal queue s
  | .waitSignal queue => Sys2Proof.Machine.execWaitSignal queue s
  | .rangeCommit queue => Sys2Proof.Machine.execRangeCommit queue s
  | .marker queue => Sys2Proof.Machine.execMarker queue s
  | .create queue => Sys2Proof.Machine.execCreate queue s
  | .destroy queue => Sys2Proof.Machine.execDestroy queue s
  | .update queue => Sys2Proof.Machine.execUpdate queue s
  | .mapq queue => Sys2Proof.Machine.execMapq queue s
  | .unmapq queue => Sys2Proof.Machine.execUnmapq queue s
  | .resumeq queue => Sys2Proof.Machine.execResumeq queue s
  | .preempt queue => Sys2Proof.Machine.execPreempt queue s
  | .fwHandover queue => Sys2Proof.Machine.execFwHandover queue s
  | .fwHandoverSwitch => Sys2Proof.Machine.execFwHandoverSwitch s
  | .teamPlacement => Sys2Proof.Machine.execTeamPlacement s
  | .slotYield team => Sys2Proof.Machine.execSlotYield team s
  | .teamExitComplete team => Sys2Proof.Machine.execTeamExitComplete team s
  | .heldSuccessorEntry => Sys2Proof.Machine.execHeldSuccessorEntry s
  | .sliceEnd => Sys2Proof.Machine.execSliceEnd s
  | .preemptionRequest => Sys2Proof.Machine.execPreemptionRequest s
  | .contextSwitchIn => Sys2Proof.Machine.execContextSwitchIn s
  | .shadowPreload => Sys2Proof.Machine.execShadowPreload s
  | .stateSpill => Sys2Proof.Machine.execStateSpill s
  | .atomicPerform access => Sys2Proof.Machine.execAtomicPerform access s
  | .atomicReply access => Sys2Proof.Machine.execAtomicReply access s
  | .writePerform access => Sys2Proof.Machine.execWritePerform access s
  | .copyPerform copy bytes => Sys2Proof.Machine.execCopyPerform copy bytes s
  | .followOnIssue copy => Sys2Proof.Machine.execFollowOnIssue copy s
  | .fenceComplete team ticket => Sys2Proof.Machine.execFenceComplete team ticket s
  | .awaitTimeout team => Sys2Proof.Machine.execAwaitTimeout team s
  | .collComplete copy remote => Sys2Proof.Machine.execCollComplete copy remote s
  | .kGroupStep team check => Sys2Proof.Machine.execKGroupStep team check s
  | .matrixReset core => Sys2Proof.Machine.execMatrixReset core s
  | .asyncTrapDelivery team => Sys2Proof.Machine.execAsyncTrapDelivery team s
  | .pageHomeChange pte pageBits entry => Sys2Proof.Machine.execPageHomeChange pte pageBits entry s
  | .invalidateContext ctx => Sys2Proof.Machine.execInvalidateContext ctx s
  | .invalidatePage ctx va => Sys2Proof.Machine.execInvalidatePage ctx va s
  | .tbloCapture => Sys2Proof.Machine.execTbloCapture s
  | .registerWrite n v => Sys2Proof.Machine.execRegisterWrite n v s
  | .hostRequest r => Sys2Proof.Machine.execHostRequest r s
  | .peerRequest device r => Sys2Proof.Machine.execPeerRequest device r s
  | .flitCrcError link second lost done => Sys2Proof.Machine.execFlitCrcError link second lost done s
  | .ucieLinkFailure link => Sys2Proof.Machine.execUcieLinkFailure link s
  | .eccError site outcome => Sys2Proof.Machine.execEccError site outcome s
  | .portBeatError core half second => Sys2Proof.Machine.execPortBeatError core half second s
  | .dieLost die => Sys2Proof.Machine.execDieLost die s
  | .hotSet tower => Sys2Proof.Machine.execHotSet tower s
  | .hotClear tower => Sys2Proof.Machine.execHotClear tower s
  | .powerThrottle => Sys2Proof.Machine.execPowerThrottle s
  | .setq0 => Sys2Proof.Machine.execSetq0 s
  | .route => Sys2Proof.Machine.execRoute s
  | .attest => Sys2Proof.Machine.execAttest s
  | .reset => Sys2Proof.Machine.execReset s
  | .event => Sys2Proof.Machine.execEvent s
  | .coldReset => Sys2Proof.Machine.execColdReset s
  | .ixletReset => Sys2Proof.Machine.execIxletReset s
  | .stop t => Sys2Proof.Machine.execStop t s
  | .resume t => Sys2Proof.Machine.execResume t s
  | .read t item => Sys2Proof.Machine.execRead t item s
  | .write t item v => Sys2Proof.Machine.execWrite t item v s
  | .watch ctx slot w => Sys2Proof.Machine.execWatch ctx slot w s
  | .illegalOpcodeWord w => Sys2Proof.Machine.execIllegalOpcodeWord w s
  | .instructionFetchFault => Sys2Proof.Machine.execInstructionFetchFault s
  | .loadPerform access keep => Sys2Proof.Machine.execLoadPerform access keep s
  | .throttleClear => Sys2Proof.Machine.execThrottleClear s
  | .debugAttach ctx on => Sys2Proof.Machine.execDebugAttach ctx on s

end Sys2Proof.Machine
end

