-- ==== Sys2Proof/Machine/Lookahead.lean ====
section
/-!
DEFINITION. Lookahead (07 R103 to R105): the registers that an instruction names, whether it is independent of an
instruction that promised to be followed by independent ones, and what LAVC counts.
-/
namespace Sys2Proof.Machine

/-! ### The registers of an instruction -/

/-- The operands that an instruction's fields name, sources and destinations, and whether it reads FLAGS or MODE as a
register: SRD of 0x000 and 0x003 (DEDUCED, log entry 115). -/
structure Fields where
  srcs : List Opnd := []
  dsts : List Opnd := []
  status : Bool := false

def scalarFields (as : List Src) : List Opnd := as.map fun a => .s a.reg
def pairFieldsOf (as : List Src) : List Opnd := as.map fun a => .pair a.reg
def maskFields (as : List MSrc) : List Opnd := as.map fun a => .m a.reg
def memFields (m : MemArg) : List Opnd := (memUses m).map (·.o)

/-- A vector instruction: it reads its guard mask too (03 R34). -/
def Team.vectorFields (t : Team) (srcs dsts : List Opnd) : Fields := { srcs := .m t.guard :: srcs, dsts }

/-- A vector instruction whose fields are elements of MODE.TYPE (11 R146). -/
def Team.elemFields (t : Team) (d : Reg) (as : List Src) : Fields :=
  t.vectorFields (as.map fun a => vField t.type a.reg) [vField t.type d]

/-- The same, with the old destination among its sources (VMAD, VFMA). -/
def Team.accFields (t : Team) (d : Reg) (as : List Src) : Fields :=
  t.vectorFields ((as.map fun a => vField t.type a.reg) ++ [vField t.type d]) [vField t.type d]

/-- A vector instruction whose fields are whole registers. -/
def Team.wordFields (t : Team) (srcs : List Opnd) (d : Reg) : Fields := t.vectorFields srcs [.v d]

/-- A strong access of major 0x3A at Pair(b) (13 R189). -/
def Team.strongFields (t : Team) (k : Strong) (d : Reg) (b : Src) : Fields :=
  { srcs := (k.scalarOpnds t.width d).1 ++ [.pair b.reg], dsts := (k.scalarOpnds t.width d).2 }
def Team.lanesFields (t : Team) (k : Strong) (d : Reg) (b : Src) : Fields :=
  t.vectorFields ((k.vectorOpnds t.width d).1 ++ [.pair b.reg]) (k.vectorOpnds t.width d).2

/-- The operands that an instruction names under its team's MODE; events name none. -/
def fieldsOf (t : Team) : Instr → Fields
  | .add d a b | .sub d a b | .mul d a b | .mulh d a b | .mulhu d a b | .and d a b | .or d a b | .xor d a b
  | .andn d a b | .shl d a b | .shr d a b | .sra d a b | .min d a b | .max d a b | .minu d a b | .maxu d a b
  | .seq d a b | .sne d a b | .slt d a b | .sltu d a b | .div d a b _ | .divu d a b _ | .rem d a b _
  | .remu d a b _ => ⟨scalarFields [a, b], [.s d], false⟩
  | .sel d a b => ⟨scalarFields [a, b] ++ [.s d], [.s d], false⟩
  | .clz d a | .popc d a | .sext d a _ | .zext d a _ | .mov d a | .addi d a _ | .andi d a _ | .ori d a _
  | .xori d a _ | .shli d a _ | .shri d a _ | .srai d a _ | .slti d a _ | .sltiu d a _ | .join d a | .leave d a
  | .clead d a => ⟨scalarFields [a], [.s d], false⟩
  | .addx d a b | .subx d a b => ⟨pairFieldsOf [a, b], [.pair d], false⟩
  | .shlix d a _ | .shrix d a _ | .addix d a _ => ⟨pairFieldsOf [a], [.pair d], false⟩
  | .sltux d a b => ⟨pairFieldsOf [a, b], [.s d], false⟩
  | .mand d a b | .mor d a b | .mxor d a b | .mandn d a b => ⟨maskFields [a, b], [.m d], false⟩
  | .mnot d a | .mmov d a => ⟨maskFields [a], [.m d], false⟩
  | .mall d | .mclr d | .exmget d => ⟨[], [.m d], false⟩
  | .mpopc d a | .mffs d a | .msumw d a => ⟨maskFields [a], [.s d], false⟩
  | .msetw d a b => ⟨scalarFields [a, b] ++ [.m d], [.m d], false⟩
  | .mgetw d a b => ⟨maskFields [a] ++ scalarFields [b], [.s d], false⟩
  | .exmset a => ⟨maskFields [a], [], false⟩
  | .modew a | .fwait a => ⟨scalarFields [a], [], false⟩
  | .srd d n => { dsts := [.s d], status := n.toNat = 0x000 || n.toNat = 0x003 }
  | .regacqNb d _ | .lui d _ | .fence _ _ _ _ d => ⟨[], [.s d], false⟩
  | .swr _ r => ⟨[.s r], [], false⟩
  | .stamp d | .addpc d _ => ⟨[], [.pair d], false⟩
  | .node d a b => ⟨[.pair a.reg, .s b.reg], [.s d], false⟩
  | .vli d _ | .vlane d => t.wordFields [] d
  | .br _ => ⟨[], [.s 63], false⟩
  | .bz r _ | .bnz r _ => ⟨[.s r], [], false⟩
  | .bany m _ | .ball m _ | .bnone m _ | .sif m | .sbrk m _ | .scont m _ | .sendlp m _ => ⟨[.m m], [], false⟩
  | .callr a => ⟨pairFieldsOf [a], [.s 63], false⟩
  | .jmpr a => ⟨pairFieldsOf [a], [], false⟩
  | .ret => ⟨[.s 63], [], false⟩
  | .eret => ⟨[.s 62], [.s 63, .s 62], false⟩
  | .trap _ | .brk _ | .regacq _ | .regrel _ | .setmode _ | .entry | .exit | .nop | .yield | .selse | .sendif | .sloop
  | .bellclr _ | .cseal _ => {}
  | .vadd d a b | .vsub d a b | .vmul d a b | .vmulh d a b | .vmin d a b | .vmax d a b | .vfadd d a b | .vfsub d a b
  | .vfmul d a b | .vfmin d a b | .vfmax d a b | .vfminm d a b | .vfmaxm d a b | .vfdiv d a b _ => t.elemFields d [a, b]
  | .vmad d a b | .vfma d a b | .vfms d a b | .vfnma d a b => t.accFields d [a, b]
  | .vabs d a | .vneg d a | .vaddi d a _ | .vfabs d a | .vfneg d a | .vfsgn d a | .vfsgnK d a | .vfclass d a
  | .vfsqrt d a _ | .vfrsq d a _ | .vfrcp d a _ | .vfexp2 d a _ | .vflog2 d a _ | .vscan d a _ => t.elemFields d [a]
  | .vand d a b | .vor d a b | .vxor d a b | .vandn d a b | .vshl d a b | .vshr d a b | .vsra d a b | .vpack d a b
  | .vshfl d a b _ => t.wordFields [.v a.reg, .v b.reg] d
  | .vcmp _ d a b | .vfcmp _ d a b | .vfcmpK _ d a b =>
    t.vectorFields [vField t.type a.reg, vField t.type b.reg] [.m d]
  | .vmov d a | .vshli d a _ | .vshri d a _ | .vunpk d a _ => t.wordFields [.v a.reg] d
  | .vsel d a b k => t.wordFields [.v a.reg, .v b.reg, .m k] d
  | .vcvt d a f _ => t.vectorFields [vField t.type a.reg, vField f.toNat d] [vField f.toNat d]
  | .vqnt d a b f => t.vectorFields [vField t.type a.reg, .v b.reg, vField f.toNat d] [vField f.toNat d]
  | .vdot2 d a b | .vdot4 d a b | .vdot8 d a b => t.wordFields [.v a.reg, .v b.reg, .v d] d
  | .vbcast d a _ => t.wordFields [.s a.reg] d
  | .vext d a b _ => t.vectorFields [.v a.reg, .s b.reg] [.s d]
  | .vins d a b _ => t.wordFields [.s a.reg, .s b.reg] d
  | .vredadd d a _ | .vredmax d a _ | .vredmin d a _ =>
    t.vectorFields [vField t.type a.reg] [if t.type = 0x18 then .pair d else .s d]
  | .ldU8 d m | .ldS8 d m | .ldU16 d m | .ldS16 d m | .ld d m => ⟨memFields m, memDsts [.s d] m, false⟩
  | .ldD d m => ⟨memFields m, memDsts [.pair d] m, false⟩
  | .stB r m | .stH r m | .st r m => ⟨.s r :: memFields m, memDsts [] m, false⟩
  | .stD r m => ⟨.pair r :: memFields m, memDsts [] m, false⟩
  | .pref m | .cwb m | .cinv m | .discard m => ⟨memFields m, memDsts [] m, false⟩
  | .vld d m z | .vlds d m z => t.vectorFields (memFields m) (memDsts [laneOpnd z d] m)
  | .vst r m z | .vsts r m z => t.vectorFields (laneOpnd z r :: memFields m) (memDsts [] m)
  | .atom o _ d b _ => t.strongFields (.atom o true) d b
  | .cas _ d b _ => t.strongFields .cas d b
  | .red o _ d b _ => t.strongFields (.atom o false) d b
  | .stStrong _ d b _ => t.strongFields .store d b
  | .ldStrong _ d b _ => t.strongFields .load d b
  | .vatom o _ d b _ => t.lanesFields (.atom o true) d b
  | .vcas _ d b _ => t.lanesFields .cas d b
  | .vred o _ d b _ => t.lanesFields (.atom o false) d b
  | .vstStrong _ d b _ => t.lanesFields .store d b
  | .vldStrong _ d b _ => t.lanesFields .load d b
  | .await d a => ⟨[.s a.reg], [.pair d], false⟩
  | .bwait a b => ⟨[.pair a.reg, .s b.reg], [], false⟩
  | .arrive d a | .arrivePub d a | .arriveDrop d a | .arriveDropPub d a | .cwany d a | .cffr d a =>
    ⟨pairFieldsOf [a], [.s d], false⟩
  | .bell c d _ a b => ⟨[.pair a.reg, bellOpnd c t.width b.reg], [.s d], false⟩
  | .cpy d a b | .cpyt d a b => ⟨[.pair d, .pair a.reg, .s b.reg], [], false⟩
  | .gath d a | .scat d a => ⟨[.pair d, .pair a.reg], [], false⟩
  | .cwall a | .ctclr a | .coll a => ⟨pairFieldsOf [a], [], false⟩
  | .mtile a b c _ | .mma a b c _ => t.vectorFields [.v a, .s b, .quad c] []
  | .mzero a b _ => ⟨[.s a, .s b], [], false⟩
  | .maccrd a b _ => t.wordFields [.s b] a
  | .maccwr a b _ => t.vectorFields [.s a, .v b] []
  | .maccld a b c _ | .maccst a b c _ => ⟨[.s a, .pair b, .s c], [], false⟩
  | .acwin a b c _ => ⟨[.s b, .s c], [.s a], false⟩
  | .mplan a b c _ => t.vectorFields [.v a, mplanOpnd t a b, .quad c] []
  | .mchk a b _ => ⟨[.s b], [.s a], false⟩
  | .doorbell .. | .packetPrefetch .. | .drumRound .. | .graph .. | .nodePacket .. | .gang .. | .gangReserveRetry
    .. | .signal .. | .waitSignal .. | .rangeCommit .. | .marker .. | .create .. | .destroy .. | .update .. | .mapq
    .. | .unmapq .. | .resumeq .. | .preempt .. | .fwHandover .. | .fwHandoverSwitch .. | .teamPlacement .. |
    .slotYield .. | .teamExitComplete .. | .heldSuccessorEntry .. | .sliceEnd .. | .preemptionRequest .. |
    .contextSwitchIn .. | .shadowPreload .. | .stateSpill .. | .atomicPerform .. | .atomicReply .. | .writePerform
    .. | .copyPerform .. | .followOnIssue .. | .fenceComplete .. | .awaitTimeout .. | .collComplete .. | .kGroupStep
    .. | .matrixReset .. | .asyncTrapDelivery .. | .pageHomeChange .. | .invalidateContext .. | .invalidatePage .. |
    .tbloCapture .. | .registerWrite .. | .hostRequest .. | .peerRequest .. | .flitCrcError .. | .ucieLinkFailure ..
    | .eccError .. | .portBeatError .. | .dieLost .. | .hotSet .. | .hotClear .. | .powerThrottle .. | .setq0 .. |
    .route .. | .attest .. | .reset .. | .event .. | .coldReset .. | .ixletReset .. | .stop .. | .resume .. | .read
    .. | .write .. | .watch .. | .illegalOpcodeWord .. | .instructionFetchFault .. | .loadPerform .. |
    .throttleClear .. | .debugAttach .. => {}

/-! ### Independence -/

/-- The three conditions of 07 R103 on an instruction that a promise covers. -/
def Promise.keptBy (t : Team) (i : Instr) (p : Promise) : Bool :=
  let reads : List RegName := (fieldsOf t i).srcs.flatMap Opnd.names
  let writes : List RegName := (fieldsOf t i).dsts.flatMap Opnd.names
  !reads.any p.dsts.contains && !(fieldsOf t i).status && !writes.any p.srcs.contains && !writes.any p.dsts.contains

/-! ### LAVC -/

/-- LAVC.COUNT after an instruction that was held back; it stops at 0xFF_FFFF (07 R98). -/
def countLookahead (v : Word) (held : Bool) : Word :=
  if held && v != 0xFFFFFF#32 then v + 1#32 else v

/-- An instruction may have had to wait for an earlier one: the promise of one has ended, as that of an instruction with no
lookahead field has at once (07 R104), or is untrue of this instruction.  Of the instructions completed, those whose
promise has not ended are the ones that stand in `promises`. -/
def Team.mayWait (t : Team) (i : Instr) : Bool :=
  t.promises.length < t.issued || t.promises.any fun p => !p.keptBy t i

/-- The first turn that an instruction takes: it is counted then, and no more when it is tried again (07 R105). -/
def Team.firstTry (t : Team) : Bool := !t.retried && t.cond == .ready

/-- Instruction `i` is about to execute: the promises that it makes untrue end before it, and at its first turn it is counted
where it had to wait, which is free where it may have had to (07 R105; log entry 4). -/
def Team.lookAhead (t : Team) (i : Instr) (free : Bool) : Team :=
  { t with
    promises := t.promises.filter fun p => p.keptBy t i
    lavc := countLookahead t.lavc (t.firstTry && t.mayWait i && free) }

end Sys2Proof.Machine
end

