-- ==== Sys2Proof/Machine/Issue.lean ====
section
/-!
DEFINITION. What issuing adds around a meaning: which team may issue, the word it executes, lookahead
(07 R103, R105), unit storage (19 R295), and the turns of time and of the outside (log entry 3).
-/
namespace Sys2Proof.Machine

/-- A team may issue: on its core in the running context, neither parked nor stopped nor waiting; past a
preemption request only between a producer and its cancelling consumer (05 R78); not while issue opportunities
are withheld (25 R353). -/
def State.mayIssue (s : State) (t : Team) : Bool :=
  t.ctx == s.fe.running && !t.yielded && !s.dev.throttled
    && (match t.cond with
      | .ready | .stalled | .woken => true
      | .parkedAwait _ _ _ => false
      | .parkedBarrier _ _ => false
      | .pendingTranslation _ _ => false
      | .stopped _ _ => false
      | .exiting => false)
    && (!s.fe.gated || s.inPair t)

/-- Each unit of a core whose contents the context that issues there claims holds them from then on: local store,
accumulator rows, stack caches, sequencer state and digit continuation records.  Those of another context are scanned out
to its SAVE area (19 R291, R295). -/
def State.claimUnits (s : State) (t : Team) : State :=
  let kinds := (List.range 5).filter (s.ctxOf t).claim.getLsbD
  let out (h : UnitHold) : Bool := h.core == t.core && kinds.contains h.kind && h.ctx != t.ctx
  let s1 := ((s.fe.unitHolders.filter out).map (·.ctx)).eraseDups.foldl State.spillTo s
  let kept := s1.fe.unitHolders.filter fun h => !out h
  { s1 with fe := { s1.fe with
    unitHolders := kept ++ (kinds.map fun k => ⟨k, t.core, t.ctx⟩).filter fun h => !kept.contains h } }

/-- A team begins its turn: it holds it, and a free value is drawn for it (log entry 4). -/
def State.beginIssue (s : State) (t : Team) (defer : Bool) : State :=
  { s.claimUnits t with
    sched := { s.sched with cur := some t.id, defer := defer, last := t.id, freeCount := s.sched.freeCount + 1 } }

/-- The state in which instruction `i` of team `t`, whose turn began in `s`, executes (07 R105). -/
def State.lookAhead (s1 s : State) (t : Team) (i : Instr) : State :=
  s1.modTeam t.id fun u => u.lookAhead i (Config.promiseBroken s.sched.freeCount)

/-- The word that the team executes: the one read already, or a fetch (09 R126; 21 R308). -/
def State.issueWord (s : State) (t : Team) : Except Trap Word :=
  match t.fetched with
  | some w => .ok w
  | none => fetch32 s t t.pc

/-- The home that the fetch's translation names joins the touched dies (21 R319). -/
def State.touchFetch (s : State) (t : Team) : State := s.touch t.ctx (s.placesAt t [t.pc])

/-- The word being issued, which a transfer's frame keeps (09 R133). -/
def State.withWord (s : State) (w : Word) : State := { s with sched := { s.sched with iw := w } }

/-- Rows of the opcode table that are events, no instruction words. -/
def isEvent (i : Instr) : Bool := (encodeNat i).isNone

/-! ### Time and the outside -/

def State.tick (s : State) (n : Nat) : State := { s with dev := { s.dev with time := s.dev.time + .ofNat 64 n } }

/-- Readings of the sensors (25 R352) and of the power meter (R350). -/
def State.setColumn (s : State) (core : Nat) (t : BitVec 7) : State :=
  { s with dev := { s.dev with colTemp := Assoc.set 0 s.dev.colTemp core t } }
def State.setStack (s : State) (tower sensor : Nat) (t : Byte) : State :=
  { s with dev := { s.dev with stackTemp := Assoc.set 0 s.dev.stackTemp (8 * tower + sensor) t } }
def State.setPower (s : State) (w : BitVec 12) : State :=
  { s with dev := { s.dev with regs := { s.dev.regs with pnow := w.setWidth 32 } } }

/-- A read of the host in the control aperture: it finds STATE there whatever STATE is (25 R349). -/
def readsAperture : BusReq → Bool
  | .read a n _ => apertureBase ≤ a.toNat && a.toNat + n ≤ apertureBase + apertureSize
  | .write _ _ _ => false

/-- A write of the host to the management mailbox. -/
def writesMailbox : BusReq → Bool
  | .read _ _ _ => false
  | .write a bs _ => mailboxLoc ≤ a.toNat && a.toNat + bs.length ≤ mailboxLoc + 0x10000

/-- A device whose record or firmware image was refused still answers its mailbox: it starts again with a warm reset too
(25 R349, R359). -/
def mailboxAnswers (status : Byte) : Bool := status == 2 || status == 3

/-- Turns that a device takes that is in reset or has stopped: the rest of its start-up, resets, reads of its STATE (25
R349, R359), and, when its record or image was refused, the mailbox with its commands (log entry 58). -/
def runsStopped (status : Byte) (u : Turn) : Bool :=
  match u with
  | .startUp => true
  | .eventDuring _ _ => false
  | .event .coldReset => true
  | .event .ixletReset => true
  | .event (.hostRequest r) => readsAperture r || (mailboxAnswers status && writesMailbox r)
  | .event .setq0 | .event .route | .event .attest | .event .reset | .event .event => mailboxAnswers status
  | .event _ => false
  | .issue _ _ => false
  | .tick _ => false
  | .columnTemp _ _ => false
  | .stackTemp _ _ _ => false
  | .power _ => false
  | .hostMemory _ _ => false
  | .peerMemory _ _ => false

/-! ### A machine with one instruction to run -/

/-- A range register that maps 1 MiB at 0x1_0000 to itself: RC, writable, executable, for every context. -/
def codeRange : Range := ⟨0x10000#64, 0x100000#64, 0x10000#64, 57#64, 0, 0⟩

/-- A node of one team of 32 lanes in mask style, its code at 0x1_0000 and its stack at 0x2_0000. -/
def loneDesc : Desc where
  entry := 0x10000
  nid := 1
  teams := 1
  geom := 0x00008801
  lsmem := 0
  stack := 0x20000
  ss := 0x1000
  featIdx := 0
  heat := 0
  pred := 0
  nsucc := 0
  succ := 0
  opnd := 0
  receipt := 0
  signal := 0
  sigval := 0
  sigop := 0

/-- The system context, running, with `codeRange` as its range register 0. -/
def State.loneContext (s : State) : State :=
  let c := (s.ctx? 1).getD Context.system
  { s with
    dev := { s.dev with status := 1, throttled := false }
    fe := { s.fe with
      contexts := { c with ranges := [(0, codeRange)] } :: s.fe.contexts.filter fun c => c.ctxid != 1
      running := 1
      gated := false } }

/-- The node's team on the lowest-numbered enabled core. -/
def State.loneTeam (s : State) : State × Team :=
  let id := s.sched.nextName
  let n := { Node.fresh id 1 none 0x18000#64 loneDesc 0 with cores := [(s.firstEnabled 0 512).getD 0] }
  let t := Team.fresh (id + 1) n ((s.firstEnabled 0 512).getD 0)
  ({ s with
      nodes := s.nodes ++ [{ n with placed := 1 }]
      teams := s.teams ++ [t]
      sched := { s.sched with nextName := id + 2 } }, t)

/-- A team that issues next, with the location of its instruction word. -/
def State.nextIssuer (s : State) : Option (Team × Nat) :=
  s.teams.findSome? fun t =>
    if s.mayIssue t && t.traps == [] then
      match translate s (s.ctxOf t) t.core t.pc .fetch with
      | .error _ => none
      | .ok p => if p.region = .aperture then none else some (t, p.loc)
    else none

/-- The word of the instruction stands where the team fetches, and the team has the next turn. -/
def State.placeWord (s : State) (id loc : Nat) (w : Word) : State :=
  { s with
    mem := s.mem.store loc (leBytes 4 w.toNat)
    teams := s.teams.map fun t => if t.id = id then { t with fetched := none } else t
    sched := { s.sched with agenda := .issue id false :: s.sched.agenda } }

end Sys2Proof.Machine
end

