-- ==== Sys2Proof/Machine/Schedule.lean ====
section
/-!
DEFINITION. Turns, and the turn that is taken when the agenda names none (log entry 3).
-/
namespace Sys2Proof.Machine

/-- A team's next instruction, before which the tellers finish what they have begun (13 R195): a pending trap is delivered
first (21 R302), then the word is fetched, decoded and executed. -/
def issueTurn (s0 : State) (id : Nat) (defer : Bool) : Result :=
  let s := s0.tellersDone
  match s.team? id with
  | none => .fault .turnNotEnabled
  | some t =>
    if !s.mayIssue t then .fault .turnNotEnabled
    else if t.traps != [] && s.atBoundary t then execAsyncTrapDelivery id s
    else
      let s1 := s.beginIssue t defer
      let s2 := s1.touchFetch t
      match s1.issueWord t with
      | .error x => execInstructionFetchFault (s2.withWord (Config.boundaryWord x.code.num t.pc.toNat))
      | .ok w =>
        match decode w with
        | .ok i => exec i ((s2.lookAhead s t i).withWord w)
        | .error _ => execIllegalOpcodeWord w (s2.withWord w)

/-- After an event the writes that found no read-modify-write to fall into land, and an idle running context gives way
(19 R292). -/
def afterEvent : Result → Result
  | .next s => .next (s.sched.during.flatten.foldl State.ownWrite { s with sched := { s.sched with during := [] } }).idlePreempt
  | .fault f => .fault f
  | .refused r => .refused r

/-- Events that settle for themselves what the tellers have begun: those that perform one access, at its own word alone, and
the failure of a link, which may take a teller's write with it. -/
def settlesItself : Instr → Bool
  | .loadPerform _ _ | .writePerform _ | .atomicPerform _ | .atomicReply _ | .flitCrcError _ _ _ _ => true
  | _ => false

/-- The state in which an event takes place: the tellers have finished what they have begun, so that no device access falls
between their halves (13 R193, R195; 25 R346; log entry 18). -/
def State.readyFor (s : State) (i : Instr) : State :=
  if settlesItself i || s.dev.status != 1 then s else s.tellersDone

/-- An event of the opcode table, with the writes that fall between the halves of its read-modify-writes (log entry
18). -/
def eventTurn (i : Instr) (between : List (List OwnWrite)) (s : State) : Result :=
  if isEvent i then afterEvent (exec i ({ s with sched := { s.sched with cur := none, during := between } }.readyFor i))
  else .fault .turnNotEnabled

/-- A turn.  Events of the opcode table take place on their own; instruction words run only through `issue`. -/
def runTurn (u : Turn) (s : State) : Result :=
  match u with
  | .issue id defer => issueTurn s id defer
  | .event i => eventTurn i [] s
  | .eventDuring i between =>
    if between.all fun ws => ws.all OwnWrite.fits then eventTurn i between s else .fault .turnNotEnabled
  | .startUp => if s.dev.status = 0 then .next s.startUp else .fault .turnNotEnabled
  | .tick n => .next (s.tick n)
  | .columnTemp core t => if isCore core then .next (s.setColumn core t) else .fault .turnNotEnabled
  | .stackTemp tower sensor t =>
    if tower < 4 ∧ sensor < 8 then .next (s.setStack tower sensor t) else .fault .turnNotEnabled
  | .power w => .next (s.setPower w)
  | .hostMemory a bs =>
    if a.toNat + bs.length ≤ spaceSize then .next (s.ownWrite ⟨false, a, bs⟩).idlePreempt else .fault .turnNotEnabled
  | .peerMemory a bs =>
    if a.toNat + bs.length ≤ spaceSize then .next (s.ownWrite ⟨true, a, bs⟩).idlePreempt else .fault .turnNotEnabled

/-- The packet event of the round's first packet. -/
def packetTurns (s : State) : List (State → Result) :=
  match s.fe.round with
  | [] => []
  | q :: _ =>
    match (s.queue q).prefetched with
    | [] => []
    | (_, b) :: _ =>
      let p := leNat b
      match packetType p with
      | 0x01 => [execGraph q]
      | 0x02 => [execNodePacket q]
      | 0x03 => [execGang q]
      | 0x04 => [execSignal q]
      | 0x05 => [execWaitSignal q]
      | 0x06 => [execRangeCommit q]
      | 0x07 =>
        match packetBytes 4 1 p with
        | 0 => [execCreate q]
        | 1 => [execDestroy q]
        | 2 => [execUpdate q]
        | 3 => [execMapq q]
        | 4 => [execUnmapq q]
        | 5 => [execResumeq q]
        | _ => [execPreempt q]
      | 0x08 => [execMarker q]
      | _ => [execFwHandover q]

/-- The command in the mailbox. -/
def commandTurns (s : State) : List (State → Result) :=
  match s.dev.command with
  | none => []
  | some c =>
    match c.toNat with
    | 1 => [execSetq0]
    | 2 => [execRoute]
    | 3 => [execAttest]
    | 4 => [execReset]
    | _ => [execEvent]

/-- The events of the opcode table that may be due beside the teams' instructions. -/
def internalTurns (s : State) : List (State → Result) :=
  packetTurns s ++ commandTurns s
    ++ (s.teams.filter fun t => t.traps != []).map (fun t => execAsyncTrapDelivery t.id)
    ++ s.teams.map (fun t => execTeamExitComplete t.id)
    ++ [execHeldSuccessorEntry]
    ++ ((List.range 128).filter fun q => (s.queue q).wait == .gang).map execGangReserveRetry
    ++ [execFwHandoverSwitch, execContextSwitchIn, execStateSpill, execSliceEnd]
    ++ (s.teams.filter fun t => t.parked && s.crowdedOut t.core != []).map (fun t => execSlotYield t.id)
    ++ [execTeamPlacement]
    ++ s.flight.accesses.flatMap (fun a =>
      [execLoadPerform a.id false, execWritePerform a.id, execAtomicPerform a.id, execAtomicReply a.id])
    ++ s.flight.copies.flatMap (fun c =>
      [execCopyPerform c.id [0], execFollowOnIssue c.id, execCollComplete c.id []])
    ++ s.teams.flatMap (fun t => t.fences.map fun f => execFenceComplete t.id f.ticket)
    ++ s.teams.map (fun t => execAwaitTimeout t.id)
    ++ s.teams.map (fun t => execKGroupStep t.id .passes)
    ++ [0, 1, 2, 3].flatMap (fun k => [execHotSet k, execHotClear k])
    ++ [execPowerThrottle, execThrottleClear, execDrumRound]

/-- A turn that left what it acts on as it was: a reservation that fails again, a round that takes no packet. -/
def idleTurn (s s' : State) : Bool :=
  s'.nodes == s.nodes && s'.fe == s.fe && s'.teams == s.teams && s'.flight == s.flight && s'.dev == s.dev

/-- The teams in turn after the one that issued last. -/
def issueTurns (s : State) : List (State → Result) :=
  let later := s.teams.filter fun t => s.sched.last < t.id
  let earlier := s.teams.filter fun t => !(s.sched.last < t.id)
  ((later ++ earlier).filter s.mayIssue).map fun t s => issueTurn s t.id false

/-- The first of the turns that can be taken. -/
def firstTurn (s : State) (skip : State → Bool) : List (State → Result) → Option Result
  | [] => none
  | u :: us =>
    match u s with
    | .fault _ => firstTurn s skip us
    | .refused r => some (.refused r)
    | .next s' => if skip s' then firstTurn s skip us else some (.next s')

/-- Internal work first, then a team's instruction, a tick of time with it, else a tick alone. -/
def defaultTurn (s : State) : Result :=
  let s0 := { s with sched := { s.sched with cur := none } }.tellersDone
  match firstTurn s0 (idleTurn s0) (internalTurns s0) with
  | some r => afterEvent r
  | none =>
    match firstTurn s (fun _ => false) (issueTurns s) with
    | some (.next s') => .next (s'.tick 1)
    | some r => r
    | none => .next (s.tick 1)

/-- A device that has stopped makes no turn of its own but a command in the mailbox that it still answers, RESET among
them (25 R349, R359; log entry 58). -/
def stoppedTurn (s : State) : Result :=
  if mailboxAnswers s.dev.status then
    match commandTurns s with
    | [] => .fault .deviceStopped
    | u :: _ => afterEvent (u s)
  else .fault .deviceStopped

end Sys2Proof.Machine
end

