-- ==== Sys2Proof/Machine/Step.lean ====
section
/-!
DEFINITION. One step: the next turn of the agenda, or the default one.
-/
namespace Sys2Proof.Machine

/-- The agenda's next turn is taken off it and runs; a device in reset starts up, and meanwhile, as a device that has
stopped, takes resets, reads of its STATE and, where it still answers it, the mailbox with its commands only (21 R320, 25
R349, R359). -/
def step (s : State) : Host.Outcome State Fault Refusal :=
  match s.sched.agenda with
  | [] =>
    if s.dev.status = 1 then defaultTurn s
    else if s.dev.status = 0 then .next s.startUp
    else stoppedTurn s
  | u :: rest =>
    if s.dev.status = 1 ∨ runsStopped s.dev.status u then runTurn u { s with sched := { s.sched with agenda := rest } }
    else .fault .deviceStopped

/-- `s` with an instruction's word where the next step fetches it: for the team that can issue, else for a team
of one node of the system context.  It stands for a program loaded and placed from outside (log entry 14). -/
def State.withFetchWord (s : State) (nbits w : Nat) : State :=
  let word : Word := .ofNat 32 (w % 2 ^ nbits)
  match (if s.dev.status = 1 then s.nextIssuer else none) with
  | some (t, loc) => s.placeWord t.id loc word
  | none =>
    let r := s.loneContext.loneTeam
    r.1.placeWord r.2.id 0x10000 word

end Sys2Proof.Machine
end

