-- ==== Sys2Proof/Safety.lean ====
section
/-!
DEFINITION. The terms in which claims are made: the invariants of a run, when an instruction's operands let it
execute, and what an instruction leaves in its team's registers, said register by register.
-/
namespace Sys2Proof.Machine

/-! ### Invariants -/

/-- Memory keeps its canonical form, so that equal contents are equal data. -/
def State.canonical (s : State) : Prop := s.mem.wf = true

/-- The reserved fields of a team's registers read as zero and MODE holds a rounding mode (07 R94, R96, R98; 03
R52): MODE bits 31..13, RND 0 to 4, LAVC bits 31..24, SLIM bits 3..0. -/
def Team.reservedClear (t : Team) : Bool :=
  t.mode.toNat / 2 ^ 13 == 0 && fld 5 3 t.mode.toNat ≤ 4 && t.lavc.toNat / 2 ^ 24 == 0 && t.slim.toNat % 16 == 0

def State.reservedClear (s : State) : Prop := ∀ t ∈ s.teams, t.reservedClear = true

/-- Every byte of memory reads in `s'` as in `s`. -/
def SameBytes (s s' : State) : Prop := ∀ a : Nat, s'.mem.byte a = s.mem.byte a

/-- Every byte outside the `n` bytes from `loc` on reads in `s'` as in `s`. -/
def SameBytesBut (loc n : Nat) (s s' : State) : Prop :=
  ∀ a : Nat, (a < loc ∨ loc + n ≤ a) → s'.mem.byte a = s.mem.byte a

/-- No context has a debugger attached, so that no watch ends an instruction (25 R360). -/
def State.unwatched (s : State) : Prop := ∀ c ∈ s.fe.contexts, c.attached = false

/-- No teller stands between its read of a word and its write of it (13 R195, 25 R346). -/
def State.settled (s : State) : Prop := ∀ a ∈ s.flight.accesses, ∀ old bytes dst, a.kind ≠ .update old bytes dst

/-! ### When an instruction executes -/

/-- Team `t` holds the turn and the checks that an instruction of these operands makes pass (07 R113): no trap of
its own, its vector registers inside the window, no operand in flight or poisoned. -/
def Issues (s : State) (t : Team) (sh : Shape) : Prop := s.curTeam = some t ∧ sh.check t s = none

/-- The source operands that fields of a class name, with their last-use bits (07 R93). -/
def useS (as : List Src) : List Use := as.map fun a => ⟨.s a.reg, a.last⟩
def useP (as : List Src) : List Use := as.map fun a => ⟨.pair a.reg, a.last⟩
def useV (as : List Src) : List Use := as.map fun a => ⟨.v a.reg, a.last⟩
def useM (as : List MSrc) : List Use := as.map fun a => ⟨.m a.reg, a.last⟩

/-- The promises open after one more instruction: each has one instruction fewer to go (07 R103). -/
def promisesAged (t : Team) : List Promise :=
  (t.promises.map fun p => { p with left := p.left - 1 }).filter fun p => p.left != 0

/-- Team `t` past its instruction: at the next word (07 R106), issuing, with no producer open (05 R76), its promises one
instruction older (07 R103). -/
def Team.past (t : Team) : Team :=
  { t with
    pc := t.pc + 4#64, cond := .ready, producer := none, retried := false, fetched := none
    promises := promisesAged t, issued := t.issued + 1 }

/-- Team `t` at another address, otherwise past its instruction. -/
def Team.arrived (t : Team) (a : Addr) : Team := { t.past with pc := a }

/-- A trap of team `t`'s instruction is taken; ACQUIRE_FAILED pends instead, and the instruction executes again after it
(log entry 30). -/
def State.trapped (s : State) (t : Team) (x : Trap) : State :=
  if x.code = .acquireFailed then s.stall (t.pend x) else s.takeTrap t x

/-- The same of a translation of `va` that fails: the home that it named, no vault, joins the touched dies (21 R319). -/
def State.refusedAt (s : State) (t : Team) (va : Addr) (x : Trap) : State :=
  (s.touch t.ctx (s.placesAt t [va])).trapped t x

/-! ### What an instruction leaves in the registers (07 R100, R101) -/

/-- The registers that sources with a set last-use bit name. -/
def lastOf (as : List Src) : List Reg := (as.filter (·.last)).map (·.reg)
/-- The same for pairs: both registers. -/
def lastPairs (as : List Src) : List Reg := (as.filter (·.last)).flatMap fun a => [a.reg, a.reg + 1#6]
/-- The same for mask sources. -/
def lastMasks (as : List MSrc) : List MReg := (as.filter (·.last)).map (·.reg)
/-- The same for vector sources under a type, whose fields are pairs under FP64. -/
def lastFields (T : Nat) (as : List Src) : List Reg := if T = 0x18 then lastPairs as else lastOf as

/-- The scalar registers after an instruction: those it writes hold their words, live and clean; those it used up
are dead; the others, and s0, are as they were. -/
def scalarsAfter (t : Team) (used : List Reg) (writes : List (Reg × Word)) : Vector SReg 64 :=
  .ofFn fun i : Fin 64 =>
    if i = 0 then t.sregs[i]
    else match writes.find? fun w => w.1.toNat == i.val with
      | some w => .live w.2 false
      | none => if used.any fun r => r.toNat == i.val then .dead else t.sregs[i]

/-- The two words that a 64-bit value writes in a pair (07 R92). -/
def pairWrites (d : Reg) (x : Addr) : List (Reg × Word) := [(d, lowWord x), (d + 1#6, highWord x)]

/-- The scalar registers that a memory operand's set last-use bits name (07 R101, R109). -/
def baseUsed (m : MemArg) : List Reg := if m.last then (if onStack m then [m.base] else [m.base, m.base + 1#6]) else []
/-- The vector index register that its last-use bit names. -/
def indexUsed (m : MemArg) : List Reg :=
  match m.mode with
  | .index v true => [v]
  | .index _ false => []
  | .disp _ => []
  | .postInc _ => []
  | .modulo _ _ => []

/-- What the address mode writes to the base: post-increment adds k times the scale, modulo steps within the
circular buffer (07 R109, 13 R179); in the low word alone for a stack offset. -/
def baseWrites (t : Team) (m : MemArg) (scale : Nat) : List (Reg × Word) :=
  match m.mode with
  | .disp _ => []
  | .index _ _ => []
  | .postInc k =>
    if onStack m then [(m.base, t.sval m.base + .ofInt 32 (k.toInt * scale))]
    else pairWrites m.base (t.pair m.base + .ofInt 64 (k.toInt * scale))
  | .modulo q k =>
    let low := circle t q (t.sval m.base) (k.toNat * scale)
    if onStack m then [(m.base, low)] else [(m.base, low), (m.base + 1#6, t.sval (m.base + 1#6))]

/-- The mask registers after an instruction; a written one holds bits only below TW. -/
def masksAfter (t : Team) (used : List MReg) (writes : List (MReg × LaneBits)) : Vector MaskReg 16 :=
  .ofFn fun i : Fin 16 =>
    if i = 0 then t.masks[i]
    else match writes.find? fun w => w.1.toNat == i.val with
      | some w => .live (w.2 &&& lanesBelow t.tw) 0
      | none => if used.any fun r => r.toNat == i.val then .dead else t.masks[i]

/-- The lanes of a vector register of which `f` writes some: the others keep their word, zero if it was dead. -/
def lanesAfter (t : Team) (old : VReg) (f : Nat → Option Word) : VReg :=
  if (List.range t.tw).all fun l => (f l).isNone then old
  else .live ((List.range t.tw).map fun l =>
    match f l with
    | some v => ⟨v, false⟩
    | none => old.lane l)

/-- The vector registers after an instruction: the operands' numbers count from the window's base (03 R54).  A source with a
set last-use bit that is also a destination stays live, even where no lane is written (07 R101; the model's choice, log
entry 76). -/
def vectorsAfter (t : Team) (used : List Reg) (writes : List (Reg × (Nat → Option Word))) : Vector VReg 64 :=
  .ofFn fun i : Fin 64 =>
    match writes.find? fun w => (t.virt w.1).toNat == i.val with
    | some w => lanesAfter t t.vregs[i] w.2
    | none => if used.any fun r => (t.virt r).toNat == i.val then .dead else t.vregs[i]

/-- A word for every active lane. -/
def onActive (t : Team) (f : Nat → Word) : Nat → Option Word :=
  fun l => if t.effective.getLsbD l then some (f l) else none

/-- The field writes of element results under a type: packed in one register, or a 64-bit element in a pair. -/
def elemWrites (t : Team) (T : Nat) (d : Reg) (f : Nat → List Nat) : List (Reg × (Nat → Option Word)) :=
  if T = 0x18 then
    [(d, onActive t fun l => .ofNat 32 ((f l).headD 0)),
      (d + 1#6, onActive t fun l => .ofNat 32 ((f l).headD 0 / 2 ^ 32))]
  else [(d, onActive t fun l => .ofNat 32 (packFields (fieldWidth T) (f l)))]

/-- The promise that a lookahead field opens, over the registers that the instruction names as sources and destinations
(07 R103). -/
def promisesAfter (t : Team) (la : BitVec 4) (srcs dsts : List Opnd) : List Promise :=
  promisesAged t ++ if la = 0#4 then [] else [⟨la.toNat, srcs.flatMap Opnd.names, dsts.flatMap Opnd.names⟩]

end Sys2Proof.Machine
end

