-- ==== Sys2Proof/Certificates/Slice0/Obligations.lean ====
section
/-!
DEFINITION. The statements for the provers.  Each says which rules of spec/ it rests on; OBLIGATIONS.json lists them.
-/
open Sys2Proof Sys2Proof.Machine

/-! ### Encoding -/

/-- Decoding gives back every well-formed instruction from its word, with every operand at every value that the encoding
admits (07 R106 to R112 and the tables of 09, 11, 13 and 17). A word that decodes has one meaning: the instruction is
well formed, and the word is its encoding (07 R112). -/
def Obligations.DecodeAndEncodeAgree : Prop :=
  (∀ (i : Instr) (w : Word), i.wf = true → encode i = some w → decode w = .ok i)
  ∧ (∀ (w : Word) (i : Instr), decode w = .ok i → i.wf = true ∧ encode i = some w)

/-- 09 R125: the word 0x5D00_0000 is an ENTRY instruction, and no other word is. -/
def Obligations.EntryIsOneWord : Prop :=
  ∀ w : Word, decode w = .ok .entry ↔ w = 0x5D000000#32

/-- Words worked out in 07, 09, 11, 13 and 17 decode to the instructions they stand for. 07 R110, R112: a word of a
reserved or unassigned major decodes to nothing, and a word that decodes to nothing raises ILLEGAL_OPCODE with no effect
of its own: the team takes the trap at that word. -/
def Obligations.DecodingOfWords : Prop :=
  (
    decode 0x04414300#32 = .ok (.add 4 ⟨5, false⟩ ⟨6, false⟩)
      ∧ decode 0x20611FF0#32 = .ok (.addi 6 ⟨4, false⟩ 0xFF8#12)
      ∧ decode 0x0C826503#32 = .ok (.div 8 ⟨9, true⟩ ⟨10, false⟩ 3)
      ∧ decode 0x545FFFFD#32 = .ok (.bnz 5 (.ofInt 19 (-3)))
      ∧ decode 0x631FFFFC#32 = .ok (.sendlp 3 (.ofInt 19 (-4)))
      ∧ decode 0x1420C083#32 = .ok (.mandn 2 ⟨3, false⟩ ⟨1, false⟩)
      ∧ decode 0x18804081#32 = .ok (.srd 8 0x041#12)
      ∧ decode 0xAC1000C2#32 = .ok (.vfcmp .lt 1 ⟨0, false⟩ ⟨1, true⟩)
      ∧ decode 0xE43110F2#32 = .ok (.vld 3 ⟨4, false, .index 7 true⟩ 2)
      ∧ decode 0xE88107F0#32 = .ok (.cas (.ar .sy) 8 ⟨4, false⟩ 0)
      ∧ decode 0xEC810521#32 = .ok (.bell .eq 8 1 ⟨4, false⟩ ⟨10, false⟩)
      ∧ decode 0xF1458381#32 = .ok (.cpyt 20 ⟨22, false⟩ ⟨7, false⟩)
      ∧ decode 0xF4220C03#32 = .ok (.mtile 2 8 12 3))
  ∧ (
    (∀ w : Word, w.toNat / 2 ^ 26 ∈ [0x00, 0x07, 0x0F, 0x19, 0x1A, 0x1B, 0x1C, 0x1D, 0x1E, 0x1F, 0x25, 0x26, 0x27,
        0x2E, 0x2F, 0x34, 0x35, 0x36, 0x37, 0x3E, 0x3F] → (decode w).isOk = false)
      ∧ ∀ (s : State) (t : Team) (w : Word), s.curTeam = some t → (decode w).isOk = false →
        exec (.illegalOpcodeWord w) s = .next (s.takeTrap t ⟨.illegalOpcode, 0, 0, none, none⟩))

/-! ### Steps -/

/-- A step whose turn is a team's runs the instruction that the word at the team's address decodes to, in a state in
which its team holds the turn, and memory, nodes and what is in flight are as they were, unless a unit of the core
changes hands (19 R295). The promises of which the instruction is not independent have ended (07 R103: it reads a
register that the promising instruction writes, or FLAGS or MODE as a register, or writes one that it reads or writes),
and LAVC can have counted at its first turn only where an instruction before it has no open promise that it keeps (07
R98, R105; that a vector instruction's guard mask is a source is log entry 115's reading). A step whose turn is an event
of the opcode table runs that event, after which a running context with no team and no node in the pool gives way to one
that has a ready node, a ready team or WAKEPEND; what a fire brought since the slice began does not count for it (19
R292; log entry 85), and a waiting GANG packet counts for its context as a ready node (19 R287; log entry 108, the
model's reading). Writes of the host or of peers to their own memory between the halves of an event's read-modify-writes
land with the event (25 R346; log entry 18). Before a turn in which the device accesses memory the tellers finish what
they have begun, so that no device access falls between their halves (13 R195); an event that performs one access
settles its own word alone, and the failure of a link what the copies on it need. A device whose STATE is not 1 runs
resets and the host's reads in the control aperture, where STATE is read; one whose record or image was refused also its
mailbox, with host writes there and its five commands, RESET among them; it faults on every other event (21 R320; 25
R349, R359; log entry 58, the model's reading). One whose STATE is 0 goes on with its start-up, and one that still
answers its mailbox runs the command in it by itself. (The order of turns is the model's choice, log entries 3 and 4.) -/
def Obligations.StepRunsInstruction : Prop :=
  (∀ (s : State) (id : Nat) (defer : Bool) (t : Team) (w : Word) (i : Instr),
      let u := s.tellersDone
      s.dev.status = 1 → u.team? id = some t → u.mayIssue t = true → t.traps = [] →
      (u.beginIssue t defer).issueWord t = .ok w → decode w = .ok i →
      step { s with sched := { s.sched with agenda := .issue id defer :: s.sched.agenda } } =
        exec i ((((u.beginIssue t defer).touchFetch t).lookAhead u t i).withWord w))
    ∧ (∀ s : State, s.settled → s.tellersDone = s)
    ∧ (∀ s : State, (s.tellersDone).settled)
    ∧ (∀ (s : State) (id : Nat) (defer : Bool) (t : Team) (w : Word) (i : Instr), s.team? id = some t →
      (∀ h ∈ s.fe.unitHolders, h.kind < 5 → (s.ctxOf t).claim.getLsbD h.kind = true → h.core = t.core →
        h.ctx = t.ctx) →
      let u := (((s.beginIssue t defer).touchFetch t).lookAhead s t i).withWord w
      let reads := (fieldsOf t i).srcs.flatMap Opnd.names
      let writes := (fieldsOf t i).dsts.flatMap Opnd.names
      let kept (p : Promise) : Prop := (∀ r ∈ reads, r ∉ p.dsts) ∧ (fieldsOf t i).status = false
        ∧ ∀ r ∈ writes, r ∉ p.srcs ∧ r ∉ p.dsts
      let mayWait : Prop := t.promises.length < t.issued ∨ ∃ p ∈ t.promises, ¬ kept p
      let counts := mayWait ∧ t.retried = false ∧ t.cond = .ready
        ∧ Config.promiseBroken s.sched.freeCount = true ∧ t.lavc ≠ 0xFFFFFF#32
      let open_ := t.promises.filter fun p => p.keptBy t i
      (∀ p : Promise, p.keptBy t i = true ↔ kept p)
        ∧ (counts → u.curTeam = some { t with promises := open_, lavc := t.lavc + 1 })
        ∧ (¬ counts → u.curTeam = some { t with promises := open_ })
        ∧ u.mem = s.mem ∧ u.nodes = s.nodes ∧ u.flight = s.flight ∧ u.cohorts = s.cohorts ∧ u.dev = s.dev
        ∧ u.sched.iw = w ∧ u.sched.defer = defer)
    ∧ (∀ (s : State) (i : Instr), encode i = none →
      let u : State := { s with sched := { s.sched with agenda := .event i :: s.sched.agenda } }
      let started : State := { s with sched := { s.sched with cur := none, during := [] } }
      let always := i = .coldReset ∨ i = .ixletReset ∨ ∃ a n tag, i = .hostRequest (.read a n tag)
        ∧ 0x000FFF0000000000 ≤ a.toNat ∧ a.toNat + n ≤ 0x000FFF0001000000
      let mailbox := (s.dev.status = 2 ∨ s.dev.status = 3) ∧ (i ∈ [.setq0, .route, .attest, .reset, .event]
        ∨ ∃ a bs tag, i = .hostRequest (.write a bs tag)
          ∧ 0x000FFF0000800000 ≤ a.toNat ∧ a.toNat + bs.length ≤ 0x000FFF0000810000)
      let apart := (∃ a keep, i = .loadPerform a keep)
        ∨ (∃ a, i = .writePerform a ∨ i = .atomicPerform a ∨ i = .atomicReply a)
        ∨ ∃ link second lost done, i = .flitCrcError link second lost done
      (s.dev.status = 1 → (apart → step u = afterEvent (exec i started))
          ∧ (¬ apart → step u = afterEvent (exec i started.tellersDone)))
        ∧ (s.dev.status ≠ 1 → (always ∨ mailbox → step u = afterEvent (exec i started))
          ∧ (¬ always → ¬ mailbox → step u = .fault .deviceStopped))
        ∧ ∀ between : List (List OwnWrite), s.dev.status = 1 → (∀ ws ∈ between, ∀ w ∈ ws, w.fits = true) →
          let during : State := { started with sched := { started.sched with during := between } }
          let v : State := { s with sched := { s.sched with agenda := .eventDuring i between :: s.sched.agenda } }
          (apart → step v = afterEvent (exec i during))
            ∧ (¬ apart → step v = afterEvent (exec i during.tellersDone)))
    ∧ (∀ s : State, s.dev.status = 0 → s.sched.agenda = [] → step s = .next s.startUp)
    ∧ (∀ s : State, s.sched.agenda = [] → s.dev.status ≠ 0 → s.dev.status ≠ 1 →
      (s.dev.command = none ∨ (s.dev.status ≠ 2 ∧ s.dev.status ≠ 3) → step s = .fault .deviceStopped)
      ∧ ∀ e ∈ ([(1, .setq0), (2, .route), (3, .attest), (4, .reset), (5, .event)] : List (Nat × Instr)),
        (s.dev.status = 2 ∨ s.dev.status = 3) → s.dev.command = some (BitVec.ofNat 64 e.1) →
        step s = afterEvent (exec e.2 s))
    ∧ (∀ s : State, s.sched.during = [] →
      let other (c : Context) : Prop := c ∈ s.fe.contexts ∧ c.ctxid ≠ s.fe.running
        ∧ ((∃ id ∈ s.fe.pool, ∃ n, s.node? id = some n ∧ n.ctx = c.ctxid)
          ∨ (∃ q ∈ List.range 128, (s.queue q).wait = .gang ∧ (s.queue q).map.any (fun m => m.ctx == c.ctxid) = true)
          ∨ (∃ t ∈ s.teams, t.ctx = c.ctxid ∧ t.wantsIssue = true ∧ ¬(t.id ∈ c.lateTeams ∧ t.cond = .woken))
          ∨ (c.wakePend = true ∧ c.wakeLate = false))
      let idle := (∀ t ∈ s.teams, t.ctx ≠ s.fe.running)
        ∧ ∀ id ∈ s.fe.pool, ∀ n, s.node? id = some n → n.ctx ≠ s.fe.running
      (idle → (∃ c, other c) → afterEvent (.next s) = .next s.gate)
        ∧ (¬(idle ∧ ∃ c, other c) → afterEvent (.next s) = .next s))
    ∧ ∀ (s : State) (ws : List OwnWrite) (rest : List (List OwnWrite)), s.sched.during = ws :: rest →
      afterEvent (.next s) = afterEvent (.next (ws.foldl State.ownWrite { s with sched := { s.sched with during := rest } }))

/-! ### Invariants -/

/-- Every step keeps memory's canonical form (log entry 2: the form is the model's). -/
def Obligations.StepKeepsCanonicalMemory : Prop :=
  ∀ s s' : State, s.canonical → step s = .next s' → s'.canonical

/-- Every step keeps the reserved bits of MODE, LAVC and SLIM clear and a rounding mode in MODE (07 R96, R98; 03 R52).
-/
def Obligations.StepKeepsReservedBits : Prop :=
  ∀ s s' : State, s.reservedClear → step s = .next s' → s'.reservedClear

/-- 25 R359, R350; 19 R270: what a completed reset leaves, where the spec gives it: STATE 1, the time base at 0, HANGLIM
1,000,000, no event word, no team and no node, memory, vaults and local stores zero with no poison, the run list with
the system context alone, queue 0 mapped to it and every other queue unmapped. That this context is the running one,
that no event word is set, and that a byte of host or peer memory which nothing has written reads 0, are the model's
choices (log entries 1 and 2). Both invariants hold at reset. -/
def Obligations.ResetStateAndInvariants : Prop :=
  (
    State.reset.dev.status = 1 ∧ State.reset.dev.time = 0 ∧ State.reset.dev.regs.hanglim = 0x000F4240#32
      ∧ State.reset.dev.eventWord = none ∧ State.reset.teams = [] ∧ State.reset.nodes = []
      ∧ (∀ a : Nat, State.reset.mem.byte a = 0 ∧ State.reset.mem.wordBad a = false)
      ∧ State.reset.fe.contexts.map (fun c => (c.ctxid, c.priv, c.nvr)) = [(1, true, 2)]
      ∧ State.reset.fe.running = 1
      ∧ (∀ q : Nat, q < 128 → ((State.reset.queue q).map.isSome ↔ q = 0))
      ∧ (State.reset.queue 0).map.map (·.ctx) = some 1)
  ∧ (State.reset.canonical ∧ State.reset.reservedClear)

/-- A team whose context is not privileged changes no device-wide register by any instruction (07 R95, 25 R350). -/
def Obligations.UnprivilegedKeepsDeviceRegisters : Prop :=
  ∀ (i : Instr) (s s' : State) (t : Team), encode i ≠ none → s.curTeam = some t → (s.ctxOf t).priv = false →
    exec i s = .next s' → s'.dev.regs = s.dev.regs

/-! ### Scalar instructions -/

/-- 09 R120 to R124, the forms with two scalar sources and those with one: the result as the tables give it, with
wrap-around modulo 2^32. A write to s0 is discarded, sources with a set last-use bit become dead, and nothing else
changes but PC. -/
def Obligations.ScalarArithmetic : Prop :=
  (∀ p ∈ ([(.add, fun a b => .ofNat 32 (a.toNat + b.toNat)),
        (.sub, fun a b => .ofInt 32 (a.toNat - b.toNat)),
        (.mul, fun a b => .ofNat 32 (a.toNat * b.toNat)),
        (.mulh, fun a b => .ofInt 32 (a.toInt * b.toInt / 2 ^ 32)),
        (.mulhu, fun a b => .ofNat 32 (a.toNat * b.toNat / 2 ^ 32)),
        (.and, fun a b => a &&& b),
        (.or, fun a b => a ||| b),
        (.xor, fun a b => a ^^^ b),
        (.andn, fun a b => a &&& ~~~b),
        (.shl, fun a b => .ofNat 32 (a.toNat * 2 ^ (b.toNat % 32))),
        (.shr, fun a b => .ofNat 32 (a.toNat / 2 ^ (b.toNat % 32))),
        (.sra, fun a b => .ofInt 32 (a.toInt / 2 ^ (b.toNat % 32))),
        (.min, fun a b => .ofInt 32 (min a.toInt b.toInt)),
        (.max, fun a b => .ofInt 32 (max a.toInt b.toInt)),
        (.minu, fun a b => .ofNat 32 (min a.toNat b.toNat)),
        (.maxu, fun a b => .ofNat 32 (max a.toNat b.toNat)),
        (.seq, fun a b => if a = b then 1 else 0),
        (.sne, fun a b => if a = b then 0 else 1),
        (.slt, fun a b => if a.toInt < b.toInt then 1 else 0),
        (.sltu, fun a b => if a.toNat < b.toNat then 1 else 0)] :
        List ((Reg → Src → Src → Instr) × (Word → Word → Word))),
      ∀ (d : Reg) (a b : Src) (s : State) (t : Team), Issues s t { srcs := useS [a, b], dsts := [.s d] } →
        exec (p.1 d a b) s = .next (s.putTeam { t.past with
          sregs := scalarsAfter t (lastOf [a, b]) [(d, p.2 (t.sval a.reg) (t.sval b.reg))] }))
    ∧ (∀ (k : BitVec 12) (n : BitVec 5) (m : BitVec 6), ∀ p ∈ ([
        (.clz, fun a => .ofNat 32 ((List.range 32).takeWhile fun i => !a.getLsbD (31 - i)).length),
        (.popc, fun a => .ofNat 32 ((List.range 32).countP fun i => a.getLsbD i)),
        (.mov, fun a => a),
        (fun d a => .sext d a m, fun a => (a.setWidth m.toNat).signExtend 32),
        (fun d a => .zext d a m, fun a => (a.setWidth m.toNat).setWidth 32),
        (fun d a => .addi d a k, fun a => .ofInt 32 (a.toInt + k.toInt)),
        (fun d a => .andi d a k, fun a => a &&& k.setWidth 32),
        (fun d a => .ori d a k, fun a => a ||| k.setWidth 32),
        (fun d a => .xori d a k, fun a => a ^^^ k.setWidth 32),
        (fun d a => .shli d a n, fun a => .ofNat 32 (a.toNat * 2 ^ n.toNat)),
        (fun d a => .shri d a n, fun a => .ofNat 32 (a.toNat / 2 ^ n.toNat)),
        (fun d a => .srai d a n, fun a => .ofInt 32 (a.toInt / 2 ^ n.toNat)),
        (fun d a => .slti d a k, fun a => if a.toInt < k.toInt then 1 else 0),
        (fun d a => .sltiu d a k, fun a => if (a.toNat : Int) < k.toInt % 2 ^ 32 then 1 else 0)] :
        List ((Reg → Src → Instr) × (Word → Word))),
      ∀ (d : Reg) (a : Src) (s : State) (t : Team), (p.1 d a).wf = true →
        Issues s t { srcs := useS [a], dsts := [.s d] } →
        exec (p.1 d a) s = .next (s.putTeam { t.past with
          sregs := scalarsAfter t (lastOf [a]) [(d, p.2 (t.sval a.reg))] }))

/-- 09 R123: the 64-bit pair forms, whose results are modulo 2^64 and take both registers of the pair; the pair named by
0 takes only s1 (07 R93). 09 R121, R122, R140: SEL picks by the old value of sd; LUI; ADDPC counts from its own address;
STAMP reads the time base as its core's die does (25 R351; log entry 16). -/
def Obligations.ScalarPairsAndMoves : Prop :=
  (
    (∀ p ∈ ([(.addx, fun a b => .ofNat 64 (a.toNat + b.toNat)), (.subx, fun a b => .ofInt 64 (a.toNat - b.toNat))] :
        List ((Reg → Src → Src → Instr) × (Addr → Addr → Addr))),
      ∀ (d : Reg) (a b : Src) (s : State) (t : Team), Issues s t { srcs := useP [a, b], dsts := [.pair d] } →
        exec (p.1 d a b) s = .next (s.putTeam { t.past with
          sregs := scalarsAfter t (lastPairs [a, b]) (pairWrites d (p.2 (t.pair a.reg) (t.pair b.reg))) }))
      ∧ (∀ (n : BitVec 6) (k : BitVec 12), ∀ p ∈ ([(fun d a => .shlix d a n, fun a => .ofNat 64 (a.toNat * 2 ^ n.toNat)),
          (fun d a => .shrix d a n, fun a => .ofNat 64 (a.toNat / 2 ^ n.toNat)),
          (fun d a => .addix d a k, fun a => .ofInt 64 (a.toNat + k.toInt))] : List ((Reg → Src → Instr) × (Addr → Addr))),
        ∀ (d : Reg) (a : Src) (s : State) (t : Team), Issues s t { srcs := useP [a], dsts := [.pair d] } →
          exec (p.1 d a) s = .next (s.putTeam { t.past with
            sregs := scalarsAfter t (lastPairs [a]) (pairWrites d (p.2 (t.pair a.reg))) }))
      ∧ ∀ (d : Reg) (a b : Src) (s : State) (t : Team), Issues s t { srcs := useP [a, b], dsts := [.s d] } →
        exec (.sltux d a b) s = .next (s.putTeam { t.past with
          sregs := scalarsAfter t (lastPairs [a, b])
            [(d, if (t.pair a.reg).toNat < (t.pair b.reg).toNat then 1 else 0)] }))
  ∧ (
    (∀ (d : Reg) (a b : Src) (s : State) (t : Team),
      Issues s t { srcs := useS [a, b, ⟨d, false⟩], dsts := [.s d] } →
      exec (.sel d a b) s = .next (s.putTeam { t.past with
        sregs := scalarsAfter t (lastOf [a, b]) [(d, if t.sval d = 0 then t.sval b.reg else t.sval a.reg)] }))
      ∧ (∀ (d : Reg) (k : BitVec 20) (s : State) (t : Team), Issues s t { dsts := [.s d] } →
        exec (.lui d k) s = .next (s.putTeam { t.past with
          sregs := scalarsAfter t [] [(d, .ofNat 32 (k.toNat * 2 ^ 12))] }))
      ∧ ∀ (d : Reg) (k : BitVec 20) (s : State) (t : Team), Issues s t { dsts := [.pair d] } →
        exec (.addpc d k) s = .next (s.putTeam { t.past with
            sregs := scalarsAfter t [] (pairWrites d (.ofInt 64 (t.pc.toNat + k.toInt * 2 ^ 12))) })
          ∧ exec (.stamp d) s = .next (s.putTeam { t.past with
            sregs := scalarsAfter t [] (pairWrites d (s.coreTime t.core)) }))

/-- Quotient and remainder of R80 as its table and its sign rule give them. -/
def quotientOf (signed : Bool) (a b : Word) : Word :=
  if b = 0 then (if signed = true ∧ a.toInt < 0 then 1 else 0xFFFFFFFF#32)
  else if signed then .ofInt 32 (a.toInt.tdiv b.toInt) else .ofNat 32 (a.toNat / b.toNat)
def remainderOf (signed : Bool) (a b : Word) : Word :=
  if b = 0 then a else if signed then .ofInt 32 (a.toInt.tmod b.toInt) else .ofNat 32 (a.toNat % b.toNat)

/-- The restoring recurrence of R80 on magnitudes `N` and `D`: w after digit j, and that digit. -/
def restoring (N D : Nat) : Nat → Nat × Nat
  | 0 => (N, 0)
  | j + 1 =>
    let w := 2 * (restoring N D j).1
    if D * 2 ^ 32 ≤ w then (w - D * 2 ^ 32, 1) else (w, 0)

/-- The bits of digit `j`, from 1, of element `i` of a record (05 R85). -/
def digitBits (r : Dcr) (i j : Nat) : Nat := fld (32 + 56 * i + 2 * (j - 1)) 2 r.record.toNat

/-- The header of a record (05 R84); `spec` is SPEC0, SPEC1 and the reserved bits. -/
def headerIs (r : Dcr) (op k rnd type fl spec : Nat) : Prop :=
  let x := r.record.toNat
  fld 0 6 x = op ∧ fld 6 6 x = k ∧ fld 12 3 x = rnd ∧ fld 15 5 x = type ∧ fld 20 5 x = fl ∧ fld 25 7 x = spec

/-- A test of 05 R86 that does not look at the operands fails: the lane discards the record. `n` is the number of digits of
the recurrence, `elems` 2 for a 16-bit type, else 1. -/
def discarded (op n rnd type elems : Nat) (r : Dcr) : Prop :=
  let x := r.record.toNat
  fld 0 6 x ≠ op ∨ fld 15 5 x ≠ type ∨ fld 12 3 x ≠ rnd ∨ n < fld 6 6 x ∨ fld 25 7 x ≠ 0
    ∨ ∃ i < elems, ∃ j, 1 ≤ j ∧ j ≤ 56 / elems
      ∧ ((j ≤ fld 6 6 x ∧ digitBits r i j = 2) ∨ (fld 6 6 x < j ∧ digitBits r i j ≠ 0))

/-- The record that a stop of a division of `a` by `b` writes after some number of digits (05 R79, R84, R85). -/
def divisionRecord (op : Nat) (signed : Bool) (t : Team) (a b : Word) (r : Dcr) : Prop :=
  let w := restoring (if signed then a.toInt.natAbs else a.toNat) (if signed then b.toInt.natAbs else b.toNat)
  r.pc = t.pc ∧ r.lane = none ∧ ∃ k ≤ 32, headerIs r op k 0 (if signed then 0x0A else 0x0B) 0 0
    ∧ (∀ j, 1 ≤ j → j ≤ 56 → digitBits r 0 j = if j ≤ k then (w j).2 else 0)
    ∧ fld 144 112 r.record.toNat = (w k).1

/-- The instructions of 05 R80: each with its OP in a record, whether it is signed, and its result. -/
def divisions : List ((Reg → Src → Src → BitVec 4 → Instr) × Nat × Bool × (Word → Word → Word)) :=
  [(.div, 1, true, quotientOf true), (.divu, 2, false, quotientOf false), (.rem, 3, true, remainderOf true),
    (.remu, 4, false, remainderOf false)]

/-- 05 R80, 09 R124: the restoring recurrence gives the truncated quotient and the remainder of the dividend's sign, and
the rows of its table at the edges; no trap, no flag; the promise of the lookahead field opens (07 R103). An instruction
that goes on from the record of a stop (05 R79, R84, R85), after any number of digits, gives what it gives uninterrupted, and one whose
record fails a test of 05 R86 starts again; the record is used up. -/
def Obligations.ScalarDivision : Prop :=
  ∀ p ∈ divisions, ∀ (d : Reg) (a b : Src) (la : BitVec 4) (s : State) (t : Team),
      Issues s t { srcs := useS [a, b], dsts := [.s d], la := la.toNat } →
      (∀ r ∈ t.dcrs, r.pc = t.pc → r.lane = none →
        divisionRecord p.2.1 p.2.2.1 t (t.sval a.reg) (t.sval b.reg) r
          ∨ discarded p.2.1 32 0 (if p.2.2.1 then 0x0A else 0x0B) 1 r) →
      exec (p.1 d a b la) s = .next (s.putTeam { t.past with
        sregs := scalarsAfter t (lastOf [a, b]) [(d, p.2.2.2 (t.sval a.reg) (t.sval b.reg))]
        promises := promisesAfter t la [.s a.reg, .s b.reg] [.s d], dcrs := [] })

/-! ### Masks -/

/-- 03 R37: m0 reads as all ones in every lane below TW, in its summary word too; writes to it are discarded; the other
mask registers are all zeros at team start. -/
def Obligations.MaskZero : Prop :=
  (∀ (t : Team) (l : Nat), t.passes ≤ 32 → ((t.mbits 0#4).getLsbD l = true ↔ l < t.tw))
    ∧ (∀ (t : Team) (w : Nat), t.passes ≤ 32 → ((summaryWord (t.mbits 0#4)).getLsbD w = true ↔ w < t.passes))
    ∧ (∀ (t : Team) (b : LaneBits) (w : Nat) (v : Word), t.setM 0#4 b = t ∧ t.setMWord 0#4 w v = t)
    ∧ ∀ (id : Nat) (n : Node) (core : Nat) (m : MReg), m ≠ 0#4 → (Team.fresh id n core).mbits m = 0

/-- 09 R136: the operations from masks to a mask act on every lane below TW, whatever EXM holds. 09 R136, R137; 03 R36,
R38, R41: between masks and scalar registers, and EXM: MGETW reads the one word that it names (21 R315); MSETW makes bit
j of sb the bit of lane 32a + j, keeps the other lanes' bits, clears that word's poison, and is discarded at or beyond
TW / 32 and for m0; EXMSET writes EXM within TW, and in structured style raises ILLEGAL_MODE; EXMGET reads it in both
styles. -/
def Obligations.MaskInstructions : Prop :=
  (
    (∀ p ∈ ([(.mand, fun a b => a && b), (.mor, fun a b => a || b), (.mxor, fun a b => a != b),
        (.mandn, fun a b => a && !b)] : List ((MReg → MSrc → MSrc → Instr) × (Bool → Bool → Bool))),
      ∀ (d : MReg) (a b : MSrc) (s : State) (t : Team), Issues s t { srcs := useM [a, b], dsts := [.m d] } →
        exec (p.1 d a b) s = .next (s.putTeam { t.past with
          masks := masksAfter t (lastMasks [a, b])
            [(d, bitsOfList ((List.range t.tw).map fun l =>
              p.2 ((t.mbits a.reg).getLsbD l) ((t.mbits b.reg).getLsbD l)))] }))
      ∧ (∀ p ∈ ([(.mnot, fun a => !a), (.mmov, fun a => a)] : List ((MReg → MSrc → Instr) × (Bool → Bool))),
        ∀ (d : MReg) (a : MSrc) (s : State) (t : Team), Issues s t { srcs := useM [a], dsts := [.m d] } →
          exec (p.1 d a) s = .next (s.putTeam { t.past with
            masks := masksAfter t (lastMasks [a])
              [(d, bitsOfList ((List.range t.tw).map fun l => p.2 ((t.mbits a.reg).getLsbD l)))] }))
      ∧ ∀ (d : MReg) (s : State) (t : Team), Issues s t { dsts := [.m d] } →
        exec (.mall d) s = .next (s.putTeam { t.past with masks := masksAfter t [] [(d, .allOnes 1024)] })
          ∧ exec (.mclr d) s = .next (s.putTeam { t.past with masks := masksAfter t [] [(d, 0)] }))
  ∧ (
    ((∀ p ∈ ([(.mpopc, fun n b => .ofNat 32 ((List.range n).countP fun l => b.getLsbD l)),
          (.mffs, fun n b => match (List.range n).find? fun l => b.getLsbD l with
            | some l => .ofNat 32 l
            | none => 0xFFFFFFFF#32),
          (.msumw, fun _ b => summaryWord b)] : List ((Reg → MSrc → Instr) × (Nat → LaneBits → Word))),
        ∀ (d : Reg) (a : MSrc) (s : State) (t : Team), Issues s t { srcs := useM [a], dsts := [.s d] } →
          exec (p.1 d a) s = .next (s.putTeam { t.past with
            sregs := scalarsAfter t [] [(d, p.2 t.tw (t.mbits a.reg))]
            masks := masksAfter t (lastMasks [a]) [] }))
        ∧ (∀ (d : Reg) (a : MSrc) (b : Src) (s : State) (t : Team),
          Issues s t { srcs := useS [b], unread := useM [a], dsts := [.s d] } →
          let w := (t.sval b.reg).toNat
          (w < t.passes → (t.mbad a.reg).getLsbD w = true →
            exec (.mgetw d a b) s = .next (s.takeTrap t ⟨.poison, a.reg.setWidth 64, 0, none, none⟩))
          ∧ ((w < t.passes → (t.mbad a.reg).getLsbD w = false) →
            exec (.mgetw d a b) s = .next (s.putTeam { t.past with
              sregs := scalarsAfter t (lastOf [b]) [(d, if w < t.passes then maskWord (t.mbits a.reg) w else 0)]
              masks := masksAfter t (lastMasks [a]) [] })))
        ∧ ∀ (d : MReg) (a b : Src) (s : State) (t : Team), Issues s t { srcs := useS [a, b], dsts := [.m d] } →
          exec (.msetw d a b) s = .next (s.putTeam { t.past with
            sregs := scalarsAfter t (lastOf [a, b]) []
            masks := .ofFn fun i : Fin 16 =>
              if d = 0#4 ∨ i.val ≠ d.toNat ∨ t.tw ≤ 32 * (t.sval a.reg).toNat then t.masks[i]
              else .live
                (bitsOfList ((List.range 1024).map fun l =>
                  if l / 32 = (t.sval a.reg).toNat then (t.sval b.reg).getLsbD (l % 32) else (t.mbits d).getLsbD l))
                (.ofNat 32 ((t.mbad d).toNat - (if (t.mbad d).getLsbD (t.sval a.reg).toNat
                  then 2 ^ (t.sval a.reg).toNat else 0))) }))
      ∧ ((∀ (a : MSrc) (s : State) (t : Team), Issues s t { srcs := useM [a] } → t.structured = false →
        exec (.exmset a) s = .next (s.putTeam { t.past with
          exmBits := t.mbits a.reg &&& lanesBelow t.tw, exmPoison := 0, masks := masksAfter t (lastMasks [a]) [] }))
        ∧ (∀ (a : MSrc) (s : State) (t : Team), s.curTeam = some t → t.structured = true →
          exec (.exmset a) s = .next (s.takeTrap t ⟨.illegalMode, 0, 0, none, none⟩))
        ∧ ∀ (d : MReg) (s : State) (t : Team), Issues s t { dsts := [.m d], exm := true } →
          exec (.exmget d) s = .next (s.putTeam { t.past with masks := masksAfter t [] [(d, t.exm)] })))

/-! ### MODE and special registers -/

/-- The checks of R96 on a MODE value: bits 31..13 zero, a rounding mode that R65 and R91 permit. -/
def modeAccepted (nvr : Nat) (v : Word) : Prop :=
  v.toNat < 2 ^ 13 ∧ fld 5 3 v.toNat ≤ 4 ∧ (nvr = 1 → fld 5 3 v.toNat = 0)

/-- 07 R96, 09 R138: MODEW, SETMODE and SWR to 0x000 set MODE to a value that passes the checks, and raise ILLEGAL_MODE
before any effect for any other. 07 R94, R95, R98; 09 R139; 03 R52; 25 R350; 21 R309: SWR replaces FLAGS, LAVC, SLIM and
the modulo registers, keeping the reserved bits clear, and is ignored for a read-only register of a team. In a
privileged context it writes a device-wide register: HANGLIM, the group table's registers, DEVID, XVAL and XVAH as they
are, the overflow list's while it is empty, PCAP up to PLIMIT; a read-only one is left alone. A write of 0x112
invalidates: for a context of the run list it waits for the accesses and copies in flight of the context's teams, all of
them or those that the page which XVAL and XVAH name translated, as they carry it; then the context's pending
translations are tried again, all of them or those of that address's 1 GiB region (21 R309, R312); for any other it does
nothing. (GRPLO takes the value as it is written: the model's choice, log entry 42.) -/
def Obligations.SpecialRegisterWrites : Prop :=
  (
    (∀ (a : Src) (s : State) (t : Team), Issues s t { srcs := useS [a] } →
      (modeAccepted (s.ctxOf t).nvr (t.sval a.reg) → exec (.modew a) s = .next (s.putTeam { t.past with
          mode := t.sval a.reg, sregs := scalarsAfter t (lastOf [a]) [] }))
        ∧ (¬ modeAccepted (s.ctxOf t).nvr (t.sval a.reg) →
          exec (.modew a) s = .next (s.takeTrap t ⟨.illegalMode, 0, 0, none, none⟩)))
      ∧ (∀ (k : BitVec 20) (s : State) (t : Team), s.curTeam = some t →
        (modeAccepted (s.ctxOf t).nvr (k.setWidth 32) →
          exec (.setmode k) s = .next (s.putTeam { t.past with mode := k.setWidth 32 }))
          ∧ (¬ modeAccepted (s.ctxOf t).nvr (k.setWidth 32) →
            exec (.setmode k) s = .next (s.takeTrap t ⟨.illegalMode, 0, 0, none, none⟩)))
      ∧ ∀ (r : Reg) (s : State) (t : Team), Issues s t { srcs := useS [⟨r, false⟩] } →
        (modeAccepted (s.ctxOf t).nvr (t.sval r) →
          exec (.swr 0 r) s = .next (s.putTeam { t.past with mode := t.sval r }))
          ∧ (¬ modeAccepted (s.ctxOf t).nvr (t.sval r) →
            exec (.swr 0 r) s = .next (s.takeTrap t ⟨.illegalMode, 0, 0, none, none⟩)))
  ∧ (
    (∀ (r : Reg) (s : State) (t : Team), Issues s t { srcs := useS [⟨r, false⟩] } →
        (t.matrixPending = false →
          exec (.swr 0x003 r) s = .next (s.putTeam { t.past with flags := .ofNat 32 (fld 0 5 (t.sval r).toNat) }))
        ∧ exec (.swr 0x004 r) s = .next (s.putTeam { t.past with lavc := .ofNat 32 (fld 0 24 (t.sval r).toNat) })
        ∧ exec (.swr 0x01C r) s = .next (s.putTeam { t.past with slim := .ofNat 32 ((t.sval r).toNat / 16 * 16) })
        ∧ (∀ i : Fin 8,
          exec (.swr (.ofNat 12 (0x020 + 2 * i.val)) r) s =
              .next (s.putTeam { t.past with qStart := t.qStart.set i.val (t.sval r) })
            ∧ exec (.swr (.ofNat 12 (0x021 + 2 * i.val)) r) s =
              .next (s.putTeam { t.past with qLen := t.qLen.set i.val (t.sval r) }))
        ∧ ∀ n ∈ [0x001, 0x002, 0x010, 0x011, 0x012, 0x013, 0x014, 0x018, 0x019, 0x01A, 0x01B, 0x030, 0x031, 0x040, 0x041,
            0x042, 0x050, 0x051, 0x05F, 0x060],
          exec (.swr (.ofNat 12 n) r) s = .next (s.putTeam t.past))
      ∧ (∀ (n : BitVec 12) (r : Reg) (s : State) (t : Team), Issues s t { srcs := useS [⟨r, false⟩] } →
        (s.ctxOf t).priv = true → privSpecial n.toNat = true → n ≠ 0x112#12 →
        ∃ g : Privileged,
          exec (.swr n r) s = .next { s.putTeam t.past with dev := { s.dev with regs := g } }
            ∧ (n = 0x102#12 → g = { s.dev.regs with hanglim := t.sval r })
            ∧ (n = 0x104#12 → (s.putTeam t.past).armedBells.all (fun b => !b.listed) = true →
              g = { s.dev.regs with ovflo := t.sval r &&& 0xFFFF0000#32 })
            ∧ (n = 0x105#12 → (s.putTeam t.past).armedBells.all (fun b => !b.listed) = true →
              g = { s.dev.regs with ovfhi := t.sval r &&& 0xFFFFF#32 })
            ∧ (n = 0x106#12 → (s.putTeam t.past).armedBells.all (fun b => !b.listed) = true →
              g = { s.dev.regs with ovfcap := t.sval r &&& 0xFFFF#32 })
            ∧ (n ∈ [0x104#12, 0x105#12, 0x106#12] → (s.putTeam t.past).armedBells.any (fun b => b.listed) = true →
              g = s.dev.regs)
            ∧ (n = 0x108#12 → g = { s.dev.regs with grplo := t.sval r })
            ∧ (n = 0x109#12 → g = { s.dev.regs with grphi := t.sval r &&& 0xFFFFF#32 })
            ∧ (n = 0x10A#12 → g = { s.dev.regs with grpcnt := t.sval r &&& 0x1FFF#32 })
            ∧ (n = 0x10C#12 → g = { s.dev.regs with devid := t.sval r &&& 0xFFF#32 })
            ∧ (n = 0x110#12 → g = { s.dev.regs with xval := t.sval r })
            ∧ (n = 0x111#12 → g = { s.dev.regs with xvah := t.sval r })
            ∧ (n = 0x121#12 → g = { s.dev.regs with
              pcap := .ofNat 32 (min (fld 0 12 (t.sval r).toNat) s.dev.flash.plimit.toNat) })
            ∧ (n ∈ [0x100#12, 0x101#12, 0x120#12, 0x122#12] → g = s.dev.regs))
      ∧ ∀ (r : Reg) (s : State) (t : Team), Issues s t { srcs := useS [⟨r, false⟩] } → (s.ctxOf t).priv = true →
        let ctx := fld 0 16 (t.sval r).toNat
        let op := fld 16 2 (t.sval r).toNat
        let va := s.dev.regs.xval.toNat + 2 ^ 32 * s.dev.regs.xvah.toNat
        let mine (id : Nat) : Bool := (s.putTeam t.past).teams.any fun u => u.id == id && u.ctx == ctx
        let busy : Bool := s.flight.accesses.any (fun a => mine a.team) || s.flight.copies.any fun c => mine c.team
        let covers (g : VPage) : Bool := va / 2 ^ g.bits == g.number
        let pageBusy : Bool := s.flight.accesses.any (fun a => mine a.team && a.page.any covers)
          || s.flight.copies.any fun c => mine c.team && c.mapped.any covers
        let after (covers : Team → Bool) : State :=
          { s.putTeam t.past with teams := (s.putTeam t.past).teams.map fun u =>
            if u.id ≠ t.id ∧ u.ctx = ctx ∧ covers u then u.retry else u }
        ((s.ctx? ctx).isNone = true ∨ 2 ≤ op → exec (.swr 0x112 r) s = .next (s.putTeam t.past))
        ∧ ((s.ctx? ctx).isSome = true → (op = 0 ∧ busy = true ∨ op = 1 ∧ pageBusy = true) →
          exec (.swr 0x112 r) s = .next (s.stall t))
        ∧ ((s.ctx? ctx).isSome = true → op = 0 → busy = false →
          exec (.swr 0x112 r) s = .next (after fun _ => true))
        ∧ ((s.ctx? ctx).isSome = true → op = 1 → pageBusy = false →
          exec (.swr 0x112 r) s = .next (after fun u => u.pendingAddr.any fun a => a.toNat / 2 ^ 30 == va / 2 ^ 30)))

/-- A word is made of fields, lowest first, each given by its width and its value. -/
def fieldsOf (w : Word) : List (Nat × Nat) → Prop
  | [] => w = 0
  | (n, v) :: rest => v < 2 ^ n ∧ fld 0 n w.toNat = v ∧ fieldsOf (w >>> n) rest

/-- 07 R94, R95; 25 R350: SRD of a listed register, in a privileged context for numbers from 0x100 on, writes its value
to sd; a read of 0x100 also captures the time base for 0x101, as the core's die reads it: at most 2 ticks behind the
master and never falling (25 R351; which die's copy a core reads, and the lag, are the model's choice, log entry 16).
FLAGS is read once no matrix instruction is pending (17 R258). The values, register by register: the team's own; CID0
and CID1 from the cohort table (03 R49); CTB, a bit for each tag of the core whose batches have all performed (07 R99);
DPCAP, TAR, DFM and IMPL field by field (01 R21, R23, R24; 19 R284; 00 R6; HEAT of a core's tellers is a free value, log
entry 7); the device-wide registers as they stand. 07 R95, 25 R350: SRD and SWR of a number below 0x100 that R94 does
not list raise ILLEGAL_OPCODE; of a number from 0x100 on they raise PRIVILEGE in a context that is not privileged, and
in a privileged one ILLEGAL_OPCODE for a number that is no register. -/
def Obligations.SpecialRegisterReads : Prop :=
  (
    (∀ (d : Reg) (n : BitVec 12) (s : State) (t : Team), Issues s t { dsts := [.s d], exm := n == 1#12 } →
      (userSpecial n.toNat = true ∨ (s.ctxOf t).priv = true ∧ privSpecial n.toNat = true) →
      (n = 3#12 → t.matrixPending = false) →
      exec (.srd d n) s = .next (s.putTeam { t.past with
        sregs := scalarsAfter t [] [(d, specialValue s t n.toNat)]
        tbCapture := if n = 0x100#12 then s.coreTime t.core else t.tbCapture }))
      ∧ ∀ (s : State) (t : Team), specialValue s t 0x000 = t.mode ∧ specialValue s t 0x001 = summaryWord t.exm
        ∧ specialValue s t 0x002 = .ofNat 32 (s.ctxOf t).nvr ∧ specialValue s t 0x003 = t.flags
        ∧ specialValue s t 0x004 = t.lavc ∧ specialValue s t 0x010 = t.index.setWidth 32
        ∧ specialValue s t 0x011 = .ofNat 32 (32 * t.passes) ∧ specialValue s t 0x012 = t.nid
        ∧ specialValue s t 0x018 = t.vbase.setWidth 32 ∧ specialValue s t 0x019 = t.blocks.setWidth 32
        ∧ specialValue s t 0x01A = t.acb.setWidth 32 ∧ specialValue s t 0x01B = t.acl.setWidth 32
        ∧ specialValue s t 0x01C = t.slim ∧ specialValue s t 0x040 = .ofNat 32 t.core
        ∧ (∀ i : Fin 8, specialValue s t (0x020 + 2 * i.val) = t.qStart[i]
          ∧ specialValue s t (0x021 + 2 * i.val) = t.qLen[i])
        ∧ specialValue s t 0x100 = lowWord (s.coreTime t.core) ∧ specialValue s t 0x101 = highWord t.tbCapture
        ∧ s.dev.time.toNat - 2 ≤ (s.coreTime t.core).toNat ∧ (s.coreTime t.core).toNat ≤ s.dev.time.toNat
        ∧ (∀ (die now : Nat), dieReading die now ≤ dieReading die (now + 1))
        ∧ (∀ p ∈ [(t.cid0, 0x013), (t.cid1, 0x014)],
          (p.1 = 0 → specialValue s t p.2 = 0)
          ∧ ∀ c, p.1 ≠ 0 → s.cohort? t p.1 = some c → c.members.length ≤ 64 →
            fieldsOf (specialValue s t p.2) [(16, p.1.toNat), (1, if c.members.head? = some t.id then 1 else 0), (7, 0),
              (7, c.members.length), (1, 0)])
        ∧ (∀ k, k < 64 → ((specialValue s t (0x030 + k / 32)).getLsbD (k % 32) = true ↔
          (∃ b ∈ s.flight.batches, b.ctx = t.ctx ∧ b.core = t.core ∧ b.tag = k)
          ∧ ∀ b ∈ s.flight.batches, b.ctx = t.ctx → b.core = t.core → b.tag = k →
            ∀ x ∈ s.flight.copies, x.id ∉ b.copies))
        ∧ (let half := s.cores.half.getLsbD t.core
          let profN := s.dev.flash.profile.getLsbD (pairOf t.core)
          fieldsOf (specialValue s t 0x041) [(1, profN.toNat), (1, half.toNat),
            (1, if half then (s.cores.hsel.getLsbD t.core).toNat else 0), (1, (!profN).toNat), (12, 0),
            (6, if half then 16 else 32), (2, 0), (7, if half then 32 else 64), (1, 0)])
        ∧ (let hot := s.dev.hot.getLsbD (towerOf t.core)
          let budget := if hot then fld 20 12 s.dev.regs.therm.toNat else fld 8 12 s.dev.regs.therm.toNat
          let heats := ((s.teams.filter fun u => u.core == t.core && u.ctx == s.fe.running && !u.yielded).map (·.heat)).sum
          fieldsOf (specialValue s t 0x042) [(12, budget - heats - s.tellersHeat t.core), (12, budget),
            (7, (Assoc.get 0 s.dev.colTemp t.core).toNat), (1, hot.toNat)])
        ∧ (∀ n, n < 512 → ((specialValue s t (0x050 + n / 32)).getLsbD (n % 32) = true ↔
          let profN := s.dev.flash.profile.getLsbD (pairOf t.core) = true
          (n < 32 ∧ (profN → n ∉ [0x0A, 0x0B, 0x16, 0x17, 0x18, 0x1E]))
          ∨ n ∈ [0x06, 0x07, 0x08, 0x09, 0x0A, 0x0B, 0x14, 0x15, 0x17, 0x1D, 0x1E].map (32 + ·)
          ∨ ((n = 32 + 0x18 ∨ n = 64) ∧ ¬ profN) ∨ (n = 65 ∧ Config.recordsDigits = true)
          ∨ (n = 66 ∧ s.dev.flash.nativeAtomics = true) ∨ (96 ≤ n ∧ n ≤ 113)))
        ∧ (∃ builder step tmodel, 1 ≤ builder ∧ builder ≤ 0x7F ∧ tmodel ≤ 1
          ∧ ∀ (s : State) (t : Team), fieldsOf (specialValue s t 0x060) [(8, 0x08), (8, builder), (8, step), (4, tmodel), (4, 0)])
        ∧ [0x102, 0x104, 0x105, 0x106, 0x108, 0x109, 0x10A, 0x10C, 0x110, 0x111, 0x120, 0x121, 0x122].map
            (specialValue s t) =
          [s.dev.regs.hanglim, s.dev.regs.ovflo, s.dev.regs.ovfhi, s.dev.regs.ovfcap, s.dev.regs.grplo, s.dev.regs.grphi,
            s.dev.regs.grpcnt, s.dev.regs.devid, s.dev.regs.xval, s.dev.regs.xvah, s.dev.regs.therm, s.dev.regs.pcap,
            s.dev.regs.pnow])
  ∧ (
    ∀ (n : BitVec 12) (d : Reg) (s : State) (t : Team), s.curTeam = some t →
      (n.toNat < 0x100 → userSpecial n.toNat = false →
        exec (.srd d n) s = .next (s.takeTrap t ⟨.illegalOpcode, 0, 0, none, none⟩)
          ∧ exec (.swr n d) s = .next (s.takeTrap t ⟨.illegalOpcode, 0, 0, none, none⟩))
      ∧ (0x100 ≤ n.toNat → (s.ctxOf t).priv = false →
        exec (.srd d n) s = .next (s.takeTrap t ⟨.privilege, n.setWidth 64, 0, none, none⟩)
          ∧ exec (.swr n d) s = .next (s.takeTrap t ⟨.privilege, n.setWidth 64, 0, none, none⟩))
      ∧ (0x100 ≤ n.toNat → (s.ctxOf t).priv = true → privSpecial n.toNat = false →
        exec (.srd d n) s = .next (s.takeTrap t ⟨.illegalOpcode, 0, 0, none, none⟩)
          ∧ exec (.swr n d) s = .next (s.takeTrap t ⟨.illegalOpcode, 0, 0, none, none⟩)))

/-- 09 R142, 03 R54: REGACQ and REGREL move the top of the register window; registers that join or leave it are dead. A
request beyond register 63 raises REG_BOUND; one beyond the block limit stalls, or answers 1 under .NB. REGREL waits for
loads in flight to the registers that it releases, by the model's reading (03 R35; log entry 11). -/
def Obligations.RegisterWindow : Prop :=
  ∀ (k : BitVec 3) (d : Reg) (s : State) (t : Team), Issues s t { dsts := [.s d] } →
    let top := t.vbase.toNat + t.blocks.toNat
    let dead (lo hi : Nat) : Vector VReg 64 :=
      .ofFn fun i : Fin 64 => if 8 * lo ≤ i.val ∧ i.val < 8 * hi then .dead else t.vregs[i]
    (8 < top + k.toNat →
      exec (.regacq k) s = .next (s.takeTrap t ⟨.regBound, .ofNat 64 (8 * (top + k.toNat) - 1), 0, none, none⟩)
        ∧ exec (.regacqNb d k) s =
          .next (s.takeTrap t ⟨.regBound, .ofNat 64 (8 * (top + k.toNat) - 1), 0, none, none⟩))
    ∧ (top + k.toNat ≤ 8 → t.blockLimit.toNat < t.blocks.toNat + k.toNat →
      exec (.regacq k) s = .next (s.stall t)
        ∧ exec (.regacqNb d k) s = .next (s.putTeam { t.past with sregs := scalarsAfter t [] [(d, 1)] }))
    ∧ (top + k.toNat ≤ 8 → t.blocks.toNat + k.toNat ≤ t.blockLimit.toNat →
      exec (.regacq k) s = .next (s.putTeam { t.past with
          blocks := .ofNat 4 (t.blocks.toNat + k.toNat), vregs := dead top (top + k.toNat) })
        ∧ exec (.regacqNb d k) s = .next (s.putTeam { t.past with
          blocks := .ofNat 4 (t.blocks.toNat + k.toNat), vregs := dead top (top + k.toNat)
          sregs := scalarsAfter t [] [(d, 0)] }))
    ∧ (t.blocks.toNat < 1 + k.toNat →
      exec (.regrel k) s = .next (s.takeTrap t ⟨.regBound, .ofNat 64 (8 * t.vbase.toNat), 0, none, none⟩))
    ∧ (1 + k.toNat ≤ t.blocks.toNat →
      let released : Shape :=
        { unread := [⟨.vgroup (.ofNat 6 (8 * (t.blocks.toNat - k.toNat))) (8 * k.toNat), false⟩] }
      (released.check t s = some .stall → exec (.regrel k) s = .next (s.stall t))
        ∧ (released.check t s = none →
          exec (.regrel k) s = .next (s.putTeam { t.past with
            blocks := .ofNat 4 (t.blocks.toNat - k.toNat), vregs := dead (top - k.toNat) top })))

/-! ### Branches, calls, transfers and structured opcodes -/

/-- The target of a branch: its own address plus 4 times the signed displacement (07 R107). -/
def targetOf (t : Team) (displacement : Int) : Addr := .ofInt 64 (t.pc.toNat + 4 * displacement)

/-- 09 R127, R128; 03 R41: a branch on a scalar register or on a mask; taken, it sets PC to its target, else to the next
word, and nothing else changes. In structured style the mask branches raise ILLEGAL_MODE. 09 R125, R126, R130: BR and
CALL read their target's word once, and link exactly when it is the ENTRY word; CALLR and JMPR check the alignment of
the address in the pair, read its word and raise ENTRY_MISSING for any other word. The word read is the one executed
next. A fault of the read is the branch's own; where the far end cannot be reached, ACQUIRE_FAILED pends and the branch
executes again after it (log entry 30). -/
def Obligations.BranchesCallsAndJumps : Prop :=
  (
    (∀ (r : Reg) (i : BitVec 19) (s : State) (t : Team), Issues s t { srcs := useS [⟨r, false⟩] } →
      exec (.bz r i) s = .next (s.putTeam (if t.sval r = 0 then t.arrived (targetOf t i.toInt) else t.past))
        ∧ exec (.bnz r i) s = .next (s.putTeam (if t.sval r = 0 then t.past else t.arrived (targetOf t i.toInt))))
      ∧ (∀ (m : MReg) (i : BitVec 20) (s : State) (t : Team), t.structured = false →
        Issues s t { srcs := useM [⟨m, false⟩], exm := true } →
        exec (.bany m i) s =
            .next (s.putTeam (if t.mbits m &&& t.exm = 0 then t.past else t.arrived (targetOf t i.toInt)))
          ∧ exec (.ball m i) s =
            .next (s.putTeam (if t.exm &&& ~~~t.mbits m = 0 then t.arrived (targetOf t i.toInt) else t.past))
          ∧ exec (.bnone m i) s =
            .next (s.putTeam (if t.mbits m &&& t.exm = 0 then t.arrived (targetOf t i.toInt) else t.past)))
      ∧ ∀ (m : MReg) (i : BitVec 20) (s : State) (t : Team), s.curTeam = some t → t.structured = true →
        ∀ b ∈ [Instr.bany m i, .ball m i, .bnone m i],
          exec b s = .next (s.takeTrap t ⟨.illegalMode, 0, 0, none, none⟩))
  ∧ (
    (∀ (i : BitVec 26) (s : State) (t : Team), Issues s t { dsts := [.s 63] } →
      (∀ w, fetch32 s t (targetOf t i.toInt) = .ok w →
        exec (.br i) s = .next (s.putTeam { t.arrived (targetOf t i.toInt) with
          fetched := some w
          sregs := if w = 0x5D000000#32 then scalarsAfter t [] [(63, lowWord (t.pc + 4#64))] else t.sregs }))
        ∧ ∀ x, fetch32 s t (targetOf t i.toInt) = .error x →
          exec (.br i) s = .next (s.refusedAt t (targetOf t i.toInt) x))
      ∧ ∀ p ∈ ([(.callr, true), (.jmpr, false)] : List ((Src → Instr) × Bool)),
        ∀ (a : Src) (s : State) (t : Team),
          Issues s t { srcs := useP [a], dsts := if p.2 then [.s 63] else [] } →
          ((t.pair a.reg).toNat % 4 ≠ 0 →
            exec (p.1 a) s = .next (s.takeTrap t ⟨.misaligned, t.pair a.reg, 0, none, none⟩))
          ∧ ((t.pair a.reg).toNat % 4 = 0 →
            (∀ x, fetch32 s t (t.pair a.reg) = .error x → exec (p.1 a) s = .next (s.refusedAt t (t.pair a.reg) x))
            ∧ (∀ w, fetch32 s t (t.pair a.reg) = .ok w → w ≠ 0x5D000000#32 →
              exec (p.1 a) s = .next ((s.touch t.ctx (s.placesAt t [t.pair a.reg])).takeTrap t
                ⟨.entryMissing, t.pair a.reg, 0, none, none⟩))
            ∧ (fetch32 s t (t.pair a.reg) = .ok 0x5D000000#32 →
              exec (p.1 a) s = .next (s.putTeam { t.arrived (t.pair a.reg) with
                fetched := some 0x5D000000#32
                sregs := scalarsAfter t (lastPairs [a]) (if p.2 then [(63, lowWord (t.pc + 4#64))] else []) }))))

/-- 09 R131: RET returns within the 4 GiB region of the RET itself, with no check of the word there; it raises
MISALIGNED before any effect if s63 is not a multiple of 4. -/
def Obligations.ReturnInRegion : Prop :=
  ∀ (s : State) (t : Team), Issues s t { srcs := useS [⟨63, false⟩] } →
    ((t.sval 63).toNat % 4 = 0 →
      exec .ret s = .next (s.putTeam (t.arrived (.ofNat 64 (t.pc.toNat / 2 ^ 32 * 2 ^ 32 + (t.sval 63).toNat)))))
    ∧ ((t.sval 63).toNat % 4 ≠ 0 →
      exec .ret s = .next (s.takeTrap t
        ⟨.misaligned, .ofNat 64 (t.pc.toNat / 2 ^ 32 * 2 ^ 32 + (t.sval 63).toNat), 0, none, none⟩))

/-- 09 R132, 03 R44: ENTRY and NOP only advance PC; YIELD also ends every open promise; EXIT leaves the team's cohorts,
disarms its bells and lets it issue nothing further, whatever its registers and counters hold. A fault of a follow-on
that no wait reported is delivered first (13 R211), once no access in flight comes before its frame (15 R224; log entry
11, the model's reading). -/
def Obligations.HintsAndExit : Prop :=
  ∀ (s : State) (t : Team), s.curTeam = some t →
    exec .entry s = .next (s.putTeam t.past) ∧ exec .nop s = .next (s.putTeam t.past)
    ∧ exec .yield s = .next (s.putTeam { t.past with promises := [] })
    ∧ (t.followFaults = [] →
      let cs := leaveCohort s.cohorts t.ctx (towerOf t.core) t.cid0 t.id
      let cs := leaveCohort cs t.ctx (towerOf t.core) t.cid1 t.id
      exec .exit s = .next ({ s with cohorts := cs }.putTeam
        { t with
          cid0 := 0, cid1 := 0, bells := Vector.replicate 4 ⟨none, false⟩, cond := .exiting
          traps := [], promises := [], producer := none, dcrs := [] }))
    ∧ ∀ (cs : List Nat) (x : Trap) (rest : List (List Nat × Trap)), t.followFaults = (cs, x) :: rest →
      let t1 := { t with followFaults := rest }
      (s.frameHeld t = true → exec .exit s = .next (s.stall t))
        ∧ (s.frameHeld t = false →
          exec .exit s = .next (((s.putTeam t1).takeTrap t1 x).discardRest t.id (some cs) x))

/-- 21 R303, R304: `w` has the record of trap `x` that `v` did not have. Its 32 bytes, field by field, stand in slot 1 +
(PRODUCED mod 1,023) of the fault log at SAVE, PRODUCED has counted it, and no other byte of memory has changed. (That
SAVE is a device physical address, and that HBM repeats there, is the model's choice, log entries 43, 64 and 71.) -/
def recorded (v w : State) (t : Team) (x : Trap) (fatal async : Bool) : Prop :=
  ∀ c, v.ctx? t.ctx = some c →
    let slot := physical (c.save.toNat + 32 * (1 + c.produced % 1023))
    let header := physical c.save.toNat
    let field (o n : Nat) : Nat := leNat (w.mem.bytes (slot + o) n)
    (w.ctx? t.ctx).map (·.produced) = some (c.produced + 1)
    ∧ (v.canonical →
      field 0 8 = (v.coreTime t.core).toNat
      ∧ field 8 8 % 2 ^ 57 = (x.pcw.getD t.pc).toNat % 2 ^ 57 ∧ field 8 8 / 2 ^ 57 = t.corr.toNat
      ∧ field 16 8 % 2 ^ 57 = x.addr.toNat % 2 ^ 57 ∧ field 16 8 / 2 ^ 57 % 2 ^ 6 = x.code.num
      ∧ field 16 8 / 2 ^ 63 = fatal.toNat
      ∧ field 24 4 = t.nid.toNat
      ∧ field 28 2 = t.index.toNat ∧ field 28 4 / 2 ^ 16 % 2 ^ 10 = x.lane.getD 0x3FF
      ∧ field 28 4 / 2 ^ 26 % 2 ^ 4 = x.cause ∧ field 28 4 / 2 ^ 30 = async.toNat
      ∧ leNat (w.mem.bytes header 4) = (c.produced + 1) % 2 ^ 32
      ∧ ∀ a : Nat, (a < slot ∨ slot + 32 ≤ a) → (a < header ∨ header + 4 ≤ a) → w.mem.byte a = v.mem.byte a)

/-- 21 R301: between `v` and `w` the team ends through trap `x`: its record is FATAL, it exits as it stood, and its node
has one more record and STATUS 1 at least, 2 for DIE_LOST. -/
def endsThrough (v w : State) (t : Team) (x : Trap) : Prop :=
  recorded v w t x true false
  ∧ (∃ u, w.team? t.id = some u ∧ u.cond = .exiting ∧ u.sregs = t.sregs ∧ u.pc = t.pc)
  ∧ ∀ n ∈ v.nodes, n.id = t.node → ∃ n' ∈ w.nodes, n'.id = n.id ∧ n'.faults = n.faults + 1
    ∧ (if x.code = .dieLost then n'.status = 2 else n'.status = max n.status 1)

/-- 21 R321: between `v` and `w` the team stops for the debugger through trap `x`: its record has FATAL clear, and it
keeps its slot, its registers and its stopping point. -/
def stopsFor (v w : State) (t : Team) (x : Trap) : Prop :=
  recorded v w t x false false
  ∧ w = (v.writeRecord t x false false).modTeam t.id fun u => { u with
      cond := .stopped true .none, promises := [], producer := none, fetched := none, retried := false }

/-- Entry c of the vector table, where its read does not fault (21 R300). -/
def entryValue (r : State) (c : Context) (code : TrapCode) : Option Nat :=
  match r.feTranslate c (c.trapvec + .ofNat 64 (8 * code.num)) .read with
  | .error _ => none
  | .ok p => if r.mem.anyBad p.loc 8 = true ∨ r.reachable p = false then none else some (leNat (r.readPlace p 8))

/-- 21 R300, R304, R312, R321: `w` is `s` with trap `x` of its team delivered. A TRANSLATION of an instruction that is
tried again has CAUSE 3. In an attached context BREAK and WATCH stop the team for the debugger, and so does any trap whose
entry would end it. Otherwise the record is written, and then the value of the vector table's entry decides. -/
def delivered (s : State) (t : Team) (x : Trap) (w : State) : Prop :=
  let y : Trap := if t.retried = true ∧ x.code = .translation then { x with cause := 3 } else x
  let c := s.ctxOf t
  let v := s.touchFe t.ctx [c.trapvec + .ofNat 64 (8 * x.code.num)]
  let r := v.writeRecord t y false false
  let failed : Trap := { y with cause := 0xF }
  let stays : Prop := c.attached = true ∧ (x.code = .break_ ∨ x.code = .watch)
  let ends (z : Trap) : Prop :=
    (c.attached = true → stopsFor v w t y) ∧ (c.attached = false → endsThrough v w t z)
  (stays → stopsFor s w t y)
  ∧ (¬ stays →
    recorded v r t y false false
    ∧ (entryValue r c x.code = some 0 ∨ (entryValue r c x.code = some 1 ∧ x.code ≠ .translation) → ends y)
    ∧ (entryValue r c x.code = some 1 → x.code = .translation → w = r.modTeam t.id fun u =>
        { u with
          cond := .pendingTranslation y.addr y.lane, promises := [], producer := none, fetched := some s.sched.iw
          retried := false })
    ∧ (entryValue r c x.code = none → ends failed)
    ∧ ∀ e, entryValue r c x.code = some e →
      (1 < e → e % 4 ≠ 0 → ends failed)
      ∧ (e ≠ 0 → e % 4 = 0 →
        let seen := v.placesAt t [.ofNat 64 e]
        let u := (r.team? t.id).getD t
        (∀ z, fetch32 r t (.ofNat 64 e) = .error z → endsThrough (v.touch t.ctx seen) w t failed)
        ∧ ∀ word, fetch32 r t (.ofNat 64 e) = .ok word →
          let called := transfer (r.touch t.ctx seen) u (.ofNat 64 e) t.pc s.sched.iw x.code.num false
          (∀ z, called = .error z → endsThrough (v.touch t.ctx (seen ++ v.frameTried u)) w t failed)
          ∧ ∀ s2, called = .ok s2 → w = s2))

/-- 09 R141, 21 R299: TRAP raises SOFTWARE with its number and the stopping point after itself, BRK raises BREAK with
its number and the stopping point at itself, and both are delivered, whatever the entry of the context's vector table
holds. 21 R300, R301, R303, R304, R312: of every trap the record is written, every field of it, and PRODUCED counts it;
then the entry decides. Zero, or 1 for a code other than TRANSLATION: the team ends, its record FATAL, and its node has
STATUS 1 at least; 1 for TRANSLATION: the team holds a pending translation; a multiple of 4 that names a routine which
can be fetched: the transfer of R133 with the stopping point as the return address; a transfer that fails, an entry that
cannot be read and any other value: the team ends with CAUSE 0xF. A trap waits while an access of its team in flight
comes before its frame, by the model's reading (15 R224; log entry 11). In a context with a debugger BREAK, WATCH and
every trap whose entry would end the team stop it instead, FATAL clear (21 R321). A FEATURE_ABSENT with a routine bound
in the node's feature-table entry and in the emulation vector is an emulation call, which enters the routine with the
next instruction as the return address and KIND.EMU 1, writes no record and marks the node; a fault of its frame write is
raised at the instruction (23 R329, R330). Model's choices: the spaces of TRAPVEC and of the record, what a routine that
cannot be fetched leaves, FATAL in a record of a team that ends, an entry that cannot be read in a context with a
debugger, STATUS 2 kept whichever of two traps came first (log entries 8, 43, 65, 69 and 98). -/
def Obligations.TrapsRaisedAndDelivered : Prop :=
  (
    ∀ (n : BitVec 12) (s : State) (t : Team), s.curTeam = some t →
      (s.frameHeld t = false → exec (.trap n) s =
          .next ((s.putTeam t.past).takeTrap t.past ⟨.software, n.setWidth 64, 0, none, some t.pc⟩))
        ∧ (s.frameHeld t = true → exec (.trap n) s = .next (s.stall t))
        ∧ exec (.brk n) s = .next (s.takeTrap t ⟨.break_, n.setWidth 64, 0, none, none⟩))
  ∧ (
    ∀ (s : State) (t : Team) (x : Trap), s.curTeam = some t → x.cause < 16 → (∀ l ∈ x.lane, l < 1024) →
      let w := s.takeTrap t x
      let v := s.touchFe t.ctx (boundTried s t x.addr.toNat)
      (s.frameHeld t = true → w = s.stall t)
      ∧ (s.frameHeld t = false →
        (x.code ≠ .featureAbsent → delivered s t x w)
        ∧ (x.code = .featureAbsent →
          (boundRoutine s t x.addr.toNat = none → delivered v t x w)
          ∧ ∀ a, boundRoutine s t x.addr.toNat = some a →
            let called := transfer v t a (t.pc + 4#64) s.sched.iw 6 true
            (∀ s2, called = .ok s2 → w = s2.modNode t.node fun n => { n with emulated := true })
            ∧ ∀ z, called = .error z → delivered (v.touch t.ctx (s.frameTried t)) t z w)))
  ∧ (∀ (s : State) (t : Team) (b : Nat) (a : Addr),
      let c := s.ctxOf t
      let reads (va : Addr) (w : Nat) : Prop := ∃ p, s.feTranslate c va .read = .ok p ∧ s.reachable p = true
        ∧ leNat (s.readPlace p 8) = w
      boundRoutine s t b = some a ↔ b ≤ 64
        ∧ (∃ w, reads (c.feattab + .ofNat 64 (128 * t.featIdx + 64 + b / 64 * 8)) w ∧ w.testBit (b % 64) = true)
        ∧ ∃ w, reads (c.feattab + .ofNat 64 (128 * c.featcnt + 8 * b)) w ∧ w ≠ 0 ∧ a = .ofNat 64 w)
  ∧ ∀ (n : BitVec 12) (s : State) (t : Team), s.curTeam = some t → s.frameHeld t = false →
      (∃ w, exec (.trap n) s = .next w
        ∧ delivered (s.putTeam t.past) t.past ⟨.software, n.setWidth 64, 0, none, some t.pc⟩ w)
      ∧ ∃ w, exec (.brk n) s = .next w ∧ delivered s t ⟨.break_, n.setWidth 64, 0, none, none⟩ w

/-- 09 R133: a transfer lowers s62 by 32, writes the 32-byte frame at stack offset s62, clears s63 and enters the
routine; it changes no other register, mask, flag or EXM, and no other byte of memory. It clears the poison of the
words that the frame covers whole, and of no other (21 R314). (Where the frame lies in reachable memory, its bytes in
different places, while no atomic stands between its read and its write, 13 R195.) -/
def Obligations.TransferWritesFrame : Prop :=
  ∀ (s s' : State) (t : Team) (entry ra : Addr) (iw : Word) (code : Nat) (emu : Bool) (ps : List Place),
    s.canonical → s.team? t.id = some t → code < 2 ^ 8 →
    s.settled →
    placesOf s t (t.stackStart + (t.sval 62 - 32#32).setWidth 64) 32 .write = .ok ps →
    (∀ p ∈ ps, p.region ≠ .aperture ∧ s.reachable p = true) → (ps.map (·.loc)).Nodup →
    transfer s t entry ra iw code emu = .ok s' →
    (∃ u, s'.team? t.id = some u ∧ u = { t with
        pc := entry, sregs := scalarsAfter t [] [(63, 0), (62, t.sval 62 - 32#32)], bells := u.bells
        promises := [], producer := none, cond := .ready, fetched := none, retried := false })
      ∧ ps.map (fun p => s'.mem.byte p.loc) =
        leBytes 8 ra.toNat ++ leBytes 4 iw.toNat ++ leBytes 4 t.mode.toNat ++ leBytes 4 (t.sval 63).toNat
          ++ leBytes 4 (code + emu.toNat * 2 ^ 8) ++ leBytes 8 0
      ∧ (∀ a : Nat, a ∉ ps.map (·.loc) → s'.mem.byte a = s.mem.byte a)
      ∧ ∀ a : Nat, s'.mem.wordBad a =
        (s.mem.wordBad a && !(List.range 4).all fun i => (ps.map (·.loc)).contains (a / 4 * 4 + i))

/-- 09 R134: ERET returns through the 32 bytes at stack offset s62, with its checks in their order and each before any
effect; POISON names the lowest poisoned word that holds a byte of RA, MODE or LINK. It restores MODE, s63, s62 and PC,
ends every open promise, adds the frame's homes to the context's touched dies, a vault's only where the frame is read
(21 R319), and changes nothing else but the tower's copies of lines, which its strong reads drop (15 R223, R229). It
waits for those of the team's accesses in flight that lo places before its reads, and for loads in flight into s62 and
s63 (15 R224, 03 R35; log entry 11, the model's reading); where a peer that holds a byte cannot be reached,
ACQUIRE_FAILED pends and it executes again (log entry 30). (Where no debugger watches, 25 R360.) -/
def Obligations.ReturnFromTrap : Prop :=
  ∀ (s : State) (t : Team), Issues s t { srcs := useS [⟨62, false⟩], dsts := [.s 63, .s 62] } →
    let base := t.stackStart + (t.sval 62).setWidth 64
    (stackOk t (t.sval 62).toNat 32 = false →
      exec .eret s = .next (s.takeTrap t ⟨.stackLimit, (t.sval 62).setWidth 64, 0, none, none⟩))
    ∧ (stackOk t (t.sval 62).toNat 32 = true →
      (∀ (k : Nat) (ps : List Place) (x : Trap), k < 32 → placesOf s t base k .read = .ok ps →
        translate s (s.ctxOf t) t.core (base + .ofNat 64 k) .read = .error x →
        exec .eret s = .next ((s.touchNamed t.ctx ps).refusedAt t (base + .ofNat 64 k) x))
      ∧ ∀ ps, placesOf s t base 32 .read = .ok ps →
        let F := ps.flatMap fun p => s.readPlace p 1
        let word (o n : Nat) : Nat := leNat ((F.drop o).take n)
        let bad (o : Nat) : Bool := (ps[o]?).any fun p => s.mem.wordBad p.loc
        let used := [0, 1, 2, 3, 4, 5, 6, 7, 12, 13, 14, 15, 16, 17, 18, 19]
        let held := ∃ p ∈ ps, s.heldBack (t.byteAccess p false (p.order .rlx none) none) = true
        let u := s.touch t.ctx ps
        let checked := s.touchNamed t.ctx ps
        (held → exec .eret s = .next (checked.stall t))
        ∧ (¬ held → ∀ k, k < 32 → (∀ j < k, (ps[j]?).all s.reachable = true) → (ps[k]?).all s.reachable = false →
          exec .eret s = .next (checked.stall (t.pend ⟨.acquireFailed, base + .ofNat 64 k, 0, none, some t.pc⟩)))
        ∧ (¬ held → (∀ p ∈ ps, s.reachable p = true) →
          (∀ o, used.find? bad = some o → let a := base + .ofNat 64 o
            exec .eret s = .next (u.takeTrap t ⟨.poison, a - .ofNat 64 (a.toNat % 4), 1, none, none⟩))
          ∧ (used.find? bad = none →
            (¬ modeAccepted (s.ctxOf t).nvr (.ofNat 32 (word 12 4)) →
              exec .eret s = .next (u.takeTrap t ⟨.illegalMode, 0, 0, none, none⟩))
            ∧ (modeAccepted (s.ctxOf t).nvr (.ofNat 32 (word 12 4)) →
              (word 0 8 % 4 ≠ 0 →
                exec .eret s = .next (u.takeTrap t ⟨.misaligned, .ofNat 64 (word 0 8), 0, none, none⟩))
              ∧ (word 0 8 % 4 = 0 → s.unwatched →
                exec .eret s = .next ({ u with flight := { s.flight with
                    lines := s.flight.lines.filter fun l => !(l.tower == towerOf t.core && ps.any fun p =>
                      p.kind == PageKind.so
                        || (p.loc / 128 == l.line && s.flight.stored.contains (l.tower, l.line))) } }.putTeam
                  { t.arrived (.ofNat 64 (word 0 8)) with
                    mode := .ofNat 32 (word 12 4), promises := []
                    sregs := scalarsAfter t [] [(62, t.sval 62 + 32#32), (63, .ofNat 32 (word 16 4))] }))))))

/-- 03 R40 to R42, 09 R135: the structured opcodes change the nesting counters of all lanes below TW as the pseudocode
gives; where a counter would exceed 255 they raise NEST_OVERFLOW and change none; in mask style they raise ILLEGAL_MODE.
SENDLP goes back to the loop top while some lane's counter is 0. -/
def Obligations.StructuredOpcodes : Prop :=
  (∀ (m : MReg) (d : BitVec 8), ∀ p ∈ ([
      (.sif m, [⟨m, false⟩], fun cond c => if c ≠ 0 then c + 1 else if cond = false then 1 else c),
      (.selse, [], fun _ c => if c = 0 then 1 else if c = 1 then 0 else c),
      (.sendif, [], fun _ c => if c ≠ 0 then c - 1 else c),
      (.sloop, [], fun _ c => if c ≠ 0 then c + 2 else c),
      (.scont m d, [⟨m, false⟩], fun cond c => if c = 0 ∧ cond = true then d.toNat + 1 else c),
      (.sbrk m d, [⟨m, false⟩], fun cond c => if c = 0 ∧ cond = true then d.toNat + 2 else c)] :
      List (Instr × List MSrc × (Bool → Nat → Nat))),
    ∀ (s : State) (t : Team), Issues s t { srcs := useM p.2.1 } → t.structured = true →
      let new := (List.range t.tw).map fun l => p.2.2 ((t.mbits m).getLsbD l) (t.nestAt l).toNat
      ((∀ c ∈ new, c ≤ 255) → exec p.1 s = .next (s.putTeam { t.past with nest := new.map (.ofNat 8) }))
        ∧ ((∃ c ∈ new, 255 < c) → exec p.1 s = .next (s.takeTrap t ⟨.nestOverflow, 0, 0, none, none⟩)))
    ∧ (∀ (m : MReg) (i : BitVec 19) (s : State) (t : Team), Issues s t { srcs := useM [⟨m, false⟩] } →
      t.structured = true →
      let first := (List.range t.tw).map fun l =>
        let c := if (t.nestAt l).toNat = 1 then 0 else (t.nestAt l).toNat
        if c = 0 ∧ (t.mbits m).getLsbD l = false then 2 else c
      let last := first.map fun c => if c = 2 then 0 else if 2 < c then c - 2 else c
      exec (.sendlp m i) s = .next (s.putTeam (if 0 ∈ first
        then { t.arrived (targetOf t i.toInt) with nest := first.map (.ofNat 8) }
        else { t.past with nest := last.map (.ofNat 8) })))
    ∧ ∀ (m : MReg) (d : BitVec 8) (i : BitVec 19) (s : State) (t : Team), s.curTeam = some t → t.structured = false →
      ∀ b ∈ [Instr.sif m, .selse, .sendif, .sloop, .sbrk m d, .scont m d, .sendlp m i],
        exec b s = .next (s.takeTrap t ⟨.illegalMode, 0, 0, none, none⟩)

/-! ### Vector instructions -/

/-- The results of an element-wise operation in lane `l`, one per element of MODE.TYPE (11 R147), `rs` naming the
operands in the order a, b, d. -/
def elemOuts (t : Team) (op : ElemOp) (rs : List Reg) (l : Nat) : List Out :=
  (List.range (elemCount t.type)).map fun i =>
    op t.type t.rnd t.sat (rs.map fun r => (t.elemsOf t.type r l).getD i 0)

/-- The union of the flags over the active lanes and their elements (05 R67). -/
def elemFlags (t : Team) (op : ElemOp) (rs : List Reg) : Word :=
  .ofNat 32 (unionFlags (t.active.flatMap fun l => (elemOuts t op rs l).map (·.flags)))

/-- The vector registers after an element-wise operation into `d`. -/
def elemVectors (t : Team) (op : ElemOp) (d : Reg) (srcs : List Src) (rs : List Reg) : Vector VReg 64 :=
  vectorsAfter t (lastFields t.type srcs) (elemWrites t t.type d fun l => (elemOuts t op rs l).map (·.bits))

/-- NV of an invalid signed digit among the operands (05 R62, 11 R148). -/
def digitsInvalid (T : Nat) (xs : List Nat) : Nat := if xs.any fun x => (intValue T x).2 then fNV else 0

/-- An exact function of the operands' values, narrowed by Fit (11 R148). -/
def intOp (f : List Int → Int) : ElemOp := fun T _ sat xs =>
  ⟨fit T sat (f (xs.map fun x => (intValue T x).1)), digitsInvalid T xs⟩

/-- 11 R148, R151, R152, R153, R155: integer arithmetic on the elements of every active lane, exact and then narrowed by
Fit; VMULH takes the upper half of the product, SAT ignored; the shifts take their amount modulo the element's width.
Lanes that are not active keep their value (03 R34). 07 R93, R113; 03 R54; 21 R299, R315: the checks of VADD, VSUB,
VMUL, VMIN and VMAX in their order: an odd field where the type makes it a pair, the type itself, the window, and the
poison that the lowest active lane reads, which comes last by the model's choice (log entry 9); that ADDR is then the
virtual register number is the model's reading (log entry 27), and a last-use source that is also the destination stays
live, log entry 76. -/
def Obligations.VectorIntegerArithmetic : Prop :=
  ((∀ p ∈ ([(.vadd, fun xs => xs.getD 0 0 + xs.getD 1 0), (.vsub, fun xs => xs.getD 0 0 - xs.getD 1 0),
        (.vmul, fun xs => xs.getD 0 0 * xs.getD 1 0), (.vmin, fun xs => min (xs.getD 0 0) (xs.getD 1 0)),
        (.vmax, fun xs => max (xs.getD 0 0) (xs.getD 1 0))] :
        List ((Reg → Src → Src → Instr) × (List Int → Int))),
      ∀ (d : Reg) (a b : Src) (s : State) (t : Team), Issues s t (vecShape s t setI typeBits d [a, b] false) →
        exec (p.1 d a b) s = .next (s.putTeam { t.past with
          vregs := elemVectors t (intOp p.2) d [a, b] [a.reg, b.reg],
          flags := t.flags ||| elemFlags t (intOp p.2) [a.reg, b.reg] }))
      ∧ (∀ (d : Reg) (a b : Src) (s : State) (t : Team), Issues s t (vecShape s t setI typeBits d [a, b] true) →
        let op := intOp fun xs => xs.getD 2 0 + xs.getD 0 0 * xs.getD 1 0
        exec (.vmad d a b) s = .next (s.putTeam { t.past with
          vregs := elemVectors t op d [a, b] [a.reg, b.reg, d],
          flags := t.flags ||| elemFlags t op [a.reg, b.reg, d] }))
      ∧ ∀ (k : BitVec 12), ∀ p ∈ ([(.vabs, fun xs => |xs.getD 0 0|), (.vneg, fun xs => - xs.getD 0 0),
          (fun d a => .vaddi d a k, fun xs => xs.getD 0 0 + k.toInt)] : List ((Reg → Src → Instr) × (List Int → Int))),
        ∀ (d : Reg) (a : Src) (s : State) (t : Team), Issues s t (vecShape s t setI typeBits d [a] false) →
          exec (p.1 d a) s = .next (s.putTeam { t.past with
            vregs := elemVectors t (intOp p.2) d [a] [a.reg],
            flags := t.flags ||| elemFlags t (intOp p.2) [a.reg] }))
    ∧ (let arith (w a : Nat) : Int := if 2 ^ (w - 1) ≤ a then (a : Int) - 2 ^ w else a
    (∀ p ∈ ([(.vmulh, fun T a b =>
          (((intValue T a).1 * (intValue T b).1) / 2 ^ fieldWidth T % 2 ^ fieldWidth T).toNat),
        (.vshl, fun T a b => a * 2 ^ (b % fieldWidth T) % 2 ^ fieldWidth T),
        (.vshr, fun T a b => a / 2 ^ (b % fieldWidth T)),
        (.vsra, fun T a b => (arith (fieldWidth T) a / 2 ^ (b % fieldWidth T) % 2 ^ fieldWidth T).toNat)] :
        List ((Reg → Src → Src → Instr) × (Nat → Nat → Nat → Nat))),
      ∀ (d : Reg) (a b : Src) (s : State) (t : Team), Issues s t (vecShape s t setShift typeBits d [a, b] false) →
        exec (p.1 d a b) s = .next (s.putTeam { t.past with
          vregs := elemVectors t (fun T _ _ xs => ⟨p.2 T (xs.getD 0 0) (xs.getD 1 0), 0⟩) d [a, b] [a.reg, b.reg] }))
      ∧ ∀ (n : BitVec 5), ∀ p ∈ ([(fun d a => .vshli d a n, fun T a =>
            a * 2 ^ (n.toNat % fieldWidth T) % 2 ^ fieldWidth T),
          (fun d a => .vshri d a n, fun T a => a / 2 ^ (n.toNat % fieldWidth T))] :
          List ((Reg → Src → Instr) × (Nat → Nat → Nat))),
        ∀ (d : Reg) (a : Src) (s : State) (t : Team), Issues s t (vecShape s t setShift typeBits d [a] false) →
          exec (p.1 d a) s = .next (s.putTeam { t.past with
            vregs := elemVectors t (fun T _ _ xs => ⟨p.2 T (xs.getD 0 0), 0⟩) d [a] [a.reg] }))
    ∧ ∀ op ∈ ([.vadd, .vsub, .vmul, .vmin, .vmax] : List (Reg → Src → Src → Instr)),
      ∀ (d : Reg) (a b : Src) (s : State) (t : Team), s.curTeam = some t →
        let sh := vecShape s t setI typeBits d [a, b] false
        let fields := [a.reg, b.reg, d]
        let traps (x : Trap) : Prop := exec (op d a b) s = .next (s.takeTrap t x)
        let odd : Prop := t.type = 0x18 ∧ ∃ r ∈ fields, r.toNat % 2 = 1
        (odd → traps ⟨.illegalOpcode, 0, 0, none, none⟩)
        ∧ (¬ odd → setI t.type = false → traps ⟨.illegalMode, 0, 0, none, none⟩)
        ∧ (setI t.type = true →
          (∀ r ∈ fields, 8 * t.blocks.toNat ≤ r.toNat → (∀ q ∈ fields, 8 * t.blocks.toNat ≤ q.toNat → r.toNat ≤ q.toNat) →
            traps ⟨.regBound, .ofNat 64 (r.toNat + 8 * t.vbase.toNat), 0, none, none⟩)
          ∧ ((∀ r ∈ fields, r.toNat < 8 * t.blocks.toNat) →
            sh.waits t s = false → (∀ w < t.passes, t.exmBad.getLsbD w = false ∧ (t.mbad t.guard).getLsbD w = false) →
            ∀ l ∈ t.active, ∀ r ∈ [a.reg, b.reg], t.vbad r l = true → (r = a.reg ∨ t.vbad a.reg l = false) →
              (∀ k ∈ t.active, k < l → t.vbad a.reg k = false ∧ t.vbad b.reg k = false) →
              traps ⟨.poison, .ofNat 64 (t.virt r).toNat, 0, some l, none⟩))

/-- A mask result: the bit of every active lane, 0 for the others (03 R39). -/
def maskOfActive (t : Team) (f : Nat → Bool) : LaneBits :=
  bitsOfList ((List.range t.tw).map fun l => t.effective.getLsbD l && f l)

/-- The team without the result of a producer that is cancelled: its destination dead, and of FLAGS, NV apart, what it
newly set gone (05 R77); lanes of it that the cancelling instruction does not write then read zero, where it writes the
same register (log entry 23). -/
def withoutProducer (t : Team) (p : Producer) : Team :=
  { t with
    flags := t.flags &&& ~~~p.flags,
    vregs := vectorsAfter t (if p.wide then [p.dst, p.dst + 1#6] else [p.dst]) [] }

/-- 11 R153, R154, R159, R160: the comparisons of element 0 of each active lane, by value; a lane that is not active
gives 0; VFCMP raises NV as its table gives. 05 R76, R77; 11 R163, R164: a .K form right after its producer, reading the
producer's destination for the last time, cancels it; where nothing is cancelled it acts as the plain form. (That
VFSGN.K onto its producer's own destination leaves zero in the lanes it does not write is the model's reading, log entry
23; as everywhere, a last-use source that is also the destination stays live, log entry 76.) -/
def Obligations.VectorComparesAndCancellation : Prop :=
  (
    (∀ (c : IntCond) (d : MReg) (a b : Src) (s : State) (t : Team),
      Issues s t { srcs := useV [a, b], dsts := [.m d], vector := true,
                   early := typeTrap (pairFields t.type [a.reg, b.reg]) (setI t.type),
                   feature := featureTrap s t.core (typeBits t.type) } →
      let x (r : Reg) (l : Nat) : Int := (intValue t.type (elemAt t.type 0 (t.vval r l).toNat)).1
      let bad (r : Reg) (l : Nat) : Bool := (intValue t.type (elemAt t.type 0 (t.vval r l).toNat)).2
      let holds (x y : Int) : Bool := match c with
        | .eq => x = y
        | .ne => x ≠ y
        | .lt => x < y
        | .ge => y ≤ x
        | .le => x ≤ y
        | .gt => y < x
      exec (.vcmp c d a b) s = .next (s.putTeam { t.past with
        masks := masksAfter t [] [(d, maskOfActive t fun l => holds (x a.reg l) (x b.reg l))],
        vregs := vectorsAfter t (lastOf [a, b]) [],
        flags := t.flags ||| if t.active.any (fun l => bad a.reg l || bad b.reg l) then .ofNat 32 fNV else 0 }))
      ∧ ∀ (c : FpCond) (d : MReg) (a b : Src) (s : State) (t : Team),
        Issues s t { srcs := [⟨vField t.type a.reg, a.last⟩, ⟨vField t.type b.reg, b.last⟩], dsts := [.m d], vector := true,
                     early := typeTrap (pairFields t.type [a.reg, b.reg]) (setF t.type),
                     feature := featureTrap s t.core (typeBits t.type) } →
        let x (r : Reg) (l : Nat) : FVal := fpValue t.type ((t.elemsOf t.type r l).getD 0 0)
        exec (.vfcmp c d a b) s = .next (s.putTeam { t.past with
          masks := masksAfter t [] [(d, maskOfActive t fun l => fpCondition c (x a.reg l) (x b.reg l))],
          vregs := vectorsAfter t (lastFields t.type [a, b]) [],
          flags := t.flags ||| .ofNat 32 (unionFlags (t.active.map fun l => fpCondFlag c (x a.reg l) (x b.reg l))) }))
  ∧ (
    (∀ (c : FpCond) (d : MReg) (a b : Src) (s : State) (t : Team),
      Issues s t { srcs := [⟨vField t.type a.reg, a.last⟩, ⟨vField t.type b.reg, b.last⟩], dsts := [.m d], vector := true,
                   early := typeTrap (pairFields t.type [a.reg, b.reg]) (setF t.type),
                   feature := featureTrap s t.core (typeBits t.type) } →
      let x (r : Reg) (l : Nat) : FVal := fpValue t.type ((t.elemsOf t.type r l).getD 0 0)
      let f : Word := .ofNat 32 (unionFlags (t.active.map fun l => fpCondFlag c (x a.reg l) (x b.reg l)))
      let after (u : Team) : Team := { u.past with
        masks := masksAfter t [] [(d, maskOfActive t fun l => fpCondition c (x a.reg l) (x b.reg l))],
        vregs := vectorsAfter u (lastFields t.type [a, b]) [], flags := u.flags ||| f }
      (∀ p, t.producer = some p → t.pc = p.pc + 4#64 →
        ((a.last = true ∧ a.reg = p.dst) ∨ (b.last = true ∧ b.reg = p.dst)) →
        exec (.vfcmpK c d a b) s = .next (s.putTeam (after (withoutProducer t p))))
      ∧ ((t.producer.all fun p => ¬ (t.pc = p.pc + 4#64 ∧
          ((a.last = true ∧ a.reg = p.dst) ∨ (b.last = true ∧ b.reg = p.dst)))) = true → exec (.vfcmpK c d a b) s = .next (s.putTeam (after t))))
      ∧ ∀ (d : Reg) (a : Src) (s : State) (t : Team), Issues s t (vecShape s t setF typeBits d [a] false) →
        let op : ElemOp := signOp signumBits
        let after (u : Team) : Team := { u.past with
          vregs := vectorsAfter u (lastFields t.type [a])
            (elemWrites t t.type d fun l => (elemOuts t op [a.reg] l).map (·.bits))
          flags := u.flags ||| elemFlags t op [a.reg] }
        (∀ p, t.producer = some p → t.pc = p.pc + 4#64 → a.last = true → a.reg = p.dst →
          exec (.vfsgnK d a) s = .next (s.putTeam (after (withoutProducer t p))))
        ∧ ((t.producer.all fun p => ¬ (t.pc = p.pc + 4#64 ∧ a.last = true ∧ a.reg = p.dst)) = true →
          exec (.vfsgnK d a) s = .next (s.putTeam (after t))))

/-- A floating-point operation on the values of its operands. -/
def fpOp (f : Fmt → Nat → List FVal → Out) : ElemOp := fun T rnd _ xs => f (typeFmt T) rnd (xs.map (fpValue T))

/-- The rational number that an encoding stands for (05 R60). -/
def ratOf (f : Fmt) (x : Nat) : Option ℚ :=
  match f.decode x with
  | .fin neg n e => some ((if neg then -1 else 1) * n * (2 : ℚ) ^ e)
  | .inf _ => none
  | .nan _ => none

/-- RoundInt (05 R65): to nearest with ties to even, toward zero, up, down, to nearest with ties away from zero. -/
def roundInt (rnd : Nat) (x : ℚ) : ℤ :=
  let below := ⌊x⌋
  let near (tie : ℤ) : ℤ := if x - below < 1 / 2 then below else if 1 / 2 < x - below then below + 1 else tie
  match rnd with
  | 0 => near (if below % 2 = 0 then below else below + 1)
  | 1 => if 0 ≤ x then below else ⌈x⌉
  | 2 => ⌈x⌉
  | 3 => below
  | _ => near (if 0 ≤ x then below + 1 else below)

/-- Round (05 R66) of a rational x, 2^e ≤ |x| < 2^(e+1), to a format: y is x at the last place of its exponent, no lower
than that of the subnormal numbers, rounded by R65; where no finite number of the format is as large, Overflow. NX and
UF are as R66 gives, tininess seen after rounding. -/
def roundsAsStated : Prop :=
  ∀ (T : Nat) (f : Fmt) (rnd : Nat) (sat neg : Bool) (num den : Nat) (e : ℤ), fpFmt T = some f → rnd ≤ 4 →
    0 < num → 0 < den → (f.s = 1 ∨ neg = false) →
    let x : ℚ := (if neg then -1 else 1) * num / den
    (2 : ℚ) ^ e ≤ |x| → |x| < (2 : ℚ) ^ (e + 1) →
    let at_ (q : ℤ) : ℚ := roundInt rnd (x / (2 : ℚ) ^ q) * (2 : ℚ) ^ q
    let y := at_ (max e f.emin - f.m)
    let unbounded := at_ (e - f.m)
    let o := f.round rnd sat neg ⟨num, den, false⟩
    let tooBig : Prop := ∀ c v, ratOf f c = some v → v < |y|
    let finite : Prop := sat = true ∨ rnd = 1 ∨ (rnd = 2 ∧ neg = true) ∨ (rnd = 3 ∧ neg = false)
    (¬ tooBig → ratOf f o.bits = some y ∧ (y = 0 → o.bits = if neg then 2 ^ (f.e + f.m) else 0)
      ∧ o.flags = if y = x then 0 else if unbounded ≠ 0 ∧ |unbounded| < (2 : ℚ) ^ f.emin then fNX + fUF else fNX)
    ∧ (tooBig → o.flags = fOF + fNX
      ∧ (finite ∨ (f.inf = false ∧ f.nan = .none) → ∃ v, (∀ c w, ratOf f c = some w → w ≤ v)
        ∧ ratOf f o.bits = some ((if neg then -1 else 1) * v))
      ∧ (¬ finite → f.inf = true → f.decode o.bits = .inf neg)
      ∧ (¬ finite → f.inf = false → f.nan ≠ .none → o.bits = f.nanBits))

/-- 11 R156, 05 R65 to R69, R76: the arithmetic of majors 0x28 and 0x29, one rounding each; the instruction opens itself
as a producer, with the flags it newly set other than NV. 11 R157, R158, R161; 05 R69: minimum and maximum, sign
operations and VFCLASS; they read no rounding mode and open no producer. 05 R65, R66: the rounding itself, of every
format: to nearest even and its other modes, overflow, subnormal results, and the flags NX, UF and OF. 01 R23, R24; 07
R97: a core of profile N raises FEATURE_ABSENT with bit 56 for FP64 arithmetic. (By the model's choice a last-use source
that is also the destination stays live, log entry 76.) -/
def Obligations.VectorFloat : Prop :=
  roundsAsStated
  ∧ (
    let opened (t : Team) (op : ElemOp) (d : Reg) (srcs : List Src) (rs : List Reg) : Team := { t.past with
      vregs := elemVectors t op d srcs rs,
      flags := t.flags ||| elemFlags t op rs,
      producer := some ⟨t.pc, d, t.type == 0x18, elemFlags t op rs &&& ~~~t.flags &&& ~~~BitVec.ofNat 32 fNV⟩ }
    (∀ p ∈ ([(.vfadd, fpOp fun f rnd v => f.sumRound rnd false v),
        (.vfsub, fpOp fun f rnd v => f.sumRound rnd false [v.getD 0 (.nan false), (v.getD 1 (.nan false)).negate]),
        (.vfmul, fpOp fun f rnd v => mulOut f rnd (v.getD 0 (.nan false)) (v.getD 1 (.nan false)))] :
        List ((Reg → Src → Src → Instr) × ElemOp)),
      ∀ (d : Reg) (a b : Src) (s : State) (t : Team), Issues s t (vecShape s t setF typeBits d [a, b] false) →
        exec (p.1 d a b) s = .next (s.putTeam (opened t p.2 d [a, b] [a.reg, b.reg])))
      ∧ ∀ p ∈ ([(.vfma, fun f rnd a b d => fmaOut f rnd a b d), (.vfms, fun f rnd a b d => fmaOut f rnd a b d.negate),
          (.vfnma, fun f rnd a b d => fmaOut f rnd a.negate b d)] :
          List ((Reg → Src → Src → Instr) × (Fmt → Nat → FVal → FVal → FVal → Out))),
        ∀ (d : Reg) (a b : Src) (s : State) (t : Team), Issues s t (vecShape s t setF typeBits d [a, b] true) →
          exec (p.1 d a b) s = .next (s.putTeam (opened t (fpOp fun f rnd v =>
            p.2 f rnd (v.getD 0 (.nan false)) (v.getD 1 (.nan false)) (v.getD 2 (.nan false))) d [a, b]
            [a.reg, b.reg, d])))
  ∧ (
    (∀ p ∈ ([(.vfmin, pickOut false true), (.vfmax, pickOut true true), (.vfminm, pickOut false false),
        (.vfmaxm, pickOut true false)] : List ((Reg → Src → Src → Instr) × ElemOp)),
      ∀ (d : Reg) (a b : Src) (s : State) (t : Team), Issues s t (vecShape s t setF typeBits d [a, b] false) →
        exec (p.1 d a b) s = .next (s.putTeam { t.past with
          vregs := elemVectors t p.2 d [a, b] [a.reg, b.reg], flags := t.flags ||| elemFlags t p.2 [a.reg, b.reg] }))
      ∧ ∀ p ∈ ([(.vfabs, signOp fun f _ a => a % 2 ^ (f.e + f.m)),
          (.vfneg, signOp fun f v a => a % 2 ^ (f.e + f.m) + f.signBits (!v.neg?)),
          (.vfsgn, signOp fun f v a => if v.isZero then a else f.signBits v.neg? + f.bias * 2 ^ f.m),
          (.vfclass, fun T _ _ xs => ⟨classWord T (xs.getD 0 0), 0⟩)] : List ((Reg → Src → Instr) × ElemOp)),
        ∀ (d : Reg) (a : Src) (s : State) (t : Team), Issues s t (vecShape s t setF typeBits d [a] false) →
          exec (p.1 d a) s = .next (s.putTeam { t.past with
            vregs := elemVectors t p.2 d [a] [a.reg], flags := t.flags ||| elemFlags t p.2 [a.reg] }))
  ∧ ∀ op ∈ ([.vfadd, .vfsub, .vfmul] : List (Reg → Src → Src → Instr)),
    ∀ (d : Reg) (a b : Src) (s : State) (t : Team), s.curTeam = some t → t.type = 0x18 → profileN s t.core = true →
      (∀ r ∈ [a.reg, b.reg, d], r.toNat % 2 = 0 ∧ r.toNat < 8 * t.blocks.toNat) →
      exec (op d a b) s = .next (s.takeTrap t ⟨.featureAbsent, 56, 0, none, none⟩)

/-- The division recurrence of R81 on significands: w after digit j, and that digit. -/
def dividing (ma mb : ℚ) : Nat → ℚ × ℤ
  | 0 => (ma / 2, 0)
  | j + 1 =>
    let w := (dividing ma mb j).1
    let q : ℤ := if 0 < w then 1 else if w < 0 then -1 else 0
    (2 * w - q * mb, q)

/-- The square-root recurrence of R82: w and S after digit j, and that digit. -/
def rooting (m : ℚ) : Nat → (ℚ × ℚ) × ℤ
  | 0 => ((m - 1, 1), 0)
  | j + 1 =>
    let w := (rooting m j).1.1
    let root := (rooting m j).1.2
    let s : ℤ := if 0 < w then 1 else if w < 0 then -1 else 0
    let unit : ℚ := 1 / 2 ^ (j + 1)
    ((2 * w - 2 * root * s - |(s : ℚ)| * unit, root + s * unit), s)

/-- Norm (05 R81): |v| = m × 2^e with 1 ≤ m < 2. -/
def normOf (v : FVal) (m : ℚ) (e : ℤ) : Prop :=
  ∃ neg n h, v = .fin neg n h ∧ (n : ℚ) * (2 : ℚ) ^ (h : ℤ) = m * (2 : ℚ) ^ e ∧ 1 ≤ m ∧ m < 2

/-- The recurrence of an element, if its instruction has one (05 R81 to R83): w after digit j, and that digit. -/
def recurrenceOf (o : IterOp) (a b : FVal) (w : Nat → ℚ) (q : Nat → ℤ) : Prop :=
  match o with
  | .div => ∃ ma ea mb eb, normOf a ma ea ∧ normOf b mb eb ∧ ∀ j, (w j, q j) = dividing ma mb j
  | .rcp => ∃ mb eb, normOf a mb eb ∧ ∀ j, (w j, q j) = dividing 1 mb j
  | .sqrt => ∃ mx ex, normOf a mx ex ∧
    ∀ j, (w j, q j) = ((rooting (if ex % 2 = 0 then mx else 2 * mx) j).1.1, (rooting (if ex % 2 = 0 then mx else 2 * mx) j).2)
  | .rsq | .exp2 | .log2 => ∀ j, w j = 0 ∧ q j = 0

/-- OP in a record (05 R84), and the number of digits of the recurrence for a precision (05 R81 to R83). -/
def iterOpCode (o : IterOp) : Nat :=
  match o with
  | .div => 0x10
  | .sqrt => 0x11
  | .rsq => 0x12
  | .rcp => 0x13
  | .exp2 => 0x14
  | .log2 => 0x15
def iterDigits (o : IterOp) (f : Fmt) : Nat := if o ∈ [.div, .sqrt, .rcp] then f.p + 2 else 0

/-- The record that a stop of a vector instruction of the class writes for lane `l` after some number of digits (05 R83 to
R85): SPEC and FL tell of the elements that R69 fixes, the digit and residual fields of the others. -/
def laneRecord (o : IterOp) (t : Team) (rs : List Reg) (l : Nat) (r : Dcr) : Prop :=
  let T := t.type
  let two := elemCount T = 2
  let operand (k i : Nat) : FVal := fpValue T ((t.elemsOf T (rs.getD k 0) l).getD i 0)
  let fixed (i : Nat) : Option Out := iterSpecial o (typeFmt T) (operand 0 i) (operand 1 i)
  let spec (i : Nat) : Nat := if (fixed i).isSome = true then 1 else 0
  let width := if two then 56 else 112
  let residual (i : Nat) : BitVec width := .ofNat width (fld (144 + 56 * i) width r.record.toNat)
  r.pc = t.pc ∧ r.lane = some l ∧ ∃ k ≤ iterDigits o (typeFmt T),
    ((∀ i < elemCount T, (fixed i).isSome = true) → k = 0)
    ∧ headerIs r (iterOpCode o) k t.rnd T (unionFlags ((List.range (elemCount T)).filterMap fun i => (fixed i).map (·.flags)))
      (spec 0 + if two then 2 * spec 1 else 0)
    ∧ ∀ i < elemCount T,
      ((fixed i).isSome = true → (∀ j, 1 ≤ j → 2 * j ≤ width → digitBits r i j = 0) ∧ residual i = 0)
      ∧ (fixed i = none → ∃ w q, recurrenceOf o (operand 0 i) (operand 1 i) w q
        ∧ (∀ j, 1 ≤ j → 2 * j ≤ width → digitBits r i j = if k < j ∨ q j = 0 then 0 else if q j = 1 then 1 else 3)
        ∧ ((residual i).toInt : ℚ) = w k * 2 ^ (if two then 48 else 104))

/-- The vector instructions of the class (05 R79), with their number of sources. -/
def iteratives : List ((Reg → List Src → BitVec 4 → Instr) × IterOp × Nat) :=
  [(fun d srcs la => .vfdiv d (srcs.getD 0 ⟨0, false⟩) (srcs.getD 1 ⟨0, false⟩) la, .div, 2),
    (fun d srcs la => .vfsqrt d (srcs.getD 0 ⟨0, false⟩) la, .sqrt, 1),
    (fun d srcs la => .vfrsq d (srcs.getD 0 ⟨0, false⟩) la, .rsq, 1),
    (fun d srcs la => .vfrcp d (srcs.getD 0 ⟨0, false⟩) la, .rcp, 1),
    (fun d srcs la => .vfexp2 d (srcs.getD 0 ⟨0, false⟩) la, .exp2, 1),
    (fun d srcs la => .vflog2 d (srcs.getD 0 ⟨0, false⟩) la, .log2, 1)]

/-- 11 R162, R166; 05 R68, R69, R86: an iterative instruction gives each element the result that R69 fixes for its
operands, else the exact function rounded once, and so it does, with the flags of an uninterrupted run, where its lanes go
on from the records of a stop (05 R81 to R85), each after any number of digits; a lane whose record fails a test of R86 that does not look
at the operands starts again; all records are used up. Where the model does not decide to which side of a rounding boundary
the exact value of VFEXP2 or VFLOG2 falls, that is a free value of the operand: the model's choice (log entry 6), on whose
value nothing here rests; so is it that a last-use source that is also the destination stays live (log entry 76). -/
def Obligations.VectorIterative : Prop :=
  ∀ p ∈ iteratives, ∀ (d : Reg) (srcs : List Src) (la : BitVec 4) (s : State) (t : Team), srcs.length = p.2.2 →
    let rs := srcs.map (·.reg)
    (∀ r ∈ t.dcrs, r.pc = t.pc → ∀ l, r.lane = some l → laneRecord p.2.1 t rs l r
      ∨ discarded (iterOpCode p.2.1) (iterDigits p.2.1 (typeFmt t.type)) t.rnd t.type (elemCount t.type) r) →
      Issues s t { vecShape s t setF typeBits d srcs false with la := la.toNat } →
      let op : ElemOp := fun T rnd _ xs =>
        let a := fpValue T (xs.getD 0 0)
        let b := fpValue T (xs.getD 1 0)
        match iterSpecial p.2.1 (typeFmt T) a b with
        | some r => r
        | none => iterExact p.2.1 (typeFmt T) rnd (xs.getD 0 0) a b
      exec (p.1 d srcs la) s = .next (s.putTeam { t.past with
        vregs := elemVectors t op d srcs rs,
        flags := t.flags ||| elemFlags t op rs,
        producer := some ⟨t.pc, d, t.type == 0x18, elemFlags t op rs &&& ~~~t.flags &&& ~~~BitVec.ofNat 32 fNV⟩,
        promises := promisesAfter t la (.m t.guard :: srcs.map fun a => vField t.type a.reg) [vField t.type d]
        dcrs := [] })

/-- The writes of fields under a destination type, and the flags, of results given lane by lane. -/
def fieldVectors (t : Team) (used : List Reg) (D : Nat) (d : Reg) (f : Nat → List Out) : Vector VReg 64 :=
  vectorsAfter t used (elemWrites t D d fun l => (f l).map (·.bits))
def laneFlags (t : Team) (f : Nat → List Out) : Word :=
  .ofNat 32 (unionFlags (t.active.flatMap fun l => (f l).map (·.flags)))

/-- An old field that an instruction writes again: the bits that an element of a 10-bit or 12-bit format does not occupy
are written as zero (05 R64, 11 R147). -/
def keptField (D x : Nat) : Nat := if D = 0x1A then x % 2 ^ 10 else if D = 0x19 then x % 2 ^ 12 else x

/-- 11 R168 to R170, 05 R64: VCVT writes the fields that its selector names and keeps the others; VQNT scales by 2^(code
− 127) before it converts, and moves the old fields up. 11 R171, R172: VPACK narrows elements of twice the width by Fit,
VUNPK widens half of the fields, VDOT2, VDOT4 and VDOT8 add the products of a lane's elements to its old word, exactly
and then by Fit to 32 bits. (By the model's choice a last-use source that is also the destination stays live, log entry
76.) -/
def Obligations.VectorConversionsAndPacking : Prop :=
  (
    (∀ (d : Reg) (a : Src) (f sel : BitVec 5) (s : State) (t : Team) (p : CvtPlan),
      cvtPlan t.type f.toNat sel.toNat = some p →
      Issues s t { srcs := [⟨vField t.type a.reg, a.last⟩]
                     ++ (if p.k = elemCount f.toNat then [] else [⟨vField f.toNat d, false⟩]),
                   dsts := [vField f.toNat d], vector := true,
                   early := typeTrap (pairFields t.type [a.reg] ++ pairFields f.toNat [d]) true,
                   feature := featureTrap s t.core (convertBits t.type f.toNat) } →
      let out (l : Nat) : List Out := (List.range (elemCount f.toNat)).map fun j =>
        if p.d0 ≤ j ∧ j < p.d0 + p.k then
          if p.s0 + (j - p.d0) < elemCount t.type then
            convertElem (s.ctxOf t).nvr t.type f.toNat t.rnd t.sat ((t.elemsOf t.type a.reg l).getD (p.s0 + (j - p.d0)) 0)
          else ⟨(convert (s.ctxOf t).nvr f.toNat t.rnd t.sat (zeroSource t.type)).bits, 0⟩
        else ⟨keptField f.toNat ((t.elemsOf f.toNat d l).getD j 0), 0⟩
      exec (.vcvt d a f sel) s = .next (s.putTeam { t.past with
        vregs := fieldVectors t (lastFields t.type [a]) f.toNat d out, flags := t.flags ||| laneFlags t out }))
      ∧ ∀ (d : Reg) (a b : Src) (f : BitVec 5) (s : State) (t : Team),
        Issues s t { srcs := [⟨vField t.type a.reg, a.last⟩, ⟨.v b.reg, b.last⟩]
                       ++ (if elemCount t.type < elemCount f.toNat then [⟨vField f.toNat d, false⟩] else []),
                     dsts := [vField f.toNat d], vector := true,
                     early := typeTrap (pairFields t.type [a.reg] ++ pairFields f.toNat [d]) true,
                     feature := featureTrap s t.core (convertBits t.type f.toNat) } →
        let k := min (elemCount t.type) (elemCount f.toNat)
        let out (l : Nat) : List Out := (List.range (elemCount f.toNat)).map fun j =>
          if j < k then quantElem (s.ctxOf t).nvr t.type f.toNat t.rnd t.sat (fld 0 8 (t.vval b.reg l).toNat)
            ((t.elemsOf t.type a.reg l).getD j 0)
          else ⟨keptField f.toNat ((t.elemsOf f.toNat d l).getD (j - k) 0), 0⟩
        exec (.vqnt d a b f) s = .next (s.putTeam { t.past with
          vregs := fieldVectors t (lastFields t.type [a] ++ lastOf [b]) f.toNat d out, flags := t.flags ||| laneFlags t out }))
  ∧ (
    (∀ (d : Reg) (a b : Src) (s : State) (t : Team), Issues s t (packShape t setPack d [a, b] false) →
      exec (.vpack d a b) s = .next (s.putTeam { t.past with
        vregs := vectorsAfter t (lastOf [a, b]) [(d, onActive t fun l =>
          let w := fieldWidth t.type
          let half := 32 / w / 2
          let wide (x : Word) (i : Nat) : Int := wideInt (2 * w) (isSignedInt t.type) (fld (2 * w * i) (2 * w) x.toNat)
          .ofNat 32 (packFields w ((List.range (2 * half)).map fun i => fit t.type t.sat
            (if i < half then wide (t.vval a.reg l) i else wide (t.vval b.reg l) (i - half)))))] }))
      ∧ (∀ (d : Reg) (a : Src) (sel : Bool) (s : State) (t : Team), Issues s t (packShape t setPack d [a] false) →
        exec (.vunpk d a sel) s = .next (s.putTeam { t.past with
          vregs := vectorsAfter t (lastOf [a]) [(d, onActive t fun l =>
            let w := fieldWidth t.type
            let half := 32 / w / 2
            .ofNat 32 (packFields (2 * w) ((List.range half).map fun i =>
              (wideInt w (isSignedInt t.type) (fld (w * ((if sel then half else 0) + i)) w (t.vval a.reg l).toNat)
                % 2 ^ (2 * w)).toNat)))] }))
      ∧ ∀ p ∈ ([(.vdot2, [0, 1, 2]), (.vdot4, [4, 5]), (.vdot8, [6, 7])] : List ((Reg → Src → Src → Instr) × List Nat)),
        ∀ (d : Reg) (a b : Src) (s : State) (t : Team), t.type ∈ p.2 →
          Issues s t (packShape t (fun _ => true) d [a, b] true) →
          exec (p.1 d a b) s = .next (s.putTeam { t.past with
            vregs := vectorsAfter t (lastOf [a, b]) [(d, onActive t fun l =>
              .ofNat 32 (dotLane t.type t.sat (t.vval a.reg l) (t.vval b.reg l) (t.vval d l)).bits)]
            flags := t.flags ||| .ofNat 32 (unionFlags (t.active.map fun l =>
              (dotLane t.type t.sat (t.vval a.reg l) (t.vval b.reg l) (t.vval d l)).flags)) }))

/-- The sequence E of 11 R175: the elements of every active lane, lane by lane. -/
def sequenceOf (t : Team) (r : Reg) : List Nat := t.active.flatMap fun l => t.elemsOf t.type r l

/-- 11 R146, R152, R153, R155, R173, R174: the instructions that move whole 32-bit words, whatever TYPE: the word of each
active lane; VSEL picks by its mask, and the effective mask still gates it. VSHFL gives an active lane the word of the
lane that vb names, active or not, and 0 at or beyond TW; VEXT reads one lane and VINS writes one, if it is active. 11
R175 to R177; 05 R88, R91: a reduction writes the value of the whole sequence to sd, or to the pair under FP64:
integers by an exact sum, maximum or minimum and then Fit; VSCAN gives every element of every active lane the prefix
sum up to it, of integers by Fit, of floating-point elements rounded once. 11 R145; 21 R299, R315: of poisoned words
that VSHFL would read, the lowest reading lane's raises POISON; its ADDR, the virtual register number, of vb where both
words are poisoned, that VINS reads sb whether or not a lane is active, and that a last-use source that is also the
destination stays live, are the model's choices (log entries 27, 90, 92 and 76). -/
def Obligations.VectorMovesAndReductions : Prop :=
  (
    ((∀ p ∈ ([(.vand, fun x y => x &&& y), (.vor, fun x y => x ||| y), (.vxor, fun x y => x ^^^ y),
          (.vandn, fun x y => x &&& ~~~y)] : List ((Reg → Src → Src → Instr) × (Word → Word → Word))),
        ∀ (d : Reg) (a b : Src) (s : State) (t : Team), Issues s t { srcs := useV [a, b], dsts := [.v d], vector := true } →
          exec (p.1 d a b) s = .next (s.putTeam { t.past with
            vregs := vectorsAfter t (lastOf [a, b]) [(d, onActive t fun l => p.2 (t.vval a.reg l) (t.vval b.reg l))] }))
        ∧ (∀ (d : Reg) (a : Src) (s : State) (t : Team), Issues s t { srcs := useV [a], dsts := [.v d], vector := true } →
          exec (.vmov d a) s = .next (s.putTeam { t.past with
            vregs := vectorsAfter t (lastOf [a]) [(d, onActive t fun l => t.vval a.reg l)] }))
        ∧ (∀ (d : Reg) (a b : Src) (k : MReg) (s : State) (t : Team),
          Issues s t { srcs := useV [a, b] ++ useM [⟨k, false⟩], dsts := [.v d], vector := true } →
          exec (.vsel d a b k) s = .next (s.putTeam { t.past with
            vregs := vectorsAfter t (lastOf [a, b]) [(d, onActive t fun l =>
              if (t.mbits k).getLsbD l then t.vval a.reg l else t.vval b.reg l)] }))
        ∧ (∀ (d : Reg) (i : BitVec 20) (s : State) (t : Team), Issues s t { dsts := [.v d], vector := true } →
          exec (.vlane d) s = .next (s.putTeam { t.past with
              vregs := vectorsAfter t [] [(d, onActive t fun l => .ofNat 32 l)] })
            ∧ exec (.vli d i) s = .next (s.putTeam { t.past with
              vregs := vectorsAfter t [] [(d, onActive t fun _ => .ofInt 32 i.toInt)] }))
        ∧ ∀ (d : Reg) (a : Src) (la : BitVec 4) (s : State) (t : Team),
          Issues s t { srcs := useS [a], dsts := [.v d], vector := true, la := la.toNat } →
          exec (.vbcast d a la) s = .next (s.putTeam { t.past with
            vregs := vectorsAfter t [] [(d, onActive t fun _ => t.sval a.reg)],
            sregs := scalarsAfter t (lastOf [a]) [], promises := promisesAfter t la [.m t.guard, .s a.reg] [.v d] }))
      ∧ ((∀ (d : Reg) (a b : Src) (la : BitVec 4) (s : State) (t : Team),
        Issues s t { srcs := [⟨.vgroup a.reg 1, a.last⟩, ⟨.vgroup b.reg 1, b.last⟩], dsts := [.v d], vector := true,
                     la := la.toNat } →
        let src (l : Nat) : Nat := (t.vval b.reg l).toNat
        let bad (l : Nat) : Prop := t.vbad b.reg l = true ∨ (src l < t.tw ∧ t.vbad a.reg (src l) = true)
        ((∀ l ∈ t.active, ¬ bad l) → exec (.vshfl d a b la) s = .next (s.putTeam { t.past with
          vregs := vectorsAfter t (lastOf [a, b]) [(d, onActive t fun l => if src l < t.tw then t.vval a.reg (src l) else 0)],
          promises := promisesAfter t la [.m t.guard, .v a.reg, .v b.reg] [.v d] }))
        ∧ ∀ l ∈ t.active, bad l → (∀ k ∈ t.active, k < l → ¬ bad k) →
          exec (.vshfl d a b la) s = .next (s.takeTrap t ⟨.poison,
            (t.virt (if t.vbad b.reg l then b.reg else a.reg)).setWidth 64, 0, some l, none⟩))
        ∧ (∀ (d : Reg) (a b : Src) (la : BitVec 4) (s : State) (t : Team),
          Issues s t { srcs := [⟨.vgroup a.reg 1, a.last⟩] ++ useS [b], dsts := [.s d], vector := true, always := true
                       la := la.toNat } →
          let l := (t.sval b.reg).toNat
          (l < t.tw → t.vbad a.reg l = false) →
          exec (.vext d a b la) s = .next (s.putTeam { t.past with
            sregs := scalarsAfter t (lastOf [b]) [(d, if l < t.tw then t.vval a.reg l else 0)],
            vregs := vectorsAfter t (lastOf [a]) [], promises := promisesAfter t la [.m t.guard, .v a.reg, .s b.reg] [.s d] }))
        ∧ ∀ (d : Reg) (a b : Src) (la : BitVec 4) (s : State) (t : Team),
          let hit := t.active.contains (t.sval b.reg).toNat
          Issues s t { srcs := (if hit then useS [a] else []) ++ useS [b], unread := if hit then [] else useS [a],
                       dsts := [.v d], vector := true, always := true, la := la.toNat } →
          exec (.vins d a b la) s = .next (s.putTeam { t.past with
            vregs := vectorsAfter t [] [(d, fun l => if hit ∧ l = (t.sval b.reg).toNat then some (t.sval a.reg) else none)],
            sregs := scalarsAfter t (lastOf [a, b]) []
            promises := promisesAfter t la (.m t.guard :: if hit then [.s a.reg, .s b.reg] else [.s b.reg, .s a.reg])
              [.v d] })))
  ∧ (
    (∀ p ∈ ([(.vredadd, fun T sat es => ⟨fit T sat ((es.map fun x => (intValue T x).1).foldl (· + ·) 0), digitsInvalid T es⟩,
          fun nvr T rnd es => fpSum nvr T rnd es),
        (.vredmax, fun T sat es => ⟨fit T sat ((es.map fun x => (intValue T x).1).foldl max (intMin T)), digitsInvalid T es⟩,
          fun _ T _ es => fpExtreme true T es),
        (.vredmin, fun T sat es => ⟨fit T sat ((es.map fun x => (intValue T x).1).foldl min (intMax T)), digitsInvalid T es⟩,
          fun _ T _ es => fpExtreme false T es)] :
        List ((Reg → Src → BitVec 4 → Instr) × (Nat → Bool → List Nat → Out) × (Nat → Nat → Nat → List Nat → Out))),
      ∀ (d : Reg) (a : Src) (la : BitVec 4) (s : State) (t : Team),
        Issues s t { srcs := [⟨vField t.type a.reg, a.last⟩], dsts := [if t.type = 0x18 then .pair d else .s d],
                     vector := true, la := la.toNat,
                     early := typeTrap (pairFields t.type [d, a.reg]) (setI t.type || setF t.type),
                     feature := featureTrap s t.core (typeBits t.type) } →
        let o := if setI t.type then p.2.1 t.type t.sat (sequenceOf t a.reg)
          else p.2.2 (s.ctxOf t).nvr t.type t.rnd (sequenceOf t a.reg)
        exec (p.1 d a la) s = .next (s.putTeam { t.past with
          sregs := scalarsAfter t [] (if t.type = 0x18 then pairWrites d (.ofNat 64 o.bits) else [(d, .ofNat 32 o.bits)]),
          vregs := vectorsAfter t (lastFields t.type [a]) [],
          flags := t.flags ||| .ofNat 32 o.flags
          promises := promisesAfter t la [.m t.guard, vField t.type a.reg] [if t.type = 0x18 then .pair d else .s d] }))
      ∧ ∀ (d : Reg) (a : Src) (la : BitVec 4) (s : State) (t : Team),
        Issues s t { vecShape s t (fun T => setI T || setF T) typeBits d [a] false with la := la.toNat } →
        let es := sequenceOf t a.reg
        let n := elemCount t.type
        let out (l : Nat) : List Out := (List.range n).map fun i =>
          let k := n * t.active.idxOf l + i
          if setI t.type then
            ⟨fit t.type t.sat (((es.take (k + 1)).map fun x => (intValue t.type x).1).foldl (· + ·) 0),
              digitsInvalid t.type [es.getD k 0]⟩
          else (typeFmt t.type).sumRound t.rnd false ((es.take (k + 1)).map (fpValue t.type))
        exec (.vscan d a la) s = .next (s.putTeam { t.past with
          vregs := fieldVectors t (lastFields t.type [a]) t.type d out,
          flags := t.flags ||| laneFlags t out
          promises := promisesAfter t la [.m t.guard, vField t.type a.reg] [vField t.type d] }))

/-! ### Loads, stores and cache control -/

/-- Scalar registers some of which hold poison (21 R315). -/
def withPoison (v : Vector SReg 64) (rs : List (Reg × Bool)) : Vector SReg 64 :=
  .ofFn fun i : Fin 64 =>
    if i ≠ 0 ∧ (rs.any fun w => w.2 && w.1.toNat == i.val) = true then
      match v[i] with
      | .live x _ => .live x true
      | .dead => .dead
    else v[i]

/-- The team past a memory instruction: the words it loads, the step of its base, the operands it used up. -/
def stepped (t : Team) (m : MemArg) (scale : Nat) (loaded : List (Reg × Word)) : Team :=
  { t.past with
    sregs := scalarsAfter t (baseUsed m) (loaded ++ baseWrites t m scale)
    vregs := vectorsAfter t (indexUsed m) [] }

/-- ACQUIRE_FAILED of an access that its link lost (13 R194, 25 R347), and POISON of one that found poison (21 R314):
both pend for the next boundary. -/
def lostTrap (t : Team) (va : Addr) : Trap := ⟨.acquireFailed, va, 0, none, some t.pc⟩
def poisonTrap (t : Team) (va : Addr) : Trap := ⟨.poison, va, 1, none, some t.pc⟩

/-- The place of an access that passes its checks (13 R181). -/
def placeAt (s : State) (t : Team) (f : AForm) (size : Nat) (i : Intent) : Place :=
  match accessPlace s t f size size i with
  | .ok p => p
  | .error _ => ⟨0, .rc, .device 0⟩

/-- The state in which an access reaches its place: over a link without native atomics the teller first ends what it has
begun there (13 R193, R195; 25 R346). -/
def begun (s : State) (p : Place) (n : Nat) (u : State) : State :=
  if s.splitAtomic p = true then u.settle p.loc n else u

/-- The condition of a bell on a word of its width (13 R199). -/
def bellHolds (c : BellCond) (n : Nat) (w v mask : BitVec 64) : Bool :=
  let signed (x : BitVec 64) : Int := if n = 8 then x.toInt else (x.setWidth 32).toInt
  match c with
  | .eq => w = v
  | .ne => w ≠ v
  | .lt => signed w < signed v
  | .ge => signed v ≤ signed w
  | .ltu => w.toNat < v.toNat
  | .geu => v.toNat ≤ w.toNat
  | .maskeq => w &&& mask = v &&& mask

/-- A write of `n` bytes at `loc` fires an armed bell in `v`, the state in which the bytes stand: they touch the watched
word, and its condition holds of the word as it then is (15 R236). -/
def rings (v : State) (loc n : Nat) (a : Armed) : Bool :=
  loc < a.loc + a.width && a.loc < loc + n
    && bellHolds a.cond a.width (.ofNat 64 (v.natAt a.loc a.width)) a.val a.mask

/-- The bell slots after such a write: a slot whose bell it fires is fired and disarmed, every other is as it was (15
R236, R237). -/
def bellsAfter (v : State) (loc n : Nat) (bells : Vector BellSlot 4) : Vector BellSlot 4 :=
  .ofFn fun k : Fin 4 => if bells[k].armed.any (rings v loc n) = true then ⟨none, true⟩ else bells[k]

/-- The failing checks of an access of `n` bytes (13 R181; 21 R299, R305, R308; 03 R52): MISALIGNED, then STACK_LIMIT of
a stack offset, then what its translation raises, each naming the lane, if any. `u` is the state in which the trap is
taken: `s` with the touched dies of the accesses checked before (21 R319). -/
def AccessFails (s u : State) (t : Team) (f : AForm) (n align : Nat) (i : Intent) (lane : Option Nat) (run : Result) : Prop :=
  let va := f.va t
  (va.toNat % align ≠ 0 → run = .next (u.takeTrap t ⟨.misaligned, va, 0, lane, none⟩))
  ∧ (va.toNat % align = 0 → ∀ off, f = .stack off → stackOk t off n = false →
    run = .next (u.takeTrap t ⟨.stackLimit, .ofNat 64 off, 0, lane, none⟩))
  ∧ (va.toNat % align = 0 → (∀ off, f = .stack off → stackOk t off n = true) →
    ∀ x, translate s (s.ctxOf t) t.core va i = .error x → run = .next (u.refusedAt t va { x with lane }))

/-- 13 R179, R181, R182; 21 R314; 13 R194: a scalar load brings the little-endian bytes at the address that its mode
forms, extended from their width, with the poison of their words; it steps the base, and writes no memory. An access
that no port can carry performs nothing and ACQUIRE_FAILED pends (25 R347); that its destination then holds 0,
poisoned, is the model's choice (log entry 30). (Where no teller stands between its halves, 13 R195, as none does when a
step runs an instruction.) -/
def Obligations.ScalarLoads : Prop :=
  ∀ p ∈ ([(.ldU8, 1, false, 0), (.ldS8, 1, false, 8), (.ldU16, 2, false, 0), (.ldS16, 2, false, 16), (.ld, 4, false, 0),
      (.ldD, 8, true, 0)] : List ((Reg → MemArg → Instr) × Nat × Bool × Nat)),
    ∀ (d : Reg) (m : MemArg) (s : State) (t : Team),
      Issues s t { srcs := memUses m, dsts := memDsts [if p.2.2.1 then .pair d else .s d] m, ordered := true } →
      (emptyBuffer m t = true → exec (p.1 d m) s = .next (s.takeTrap t ⟨.illegalMode, 0, 0, none, none⟩))
      ∧ (emptyBuffer m t = false →
        AccessFails s s t (memAddress m t p.2.1) p.2.1 p.2.1 .read none (exec (p.1 d m) s))
      ∧ (s.sched.defer = false → s.unwatched → s.settled → emptyBuffer m t = false →
      ∀ at_, accessPlace s t (memAddress m t p.2.1) p.2.1 p.2.1 .read = .ok at_ →
      let ok := s.reachable at_
      let v := if ok then leNat (s.readPlace at_ p.2.1) else 0
      let loaded := if p.2.2.1 then pairWrites d (.ofNat 64 v)
        else [(d, if p.2.2.2 = 0 then .ofNat 32 v else (BitVec.ofNat p.2.2.2 v).signExtend 32)]
      let bad (o : Nat) : Bool := !ok || s.mem.wordBad (at_.loc + o)
      let u := stepped t m p.2.1 loaded
      let u := { u with
        sregs := withPoison u.sregs (if p.2.2.1 then [(d, bad 0), (d + 1#6, bad 4)] else [(d, bad 0)])
        traps := if ok then t.traps else t.traps ++ [lostTrap t ((memAddress m t p.2.1).va t)] }
      ∃ s', exec (p.1 d m) s = .next s'
        ∧ s' = { (s.touch t.ctx [at_]).putTeam u with flight := { s.flight with lines := s'.flight.lines } }
        ∧ ∀ c ∈ s'.flight.lines, c ∈ s.flight.lines)

/-- 13 R179, R181, R183; 15 R236: a scalar store writes the low bytes of its register or pair, least significant first,
at the address that its mode forms, and changes no other byte of memory; of its team only the base changes, and each bell
that the write fires, which is then fired and disarmed. A store that no port can carry performs nothing, and ACQUIRE_FAILED pends (25 R347). -/
def Obligations.ScalarStores : Prop :=
  ∀ p ∈ ([(.stB, 1, false), (.stH, 2, false), (.st, 4, false), (.stD, 8, true)] :
      List ((Reg → MemArg → Instr) × Nat × Bool)),
    ∀ (r : Reg) (m : MemArg) (s : State) (t : Team),
      Issues s t { srcs := ⟨if p.2.2 then .pair r else .s r, false⟩ :: memUses m, dsts := memDsts [] m, ordered := true } →
      (emptyBuffer m t = true → exec (p.1 r m) s = .next (s.takeTrap t ⟨.illegalMode, 0, 0, none, none⟩))
      ∧ (emptyBuffer m t = false →
        AccessFails s s t (memAddress m t p.2.1) p.2.1 p.2.1 .write none (exec (p.1 r m) s))
      ∧ (s.sched.defer = false → s.unwatched → emptyBuffer m t = false →
      ∀ at_, accessPlace s t (memAddress m t p.2.1) p.2.1 p.2.1 .write = .ok at_ →
      let bytes := leBytes p.2.1 (if p.2.2 then (t.pair r).toNat else (t.sval r).toNat)
      let u := stepped t m p.2.1 []
      let s' := (begun s at_ p.2.1 ((s.touch t.ctx [at_]).putTeam u)).teamWrite (towerOf t.core) at_ bytes
      (s.reachable at_ = true → exec (p.1 r m) s = .next s'
        ∧ (s.canonical → s.settled → at_.region ≠ .aperture →
          s'.mem.bytes at_.loc p.2.1 = bytes ∧ SameBytesBut at_.loc p.2.1 s s'
            ∧ s'.team? t.id = some { u with bells := bellsAfter s' at_.loc p.2.1 t.bells }))
      ∧ (s.reachable at_ = false → exec (p.1 r m) s =
        .next ((s.touch t.ctx [at_]).putTeam
          { u with traps := t.traps ++ [lostTrap t ((memAddress m t p.2.1).va t)] })))

/-- The vector registers with poison in the lanes of one register that `bad` names (21 R314, R315). -/
def lanesPoisoned (t : Team) (r : Reg) (bad : Nat → Bool) (vs : Vector VReg 64) : Vector VReg 64 :=
  .ofFn fun i : Fin 64 =>
    if i.val ≠ (t.virt r).toNat then vs[i]
    else match vs[i] with
      | .dead => .dead
      | .live lanes => .live (lanes.mapIdx fun l x => { x with poison := x.poison || bad l })

/-- 13 R184, R185, R194; 21 R314: a vector load gives every active lane the bytes at its own address, VLDS at the
address A, with the poison of their words, and keeps the other lanes; VST stores for every active lane in lane order,
VSTS for the highest-numbered one; no other byte of memory changes. For a lane whose access no port can carry nothing is
performed and ACQUIRE_FAILED pends (25 R347); that a load then leaves 0, poisoned, in the lane is the model's choice
(log entry 30). 21 R299, R319: the lowest lane whose access fails its checks raises its trap, and nothing is loaded or
stored; of the lanes before it no vault counts as touched. (Loads: where no teller stands between its halves, 13 R195,
as none does when a step runs an instruction.) -/
def Obligations.VectorMemory : Prop :=
  ((∀ p ∈ ([(.vld, false, fun t => t.active, fun t m n l => laneAddress m t n l),
      (.vlds, false, fun t => t.active, fun t m n _ => memAddress m t n),
      (.vst, true, fun t => t.active, fun t m n l => laneAddress m t n l),
      (.vsts, true, fun t => t.active.getLast?.toList, fun t m n _ => memAddress m t n)] :
      List ((Reg → MemArg → BitVec 2 → Instr) × Bool × (Team → List Nat) × (Team → MemArg → Nat → Nat → AForm))),
    ∀ (z : BitVec 2) (d : Reg) (m : MemArg) (s : State) (t : Team),
      Issues s t { srcs := (if p.2.1 then [⟨laneOpnd z d, false⟩] else []) ++ memUses m,
                   dsts := memDsts (if p.2.1 then [] else [laneOpnd z d]) m, vector := true, always := memSteps m,
                   ordered := true } → emptyBuffer m t = false →
      let n := 2 ^ z.toNat
      let i : Intent := if p.2.1 then .write else .read
      ∀ l ∈ p.2.2.1 t, (∀ k ∈ p.2.2.1 t, k < l → (accessPlace s t (p.2.2.2 t m n k) n n i).isOk = true) →
        AccessFails s (s.touchNamed t.ctx (((p.2.2.1 t).filter (· < l)).map fun k => placeAt s t (p.2.2.2 t m n k) n i)) t
          (p.2.2.2 t m n l) n n i (some l) (exec (p.1 d m z) s)))
  ∧ (∀ p ∈ ([(.vld, fun t m n l => laneAddress m t n l), (.vlds, fun t m n _ => memAddress m t n)] :
      List ((Reg → MemArg → BitVec 2 → Instr) × (Team → MemArg → Nat → Nat → AForm))),
    ∀ (z : BitVec 2) (d : Reg) (m : MemArg) (s : State) (t : Team),
      Issues s t { srcs := memUses m, dsts := memDsts [laneOpnd z d] m, vector := true, always := memSteps m,
                   ordered := true } →
      s.sched.defer = false → s.unwatched → s.settled → emptyBuffer m t = false →
      let n := 2 ^ z.toNat
      let at_ (l : Nat) : Place := placeAt s t (p.2 t m n l) n .read
      (∀ l ∈ t.active, (accessPlace s t (p.2 t m n l) n n .read).isOk = true) →
      let ok (l : Nat) : Bool := s.reachable (at_ l)
      let v (l : Nat) : Nat := if ok l then leNat (s.readPlace (at_ l) n) else 0
      let bad (o l : Nat) : Bool := t.active.contains l && (!ok l || s.mem.wordBad ((at_ l).loc + o))
      let loaded : List (Reg × (Nat → Option Word)) :=
        if z = 3#2 then [(d, onActive t fun l => .ofNat 32 (v l)), (d + 1#6, onActive t fun l => .ofNat 32 (v l / 2 ^ 32))]
        else [(d, onActive t fun l => .ofNat 32 (v l))]
      let low := lanesPoisoned t d (bad 0) (vectorsAfter t (indexUsed m) loaded)
      let u := { stepped t m n [] with
        vregs := if z = 3#2 then lanesPoisoned t (d + 1#6) (bad 4) low else low
        traps := t.traps ++ (t.active.filter fun l => !ok l).map fun l => lostTrap t ((p.2 t m n l).va t) }
      ∃ s', exec (p.1 d m z) s = .next s'
        ∧ s' = { (s.touch t.ctx (t.active.map at_)).putTeam u with
          flight := { s.flight with lines := s'.flight.lines } }
        ∧ ∀ c ∈ s'.flight.lines, c ∈ s.flight.lines)
    ∧ ∀ p ∈ ([(.vst, fun t => t.active, fun t m n l => laneAddress m t n l),
        (.vsts, fun t => t.active.getLast?.toList, fun t m n _ => memAddress m t n)] :
        List ((Reg → MemArg → BitVec 2 → Instr) × (Team → List Nat) × (Team → MemArg → Nat → Nat → AForm))),
      ∀ (z : BitVec 2) (r : Reg) (m : MemArg) (s : State) (t : Team),
        Issues s t { srcs := ⟨laneOpnd z r, false⟩ :: memUses m, dsts := memDsts [] m, vector := true,
                     always := memSteps m, ordered := true } →
        s.sched.defer = false → s.unwatched → emptyBuffer m t = false →
        let n := 2 ^ z.toNat
        let at_ (l : Nat) : Place := placeAt s t (p.2.2 t m n l) n .write
        (∀ l ∈ p.2.1 t, (accessPlace s t (p.2.2 t m n l) n n .write).isOk = true) →
        let bytes (l : Nat) : List Byte := leBytes n (if z = 3#2 then (t.vpair r l).toNat else (t.vval r l).toNat)
        let store (v : State) (l : Nat) : State :=
          if s.reachable (at_ l) = true then (begun s (at_ l) n v).teamWrite (towerOf t.core) (at_ l) (bytes l)
          else v.modTeam t.id fun u => { u with traps := u.traps ++ [lostTrap t ((p.2.2 t m n l).va t)] }
        let s' := (p.2.1 t).foldl store
          ((s.touch t.ctx ((p.2.1 t).map at_)).putTeam (stepped t m n []))
        exec (p.1 r m z) s = .next s'
          ∧ (s.canonical → s.settled → (∀ l ∈ p.2.1 t, (at_ l).region ≠ .aperture) →
            ∀ a : Nat, (∀ l ∈ p.2.1 t, a < (at_ l).loc ∨ (at_ l).loc + n ≤ a) → s'.mem.byte a = s.mem.byte a)

/-- 13 R186, 21 R319: PREF steps its base, and the home that its translation names joins the touched dies; CWB and CINV
check the byte they name and change no memory, CINV dropping the tower's copies of the line; DISCARD writes zero to the
128 bytes of the line. That CWB and CINV check one byte only is the model's choice (log entry 26). -/
def Obligations.CacheControl : Prop :=
  (∀ (m : MemArg) (s : State) (t : Team), Issues s t { srcs := memUses m, dsts := memDsts [] m } →
    emptyBuffer m t = false → exec (.pref m) s =
      .next ((s.touch t.ctx (s.placesAt t [(memAddress m t 128).va t])).putTeam (stepped t m 128 [])))
    ∧ (∀ (m : MemArg) (s : State) (t : Team), Issues s t { srcs := memUses m, dsts := memDsts [] m, ordered := true } →
      emptyBuffer m t = false → ∀ at_, accessPlace s t (memAddress m t 128) 1 1 .read = .ok at_ →
      let s1 := (s.touch t.ctx [at_]).putTeam (stepped t m 128 [])
      exec (.cwb m) s = .next s1
        ∧ exec (.cinv m) s = .next { s1 with flight := { s.flight with
          lines := s.flight.lines.filter fun c => ¬ (c.tower = towerOf t.core ∧ c.line = at_.loc / 128) } })
    ∧ ∀ (m : MemArg) (s : State) (t : Team), Issues s t { srcs := memUses m, dsts := memDsts [] m, ordered := true } →
      s.sched.defer = false → s.unwatched → emptyBuffer m t = false →
      ∀ at_, accessPlace s t (memAddress m t 128) 128 128 .write = .ok at_ → s.reachable at_ = true →
      let s' := (List.range 32).foldl
        (fun v i =>
          let word : Place := { at_ with loc := at_.loc + 4 * i }
          (begun s word 4 v).teamWrite (towerOf t.core) word (leBytes 4 0))
        ((s.touch t.ctx [at_]).putTeam (stepped t m 128 []))
      exec (.discard m) s = .next s'
        ∧ (s.canonical → s.settled → at_.region ≠ .aperture →
          s'.mem.bytes at_.loc 128 = List.replicate 128 0 ∧ SameBytesBut at_.loc 128 s s')

/-! ### Atomics and strong accesses -/

/-- The value that an atomic writes (13 R190). -/
def atomResult (o : AtomOp) (T rnd : Nat) (sat : Bool) (old v : Nat) : Nat :=
  let f := typeFmt T
  let x := (intValue T old).1
  let y := (intValue T v).1
  match o with
  | .add => if setF T then (f.sumRound rnd false [f.decode old, f.decode v]).bits else fit T sat (x + y)
  | .min => if setF T then (pickOut false true T rnd sat [old, v]).bits else if y < x then v else old
  | .max => if setF T then (pickOut true true T rnd sat [old, v]).bits else if x < y then v else old
  | .and => old &&& v
  | .or => old ||| v
  | .xor => old ^^^ v
  | .swap => v

/-- The operands and checks of a scalar form of major 0x3A (13 R189, R192). -/
def scalarStrong (k : Strong) (t : Team) (align4 align8 : Nat) (commAdd : Bool) (d : Reg) (b : Src) (la : BitVec 4) :
    Shape where
  srcs := ((k.scalarOpnds t.width d).1.map fun o => ⟨o, false⟩) ++ [⟨.pair b.reg, b.last⟩]
  dsts := (k.scalarOpnds t.width d).2
  la := la.toNat
  ordered := true
  early := atomTrap t d align4 align8 commAdd

/-- The write of an atomic: over such a link, its teller's. -/
def ended (s : State) (p : Place) (tower : Nat) (u : State) (bytes : List Byte) : State :=
  if s.splitAtomic p = true then u.writeLoc p.loc bytes else u.teamWrite tower p bytes

/-- 13 R187 to R192; 21 R314; 13 R194, R195; 15 R223: at the address in the pair: ATOM and RED write the operation's
result and ATOM returns the old value; CAS writes its new value if the old one equals the expected one, else the old
one, and returns the old one; the strong store and load write and read; a copy of the line that the tower holds is
dropped before a strong read. MODE.TYPE gives width and type. A poisoned word is not written; an access that no port
can carry performs nothing, its destination then holding 0, poisoned: the model's choice (log entry 30). Over a link
without native atomics the word is read and then written, here with nothing in between: when a teller's halves stand
apart is the model's choice (log entries 3, 18). -/
def Obligations.ScalarAtomics : Prop :=
  ∀ (o : AtomOp) (r : MemOrd), ∀ p ∈ ([(.atom o r, .atom o true, 1, 2, commAdd o r, true),
      (.red o r, .atom o false, 1, 2, commAdd o r, false), (.cas r, .cas, 2, 4, false, true),
      (.ldStrong r, .load, 1, 2, false, true), (.stStrong r, .store, 1, 2, false, false)] :
      List ((Reg → Src → BitVec 4 → Instr) × Strong × Nat × Nat × Bool × Bool)),
    ∀ (d : Reg) (b : Src) (la : BitVec 4) (s : State) (t : Team),
      Issues s t (scalarStrong p.2.1 t p.2.2.1 p.2.2.2.1 p.2.2.2.2.1 d b la) →
      let n := t.width
      AccessFails s s t (.absolute (t.pair b.reg)) n n p.2.1.intent none (exec (p.1 d b la) s)
      ∧ (s.sched.defer = false → s.unwatched →
      ∀ at_, accessPlace s t (.absolute (t.pair b.reg)) n n p.2.1.intent = .ok at_ →
      let reg (x : Reg) : Nat := if n = 8 then (t.pair x).toNat else (t.sval x).toNat
      let after (v : Nat) : Team := { t.past with
        sregs := scalarsAfter t (lastPairs [b])
          (if p.2.2.2.2.2 then (if n = 8 then pairWrites d (.ofNat 64 v) else [(d, .ofNat 32 v)]) else [])
        promises := promisesAfter t la ((p.2.1.scalarOpnds n d).1 ++ [.pair b.reg]) (p.2.1.scalarOpnds n d).2 }
      let poisoned (v : Nat) : Vector SReg 64 :=
        withPoison (after v).sregs (if p.2.2.2.2.2 then [(d, true), (d + 1#6, n = 8)] else [])
      let s1 := (s.touch t.ctx [at_]).putTeam (after 0)
      let s2 := begun s at_ n s1
      let old := leNat (s2.readPlace at_ n)
      let bad := s2.mem.wordBad at_.loc || (n = 8 && s2.mem.wordBad (at_.loc + 4))
      let loaded (w : State) : State := w.modTeam t.id fun u => { u with sregs := (after old).sregs }
      let tower := towerOf t.core
      let read := (s2.acquireAt tower (at_.order r (acqOf r))).servedAtHome tower [at_]
      (s.reachable at_ = false → exec (p.1 d b la) s = .next ((s.touch t.ctx [at_]).putTeam { after 0 with
          sregs := poisoned 0, traps := t.traps ++ [lostTrap t (t.pair b.reg)] }))
        ∧ (s.reachable at_ = true → bad = true → p.2.1 ≠ .store →
          exec (p.1 d b la) s = .next (s2.modTeam t.id fun u => { u with
            sregs := poisoned old
            traps := t.traps ++ [poisonTrap t (if s2.mem.wordBad at_.loc then t.pair b.reg else t.pair b.reg + 4#64)] }))
        ∧ (s.reachable at_ = true → bad = false ∨ p.2.1 = .store →
          exec (p.1 d b la) s = .next (match p.2.1 with
            | .atom o _ => loaded (ended s at_ tower read (leBytes n (atomResult o t.type t.rnd t.sat old (reg d))))
            | .cas => loaded (ended s at_ tower read
                (leBytes n (if old = reg (if n = 8 then d + 2#6 else d + 1#6) then reg d else old)))
            | .load => loaded read
            | .store => s2.teamWrite tower at_ (leBytes n (reg d)))))

/-- The operands and checks of a vector form of major 0x3A (13 R189, R192). -/
def vectorStrong (k : Strong) (t : Team) (align4 align8 : Nat) (commAdd : Bool) (d : Reg) (b : Src) (la : BitVec 4) :
    Shape where
  srcs := ((k.vectorOpnds t.width d).1.map fun o => ⟨o, false⟩) ++ [⟨.pair b.reg, b.last⟩]
  unread := [⟨.vgroup d (k.group t.width), false⟩]
  dsts := (k.vectorOpnds t.width d).2
  vector := true
  la := la.toNat
  ordered := true
  early := atomTrap t d align4 align8 commAdd

/-- 13 R187 to R193: in a vector form every active lane performs the scalar form's access at Pair(base) plus its signed
offset, in lane order; old values go to the lanes of the data registers. A poisoned word is not written, an access that
no port can carry performs nothing; the lowest lane whose access fails its checks raises its trap, and nothing is
performed (21 R299, R314; 25 R347). The poisoned 0 of an unreachable place is the model's choice (log entry 30), as is
that nothing comes between a teller's two halves here (log entries 3, 18). -/
def Obligations.VectorAtomics : Prop :=
  ∀ (o : AtomOp) (r : MemOrd), ∀ p ∈ ([(.vatom o r, .atom o true, 2, 4, commAdd o r, true),
      (.vred o r, .atom o false, 2, 4, commAdd o r, false), (.vcas r, .cas, 4, 8, false, true),
      (.vldStrong r, .load, 2, 4, false, true), (.vstStrong r, .store, 2, 4, false, false)] :
      List ((Reg → Src → BitVec 4 → Instr) × Strong × Nat × Nat × Bool × Bool)),
    ∀ (d : Reg) (b : Src) (la : BitVec 4) (s : State) (t : Team),
      Issues s t (vectorStrong p.2.1 t p.2.2.1 p.2.2.2.1 p.2.2.2.2.1 d b la) →
      let n := t.width
      let form (l : Nat) : AForm := .absolute (t.pair b.reg + (t.vval d l).signExtend 64)
      let at_ (l : Nat) : Place := placeAt s t (form l) n p.2.1.intent
      (∀ l ∈ t.active, (∀ k ∈ t.active, k < l → (accessPlace s t (form k) n n p.2.1.intent).isOk = true) →
        AccessFails s (s.touchNamed t.ctx ((t.active.filter (· < l)).map at_)) t (form l) n n p.2.1.intent (some l)
          (exec (p.1 d b la) s))
      ∧ (s.sched.defer = false → s.unwatched →
      (∀ l ∈ t.active, (accessPlace s t (form l) n n p.2.1.intent).isOk = true) →
      let data : Reg := if n = 8 then d + 2#6 else d + 1#6
      let wanted : Reg := if n = 8 then d + 4#6 else d + 2#6
      let reg (x : Reg) (l : Nat) : Nat := if n = 8 then (t.vpair x l).toNat else (t.vval x l).toNat
      let tower := towerOf t.core
      let lane (v : State) (l : Nat) : State :=
        let give (w : State) (x : Nat) (bad : Bool) (traps : List Trap) : State := w.modTeam t.id fun u =>
          let u1 := if p.2.2.2.2.2 then u.putLoad (.lane data (n = 8) l) x bad bad else u
          { u1 with traps := u1.traps ++ traps }
        let v1 := begun s (at_ l) n v
        let old := leNat (v1.readPlace (at_ l) n)
        let low := v1.mem.wordBad (at_ l).loc
        let read := (v1.acquireAt tower ((at_ l).order r (acqOf r))).servedAtHome tower [at_ l]
        if s.reachable (at_ l) = false then give v 0 true [lostTrap t ((form l).va t)]
        else if p.2.1 ≠ .store ∧ (low || (n = 8 && v1.mem.wordBad ((at_ l).loc + 4))) = true then
          give v1 old true [poisonTrap t (if low then (form l).va t else (form l).va t + 4#64)]
        else match p.2.1 with
          | .atom o _ => give (ended s (at_ l) tower read
              (leBytes n (atomResult o t.type t.rnd t.sat old (reg data l)))) old false []
          | .cas => give (ended s (at_ l) tower read
              (leBytes n (if old = reg wanted l then reg data l else old))) old false []
          | .load => give read old false []
          | .store => v1.teamWrite tower (at_ l) (leBytes n (reg data l))
      exec (p.1 d b la) s = .next (t.active.foldl lane ((s.touch t.ctx (t.active.map at_)).putTeam
        { t.past with
          sregs := scalarsAfter t (lastPairs [b]) []
          promises := promisesAfter t la (.m t.guard :: (p.2.1.vectorOpnds n d).1 ++ [.pair b.reg, .vgroup d (p.2.1.group n)])
            (p.2.1.vectorOpnds n d).2 })))

/-! ### Fences, bells, barriers and cohorts -/

/-- The team parked at a wait, which executes again when it is woken (03 R51, 13 R202). -/
def parked (s : State) (t : Team) (c : Condition) : Team :=
  { t with cond := c, producer := none, retried := false, fetched := some s.sched.iw }

/-- 13 R197, R198: FENCE writes its ticket to sd and does not wait; it stays open while accesses or copies that it
covers are in flight. FWAIT stalls until every fence with (t − u) mod 2^32 < 2^31 has completed. -/
def Obligations.Fences : Prop :=
  (∀ (k : FenceKind) (c : Scope) (uo cp : Bool) (d : Reg) (s : State) (t : Team),
    Issues s t { dsts := [.s d], ordered := true } →
    let inFlight := (s.flight.accesses.filter fun a => a.team = t.id ∧ (a.place.kind ≠ .uo ∨ uo = true)).map (·.id)
    let copies := if cp = true then (s.flight.copies.filter fun x =>
      (s.flight.batches.any fun b => b.team == t.id && b.copies.contains x.id) = true).map (·.id) else []
    let u := { t.past with sregs := scalarsAfter t [] [(d, t.nextTicket)], nextTicket := t.nextTicket + 1 }
    exec (.fence k c uo cp d) s = .next (if inFlight ++ copies = []
      then (s.putTeam u).acquireAt (towerOf t.core) (if k = .rl then none else some c)
      else s.putTeam { u with fences := t.fences ++ [⟨t.nextTicket, k, c, inFlight ++ copies⟩] }))
    ∧ ∀ (a : Src) (s : State) (t : Team), Issues s t { srcs := useS [a] } →
      exec (.fwait a) s = .next (if (t.fences.any fun f => (t.sval a.reg - f.ticket).toNat < 2 ^ 31) = true
        then s.stall t else s.putTeam { t.past with sregs := scalarsAfter t (lastOf [a]) [] })

/-- 13 R199, R200; 15 R235, R238: BELL disarms its slot, reads the word and compares it, in one step: sd is 1 if the
condition holds, else 0 with the bell armed; it stalls where neither the table nor the overflow list has room; on a list
it occupies the list's next entry in memory (25 R350), whose contents are the model's choice (log entry 80), as is the
home of a word of the control aperture (log entry 81). On a poisoned word it arms nothing. Of host and peer memory no
bell is held: PERMISSION, CAUSE 3. The deadline of AWAIT is by the copy of the time base that the die of its core reads
(13 R202, 25 R351; log entry 16, the model's reading). 13 R201, R202: BELLCLR disarms a slot. AWAIT takes the lowest
fired slot, answers 2 where no slot is armed, 1 where the wait is over, and parks its team otherwise. 15 R236, R237; 03
R51: every write, whoever makes it, fires each armed bell of every team whose word it touches and whose condition then
holds, and no other; the slot is fired and disarmed, a team parked in AWAIT wakes, and a team parked in BWAIT wakes where
the write leaves its word with another PHASE than the one it waits on; a fire for a context that is switched out sets its
WAKEPEND (that it counts from the end of the running slice on is log entry 85's reading). -/
def Obligations.Bells : Prop :=
  (
    ∀ (c : BellCond) (d : Reg) (slot : BitVec 2) (a b : Src) (s : State) (t : Team),
      Issues s t { srcs := [⟨.pair a.reg, a.last⟩, ⟨bellOpnd c t.width b.reg, b.last⟩], dsts := [.s d],
                   ordered := true, early := bellTrap t c b.reg } →
      s.busy t = false → s.unwatched →
      let n := t.width
      let va := t.pair a.reg
      ∀ at_, accessPlace s t (.absolute va) n n .read = .ok at_ →
      (at_.region ∈ [.hostCoherent, .hostLink, .peer] →
        exec (.bell c d slot a b) s = .next ((s.touch t.ctx [at_]).trapped t ⟨.permission, va, 3, none, none⟩))
      ∧ (at_.region ∉ [.hostCoherent, .hostLink, .peer] →
        let s1 := (s.touch t.ctx [at_]).servedAtHome (towerOf t.core) [at_]
        let u (v : Word) : Team := { t.past with
          bells := t.bells.set slot.toNat ⟨none, false⟩
          sregs := scalarsAfter t (lastPairs [a] ++ if b.last then (bellOpnd c n b.reg).scalars else []) [(d, v)] }
        let value : Addr := if n = 8 then t.pair b.reg else (t.sval b.reg).setWidth 64
        let mask : Addr := if c = .maskeq then (if n = 8 then t.pair (b.reg + 2#6) else (t.sval (b.reg + 1#6)).setWidth 64)
          else 0
        let home := (at_.home t.core).getD 0
        (s.mem.anyBad at_.loc n = true → exec (.bell c d slot a b) s = .next (s1.putTeam { u (t.sval d) with
          sregs := withPoison (u (t.sval d)).sregs [(d, true)], traps := t.traps ++ [poisonTrap t va] }))
        ∧ (s.mem.anyBad at_.loc n = false → bellHolds c n (.ofNat 64 (leNat (s.readPlace at_ n))) value mask = true →
          exec (.bell c d slot a b) s = .next (s1.putTeam (u 1)))
        ∧ (s.mem.anyBad at_.loc n = false → bellHolds c n (.ofNat 64 (leNat (s.readPlace at_ n))) value mask = false →
          (∀ listed, (s1.putTeam { t.past with bells := t.bells.set slot.toNat ⟨none, false⟩ }).bellRoom home = some listed →
            let armed : Armed := ⟨at_.loc, n, home, c, value, mask, listed⟩
            exec (.bell c d slot a b) s = .next (((s1.putTeam (u 0)).listBell armed t.id slot.toNat).modTeam t.id fun v =>
              { v with bells := v.bells.set slot.toNat ⟨some armed, false⟩ }))
          ∧ ((s1.putTeam { t.past with bells := t.bells.set slot.toNat ⟨none, false⟩ }).bellRoom home = none →
            exec (.bell c d slot a b) s = .next ((s.touch t.ctx [at_]).stall t)))))
  ∧ (
    (∀ (slot : BitVec 2) (s : State) (t : Team), Issues s t {} →
      exec (.bellclr slot) s = .next (s.putTeam { t.past with bells := t.bells.set slot.toNat ⟨none, false⟩ }))
      ∧ ∀ (d : Reg) (a : Src) (s : State) (t : Team), Issues s t { srcs := useS [a], dsts := [.pair d] } →
        let fired (k : Fin 4) : Bool := t.bells[k].fired
        let none_ : Prop := ∀ k, fired k = false
        let armed : Prop := ∃ k : Fin 4, t.bells[k].armed.isSome = true
        let answer (x y : Word) : Team := { t.past with sregs := scalarsAfter t (lastOf [a]) [(d, x), (d + 1#6, y)] }
        (∀ k : Fin 4, fired k = true → (∀ j : Fin 4, j < k → fired j = false) →
          exec (.await d a) s = .next (s.putTeam { answer 0 (.ofNat 32 k.val) with
            bells := t.bells.set k.val { t.bells[k] with fired := false } }))
        ∧ (none_ → ¬ armed → exec (.await d a) s = .next (s.putTeam (answer 2 0xFFFFFFFF#32)))
        ∧ (none_ → armed → t.sval a.reg = 0 → exec (.await d a) s = .next (s.putTeam (answer 1 0xFFFFFFFF#32)))
        ∧ (none_ → armed → t.sval a.reg ≠ 0 → exec (.await d a) s = .next (s.putTeam (parked s t
          (.parkedAwait d a (if t.sval a.reg = 0xFFFFFFFF#32 then none
            else some ((s.coreTime t.core).toNat + (t.sval a.reg).toNat)))))))
  ∧ (∀ (v : State) (loc n : Nat),
      let fires (t : Team) : Bool := t.bells.any fun b => b.armed.any (rings v loc n)
      let woken (c : Context) : List Team := v.teams.filter fun t => t.ctx == c.ctxid && fires t
      let inAwait (t : Team) : Prop := ∃ d a x, t.cond = .parkedAwait d a x
      ∃ (f : Team → Team) (g : Context → Context) (d : Device) (queues : Vector Queue 128),
        v.afterWrite loc n = { v with
          dev := d, teams := v.teams.map f, fe := { v.fe with contexts := v.fe.contexts.map g, queues := queues } }
        ∧ d = { v.dev with rounds := d.rounds, brokenColls := d.brokenColls }
        ∧ (∀ t, f t = { t with bells := bellsAfter v loc n t.bells, cond := (f t).cond }
          ∧ (inAwait t → (f t).cond = if fires t = true then .woken else t.cond)
          ∧ (∀ w ph, t.cond = .parkedBarrier w ph → (f t).cond =
            if loc < w + 8 ∧ w < loc + n ∧ (BitVec.ofNat 64 (v.natAt w 8)).extractLsb' 16 32 ≠ ph then .woken else t.cond)
          ∧ (¬ inAwait t → (∀ w ph, t.cond ≠ .parkedBarrier w ph) → (f t).cond = t.cond))
        ∧ ∀ c, ((c.ctxid = v.fe.running ∨ woken c = []) → g c = c)
          ∧ (c.ctxid ≠ v.fe.running → woken c ≠ [] → ∃ late, g c = { c with
              wakePend := true, wakeLate := c.wakeLate || !c.wakePend, lateTeams := c.lateTeams ++ late }
            ∧ ∀ id, id ∈ late ↔ ∃ t ∈ woken c, inAwait t ∧ t.id = id))
  ∧ (∀ (s : State) (loc : Nat) (bs : List Byte),
      s.writeLoc loc bs = { s with mem := s.mem.store loc bs }.afterWrite loc bs.length)
  ∧ (∀ (s : State) (tower : Nat) (p : Place) (bs : List Byte), s.settled → p.region ≠ .aperture →
      ∃ flight, s.teamWrite tower p bs = { (s.writeLoc p.loc bs) with flight := flight })
  ∧ ∀ (s : State) (o : Nat) (bs : List Byte),
      ∃ v : State, s.apertureStore o bs = v.afterWrite (0x000FFF0000000000 + o) bs.length

/-- The barrier word after an arrival (03 R51): ARRIVED rises, or starts again at 0 with the next PHASE once as many as
EXPECT have arrived; a drop lowers EXPECT. -/
def wordAfterArrival (drop : Bool) (w : BitVec 64) : BitVec 64 :=
  let arrived := w.extractLsb' 0 7
  let expect := w.extractLsb' 8 7
  let phase := w.extractLsb' 16 32
  let full := expect = 0 ∨ expect.toNat ≤ arrived.toNat + 1
  let arrived' : BitVec 7 := if full then 0 else arrived + 1
  let phase' : BitVec 32 := if full then phase + 1 else phase
  let expect' : BitVec 7 := if drop ∧ expect ≠ 0 then expect - 1 else expect
  w.extractLsb' 48 16 ++ phase' ++ w.extractLsb' 15 1 ++ expect' ++ w.extractLsb' 7 1 ++ arrived'

/-- An address at or above the vault window that lies in neither window (01 R29, R30). -/
def missesWindows (s : State) (va : Addr) : Prop :=
  let core := (va.toNat - 0xFFFFFE0000000000) / 0x400000
  0xFFFFFE0000000000 ≤ va.toNat ∧ 0xFFFFFF0000000000 + 0x100000 ≤ va.toNat
  ∨ 0xFFFFFE0000000000 ≤ va.toNat ∧ va.toNat < 0xFFFFFF0000000000
    ∧ (512 ≤ core ∨ 6 ≤ core / 8 % 8 ∨ s.dev.flash.vaultAbsent.getLsbD (recordBit core) = true)

/-- 03 R50, R51; 13 R203, R204: ARRIVE and its kinds read the barrier word's PHASE into sd and write the word after the
arrival, in one step, and the teams parked on it wake as after every write (O37); a poisoned word is not written. BWAIT returns once PHASE differs from its operand, parks its team
otherwise until a write changes PHASE, and then completes without a second look. A barrier word lies in a vault or
local store, aligned to 8: MISALIGNED comes first, PERMISSION with CAUSE 3 below the windows, then what the windows give
(01 R29, R30): TRANSLATION with CAUSE 2 in neither. -/
def Obligations.Barriers : Prop :=
  (∀ p ∈ ([(.arrive, false), (.arrivePub, false), (.arriveDrop, true), (.arriveDropPub, true)] :
      List ((Reg → Src → Instr) × Bool)),
    ∀ (d : Reg) (a : Src) (s : State) (t : Team),
      Issues s t { srcs := useP [a], dsts := [.s d], ordered := true } → s.busy t = false → s.unwatched →
      let va := t.pair a.reg
      (va.toNat % 8 ≠ 0 → exec (p.1 d a) s = .next (s.takeTrap t ⟨.misaligned, va, 0, none, none⟩))
      ∧ (va.toNat % 8 = 0 → va.toNat < vaultWindow →
        exec (p.1 d a) s = .next (s.trapped t ⟨.permission, va, 3, none, none⟩))
      ∧ (va.toNat % 8 = 0 → missesWindows s va →
        exec (p.1 d a) s = .next (s.trapped t ⟨.translation, va, 2, none, none⟩))
      ∧ (va.toNat % 8 = 0 → vaultWindow ≤ va.toNat → ∀ x, translate s (s.ctxOf t) t.core va .write = .error x →
        exec (p.1 d a) s = .next (s.refusedAt t va x))
      ∧ ∀ at_, barrierPlace s t va .write = .ok at_ →
        let w : BitVec 64 := .ofNat 64 (leNat (s.readPlace at_ 8))
        let u (v : Word) : Team := { t.past with sregs := scalarsAfter t (lastPairs [a]) [(d, v)] }
        (s.mem.anyBad at_.loc 8 = false → exec (p.1 d a) s =
          .next (((s.touch t.ctx [at_]).putTeam (u (w.extractLsb' 16 32))).teamWrite (towerOf t.core) at_
            (leBytes 8 (wordAfterArrival p.2 w).toNat)))
        ∧ (s.mem.anyBad at_.loc 8 = true → exec (p.1 d a) s =
          .next ((s.touch t.ctx [at_]).putTeam { u (t.sval d) with
            sregs := withPoison (u (t.sval d)).sregs [(d, true)], traps := t.traps ++ [poisonTrap t va] })))
    ∧ (∀ (a b : Src) (s : State) (t : Team), s.curTeam = some t → t.cond = .woken → s.unwatched →
      exec (.bwait a b) s = .next (s.putTeam { t.past with sregs := scalarsAfter t (lastPairs [a] ++ lastOf [b]) [] }))
    ∧ ∀ (a b : Src) (s : State) (t : Team),
      Issues s t { srcs := useP [a] ++ useS [b], ordered := true } → t.cond ≠ .woken → s.busy t = false → s.unwatched →
      ((t.pair a.reg).toNat % 8 ≠ 0 →
        exec (.bwait a b) s = .next (s.takeTrap t ⟨.misaligned, t.pair a.reg, 0, none, none⟩))
      ∧ ((t.pair a.reg).toNat % 8 = 0 → (t.pair a.reg).toNat < vaultWindow →
        exec (.bwait a b) s = .next (s.trapped t ⟨.permission, t.pair a.reg, 3, none, none⟩))
      ∧ ((t.pair a.reg).toNat % 8 = 0 → missesWindows s (t.pair a.reg) →
        exec (.bwait a b) s = .next (s.trapped t ⟨.translation, t.pair a.reg, 2, none, none⟩))
      ∧ ((t.pair a.reg).toNat % 8 = 0 → vaultWindow ≤ (t.pair a.reg).toNat →
        ∀ x, translate s (s.ctxOf t) t.core (t.pair a.reg) .read = .error x →
          exec (.bwait a b) s = .next (s.refusedAt t (t.pair a.reg) x))
      ∧ ∀ at_, barrierPlace s t (t.pair a.reg) .read = .ok at_ →
      let w : BitVec 64 := .ofNat 64 (leNat (s.readPlace at_ 8))
      (s.mem.anyBad at_.loc 8 = true →
        exec (.bwait a b) s = .next ((s.touch t.ctx [at_]).takeTrap t ⟨.poison, t.pair a.reg, 1, none, none⟩))
      ∧ (s.mem.anyBad at_.loc 8 = false → w.extractLsb' 16 32 ≠ t.sval b.reg →
        exec (.bwait a b) s = .next ((s.touch t.ctx [at_]).putTeam { t.past with
          sregs := scalarsAfter t (lastPairs [a] ++ lastOf [b]) [] }))
      ∧ (s.mem.anyBad at_.loc 8 = false → w.extractLsb' 16 32 = t.sval b.reg →
        exec (.bwait a b) s = .next ((s.touch t.ctx [at_]).putTeam
          (parked s t (.parkedBarrier at_.loc (t.sval b.reg)))))

/-- 03 R45 to R49; 13 R205: JOIN answers 0 for a cohort joined, 1 for one created, 2 for a full one, 3 with no CID
register free, 4 for a member, 5 with the tower's table full; handle 0 raises ILLEGAL_MODE. LEAVE answers 0, or 1 for a
cohort that its team is no member of, and the last LEAVE frees the entry. CLEAD gives rank and count, or bit 31. -/
def Obligations.Cohorts : Prop :=
  ∀ (d : Reg) (a : Src) (s : State) (t : Team), Issues s t { srcs := useS [a], dsts := [.s d] } →
    let h : BitVec 16 := (t.sval a.reg).setWidth 16
    let tower := towerOf t.core
    let mine (c : Cohort) : Bool := c.ctx == t.ctx && c.tower == tower && c.handle == h
    let inTower := (s.cohorts.filter fun c => c.tower = tower).length
    let member : Prop := h ≠ 0 ∧ (t.cid0 = h ∨ t.cid1 = h)
    let answer (v : Nat) : Team := { t.past with sregs := scalarsAfter t (lastOf [a]) [(d, .ofNat 32 v)] }
    let named (v : Nat) : Team :=
      if t.cid0 = 0 then { answer v with cid0 := h } else { answer v with cid1 := h }
    let full : Prop := t.cid0 ≠ 0 ∧ t.cid1 ≠ 0
    (h = 0 → exec (.join d a) s = .next (s.takeTrap t ⟨.illegalMode, 0, 0, none, none⟩))
    ∧ (h ≠ 0 → member → exec (.join d a) s = .next (s.putTeam (answer 4)))
    ∧ (h ≠ 0 → ¬ member → full → exec (.join d a) s = .next (s.putTeam (answer 3)))
    ∧ (h ≠ 0 → ¬ member → ¬ full → ∀ c, s.cohorts.find? mine = some c →
      (64 ≤ c.members.length → exec (.join d a) s = .next (s.putTeam (answer 2)))
      ∧ (c.members.length < 64 → exec (.join d a) s = .next ({ s with
        cohorts := s.cohorts.map fun x => if mine x then { x with members := x.members ++ [t.id] } else x }.putTeam
          (named 0))))
    ∧ (h ≠ 0 → ¬ member → ¬ full → s.cohorts.find? mine = none →
      (1024 ≤ inTower → exec (.join d a) s = .next (s.putTeam (answer 5)))
      ∧ (inTower < 1024 → exec (.join d a) s = .next ({ s with
        cohorts := s.cohorts ++ [(⟨t.ctx, tower, h, [t.id]⟩ : Cohort)] }.putTeam (named 1))))
    ∧ (member → exec (.leave d a) s = .next ({ s with
        cohorts := (s.cohorts.map fun c => if mine c then { c with members := c.members.erase t.id } else c).filter
          fun c => c.members ≠ [] }.putTeam { answer 0 with
            cid0 := if t.cid0 = h then 0 else t.cid0, cid1 := if t.cid1 = h then 0 else t.cid1 }))
    ∧ (¬ member → exec (.leave d a) s = .next (s.putTeam (answer 1))
      ∧ exec (.clead d a) s = .next (s.putTeam (answer (2 ^ 31))))
    ∧ (member → ∀ c, s.cohorts.find? mine = some c →
      exec (.clead d a) s = .next (s.putTeam (answer (c.members.idxOf t.id + c.members.length * 2 ^ 8))))

/-! ### Copies, tags and collectives -/

/-- The team's copies in flight whose bytes have not all performed: a later copy reads after them (15 R224). -/
def earlierCopies (s : State) (t : Team) : List Nat :=
  (s.flight.copies.filter fun c => c.team = t.id ∧ (c.begun = false ∨ c.moves ≠ [] ∨ c.coll ≠ none)).map (·.id)

/-- What a copy that moved `srcs` to the bytes that its plan writes leaves: of each byte written the last source that the
copy names for it, as it stood; no other byte of memory changed; the copy unsealed in its team, in flight only if a
follow-on remains. -/
def Copied (s s' : State) (t : Team) (used : List Reg) (recs : List Place) (p : CopyPlan) (srcs : List Byte)
    (o : Option MatrixOp) : Prop :=
  let dsts := placesIn p.dsts
  (∃ u, s'.team? t.id = some u ∧ u = { t.past with
      sregs := scalarsAfter t used [], unsealed := t.unsealed ++ [s.flight.nextId], bells := u.bells })
    ∧ (∀ i ∈ List.range dsts.length,
      (∀ j ∈ List.range dsts.length, i < j → (dsts[j]?).map (·.loc) ≠ (dsts[i]?).map (·.loc)) →
      (dsts[i]?).map (fun p => s'.mem.byte p.loc) = srcs[i]?)
    ∧ (∀ a : Nat, a ∉ dsts.map (·.loc) → s'.mem.byte a = s.mem.byte a)
    ∧ s'.flight.copies = (s.flight.copies.filter fun c => c.id ≠ s.flight.nextId) ++
      (match o with
        | none => []
        | some f => [⟨s.flight.nextId, t.id, t.pc, earlierCopies s t, pagesOf (recs ++ placesIn (p.rows.flatten ++ p.dsts)),
            s.mappedBy (s.ctxOf t) p, p, true, [], some f, none⟩])
    ∧ s'.flight.nextId = s.flight.nextId + 1 ∧ s'.flight.accesses = s.flight.accesses

/-- A copy that is issued and has not begun: in flight, to read after the team's earlier copies (15 R224), with the 64
KiB pages that it has checked and the pages that translated its bytes (21 R309); memory as it was. -/
def queued (s : State) (t : Team) (used : List Reg) (recs : List Place) (p : CopyPlan) (o : Option MatrixOp) : State :=
  let seen := recs ++ placesIn (p.rows.flatten ++ p.dsts)
  let s1 := ((s.touch t.ctx seen).servedAtHome (towerOf t.core) recs).putTeam { t.past with
    sregs := scalarsAfter t used [], unsealed := t.unsealed ++ [s.flight.nextId] }
  { s1 with flight := { s1.flight with
    copies := s.flight.copies ++ [⟨s.flight.nextId, t.id, t.pc, earlierCopies s t, pagesOf seen, s.mappedBy (s.ctxOf t) p, p,
      false, [], o, none⟩]
    nextId := s.flight.nextId + 1 } }

/-- A copy that can be carried out at once: no byte in the aperture or out of reach. -/
def carried (s : State) (ps : List ByteAt) : Prop := ∀ p ∈ ps, p.place.region ≠ .aperture ∧ s.reachable p.place = true

/-- What the issue of a copy answers: the copy done, or in flight where the turn defers or an earlier copy of the team
has not performed. -/
def CopyIssued (s : State) (t : Team) (used : List Reg) (recs : List Place) (p : CopyPlan) (srcs : List Byte)
    (o : Option MatrixOp) (run : Result) : Prop :=
  (p.dsts = [] ∨ (s.sched.defer = false ∧ earlierCopies s t = []) → s.settled →
    carried s (p.rows.flatten ++ p.dsts) → ∃ s', run = .next s' ∧ Copied s s' t used recs p srcs o)
  ∧ (s.sched.defer = true ∨ earlierCopies s t ≠ [] → p.dsts ≠ [] →
    run = .next (queued s t used recs p o))

/-- 13 R206 to R212; 15 R224; 17 R247, R248: CPY copies bytes; CPYT the rows of a tile, or its planes for a destination
of layout 1; GATH and SCAT elements between a list of offsets and a dense buffer. Every source byte is read as it stood
before. A copy that an earlier copy of its team precedes, or that the turn defers, is in flight, unread and unwritten.
Where a check fails, nothing is copied: the lowest byte that does not translate, reads first; the alignment and the
fields of records and lists; the alignment of the elements (21 R299; 21 R319: of bytes that were only checked no vault
counts as touched). Model's choices: an invalid digit which CPYT planes raises no flag (log entry 89); a copy never
waits for room in the engine (log entry 39); reads are checked before writes (log entry 13); the dense side of GATH and
SCAT is checked for alignment too, and the elements before their bytes (log entries 41 and 78). -/
def Obligations.Copies : Prop :=
  ((∀ (d : Reg) (a b : Src) (s : State) (t : Team),
    Issues s t { srcs := [⟨.pair d, false⟩, ⟨.pair a.reg, a.last⟩, ⟨.s b.reg, b.last⟩], alone := true } →
    s.unwatched → s.canonical → s.flight.copies.all (fun c => c.id < s.flight.nextId) = true →
    let used := lastPairs [a] ++ lastOf [b]
    let bytes (ps : List ByteAt) : List Byte := ps.map fun x => s.mem.byte x.place.loc
    (∀ ps, bytePlaces s t (t.pair a.reg) (t.sval b.reg).toNat .read = .ok ps →
      ∀ ds, bytePlaces s t (t.pair d) (t.sval b.reg).toNat .write = .ok ds →
      CopyIssued s t used [] ⟨[ps], ds, none⟩ (bytes ps) none (exec (.cpy d a b) s))
    ∧ (∀ rd, recordBytesAt s t (t.pair d) 16 = .ok rd → ∀ rs, recordBytesAt s t (t.pair a.reg) 16 = .ok rs →
      let dst := ShapeRec.ofNat rd.1
      let src := ShapeRec.ofNat rs.1
      (t.pair d).toNat % 16 = 0 → (t.pair a.reg).toNat % 16 = 0 → tilesPair src dst = true →
      ∀ o, followOn s t (t.sval b.reg) = .ok o → ∀ rows, piecePlaces s t .read src.pieces = .ok rows →
      (dst.layout = 0 → ∀ ds, piecePlaces s t .write dst.pieces = .ok ds →
        CopyIssued s t used (rd.2 ++ rs.2) ⟨rows, ds.flatten, none⟩ (bytes rows.flatten) o (exec (.cpyt d a b) s))
      ∧ (dst.layout ≠ 0 → dst.addr.toNat % 256 = 0 →
        ∀ ds, bytePlaces s t dst.addr (planeTileSize dst.fmt dst.rows dst.cols) .write = .ok ds →
        CopyIssued s t used (rd.2 ++ rs.2) ⟨rows, ds, some (src.fmt, src.cols)⟩
          ((planeBytes s s.lost src.fmt src.cols rows).map fun b => match b with
            | .fixed v _ => v
            | .loc p _ => s.mem.byte p.loc) o (exec (.cpyt d a b) s))))
    ∧ ∀ p ∈ ([(.gath, false), (.scat, true)] : List ((Reg → Src → Instr) × Bool)),
      ∀ (d : Reg) (a : Src) (s : State) (t : Team),
      Issues s t { srcs := [⟨.pair d, false⟩, ⟨.pair a.reg, a.last⟩], alone := true } →
      s.unwatched → s.canonical → s.flight.copies.all (fun c => c.id < s.flight.nextId) = true →
      (t.pair a.reg).toNat % 8 = 0 → ∀ x, recordBytesAt s t (t.pair a.reg) 32 = .ok x →
      let l := CopyList.ofNat x.1
      l.legal = true → ∀ es, listElements s t l = .ok es →
      let dense := (List.range l.count).map fun i => t.pair d + .ofNat 64 (i * l.esize)
      let pieces (as : List Addr) : List (Addr × Nat) := as.map fun e => (e, l.esize)
      (∀ e ∈ es.1 ++ dense, e.toNat % l.esize = 0) →
      ∀ ps, piecePlaces s t .read (pieces (if p.2 then dense else es.1)) = .ok ps →
      ∀ ds, piecePlaces s t .write (pieces (if p.2 then es.1 else dense)) = .ok ds →
      CopyIssued s t (lastPairs [a]) (x.2 ++ es.2) ⟨ps, ds.flatten, none⟩ (ps.flatten.map fun q => s.mem.byte q.place.loc)
        none (exec (p.1 d a) s))
  ∧ (∀ (d : Reg) (a b : Src) (s : State) (t : Team),
    Issues s t { srcs := [⟨.pair d, false⟩, ⟨.pair a.reg, a.last⟩, ⟨.s b.reg, b.last⟩], alone := true } →
    let n := (t.sval b.reg).toNat
    let fails (va : Addr) (i : Intent) (seen : List ByteAt) (k : Nat) : Prop := ∀ ps x, k < n →
      bytePlaces s t va k i = .ok ps → translate s (s.ctxOf t) t.core (va + .ofNat 64 k) i = .error x →
      exec (.cpy d a b) s = .next ((s.touchNamed t.ctx (placesIn (seen ++ ps))).refusedAt t (va + .ofNat 64 k) x)
    (∀ k, fails (t.pair a.reg) .read [] k)
    ∧ (∀ rs, bytePlaces s t (t.pair a.reg) n .read = .ok rs → ∀ k, fails (t.pair d) .write rs k)
    ∧ ((t.pair d).toNat % 16 ≠ 0 →
      exec (.cpyt d a b) s = .next (s.takeTrap t ⟨.misaligned, t.pair d, 0, none, none⟩))
    ∧ ((t.pair d).toNat % 16 = 0 → (t.pair a.reg).toNat % 16 ≠ 0 →
      exec (.cpyt d a b) s = .next (s.takeTrap t ⟨.misaligned, t.pair a.reg, 0, none, none⟩))
    ∧ ((t.pair d).toNat % 16 = 0 → (t.pair a.reg).toNat % 16 = 0 →
      ∀ rd, recordBytesAt s t (t.pair d) 16 = .ok rd → ∀ rs, recordBytesAt s t (t.pair a.reg) 16 = .ok rs →
      tilesPair (ShapeRec.ofNat rs.1) (ShapeRec.ofNat rd.1) = false →
      exec (.cpyt d a b) s =
        .next ((s.touch t.ctx (rd.2 ++ rs.2)).takeTrap t ⟨.illegalMode, 0, 0, none, none⟩)))
  ∧ ∀ p ∈ ([(.gath, false), (.scat, true)] : List ((Reg → Src → Instr) × Bool)),
    ∀ (d : Reg) (a : Src) (s : State) (t : Team),
    Issues s t { srcs := [⟨.pair d, false⟩, ⟨.pair a.reg, a.last⟩], alone := true } →
    ((t.pair a.reg).toNat % 8 ≠ 0 →
      exec (p.1 d a) s = .next (s.takeTrap t ⟨.misaligned, t.pair a.reg, 0, none, none⟩))
    ∧ ((t.pair a.reg).toNat % 8 = 0 → ∀ x, recordBytesAt s t (t.pair a.reg) 32 = .ok x →
      let l := CopyList.ofNat x.1
      (l.legal = false →
        exec (p.1 d a) s = .next ((s.touch t.ctx x.2).takeTrap t ⟨.illegalMode, 0, 0, none, none⟩))
      ∧ (l.legal = true → ∀ es, listElements s t l = .ok es →
        let dense := (List.range l.count).map fun i => t.pair d + .ofNat 64 (i * l.esize)
        let reads := if p.2 then dense else es.1
        let writes := if p.2 then es.1 else dense
        ∀ e, (reads ++ writes).find? (fun e => e.toNat % l.esize != 0) = some e →
          exec (p.1 d a) s = .next ((s.touch t.ctx (x.2 ++ es.2)).takeTrap t ⟨.misaligned, e, 0, none, none⟩)))

/-- 13 R213, R214: CSEAL binds the team's unsealed copies to a tag; a tag's bit is set once every batch bound to it has
performed. CWANY and CFFR give the lowest set tag of the mask, all ones for none, CWANY waiting for one; CWALL waits
for all; CTCLR releases the set tags of the mask. A fault of a follow-on in a batch bound to a tag of the mask is
delivered first, its first (13 R211). 13 R215, R216; 09 R143, 19 R281: COLL checks its descriptor and its bytes and
puts its rank's part in flight, memory unchanged, counted for the rank that issued it (whose number is log entry 88's
choice where the group table names several for the tower); NODE enters an accepted descriptor into the ready pool with
its priority and answers 0, answers 1 for one that is not accepted, and stalls on a full pool. (What the frame of a
follow-on's fault waits for is the model's reading of 15 R224, log entry 11.) -/
def Obligations.TagsCollectivesAndNodes : Prop :=
  (
    (∀ (k : BitVec 6) (s : State) (t : Team), Issues s t {} →
      exec (.cseal k) s = .next ({ s with flight := { s.flight with
          batches := s.flight.batches ++ [(⟨s.flight.nextId, t.id, t.ctx, t.core, k.toNat, t.unsealed⟩ : Batch)]
          nextId := s.flight.nextId + 1 } }.putTeam { t.past with unsealed := [] }))
      ∧ ∀ (d : Reg) (a : Src) (s : State) (t : Team),
        let m := t.pair a.reg
        (∀ p ∈ ([([.s d], .cwany d a), ([.s d], .cffr d a), ([], .cwall a), ([], .ctclr a)] : List (List Opnd × Instr)),
          Issues s t { srcs := useP [a], dsts := p.1 } → ∀ f, t.followFaults.find? (fun f => s.flight.batches.any fun b =>
            b.team == t.id && f.1.any b.copies.contains && m.getLsbD b.tag) = some f →
          exec p.2 s = .next (if s.frameHeld t then s.stall t
            else ((s.putTeam { t with followFaults := t.followFaults.filter fun x => x != f }).takeTrap
              { t with followFaults := t.followFaults.filter fun x => x != f } f.2).discardRest t.id (some f.1) f.2))
        ∧ (coveredFault s t m = none →
        let bound (k : Nat) : List Batch := s.flight.batches.filter fun b => b.ctx = t.ctx ∧ b.core = t.core ∧ b.tag = k
        let done (b : Batch) : Bool := b.copies.all fun c => !(s.flight.copies.any fun x => x.id == c)
        let set_ (k : Nat) : Bool := bound k ≠ [] ∧ (bound k).all done = true
        let ready := (List.range 64).filter fun k => m.getLsbD k && set_ k
        let lowest : Word := match ready with
          | k :: _ => .ofNat 32 k
          | [] => 0xFFFFFFFF#32
        let answer : Team := { t.past with sregs := scalarsAfter t (lastPairs [a]) [(d, lowest)] }
        let silent : Team := { t.past with sregs := scalarsAfter t (lastPairs [a]) [] }
        (Issues s t { srcs := useP [a], dsts := [.s d] } →
          exec (.cffr d a) s = .next (s.putTeam answer)
            ∧ exec (.cwany d a) s = .next (if m = 0 ∨ ready ≠ [] then s.putTeam answer else s.stall t))
        ∧ (Issues s t { srcs := useP [a] } →
          exec (.cwall a) s = .next (if ∀ k ∈ List.range 64, m.getLsbD k = true → set_ k = true
            then s.putTeam silent else s.stall t)
          ∧ exec (.ctclr a) s = .next ({ s with flight := { s.flight with
            batches := s.flight.batches.filter fun b =>
              ¬ (b.ctx = t.ctx ∧ b.core = t.core ∧ m.getLsbD b.tag = true ∧ set_ b.tag = true) } }.putTeam silent))))
  ∧ (
    (∀ (a : Src) (s : State) (t : Team), Issues s t { srcs := useP [a], alone := true } → s.unwatched →
      let va := t.pair a.reg
      va.toNat % 64 = 0 → ∀ x, recordBytesAt s t va 64 = .ok x →
      let c := CollDesc.ofNat x.1
      c.legal (s.ctxOf t).nvr (fld 0 13 s.dev.regs.grpcnt.toNat) = true →
      ∀ ps, bytePlaces s t c.send c.sizes.1 .read = .ok ps → ∀ rs, bytePlaces s t c.recv c.sizes.2 .write = .ok rs →
      ∀ report, bytePlaces s t (va + 36#64) 8 .write = .ok report →
      let tower := towerOf t.core
      let issuer := s.rankOf c.group (fld 0 12 s.dev.regs.devid.toNat) tower c.rank
      let round := Assoc.get 0 s.dev.rounds (4096 * c.group + issuer)
      let seen := x.2 ++ placesIn (ps ++ rs ++ report)
      let s1 := ((s.touch t.ctx seen).servedAtHome tower x.2).putTeam { t.past with
        sregs := scalarsAfter t (lastPairs [a]) [], unsealed := t.unsealed ++ [s.flight.nextId] }
      exec (.coll a) s = .next { s1 with
        flight := { s1.flight with
          copies := s.flight.copies ++ [⟨s.flight.nextId, t.id, t.pc, earlierCopies s t, pagesOf seen,
            s.mappedBy (s.ctxOf t) ⟨[ps], rs ++ report, none⟩, ⟨[ps], rs ++ report, none⟩, false, [], none, some ⟨issuer, ps, rs, report, va, c.send, c.count,
            c.op, c.red, c.fmt, c.rnd, c.ctl % 2 == 1, c.group, c.rank, c.nranks, c.root, round, tower⟩⟩]
          nextId := s.flight.nextId + 1 }
        dev := { s.dev with rounds := Assoc.set 0 s.dev.rounds (4096 * c.group + issuer) (round + 1) } })
      ∧ ∀ (d : Reg) (a b : Src) (s : State) (t : Team),
        Issues s t { srcs := useP [a] ++ useS [b], dsts := [.s d], alone := true } → s.unwatched →
        let va := t.pair a.reg
        let u (v : Word) : Team := { t.past with sregs := scalarsAfter t (lastPairs [a] ++ lastOf [b]) [(d, v)] }
        (va.toNat % 128 ≠ 0 → exec (.node d a b) s = .next (s.takeTrap t ⟨.misaligned, va, 0, none, none⟩))
        ∧ (va.toNat % 128 = 0 → ∀ x, translate s (s.ctxOf t) t.core va .read = .error x →
          exec (.node d a b) s = .next (s.refusedAt t va x))
        ∧ (va.toNat % 128 = 0 → ∀ at_, translate s (s.ctxOf t) t.core va .read = .ok at_ →
          ((s.sealedBusy t = true ∨ 4096 ≤ s.fe.pool.length ∨ s.fe.held ≠ []) →
            exec (.node d a b) s = .next ((s.touchNamed t.ctx [at_]).stall t))
          ∧ (s.sealedBusy t = false → s.fe.pool.length < 4096 → s.fe.held = [] →
            let s1 := s.touchNamed t.ctx [at_]
            (s.accept (s.ctxOf t) va true = none →
              exec (.node d a b) s = .next ((s1.touchDesc t.ctx va).putTeam (u 1)))
            ∧ ∀ desc, s.accept (s.ctxOf t) va true = some desc →
              exec (.node d a b) s = .next ((s1.enter t.ctx none va desc (fld 0 3 (t.sval b.reg).toNat)).putTeam (u 0)))))

/-! ### The matrix array -/

/-- The matrix unit's state that a context must claim (19 R291). -/
def matrixClaimed (s : State) (t : Team) : Option Trap :=
  if (s.ctxOf t).claim.getLsbD 1 ∧ (s.ctxOf t).claim.getLsbD 3 then none else some ⟨.illegalMode, 0, 0, none, none⟩

/-- A row that a team may use: in its window and below 256 (17 R254). -/
def inWindow (t : Team) (r : Nat) : Prop := t.acb.toNat ≤ r ∧ r < t.acl.toNat ∧ r < 256

/-- Row `r` is the lowest of `n` rows from `first` on that the team may not use. -/
def outsideFirst (t : Team) (first n r : Nat) : Prop :=
  first ≤ r ∧ r < first + n ∧ ¬ inWindow t r ∧ ∀ q, first ≤ q → q < r → inWindow t q

/-- 17 R253, R254, R262, R263: MZERO clears whole rows, MACCRD and MACCWR move words between lanes and cells, counted
from sb or sa through the file, a poisoned cell giving a poisoned lane (21 R316); a row outside the window, or at or
above 256, raises ACC_WINDOW before any effect, the lowest row of MZERO, MACCLD and MACCST, the lowest lane's of MACCRD
and MACCWR. 17 R264; 21 R314, R316: MACCLD and MACCST move rows of cells, 256 bytes a row, from and to memory at the
address in the pair, cell by cell, once the checks of their accesses and then of the window have passed. (With no row
nothing is checked, the alignment of the pair neither: the model's choice, log entry 103. MZERO, MACCRD and MACCWR wait
for the team's acquires in flight, 15 R224 and 17 R261, as log entry 11 reads them.) -/
def Obligations.AccumulatorInstructions : Prop :=
  (
    (∀ (a b : Reg) (la : BitVec 4) (s : State) (t : Team),
      Issues s t { srcs := useS [⟨a, false⟩, ⟨b, false⟩], la := la.toNat, ordered := true, cells := true,
                   early := matrixClaimed s t } →
      let first := (t.sval a).toNat
      let n := (t.sval b).toNat
      let key (i : Nat) : Nat := cellKey t.ctx t.core (first + i / 64) (i % 64)
      let m := (List.range (64 * n)).foldl (fun m i => m.setCell (key i) ⟨0, false⟩) s.mem
      let s' := { s with mem := m }.putTeam { t.past with promises := promisesAfter t la [.s a, .s b] [] }
      ((∀ r, first ≤ r → r < first + n → inWindow t r) → exec (.mzero a b la) s = .next s'
        ∧ (s.canonical → SameBytes s s' ∧ ∀ r j : Nat, r < 256 → j < 64 →
          s'.mem.cell (cellKey t.ctx t.core r j) =
            if first ≤ r ∧ r < first + n then ⟨0, false⟩ else s.mem.cell (cellKey t.ctx t.core r j)))
      ∧ ∀ r, outsideFirst t first n r →
        exec (.mzero a b la) s = .next (s.takeTrap t ⟨.accWindow, .ofNat 64 r, 0, none, none⟩))
      ∧ (∀ (a b : Reg) (la : BitVec 4) (s : State) (t : Team),
        Issues s t { srcs := useS [⟨b, false⟩], dsts := [.v a], vector := true, la := la.toNat, ordered := true,
                     cells := true, early := matrixClaimed s t } →
        let row (l : Nat) : Nat := ((t.sval b).toNat + l) / 64
        let cell (l : Nat) : Cell := s.mem.cell (cellKey t.ctx t.core (row l) (((t.sval b).toNat + l) % 64))
        ((∀ l ∈ t.active, inWindow t (row l)) →
          ((∀ l ∈ t.active, (cell l).poison = false) →
            exec (.maccrd a b la) s = .next (s.putTeam { t.past with
              vregs := vectorsAfter t [] [(a, onActive t fun l => (cell l).val)]
              promises := promisesAfter t la [.m t.guard, .s b] [.v a] }))
          ∧ ∃ v : Vector VReg 64,
            let u : Team := { t.past with vregs := v, promises := promisesAfter t la [.m t.guard, .s b] [.v a] }
            exec (.maccrd a b la) s = .next (s.putTeam u)
            ∧ (∀ l ∈ t.active, u.vval a l = (cell l).val ∧ u.vbad a l = (cell l).poison)
            ∧ (∀ l < t.tw, l ∉ t.active → u.vval a l = t.vval a l ∧ u.vbad a l = t.vbad a l)
            ∧ ∀ i : Fin 64, (t.virt a).toNat ≠ i.val → v[i] = t.vregs[i])
        ∧ ∀ l ∈ t.active, ¬ inWindow t (row l) → (∀ k ∈ t.active, k < l → inWindow t (row k)) →
          exec (.maccrd a b la) s = .next (s.takeTrap t ⟨.accWindow, .ofNat 64 (row l), 0, some l, none⟩))
      ∧ ∀ (a b : Reg) (la : BitVec 4) (s : State) (t : Team),
        Issues s t { srcs := useS [⟨a, false⟩] ++ useV [⟨b, false⟩], vector := true, la := la.toNat, ordered := true,
                     cells := true, early := matrixClaimed s t } →
        let row (l : Nat) : Nat := ((t.sval a).toNat + l) / 64
        let key (l : Nat) : Nat := cellKey t.ctx t.core (row l) (((t.sval a).toNat + l) % 64)
        ((∀ l ∈ t.active, inWindow t (row l)) →
          exec (.maccwr a b la) s = .next ({ s with
            mem := t.active.foldl (fun m l => m.setCell (key l) ⟨t.vval b l, false⟩) s.mem }.putTeam
              { t.past with promises := promisesAfter t la [.m t.guard, .s a, .v b] [] }))
        ∧ ∀ l ∈ t.active, ¬ inWindow t (row l) → (∀ k ∈ t.active, k < l → inWindow t (row k)) →
          exec (.maccwr a b la) s = .next (s.takeTrap t ⟨.accWindow, .ofNat 64 (row l), 0, some l, none⟩))
  ∧ (
    ∀ p ∈ ([(.maccld, false), (.maccst, true)] : List ((Reg → Reg → Reg → BitVec 4 → Instr) × Bool)),
      ∀ (a b c : Reg) (la : BitVec 4) (s : State) (t : Team),
        Issues s t { srcs := useS [⟨a, false⟩] ++ useP [⟨b, false⟩] ++ useS [⟨c, false⟩], la := la.toNat, alone := true,
                     early := matrixClaimed s t } →
        let first := (t.sval a).toNat
        let n := (t.sval c).toNat
        let i_ : Intent := if p.2 then .write else .read
        let va (i : Nat) : Addr := t.pair b + .ofNat 64 (4 * i)
        let key (i : Nat) : Nat := cellKey t.ctx t.core (first + i / 64) (i % 64)
        let ok (i : Nat) : Prop := (accessPlace s t (.absolute (va i)) 4 4 i_).isOk = true
        let at_ (i : Nat) : Place := placeAt s t (.absolute (va i)) 4 i_
        (∀ i, i < 64 * n → (∀ j, j < i → ok j) → AccessFails s (s.touchNamed t.ctx ((List.range i).map at_)) t
          (.absolute (va i)) 4 4 i_ none (exec (p.1 a b c la) s))
        ∧ ((∀ i, i < 64 * n → ok i) →
          let seen := s.touch t.ctx ((List.range (64 * n)).map at_)
          let checked := s.touchNamed t.ctx ((List.range (64 * n)).map at_)
          (∀ r, outsideFirst t first n r →
            exec (p.1 a b c la) s = .next (checked.takeTrap t ⟨.accWindow, .ofNat 64 r, 0, none, none⟩))
          ∧ ((∀ r, first ≤ r → r < first + n → inWindow t r) → s.unwatched →
            (∀ i, i < 64 * n → s.reachable (at_ i) = true ∧ (at_ i).region ≠ .aperture) →
            let s1 := seen.putTeam { t.past with promises := promisesAfter t la [.s a, .pair b, .s c] [] }
            ∃ s', exec (p.1 a b c la) s = .next s'
              ∧ (p.2 = false → s'.mem = (List.range (64 * n)).foldl (fun m i => m.setCell (key i)
                    ⟨.ofNat 32 (s.mem.nat (at_ i).loc 4), s.mem.wordBad (at_ i).loc⟩) s.mem
                  ∧ s' = { s1 with mem := s'.mem, flight := { s.flight with lines := s'.flight.lines } })
              ∧ (p.2 = true → s' = (List.range (64 * n)).foldl (fun s i =>
                  let s2 := s.teamWrite (towerOf t.core) (at_ i) (leBytes 4 (s.mem.cell (key i)).val.toNat)
                  if (s.mem.cell (key i)).poison then s2.markWord (towerOf t.core) (at_ i) true else s2) s1))))

/-- 17 R250 to R259: MTILE and MMA do nothing with no active lane; their active lanes must agree on the format word; a
word that is not legal raises ILLEGAL_MODE, and the lowest DFM bit that its formats need and the core lacks raises
FEATURE_ABSENT (23 R330); after the checks the sequencer holds what they captured, and the team goes on. 17 R255, R265,
R268: ACWIN sets the window of the member of a cohort that its leader names, and answers a status; MPLAN plans the
elements of every active lane into the block at the address: of each position the descriptor, as one store, and its bits
in the masks, each mask byte written once, every other bit of the block as it was; MCHK gives and may clear the reruns,
with the failed halves of its core's array. (An invalid digit at a position of 1,024 or more, which is not written,
raises no NV: the model's choice, log entry 102.) -/
def Obligations.MatrixIssueAndControl : Prop :=
  (
    ∀ p ∈ ([(.mtile, true), (.mma, false)] : List ((Reg → Reg → Reg → BitVec 4 → Instr) × Bool)),
      ∀ (a b c : Reg) (la : BitVec 4) (s : State) (t : Team), Issues s t (matrixShape a b c la t s) → s.unwatched →
        let u := { t.past with promises := promisesAfter t la [.m t.guard, .v a, .s b, .quad c] [] }
        (t.active = [] → exec (p.1 a b c la) s = .next (s.putTeam u))
        ∧ ((∃ l ∈ t.active, ∃ k ∈ t.active, t.vval a k ≠ t.vval a l) →
          exec (p.1 a b c la) s = .next (s.takeTrap t ⟨.formatDivergence, 0, 0, none, none⟩))
        ∧ (∀ l ∈ t.active, (∀ k ∈ t.active, t.vval a k = t.vval a l) →
          let w := t.vval a l
          (wordLegal (s.ctxOf t).nvr w = false →
            exec (p.1 a b c la) s = .next (s.takeTrap t ⟨.illegalMode, 0, 0, none, none⟩))
          ∧ (wordLegal (s.ctxOf t).nvr w = true →
            let needs : List Nat := [wordA w, wordB w] ++ if wordC w = 0x18 then [24] else []
            ∀ f ∈ needs, dfmBit s t.core f = false → (∀ k ∈ needs, dfmBit s t.core k = false → f ≤ k) →
              exec (p.1 a b c la) s = .next (s.takeTrap t ⟨.featureAbsent, .ofNat 64 f, 0, none, none⟩)))
        ∧ (∀ x, matrixChecks s t p.2 s.sched.iw a b c = .error (.trap x) → exec (p.1 a b c la) s = .next (s.trapped t x))
        ∧ (∀ ps x, matrixChecks s t p.2 s.sched.iw a b c = .error (.seen ps (.trap x)) →
          exec (p.1 a b c la) s = .next ((s.touch t.ctx ps).trapped t x))
        ∧ ∀ r, matrixChecks s t p.2 s.sched.iw a b c = .ok r →
          exec (p.1 a b c la) s = .next (s.putTeam { u with matrix := t.matrix ++ (r.map (·.1)).toList })
            ∧ ∀ o ∈ r.map (·.1), o.word = s.sched.iw ∧ o.pc = t.pc ∧ o.control = t.sval b ∧ o.acb = t.acb.toNat
              ∧ o.acl = t.acl.toNat ∧ o.step = 0 ∧ o.faulted = false ∧ ∀ l ∈ t.active, o.fmt = t.vval a l)
  ∧ (
    (∀ (a b c : Reg) (la : BitVec 4) (s : State) (t : Team),
      Issues s t { srcs := useS [⟨b, false⟩, ⟨c, false⟩], dsts := [.s a], la := la.toNat, early := matrixClaimed s t } →
      let sel := t.sval b
      let win := t.sval c
      let lo := win.extractLsb' 0 9
      let hi := win.extractLsb' 16 9
      let answer (v : Word) : State := s.putTeam { t.past with
        sregs := scalarsAfter t [] [(a, v)], promises := promisesAfter t la [.s b, .s c] [.s a] }
      let member := (s.cohorts.find? fun x =>
          x.ctx == t.ctx && x.tower == towerOf t.core && x.handle == sel.extractLsb' 0 16).filter
        fun x => x.members.head? = some t.id
      (sel.toNat / 2 ^ 22 ≠ 0 ∨ win.extractLsb' 9 7 ≠ 0 ∨ win.toNat / 2 ^ 25 ≠ 0 →
        exec (.acwin a b c la) s = .next (s.takeTrap t ⟨.illegalMode, 0, 0, none, none⟩))
      ∧ (sel.toNat / 2 ^ 22 = 0 → win.extractLsb' 9 7 = 0 → win.toNat / 2 ^ 25 = 0 →
        (hi < lo ∨ 256 < hi.toNat → exec (.acwin a b c la) s = .next (answer 3))
        ∧ (lo ≤ hi → hi.toNat ≤ 256 →
          (member = none → exec (.acwin a b c la) s = .next (answer 1))
          ∧ (∀ x, member = some x → x.members[(sel.extractLsb' 16 6).toNat]? = none →
            exec (.acwin a b c la) s = .next (answer 2))
          ∧ ∀ x, member = some x → ∀ id, x.members[(sel.extractLsb' 16 6).toNat]? = some id →
            exec (.acwin a b c la) s = .next ((answer 0).modTeam id fun u => { u with acb := lo, acl := hi }))))
      ∧ (∀ (a b c : Reg) (la : BitVec 4) (s : State) (t : Team),
        Issues s t { srcs := [⟨.v a, false⟩, ⟨mplanOpnd t a b, false⟩, ⟨.pair c, false⟩, ⟨.s (c + 2#6), false⟩],
                     unread := [⟨.quad c, false⟩], vector := true, la := la.toNat, alone := true,
                     early := matrixClaimed s t } → s.unwatched →
        let u := { t.past with
          promises := promisesAfter t la [.m t.guard, .v a, mplanOpnd t a b, .pair c, .s (c + 2#6), .quad c] [] }
        (t.active = [] → exec (.mplan a b c la) s = .next (s.putTeam u))
        ∧ ∀ w, vote t a = .ok (some w) → w.toNat / 2 ^ 24 = 0 → (wordA w = 0x18 → b.toNat % 2 = 0) →
          (t.pair c).toNat % 256 = 0 → ∀ base, tileBytes s t (t.pair c) (blockSize (wordA w)) .write = .ok base →
          let ps := mplanPositions t (wordA w) b (t.sval (c + 2#6)).toNat
          exec (.mplan a b c la) s = .next ((s.putTeam
            { u with flags := t.flags ||| if ps.any (fun x => x.2.1.bad) then .ofNat 32 fNV else 0 }).writePositions base
              (wordA w) ps)
          ∧ (ps.map (·.1)).Nodup ∧ ∀ x ∈ ps, x.1 < 1024)
      ∧ (∀ (base F : Nat) (ps : List (Nat × Planed × Nat)) (s : State), (ps.map (·.1)).Nodup → (∀ x ∈ ps, x.1 < 1024) →
        let s' := s.writePositions base F ps
        let mask (j q : Nat) (neg : Bool) : Nat := base + maskByte F (j + 1) q neg
        (∃ ws : List (Nat × List Byte), s' = ws.foldl (fun v w => v.writeLoc w.1 w.2) s ∧ (ws.map (·.1)).Nodup)
        ∧ (s.canonical →
          (hasDescriptor F = true → ∀ x ∈ ps, s'.mem.bytes (base + 2 * x.1) 2 = leBytes 2 x.2.1.descriptor)
          ∧ (∀ j q neg, j < planeCount F → q < 1024 →
            (∀ x ∈ ps, x.1 = q → (s'.mem.byte (mask j q neg)).getLsbD (q % 8) =
              (x.2.1.digits.getD j 0 == if neg then -1 else 1))
            ∧ ((∀ x ∈ ps, x.1 ≠ q) →
              (s'.mem.byte (mask j q neg)).getLsbD (q % 8) = (s.mem.byte (mask j q neg)).getLsbD (q % 8)))
          ∧ ∀ a : Nat, (a < base ∨ base + blockSize F ≤ a) → s'.mem.byte a = s.mem.byte a))
      ∧ ∀ (a b : Reg) (la : BitVec 4) (s : State) (t : Team),
        Issues s t { srcs := useS [⟨b, false⟩], dsts := [.s a], la := la.toNat, early := matrixClaimed s t } →
        (1 < (t.sval b).toNat → exec (.mchk a b la) s = .next (s.takeTrap t ⟨.illegalMode, 0, 0, none, none⟩))
        ∧ ((t.sval b).toNat ≤ 1 → t.matrixPending = true → exec (.mchk a b la) s = .next (s.stall t))
        ∧ ((t.sval b).toNat ≤ 1 → t.matrixPending = false → exec (.mchk a b la) s = .next (s.putTeam { t.past with
          reruns := if t.sval b = 1 then 0 else t.reruns
          sregs := scalarsAfter t [] [(a, .ofNat 32 (t.reruns.toNat
            + (s.cores.failedA.getLsbD t.core).toNat * 2 ^ 16 + (s.cores.failedB.getLsbD t.core).toNat * 2 ^ 17))]
          promises := promisesAfter t la [.s b] [.s a] })))

/-! ### Events: what is in flight -/

/-- Access `a` is in flight and the accesses that lo places before it have performed (15 R224, R227). -/
def canPerform (s : State) (a : Access) : Prop :=
  s.access? a.id = some a ∧ ∀ b ∈ a.after, ∀ x ∈ s.flight.accesses, x.id ≠ b

/-- A team after an access of it that brings its destination, if any, no clean value: the destination is poisoned, a trap
pends (21 R314; 13 R194). -/
def spoilt (a : Access) (v : Nat) (x : Trap) (t : Team) : Team :=
  let u := match a.kind.dst? with
    | none => t
    | some d => t.putLoad d v true true
  { u with traps := u.traps ++ [x] }

/-- An access has left the flight. -/
def gone (s : State) (id : Nat) : State :=
  { s with flight := { s.flight with accesses := s.flight.accesses.filter fun x => x.id ≠ id } }

/-- 15 R217, R223, R227, R229; 13 R193 to R195; 21 R314; 25 R346, R347: in a turn that defers, a scalar load or store
puts its access in flight, after those of its team's that lo and the order of the SO accesses place before it (15 R224,
R228), and the team goes on. An access in flight performs and leaves the flight. A store's bytes take their place; a
load brings the bytes of its home, or of its tower's copy of the line, with the poison that they have there; a read
at the home drops the tower's copy of a line that a team of the tower has written, so that no weak read goes back to a
write before its own team's (15 R223, property 2), and leaves another, which may serve a later weak read with older writes
(property 4); an acquire drops those that 15 R229 names, though it finds poison; an atomic writes its
result in one step and leaves the old value as a reply, which brings it to the destination; over a link without native
atomics the teller reads, and its write, of what it computed, performs later, after which it replies; a strong read of
poison writes nothing; an access that no port can carry brings ACQUIRE_FAILED. The model's choices: the poisoned 0 of a
destination out of reach (log entry 30), when a tower keeps and serves a copy of a line (log entry 17), and that every
other device access to a word first ends what its teller has begun (log entry 18). An access knows the page that
translated it (21 R309). -/
def Obligations.AccessesInFlight : Prop :=
  (let mine (t : Team) (b : Access) : Prop := b.team = t.id ∧ b.kind.isReply = false
   let before (at_ : Place) (n : Nat) (release : Option Scope) (b : Access) : Prop :=
     touches b.place.loc b.size at_.loc n = true ∨ (b.acquire ≠ none ∧ at_.kind ≠ .uo)
       ∨ (release ≠ none ∧ b.place.kind ≠ .uo) ∨ (b.place.kind = .so ∧ at_.kind = .so)
   let flown (s : State) (t : Team) (m : MemArg) (n : Nat) (at_ : Place) (k : AccessKind) (acq rel : Option Scope)
       (after : List Nat) : State :=
     { (s.touch t.ctx [at_]).putTeam (stepped t m n []) with flight := { s.flight with
       accesses := s.flight.accesses ++ [⟨s.flight.nextId, t.id, t.pc, (memAddress m t n).va t, at_, n, k, acq, rel, false,
         after, s.pageOf (s.ctxOf t) ((memAddress m t n).va t)⟩]
       nextId := s.flight.nextId + 1 } }
   ∀ (m : MemArg) (r : Reg) (s : State) (t : Team), s.sched.defer = true → s.unwatched → emptyBuffer m t = false →
    (∀ p ∈ ([(.ldU8, 1, false, 0), (.ldS8, 1, false, 8), (.ldU16, 2, false, 0), (.ldS16, 2, false, 16), (.ld, 4, false, 0),
        (.ldD, 8, true, 0)] : List ((Reg → MemArg → Instr) × Nat × Bool × Nat)),
      Issues s t { srcs := memUses m, dsts := memDsts [if p.2.2.1 then .pair r else .s r] m, ordered := true } →
      ∀ at_, accessPlace s t (memAddress m t p.2.1) p.2.1 p.2.1 .read = .ok at_ →
      let so : Option Scope :=
        if at_.kind = .so then some (if at_.region ∈ [.hostCoherent, .peer] then .sy else .dv) else none
      ∃ after, exec (p.1 r m) s = .next (flown s t m p.2.1 at_ (.load (.scalar r p.2.2.1 p.2.2.2)) so none after)
        ∧ ∀ i, i ∈ after ↔ ∃ b ∈ s.flight.accesses, mine t b ∧ before at_ p.2.1 none b ∧ b.id = i)
    ∧ ∀ p ∈ ([(.stB, 1, false), (.stH, 2, false), (.st, 4, false), (.stD, 8, true)] :
        List ((Reg → MemArg → Instr) × Nat × Bool)),
      Issues s t { srcs := ⟨if p.2.2 then .pair r else .s r, false⟩ :: memUses m, dsts := memDsts [] m, ordered := true } →
      ∀ at_, accessPlace s t (memAddress m t p.2.1) p.2.1 p.2.1 .write = .ok at_ →
      let so : Option Scope :=
        if at_.kind = .so then some (if at_.region ∈ [.hostCoherent, .peer] then .sy else .dv) else none
      ∃ after, exec (p.1 r m) s = .next (flown s t m p.2.1 at_
          (.store (leBytes p.2.1 (if p.2.2 then (t.pair r).toNat else (t.sval r).toNat))) none so after)
        ∧ ∀ i, i ∈ after ↔ ∃ b ∈ s.flight.accesses, mine t b ∧ before at_ p.2.1 so b ∧ b.id = i)
  ∧ (∀ (s : State) (tower : Nat) (p : Place) (bs : List Byte),
    let s' := s.teamWrite tower p bs
    let stored (s : State) (x line : Nat) : Prop := (x, line) ∈ s.flight.stored
    (s.settled → p.region ≠ .aperture → s'.flight = { s.flight with
        lines := s.flight.lines.map fun c => if c.tower = tower then c.overlay p.loc bs else c
        stored := s'.flight.stored })
    ∧ (∀ x line, s.settled → p.region ≠ .aperture →
      (stored s' x line ↔ stored s x line ∨ ((∃ h, p.region = .device h) ∧ x = tower ∧ line = p.loc / 128)))
    ∧ ∀ ps : List Place, s.servedAtHome tower ps = { s with flight := { s.flight with
      lines := s.flight.lines.filter fun c => !(c.tower == tower && s.flight.stored.contains (tower, c.line)
        && ps.any fun p => p.loc / 128 == c.line) } })
  ∧ ∀ (a : Access) (keep : Bool) (s : State), canPerform s a →
    let tower := s.towerFor a.team
    let split := s.splitAtomic a.place
    let u := if (a.kind.isAtomic = true ∨ a.kind.isLoad = true ∨ a.kind.isStore = true) ∧ split = true
      then s.settle a.place.loc a.size else s
    let old := leNat (u.readPlace a.place a.size)
    let low := u.mem.wordBad a.place.loc
    let high := decide (a.size = 8) && u.mem.wordBad (a.place.loc + 4)
    let lost := gone (s.modTeam a.team (spoilt a 0 ⟨.acquireFailed, a.va, 0, none, some a.pc⟩)) a.id
    let reply (s1 : State) (v : BitVec 64) (dst : Option LoadDst) : State :=
      let s2 := gone s1 a.id
      match dst with
      | none => s2
      | some d => { s2 with flight := { s2.flight with
        accesses := s2.flight.accesses ++ [{ a with id := s2.flight.nextId, kind := .reply v false d, after := [] }]
        nextId := s2.flight.nextId + 1 } }
    let read := (u.acquireAt tower a.acquire).servedAtHome tower [a.place]
    let bad := gone (read.modTeam a.team (spoilt a old ⟨.poison, if low then a.va else a.va + 4#64, 1, none, some a.pc⟩)) a.id
    let wrote (bytes : List Byte) (dst : Option LoadDst) : State :=
      if split = true then { read with flight := { read.flight with accesses := read.flight.accesses.map fun x =>
        if x.id = a.id then { a with kind := .update (.ofNat 64 old) bytes dst, after := [] } else x } }
      else reply (read.teamWrite tower a.place bytes) (.ofNat 64 old) dst
    (s.reachable a.place = false →
      (a.kind.isLoad = true → exec (.loadPerform a.id keep) s = .next lost)
      ∧ (a.kind.isStore = true → exec (.writePerform a.id) s = .next lost)
      ∧ (a.kind.isUpdate = true → exec (.atomicPerform a.id) s = .next lost)
      ∧ (a.kind.isReply = true → exec (.atomicReply a.id) s = .next lost))
    ∧ (s.reachable a.place = true →
      (∀ bs, (a.kind = .store bs ∨ a.kind = .strongStore bs) →
        exec (.writePerform a.id) s = .next (gone (u.teamWrite tower a.place bs) a.id))
      ∧ (∀ d, a.kind = .load d →
        let line := a.place.loc / 128
        let mine (c : LineCopy) : Bool := c.tower == tower && c.line == line
        let word := a.place.loc % 128 / 4
        let home : ReadBytes := ⟨u.readPlace a.place a.size, (low, high)⟩
        let r : ReadBytes × List LineCopy :=
          if a.place.copyable tower = true then
            match keep, u.flight.lines.find? mine with
            | true, some c => (⟨(c.bytes.drop (a.place.loc % 128)).take a.size,
                (c.poison.getD word false, decide (a.size = 8) && c.poison.getD (word + 1) false)⟩, u.flight.lines)
            | true, none => (home, u.flight.lines ++ [⟨tower, line, u.mem.bytes (128 * line) 128,
                (List.range 32).map fun i => u.mem.wordBad (128 * line + 4 * i)⟩])
            | false, _ => (home, (u.servedAtHome tower [a.place]).flight.lines)
          else (home, u.flight.lines)
        exec (.loadPerform a.id keep) s = .next (gone ((({ u with flight := { u.flight with lines := r.2 } }).acquireAt
          tower a.acquire).modTeam a.team fun t => t.putLoad d (leNat r.1.bytes) r.1.bad.1 r.1.bad.2) a.id))
      ∧ (∀ d, a.kind = .strongLoad d →
        exec (.loadPerform a.id keep) s = .next (if low || high then bad
          else gone (read.modTeam a.team fun t => t.putLoad d old false false) a.id))
      ∧ (∀ o fp isSigned rnd sat v dst, a.kind = .atomic o fp isSigned rnd sat v dst → (a.size = 4 ∨ a.size = 8) →
        v.toNat < 2 ^ (8 * a.size) →
        let T := if fp = true then (if a.size = 8 then 0x18 else 0x17) else if isSigned = true then 0x0A else 0x0B
        exec (.atomicPerform a.id) s = .next (if low || high then bad
          else wrote (leBytes a.size (atomResult o T rnd sat old v.toNat)) dst))
      ∧ (∀ expected new d, a.kind = .cas expected new d →
        let x := if old = expected.toNat % 2 ^ (8 * a.size) then new.toNat else old
        exec (.atomicPerform a.id) s = .next (if low || high then bad else wrote (leBytes a.size x) (some d)))
      ∧ (∀ v bs dst, a.kind = .update v bs dst →
        exec (.atomicPerform a.id) s = .next (reply (s.writeLoc a.place.loc bs) v dst))
      ∧ ∀ v b d, a.kind = .reply v b d →
        exec (.atomicReply a.id) s = .next (gone (s.modTeam a.team fun t => t.putLoad d v.toNat b b) a.id))

/-- The ranks of this device in the collective of `p0` (13 R216). -/
def collParts (s : State) (p0 : CollPart) : List (Copy × CollPart) :=
  s.flight.copies.filterMap fun c =>
    match c.coll with
    | none => none
    | some p => if p.group = p0.group ∧ p.round = p0.round then some (c, p) else none

/-- The copies that a copy's reads come after have performed (15 R224). -/
def earlierMoved (s : State) (c : Copy) : Prop :=
  ∀ b ∈ c.after, ∀ x ∈ s.flight.copies, x.id = b → x.moving = false

/-- The team of a copy is told, once for the copy, that a byte of it cannot be reached (13 R208). -/
def toldLost (s : State) (c : Copy) (va : Addr) : State :=
  s.modTeam c.team fun t =>
    if ∃ x ∈ t.traps, x.code = .acquireFailed ∧ x.pcw = some c.pc then t
    else { t with traps := t.traps ++ [⟨.acquireFailed, va, 0, none, some c.pc⟩] }

/-- 13 R198: a fence completes once every access and copy it covers has performed. 13 R202: at its deadline an AWAIT
answers 1. 13 R208, R209, R211; 15 R224; 21 R314: a copy's reads begin once its team's earlier copies have performed; a
byte of it takes its place with its poison; a word that the copy has written whole and clean is clean; a byte out of
reach brings ACQUIRE_FAILED, once for a copy, and leaves poison; several bytes perform one after another; a follow-on
goes to the array when every byte has performed. 13 R215, R216; 05 R89; 25 R347, R348: a collective completes at every
rank of this device at once, when every rank of the group has issued its part or is lost: with STATUS 1 where the parts
disagree with one another or with the group table, with STATUS 2 and no result where a rank's die or link is lost,
before or after the rank has issued, or a link that failed has broken it, else with STATUS 0 and each rank's elements in
RECV; its reads, as a copy's, drop the tower's copies of their lines (15 R223). A NaN that one rank alone brings comes
out as the canonical NaN, a signalling one with NV (05 R63; log entry 75). The model's choices: the deadline of AWAIT is
by the copy of the time base of its core's die (log entry 16); the bytes of a copy out of reach are neither read nor
written, and ADDR is that of the first (log entry 30); of the prior and the final values that R216 allows under STATUS
2, RECV keeps the prior ones, and where parts disagree and a rank is lost STATUS is 1, but 2 in a broken collective (log
entry 50); FLAGS of a maximum or minimum (log entry 51); what a link that failed breaks (log entry 101); which rank a
COLL counts for (log entry 88). -/
def Obligations.CompletionsInFlight : Prop :=
  (
    (∀ (s : State) (t : Team) (f : Fence), s.team? t.id = some t → (t.fences.find? fun g => g.ticket == f.ticket) = some f →
      (∀ c ∈ f.cover, (∀ a ∈ s.flight.accesses, a.id ≠ c) ∧ ∀ x ∈ s.flight.copies, x.id ≠ c) →
      exec (.fenceComplete t.id f.ticket) s = .next ((s.putTeam { t with
        fences := t.fences.filter fun g => g.ticket ≠ f.ticket }).acquireAt (towerOf t.core)
          (if f.kind = .rl then none else some f.scope)))
      ∧ (∀ (d : Reg) (a : Src) (deadline : Nat) (s : State) (t : Team), s.team? t.id = some t →
        t.cond = .parkedAwait d a (some deadline) → deadline ≤ (s.coreTime t.core).toNat →
        exec (.awaitTimeout t.id) s = .next (s.putTeam { t.past with
          sregs := scalarsAfter t (lastOf [a]) [(d, 1), (d + 1#6, 0xFFFFFFFF#32)] }))
      ∧ (∀ (is : List Nat) (s : State) (c : Copy), s.copy? c.id = some c → c.coll = none → c.begun = false →
        earlierMoved s c →
        let read := s.servedAtHome (s.towerFor c.team) (placesIn c.plan.readFirst)
        let told := match c.plan.readFirst.find? fun b => !s.reachable b.place with
          | none => read
          | some b => toldLost read c b.va
        exec (.copyPerform c.id is) s = exec (.copyPerform c.id is) { told with flight := { told.flight with
          copies := told.flight.copies.map fun x =>
            if x.id = c.id then { c with begun := true, moves := s.movesOf (fun p => !s.reachable p) c.plan } else x } })
      ∧ (∀ (i : Nat) (m : Move) (s : State) (c : Copy), s.copy? c.id = some c → c.coll = none → c.begun = true →
        earlierMoved s c → c.moves[i]? = some m →
        let left := c.moves.eraseIdx i
        let same (x : Move) : Bool := x.dst.loc / 4 == m.dst.loc / 4
        let dirty := left.map fun x => if same x = true then { x with clears := false } else x
        let after (u : State) (left : List Move) : State :=
          if left = [] ∧ c.followOn = none then { u with flight := { u.flight with
            copies := u.flight.copies.filter fun x => x.id ≠ c.id } }
          else { u with flight := { u.flight with
            copies := u.flight.copies.map fun x => if x.id = c.id then { c with moves := left } else x } }
        let tower := s.towerFor c.team
        let spoil (u : State) : State := u.markWord tower m.dst true
        (s.reachable m.dst = false → exec (.copyPerform c.id [i]) s = .next (after (toldLost s c m.va) left))
        ∧ (s.reachable m.dst = true →
          (∀ va, s.moveSource m.src = .error va →
            exec (.copyPerform c.id [i]) s = .next (after (spoil (toldLost s c va)) dirty))
          ∧ ∀ v bad, s.moveSource m.src = .ok (v, bad) →
            let read := match m.src with
              | .loc p _ => s.servedAtHome tower [p]
              | .fixed _ _ => s
            let s1 := read.teamWrite tower m.dst [v]
            exec (.copyPerform c.id [i]) s = .next (
              if bad = true then after (spoil s1) dirty
              else if m.clears = true ∧ (∀ x ∈ left, same x = false) then
                after (s1.markWord tower m.dst false) left
              else after s1 left)))
      ∧ (∀ (i : Nat) (is : List Nat) (s : State) (c : Copy), s.copy? c.id = some c → c.coll = none → c.begun = true →
        earlierMoved s c → i < c.moves.length → 1 < c.moves.length → is ≠ [] →
        ∃ s1, exec (.copyPerform c.id [i]) s = .next s1
          ∧ exec (.copyPerform c.id (i :: is)) s = exec (.copyPerform c.id is) s1)
      ∧ ∀ (o : MatrixOp) (s : State) (c : Copy), s.copy? c.id = some c → c.followOn = some o → c.begun = true →
        c.moves = [] →
        exec (.followOnIssue c.id) s = .next { s with
          flight := { s.flight with
            copies := s.flight.copies.map fun x => if x.id = c.id then { c with followOn := none } else x }
          teams := s.teams.map fun t => if t.id = c.team then
            { t with matrix := t.matrix ++ [{ o with followOn := some c.id }] } else t })
  ∧ (
    ∀ (remote : List RankPart) (s : State) (c : Copy) (p0 : CollPart), s.copy? c.id = some c → c.coll = some p0 →
      let g := p0.group
      let ranks := collParts s p0
      let ds : List RankData := ranks.map (fun x => x.2.data s)
        ++ remote.map fun r => ⟨s.rankOf g r.device.toNat r.tower r.rank, r, r.send.map fun _ => false⟩
      let close (f : RankData → List (Nat × Bool) × Nat) (status : Nat) : State :=
        (ranks.zip ds).foldl (fun s x =>
          ((s.servedAtHome x.1.2.tower (placesIn x.1.2.send)).collPoison x.1.1 x.1.2).finishColl x.1.1 x.1.2 (f x.2).1 status
            (f x.2).2) s
      let came (r : Nat) : Prop := ∃ d ∈ ds, d.issuer = r
      let wrong := s.collWrong g ds
      let broken := (g, p0.round) ∈ s.dev.brokenColls
      (∀ x ∈ ranks, earlierMoved s x.1) →
      (broken → exec (.collComplete c.id remote) s = .next (close (fun _ => ([], 0)) 2))
      ∧ (¬ broken → (∀ d ∈ ds, (ds.filter fun x => x.issuer = d.issuer).length = 1) →
      (∀ r < s.groupRanks g, came r ∨ s.rankLost g r = true) →
      (wrong = true → exec (.collComplete c.id remote) s = .next (close (fun _ => ([], 0)) 1))
      ∧ (wrong = false → (∃ r < s.groupRanks g, s.rankLost g r = true) →
        exec (.collComplete c.id remote) s = .next (close (fun _ => ([], 0)) 2))
      ∧ (wrong = false → (∀ r < s.groupRanks g, s.rankLost g r = false) → exec (.collComplete c.id remote) s = .next
        (close (fun d => collResult ((List.range p0.nranks).flatMap fun r => ds.filter fun e => e.part.rank == r) d.part) 0))))
  ∧ ∀ (p : RankPart) (v : Nat), setF p.fmt = true → ((typeFmt p.fmt).decode v).isNan = true →
      collReduce p [v] = ⟨(typeFmt p.fmt).nanBits, if ((typeFmt p.fmt).decode v).isSNan = true then fNV else 0⟩

/-! ### Events: the matrix array -/

/-- The first pending matrix instruction leaves the sequencer, and with a follow-on its copy (17 R259, 13 R211). -/
def unqueued (s : State) (t : Team) (o : MatrixOp) : State :=
  { s with
    teams := s.teams.map fun u => if u.id = t.id then { u with matrix := u.matrix.tail } else u
    flight := match o.followOn with
      | none => s.flight
      | some c => { s.flight with copies := s.flight.copies.filter fun x => x.id ≠ c } }

/-- ARRAY_FAULT for a team: at its next boundary, or of a follow-on at the wait that covers its copy (13 R211). -/
def arrayTrap (s : State) (t : Team) (o : MatrixOp) (cause : Nat) : State :=
  let x : Trap := ⟨.arrayFault, .ofNat 64 t.core, cause, none, some o.pc⟩
  { s with teams := s.teams.map fun u => if u.id = t.id then (match o.followOn with
    | none => { u with traps := u.traps ++ [x] }
    | some c => { u with followFaults := u.followFaults ++ [([c], x)] }) else u }

/-- 17 R245, R253, R258: a step adds to every element of its band and the tile's columns the exact sum of the K-group's
products, rounded once; poison of any word read goes to the element. Every other cell of the accumulators, and all of
memory, is as it was. Under ZERO every element of the tile is zero and clean before the first iteration; that this
happens as the first step begins is the model's choice (log entry 12), and that poisoned operands still give their bits
and flags (log entry 33). An element of a one-row format lies in one cell; one of FP64 lies in two of row ROW0 + 2i + (j
div 32), its low half first. -/
def Obligations.ArrayArithmetic : Prop :=
  (∀ (o : MatrixOp) (ctx core : Nat) (m : Memory), m.wf = true → wordC o.fmt ≠ 0x18 → o.n ≤ 64 →
    let C := wordC o.fmt
    let band := o.step / o.groups
    let kg := groupSize o.nvr
    let g := o.step % o.groups
    let ks := (List.range (min kg (o.k - kg * g))).map (kg * g + ·)
    let inTile (i j : Nat) : Prop := 64 * band ≤ i ∧ i < min o.m (64 * band + 64) ∧ j < o.n
    let key (i j : Nat) : Nat := cellKey ctx core (o.row0 + i) j
    let m' := (o.group ctx core m).1
    let m0 := o.clear ctx core m
    (∀ i j, inTile i j →
      let a := o.stripA m i ks
      let b := o.stripB m j ks
      let was := m.cell (key i j)
      let old := if C = 0x14 ∨ C = 0x15 then was.val.toNat % 2 ^ 16 else was.val.toNat
      m'.cell (key i j) = ⟨.ofNat 32 (accumulate C (wordRnd o.fmt) (wordSat o.fmt) old
        (groupSum (a.vals.zip b.vals))).bits, was.poison || a.bad || b.bad⟩)
    ∧ (∀ k, (∀ i j, inTile i j → k ≠ key i j) → m'.cell k = m.cell k)
    ∧ m'.cells = m.cells ∧ m'.poison = m.poison
    ∧ (∀ i j, i < o.m → j < o.n → o.zero = true → o.step = 0 → m0.cell (key i j) = ⟨0, false⟩)
    ∧ (∀ k, (o.zero = true → o.step = 0 → ∀ i j, i < o.m → j < o.n → k ≠ key i j) → m0.cell k = m.cell k)
    ∧ m0.cells = m.cells ∧ m0.poison = m.poison)
  ∧ ∀ (o : MatrixOp) (ctx core : Nat) (m : Memory), m.wf = true → wordC o.fmt = 0x18 → o.n ≤ 64 →
    let band := o.step / o.groups
    let kg := groupSize o.nvr
    let g := o.step % o.groups
    let ks := (List.range (min kg (o.k - kg * g))).map (kg * g + ·)
    let inTile (i j : Nat) : Prop := 64 * band ≤ i ∧ i < min o.m (64 * band + 64) ∧ j < o.n
    let low (i j : Nat) : Nat := cellKey ctx core (o.row0 + 2 * i + j / 32) (2 * (j % 32))
    let high (i j : Nat) : Nat := cellKey ctx core (o.row0 + 2 * i + j / 32) (2 * (j % 32) + 1)
    let m' := (o.group ctx core m).1
    let m0 := o.clear ctx core m
    (∀ i j, inTile i j →
      let a := o.stripA m i ks
      let b := o.stripB m j ks
      let old := (m.cell (low i j)).val.toNat + 2 ^ 32 * (m.cell (high i j)).val.toNat
      let new := (accumulate 0x18 (wordRnd o.fmt) (wordSat o.fmt) old (groupSum (a.vals.zip b.vals))).bits
      let bad := (m.cell (low i j)).poison || (m.cell (high i j)).poison || a.bad || b.bad
      m'.cell (low i j) = ⟨.ofNat 32 new, bad⟩ ∧ m'.cell (high i j) = ⟨.ofNat 32 (new / 2 ^ 32), bad⟩)
    ∧ (∀ k, (∀ i j, inTile i j → k ≠ low i j ∧ k ≠ high i j) → m'.cell k = m.cell k)
    ∧ m'.cells = m.cells ∧ m'.poison = m.poison
    ∧ (∀ i j, i < o.m → j < o.n → o.zero = true → o.step = 0 →
      m0.cell (low i j) = ⟨0, false⟩ ∧ m0.cell (high i j) = ⟨0, false⟩)
    ∧ (∀ k, (o.zero = true → o.step = 0 → ∀ i j, i < o.m → j < o.n → k ≠ low i j ∧ k ≠ high i j) →
      m0.cell k = m.cell k)
    ∧ m0.cells = m.cells ∧ m0.poison = m.poison

/-- 17 R258, R260, R266, R267: a step of the array updates the accumulator and counts; the last one ends the instruction,
whose flags then join FLAGS. A mismatch counts a rerun for the team and its node; one that lasts marks the half of its
lowest mismatching column failed and the other in service, or, of a core at half width, the whole array; no step is
made while the team is stopped (21 R321), yielded or switched out, or the array throttled. 21 R318; 13 R211: a reset of
a hung array discards the pending matrix instructions of the teams whose context holds it and poisons the rows of their
windows; every team of the core with a window receives MATRIX_RESET; a team without one receives it at the waits that
cover the follow-ons it loses, issued or not. (When the zeros of ZERO appear, all as the first step begins and none on a
failed array: log entry 12. Which teams a reset reaches: log entry 44. That an array may be found hung at any time, with
no clock of how long, is the model's choice: log entry 52.) -/
def Obligations.ArrayStepsAndReset : Prop :=
  (
    ∀ (check : StepCheck) (o : MatrixOp) (rest : List MatrixOp) (s : State) (t : Team),
      s.team? t.id = some t → t.matrix = o :: rest → t.ctx = s.fe.running → s.fe.gated = false → t.yielded = false →
      (∀ b k, t.cond ≠ .stopped b k) → s.dev.throttled = false →
      let c := s.cores
      let failed := c.failedA.getLsbD t.core && c.failedB.getLsbD t.core
      let cleared : State := { s with mem := o.clear t.ctx t.core s.mem }
      let r := o.group t.ctx t.core cleared.mem
      let flags := o.flags ||| .ofNat 32 r.2
      let passes (s : State) : State :=
        if o.step + 1 < o.total then
          ({ s with mem := r.1 }).modTeam t.id fun u => { u with
            matrix := { o with step := o.step + 1, flags := flags } :: u.matrix.tail }
        else (unqueued { s with mem := r.1 } t o).modTeam t.id fun u => { u with
          flags := u.flags ||| flags
          producer := u.producer.map fun p => { p with flags := p.flags &&& ~~~flags } }
      let counted : State := (cleared.modTeam t.id fun u => { u with
        reruns := if u.reruns.toNat = 0xFFFF then u.reruns else u.reruns + 1 }).modNode t.node fun n => { n with
          reruns := if n.reruns.toNat = 0xFFFFFFFF then n.reruns else n.reruns + 1 }
      (failed = true → exec (.kGroupStep t.id check) s = .next (arrayTrap (unqueued s t o) t o 1))
      ∧ (failed = false → check = .passes → exec (.kGroupStep t.id check) s = .next (passes cleared))
      ∧ (failed = false → check = .rerun → exec (.kGroupStep t.id check) s = .next (passes counted))
      ∧ ∀ halfB, failed = false → check = .lasting halfB → exec (.kGroupStep t.id check) s = .next (
        if c.half.getLsbD t.core = true then
          arrayTrap (unqueued { counted with cores := { c with
            failedA := setCore c.failedA t.core true, failedB := setCore c.failedB t.core true } } t o) t o 1
        else arrayTrap ({ counted with
          cores := { c with
            half := setCore c.half t.core true
            hsel := setCore c.hsel t.core (!halfB)
            failedA := if halfB = true then c.failedA else setCore c.failedA t.core true
            failedB := if halfB = true then setCore c.failedB t.core true else c.failedB }
          nodes := counted.nodes.map fun (n : Node) =>
            if (∃ u ∈ s.teams, u.node = n.id ∧ u.core = t.core) then { n with halfWidth := true } else n }.modTeam t.id
              fun u => { u with matrix := { o with faulted := true } :: u.matrix.tail }) t o 0))
  ∧ (∀ (check : StepCheck) (s s' : State) (t : Team), s.team? t.id = some t →
    (t.ctx ≠ s.fe.running ∨ s.fe.gated = true ∨ t.yielded = true ∨ (∃ b k, t.cond = .stopped b k)
      ∨ s.dev.throttled = true ∨ t.matrix = []) →
    exec (.kGroupStep t.id check) s ≠ .next s')
  ∧ (
    ∀ (core : Nat) (s : State), s.canonical → s.dev.regs.hanglim ≠ 0 →
      let held (t : Team) : Bool := t.core == core && s.fe.unitHolders.contains ⟨1, core, t.ctx⟩
      (∃ t ∈ s.teams, held t = true ∧ t.matrix ≠ []) →
      let x : Trap := ⟨.matrixReset, .ofNat 64 core, 0, none, none⟩
      let issued (c : Copy) : Prop := ∃ t ∈ s.teams, held t = true ∧ ∃ o ∈ t.matrix, o.followOn = some c.id
      let carrying (c : Copy) : Prop := ∃ t ∈ s.teams, held t = true ∧ c.team = t.id ∧ c.followOn ≠ none
      let rows (t : Team) : List Nat := (List.range 256).filter fun r => t.acb.toNat ≤ r && r < t.acl.toNat
      let inRows (t : Team) (k : Nat) : Bool := (rows t).any fun r => (List.range 64).any fun j =>
        k == cellKey t.ctx t.core r j
      ∃ s', exec (.matrixReset core) s = .next s'
        ∧ s'.teams = s.teams.map (fun t =>
          if t.core ≠ core then t
          else
            let u := if held t = true then { t with matrix := [] } else t
            let follow := t.matrix.filterMap (·.followOn)
              ++ (s.flight.copies.filter fun c => c.team == t.id && c.followOn.isSome).map (·.id)
            if rows t ≠ [] then { u with traps := t.traps ++ [x] }
            else if held t = true ∧ follow ≠ [] then { u with followFaults := t.followFaults ++ [(follow, x)] }
            else u)
        ∧ (∀ k, s'.mem.cell k = { s.mem.cell k with
            poison := (s.mem.cell k).poison || s.teams.any fun t => held t && inRows t k })
        ∧ ((s.flight.copies.map (·.id)).Nodup → ∀ c, c ∈ s'.flight.copies ↔
          ∃ b ∈ s.flight.copies, ¬ issued b ∧ ((¬ carrying b ∧ c = b)
            ∨ (carrying b ∧ (b.begun = false ∨ b.moves ≠ []) ∧ c = { b with followOn := none })))
        ∧ SameBytes s s' ∧ s'.mem.poison = s.mem.poison)

/-! ### Events: queues and packets -/

/-- Queue `q`, of context `c`, is first in the round, its packet `p` is of the type, and `s1` is the state with the round
going on after it (19 R275). -/
def takesPacket (s : State) (q type p : Nat) (c : Context) (s1 : State) : Prop :=
  (∃ rest, s.fe.round = q :: rest ∧ s1 = { s with fe := { s.fe with round := rest } })
    ∧ ((s.queue q).prefetched.head?.map fun e => leNat e.2) = some p ∧ packetType p = type ∧ s.queueCtx q = some c

/-- The word that queue `q`'s head packet, a WAIT_SIGNAL, names: where it lies for the context, and whether the packet's
condition holds of it (19 R273). -/
def signalWord (s : State) (q : Nat) (at_ : Place) (holds : Bool) : Prop :=
  ∃ n b rest c, (s.queue q).prefetched = (n, b) :: rest ∧ s.queueCtx q = some c
    ∧ s.feTranslate c (packetAddr 8 (leNat b)) .read = .ok at_
    ∧ holds = bellHolds (ccOf (fld 256 3 (leNat b))) 8 (.ofNat 64 (leNat (s.readPlace at_ 8)))
      (packetAddr 16 (leNat b)) (packetAddr 24 (leNat b))

/-- Queue `q` waits on a signal, by a bell that has not fired, or on a word that no bell table holds, which cannot be
reached or of which its condition does not hold. -/
def signalWaits (s : State) (q : Nat) : Prop :=
  (∃ a f, (s.queue q).wait = .signal (some a) f)
    ∨ ((s.queue q).wait = .signal none false
      ∧ ∃ at_ holds, signalWord s q at_ holds ∧ (holds = false ∨ s.reachable at_ = false))

/-- Every head packet is one that a round takes or leaves as it stands: of an assigned OP, and well-formed. -/
def headsFormed (s : State) : Prop :=
  ∀ q < 128, ∀ p, (s.head q).2 = some p → unassignedOp p = false ∧ ∃ c, s.queueCtx q = some c ∧ packetErr c.priv p = 0

/-- 19 R270, R272, R274, R275; 25 R349: a doorbell publishes packets, and one beyond the ring halts its queue with ERR
4. The fetcher reads published packets, at most 16 ahead of the head packet, at their ring slots; the head packet's
header is read again, and where it differs the copy is given up, and with another header than its own the place that a
GRAPH had reached. A round takes at most one packet of each lane, in the order of their types and within a type of their
lanes; a lane takes the next queue of its rotation that has a packet to process, if any has (the second said of rounds
in which no WAIT_SIGNAL ends and every head packet is well-formed; O50 says how one ends). A packet finished with advances CONSUMED and
the status word; a halt sets HALT and ERR and drops what was fetched. That a slot is read at one instant is the model's
choice (log entry 95). -/
def Obligations.QueuesAndRounds : Prop :=
  (∀ (q : Nat) (p : Word) (s : State), q < 128 →
    exec (.doorbell q p) s = .next (match (s.queue q).map with
      | none => s
      | some m =>
        let s1 := s.putQueue q { s.queue q with doorbell := p }
        if (p - (s.queue q).consumed).toNat ≤ 2 ^ m.k then s1 else s1.haltQueue q 4))
    ∧ (∀ (q n : Nat) (s : State) (m : QueueMap) (r : Addr) (c : Context),
      let x := s.queue q
      x.map = some m → m.ring = some r → s.ctx? m.ctx = some c → x.halt = false → 0 < n →
      x.prefetched.length + n ≤ 17 → x.prefetched.length + n ≤ (x.doorbell - x.consumed).toNat →
      let count (i : Nat) : Word := x.consumed + .ofNat 32 (x.prefetched.length + i)
      let slot (i : Nat) : Addr := r + .ofNat 64 (64 * ((count i).toNat % 2 ^ m.k))
      ∀ at_ : Nat → Place, (∀ i < n, s.feTranslate c (slot i) .read = .ok (at_ i) ∧ s.reachable (at_ i) = true) →
      exec (.packetPrefetch q n) s = .next ((s.touchFe m.ctx ((List.range n).map slot)).putQueue q { x with
        prefetched := x.prefetched ++ (List.range n).map fun i => (count i, s.readPlace (at_ i) 64) }))
    ∧ (∀ s : State, s.fe.round = [] → ∃ s', exec .drumRound s = .next s'
      ∧ (s'.fe.round.map (· % 32)).Nodup
      ∧ (∀ q ∈ s'.fe.round, q < 128 ∧ (s'.queue q).halt = false ∧ (s'.queue q).prefetched ≠ [])
      ∧ s'.fe.round.Pairwise fun q r =>
        let rank (x : Nat) : Nat := typeRank (leNat ((s'.queue x).prefetched.headD (0, [])).2)
        rank q < rank r ∨ (rank q = rank r ∧ q % 32 < r % 32))
    ∧ (∀ s : State, s.fe.round = [] →
      (∀ q < 128, (s.queue q).wait = .none ∨ (s.queue q).wait = .gang ∨ signalWaits s q) → headsFormed s →
      let ready (q : Nat) : Prop := (s.queue q).wait = .none
        ∧ ∃ p, (s.head q).2 = some p ∧ (s.head q).1.waitsUnder q p = false
      let turn (i : Fin 32) (j : BitVec 2) : Nat := i.val + 32 * (s.fe.rotation[i] + j).toNat
      let takes (i : Fin 32) (j : BitVec 2) : Prop := ready (turn i j) ∧ ∀ k < j, ¬ ready (turn i k)
      ∃ s', exec .drumRound s = .next s' ∧ (∀ q, q ∈ s'.fe.round ↔ ∃ i j, takes i j ∧ q = turn i j)
        ∧ ∀ i j, takes i j → s'.fe.rotation[i] = s.fe.rotation[i] + j + 1)
    ∧ (∀ (q : Nat) (s : State), q < 128 → (s.queue q).leaving = false →
      let y := (s.consume q).queue q
      y.consumed = (s.queue q).consumed + 1 ∧ y.prefetched = (s.queue q).prefetched.tail ∧ y.halt = (s.queue q).halt)
    ∧ (∀ (q err : Nat) (s : State), q < 128 →
      let y := (s.haltQueue q err).queue q
      y.halt = true ∧ y.err = .ofNat 8 err ∧ y.consumed = (s.queue q).consumed ∧ y.prefetched = [])
    ∧ (∀ (q : Nat) (s : State) (m : QueueMap) (r : Addr) (c : Context) (p : Place),
      let x := s.queue q
      x.map = some m → m.ring = some r → s.ctx? m.ctx = some c → x.halt = false → x.consumed ≠ x.doorbell →
      let slot := r + .ofNat 64 (64 * (x.consumed.toNat % 2 ^ m.k))
      s.feTranslate c slot .read = .ok p → s.reachable p = true →
      let now := s.readPlace p 64
      let stamped : Prop := packetStamp (leNat now) = x.consumed.toNat % 2 ^ 17
      let v (y : Queue) : State := (s.touchFe m.ctx [slot]).putQueue q y
      let y := if .ofNat 32 (leNat (now.take 4)) = x.graphHead then x else { x with graphNext := 0 }
      (∀ b rest, x.prefetched = (x.consumed, b) :: rest → b.take 4 = now.take 4 →
        s.head q = if stamped then (v y, some (leNat b)) else (v { y with prefetched := [] }, none))
      ∧ ((∀ b rest, x.prefetched = (x.consumed, b) :: rest → b.take 4 ≠ now.take 4) →
        s.head q = if stamped then (v { y with prefetched := [(x.consumed, now)] }, some (leNat now))
          else (v { y with prefetched := [] }, none)))
    ∧ ∀ (q : Nat) (s : State) (m : QueueMap) (r : Addr) (c : Context) (p : Place), s.canonical →
      (s.queue q).map = some m → m.ring = some r → s.ctx? m.ctx = some c → s.feTranslate c m.status .write = .ok p →
      p.region ≠ .aperture → s.reachable p = true →
      (s.postStatus q).mem.bytes p.loc 8 = leBytes 8 ((s.queue q).consumed.toNat + 2 ^ 32 * (s.queue q).err.toNat
        + 2 ^ 40 * (s.queue q).halt.toNat)

/-- The core chosen for the next team of a node among eligible ones (19 R285): one that needs no emulation routine, then
of full width, then that holds a team of the node, then with the greatest AVAIL, then with the lowest index. -/
def chosenFrom (s : State) (n : Node) (cores : List Nat) (core : Nat) : Prop :=
  core ∈ cores
  ∧ ∀ x f, s.ctx? n.ctx = some x → s.features x n.desc.featIdx = some f → ∀ k ∈ cores,
    let full (k : Nat) : Bool := !s.cores.half.getLsbD k
    let holds (k : Nat) : Bool := (s.residents k).any fun t => t.node == n.id
    (nativeFit s k f = true → nativeFit s core f = true)
    ∧ (nativeFit s k f = nativeFit s core f → (full k = true → full core = true)
      ∧ (full k = full core → (holds k = true → holds core = true)
        ∧ (holds k = holds core → s.avail k ≤ s.avail core ∧ (s.avail k = s.avail core → core ≤ k))))

/-- Team `t`, the next of node `n`, starts on a core, in the state of 03 R43. -/
def startsOn (s s' : State) (n : Node) (core : Nat) (t : Team) : Prop :=
  s'.teams = s.teams ++ [t] ∧ s'.mem = s.mem ∧ s'.cores = s.cores ∧ s'.fe.gangHolds = s.fe.gangHolds
  ∧ t.core = core ∧ t.ctx = n.ctx ∧ t.node = n.id ∧ t.pc = n.desc.entry ∧ t.nid = n.desc.nid
  ∧ t.index = .ofNat 16 n.placed ∧ t.tw = 32 * n.desc.width ∧ t.mode = 0x17 ∧ t.flags = 0 ∧ t.slim = 0
  ∧ t.lavc = 0 ∧ (∀ q : Fin 8, t.qStart[q] = 0 ∧ t.qLen[q] = 0) ∧ t.acb = 0 ∧ t.acl = 0 ∧ t.cid0 = 0 ∧ t.cid1 = 0
  ∧ (∀ k : Fin 4, t.bells[k] = ⟨none, false⟩) ∧ t.vbase = .ofNat 3 n.desc.vbase ∧ t.blocks = .ofNat 4 n.desc.blocks
  ∧ t.pair 4 = n.descAddr ∧ t.sval 61 = n.desc.ss ∧ t.sval 62 = n.desc.ss
  ∧ (∀ r : Reg, r ≠ 4 → r ≠ 5 → r ≠ 61 → r ≠ 62 → t.sval r = 0)
  ∧ (∀ r : Reg, t.sbad r = false) ∧ (∀ r : Fin 64, t.vregs[r] = .dead) ∧ (∀ m : MReg, m ≠ 0 → t.mbits m = 0)
  ∧ (n.desc.width ≤ 32 → t.exm = lanesBelow t.tw) ∧ t.cond = .ready

/-- One team of a gang finds its slot (19 R287): `e` is its part's node with PAIRS; the core is eligible, of a pair that
PAIRS names, and the one that R285 chooses; the team starts there, and its node counts it. -/
def slotFound (q : Nat) (e : Node × Nat) (v w : State) : Prop :=
  ∃ n core t, v.node? e.1.id = some n ∧ e.2.testBit (core / 64) = true
    ∧ chosenFrom v n (v.eligible n (some q) fun c => e.2.testBit (c / 64)) core ∧ startsOn v w n core t
    ∧ (∃ m, w.node? e.1.id = some m ∧ m.placed = n.placed + 1 ∧ m.desc = n.desc)
    ∧ ∀ id, id ≠ e.1.id → w.node? id = v.node? id

/-- 19 R273, R274, R280 to R282: a NODE packet whose descriptor the front end accepts enters the pool after the nodes of
its priority or a higher one; it stays while the pool is full; an address that cannot be read halts its queue with ERR
5, a descriptor that is refused with ERR 3, or with ERR 5 where nothing but an operand record is malformed (the model's
choice between two rows of R274, log entry 83). The homes that the descriptor names join the context's touched dies
(21 R319). A GRAPH packet does so for each descriptor of its region whose PRED is 0,
going on from the one it had reached. 19 R273, R287: a GANG packet enters its parts' nodes and places every team of them
at once, or none: then it waits, and tries again; a part that is refused halts its queue. All are placed where every team
of every part, one after another, finds an eligible core of a pair that its PAIRS names, with a slot of its own; none where
one team finds no such core. That a gang does not wait for
yielded teams whose wait has ended is the model's choice (log entry 97). -/
def Obligations.NodeAndGangPackets : Prop :=
  (
    let refused (s : State) (c : Context) (va : Addr) (fresh : Bool) : Nat :=
      match s.peek c va 128 with
      | none => 5
      | some x => if s.descOk c x fresh false = true then 5 else 3
    (∀ (q p : Nat) (c : Context) (s s1 : State), takesPacket s q 2 p c s1 →
      let va := packetAddr 8 p
      let id := s.sched.nextName
      let v := s1.touchDesc c.ctxid va
      (s.usable c va .read = false → exec (.nodePacket q) s = .next ((PacketEnd.halts 5 v).close q))
      ∧ (s.usable c va .read = true → s.poolBusy = true → exec (.nodePacket q) s = .next ((PacketEnd.stays v).close q))
      ∧ (s.usable c va .read = true → s.poolBusy = false → s.accept c va true = none →
        exec (.nodePacket q) s = .next ((PacketEnd.halts (refused s c va true) v).close q))
      ∧ ∀ d, s.usable c va .read = true → s.poolBusy = false → s.accept c va true = some d →
        let s2 : State := { v with
          nodes := s.nodes ++ [Node.fresh id c.ctxid (some q) va d (fld 128 3 p)]
          sched := { s.sched with nextName := id + 1 }
          fe := { v.fe with pool := s.fe.pool.takeWhile (fun x => fld 128 3 p ≤ s.prioOf x) ++ id ::
            s.fe.pool.dropWhile fun x => fld 128 3 p ≤ s.prioOf x } }
        exec (.nodePacket q) s = .next ((PacketEnd.done ((s2.touchDesc c.ctxid va).putQueue q { s.queue q with
          entered := (s.queue q).entered ++ [id] })).close q))
      ∧ ∀ (q p : Nat) (c : Context) (s s1 : State), takesPacket s q 1 p c s1 → q < 128 →
        let i := (s.queue q).graphNext
        let va := packetAddr 8 p + .ofNat 64 (128 * i)
        let at_ (s : State) (i : Nat) : State :=
          s.putQueue q { s.queue q with graphNext := i, graphHead := .ofNat 32 (fld 0 32 p) }
        let v (s : State) : State := s.touchDesc c.ctxid va
        (∃ s', exec (.graph q) s = .next s')
        ∧ (packetBytes 16 4 p ≤ i → exec (.graph q) s = .next ((PacketEnd.done s1).close q))
        ∧ (i < packetBytes 16 4 p → s.peek c (va + 40#64) 4 = none →
          exec (.graph q) s = .next ((PacketEnd.halts 5 (at_ (v s1) i)).close q))
        ∧ (∀ pred, i < packetBytes 16 4 p → s.peek c (va + 40#64) 4 = some pred → pred ≠ 0 →
          exec (.graph q) s = exec (.graph q) (at_ (v s) (i + 1)))
        ∧ (i < packetBytes 16 4 p → s.peek c (va + 40#64) 4 = some 0 → s.poolBusy = true →
          exec (.graph q) s = .next ((PacketEnd.stays (at_ (v s1) i)).close q))
        ∧ (i < packetBytes 16 4 p → s.peek c (va + 40#64) 4 = some 0 → s.poolBusy = false → s.accept c va false = none →
          exec (.graph q) s = .next ((PacketEnd.halts (refused s c va false) (at_ (v s1) i)).close q))
        ∧ ∀ d, i < packetBytes 16 4 p → s.peek c (va + 40#64) 4 = some 0 → s.poolBusy = false →
          s.accept c va false = some d → exec (.graph q) s = exec (.graph q) (at_ ((v s).enterFrom c q va d d.prio) (i + 1)))
  ∧ (
    let tried (q p : Nat) (c : Context) (s : State) : PacketEnd :=
      let ns := s.nodes.filter fun n => n.gang = some q ∧ n.placed = 0
      let waiting := s.putQueue q { s.queue q with wait := .gang }
      if s.fe.gated = true ∨ s.fe.running ≠ c.ctxid then .stays waiting
      else match State.placeParts q (ns.zip ((gangParts p).map (·.2))) s with
        | none => .stays waiting
        | some s1 =>
          let s2 := ns.foldl (fun s n => s.putQueue q { s.queue q with entered := (s.queue q).entered ++ [n.id] }) s1
          .done { s2 with fe := { s2.fe with gangHolds := s2.fe.gangHolds.filter fun h => h.1 ≠ q } }
    (∀ (q p : Nat) (c : Context) (s s1 : State), takesPacket s q 3 p c s1 →
      let v := (gangParts p).foldl (fun s a => s.touchDesc c.ctxid a.1) s1
      (∀ e, s.acceptParts c (gangParts p) = .error e → exec (.gang q) s = .next ((PacketEnd.halts e v).close q))
      ∧ ∀ ds, s.acceptParts c (gangParts p) = .ok ds →
        let s2 : State := { v with
          nodes := s.nodes ++ ds.zipIdx.map fun d =>
            { Node.fresh (s.sched.nextName + d.2) c.ctxid (some q) d.1.1 d.1.2 d.1.2.prio with gang := some q }
          sched := { s.sched with nextName := s.sched.nextName + ds.length } }
        exec (.gang q) s = .next ((tried q p c s2).close q))
      ∧ ∀ (q p : Nat) (c : Context) (s : State), (s.queue q).wait = .gang →
        ((s.queue q).prefetched.head?.map fun e => leNat e.2) = some p → s.queueCtx q = some c →
        exec (.gangReserveRetry q) s = .next ((tried q p c s).close q))
  ∧ ∀ (q : Nat) (s : State) (parts : List (Node × Nat)), (parts.map (·.1.id)).Nodup →
      (∀ e ∈ parts, s.node? e.1.id = some e.1 ∧ e.1.placed = 0) →
      let slots : List (Node × Nat) := parts.flatMap fun e => List.replicate e.1.desc.teams e
      (∀ s', State.placeParts q parts s = some s' → ∃ f : Nat → State, f 0 = s ∧ f slots.length = s'
        ∧ (∀ k e, slots[k]? = some e → slotFound q e (f k) (f (k + 1)))
        ∧ ∀ e ∈ parts, ∃ n, s'.node? e.1.id = some n ∧ n.placed = e.1.desc.teams)
      ∧ (State.placeParts q parts s = none → ∃ (f : Nat → State) (k : Nat) (e : Node × Nat), f 0 = s ∧ slots[k]? = some e
        ∧ (∀ i < k, ∀ d, slots[i]? = some d → slotFound q d (f i) (f (i + 1)))
        ∧ ∀ n, (f k).node? e.1.id = some n → (f k).eligible n (some q) (fun c => e.2.testBit (c / 64)) = [])

/-- 19 R273; 15 R235; 21 R310, R311, R314; 25 R346: SIGNAL updates its word, unless it is poisoned: in one step, or,
over a link without native atomics, by a read and then a write, between which writes of the host or a peer may fall; it
first ends what a teller has begun at the word (the model's choice, log entry 18). WAIT_SIGNAL passes when its condition
holds, else waits on a bell (its table by the word's home, an aperture word's the base die's, and the overflow list in
the order of arrival: the model's choices, log entries 80 and 81), or, of a word no bell table holds, until a round
finds the condition true. The bell fires on a write that touches the word and leaves the condition true, as a team's does
(15 R236), and on no other. The round whose lane reaches the queue after that, or finds the condition true, finishes with
the packet: CONSUMED advances, and the queue goes on, with its next packet at once if it has one; till then it waits. The
front end holds no copies of lines, so that its acquire at .SY drops none, and every team of a later node starts with one
of its own (19 R288). MARKER writes VALUE and then the time base; RANGE_COMMIT replaces the selected range registers
if every image and the resulting set are legal, after every access the context's teams have in flight, and waits for
their copies (log entry 68). Model's readings: it ignores the reserved bits of ATTR, as 00 R11 has it (log entry 70); it
drops every tower's copies of every line (log entry 79); WAIT_SIGNAL takes the stored bits of a poisoned word (log entry
43). Each adds the homes of the addresses it names to the context's touched dies (21 R319). An address that cannot be
used, or whose place is out of reach, halts the queue with ERR 5. -/
def Obligations.SignalPackets : Prop :=
  (∀ (q p : Nat) (c : Context) (s s1 : State), takesPacket s q 4 p c s1 →
    let va := packetAddr 8 p
    let v := s1.touchFe c.ctxid [va]
    let lost : Prop := (∀ x, s.feTranslate c va .read ≠ .ok x) ∨ ∀ at_, s.feTranslate c va .write = .ok at_ → s.reachable at_ = false
    (lost → exec (.signal q) s = .next ((PacketEnd.halts 5 v).close q))
    ∧ ∀ at_, s.feTranslate c va .write = .ok at_ → ¬ lost →
      let w := v.settle at_.loc 8
      let old := leNat (w.readPlace at_ 8)
      let value := (packetAddr 16 p).toNat
      let meanwhile : State := match s.splitAtomic at_, w.sched.during with
        | true, ws :: rest => ws.foldl State.ownWrite { w with sched := { w.sched with during := rest } }
        | _, _ => w
      exec (.signal q) s = .next ((PacketEnd.done (if w.mem.anyBad at_.loc 8 = true then w
        else meanwhile.writePlace at_ (leBytes 8 (if fld 192 2 p = 1 then (old + value) % 2 ^ 64
          else if fld 192 2 p = 2 then value else old)))).close q))
    ∧ (∀ (q p : Nat) (c : Context) (s s1 : State), takesPacket s q 5 p c s1 →
      let v := s1.touchFe c.ctxid [packetAddr 8 p]
      ((∀ at_, s.feTranslate c (packetAddr 8 p) .read = .ok at_ → s.reachable at_ = false) →
        exec (.waitSignal q) s = .next ((PacketEnd.halts 5 v).close q))
      ∧ ∀ at_, s.feTranslate c (packetAddr 8 p) .read = .ok at_ → s.reachable at_ = true →
        let cond := ccOf (fld 256 3 p)
        let holds := bellHolds cond 8 (.ofNat 64 (leNat (s.readPlace at_ 8))) (packetAddr 16 p) (packetAddr 24 p)
        let home := (at_.home 0).getD 0
        let bell (listed : Bool) : Armed := ⟨at_.loc, 8, home, cond, packetAddr 16 p, packetAddr 24 p, listed⟩
        let waits (b : Option Armed) (w : State) : PacketEnd :=
          .stays (w.putQueue q { w.queue q with wait := .signal b false })
        let linked : Prop := at_.region ∈ [.hostCoherent, .hostLink, .peer]
        (holds = true → exec (.waitSignal q) s = .next ((PacketEnd.done v).close q))
        ∧ (holds = false → linked → exec (.waitSignal q) s = .next ((waits none v).close q))
        ∧ (holds = false → ¬ linked → s1.bellRoom home = none →
          exec (.waitSignal q) s = .next ((PacketEnd.stays v).close q))
        ∧ ∀ listed, holds = false → ¬ linked → s1.bellRoom home = some listed →
          exec (.waitSignal q) s = .next ((waits (some (bell listed)) (v.listBell (bell listed) q 4)).close q))
    ∧ (∀ (q p : Nat) (c : Context) (s s1 : State), takesPacket s q 8 p c s1 →
      let v := s1.touchFe c.ctxid [packetAddr 8 p]
      ((∀ at_, s.feTranslate c (packetAddr 8 p) .write = .ok at_ → s.reachable at_ = false) →
        exec (.marker q) s = .next ((PacketEnd.halts 5 v).close q))
      ∧ ∀ at_, s.feTranslate c (packetAddr 8 p) .write = .ok at_ → s.reachable at_ = true →
        exec (.marker q) s = .next ((PacketEnd.done ((v.writePlace at_ (leBytes 8 (packetBytes 16 8 p))).writePlace
          { at_ with loc := at_.loc + 8 } (leBytes 8 s.dev.time.toNat))).close q))
    ∧ (∀ (v : State) (loc n q : Nat), q < 128 →
      (v.afterWrite loc n).queue q = match (v.queue q).wait with
        | .signal (some a) false =>
          if rings v loc n a = true then { v.queue q with wait := .signal none true } else v.queue q
        | _ => v.queue q)
    ∧ (∀ (q : Nat) (s : State), q < 128 →
      ((s.queue q).wait = .signal none true → s.settleWait q = s.consume q)
      ∧ (signalWaits s q → s.settleWait q = s)
      ∧ (∀ at_, (s.queue q).wait = .signal none false → signalWord s q at_ true → s.reachable at_ = true →
        s.settleWait q = s.consume q)
      ∧ ∀ n b rest c, (s.queue q).wait = .signal none false → (s.queue q).prefetched = (n, b) :: rest →
        s.queueCtx q = some c → (∀ at_, s.feTranslate c (packetAddr 8 (leNat b)) .read ≠ .ok at_) →
        s.settleWait q = s.haltQueue q 5)
    ∧ (∀ (s : State) (i : Fin 32) (j : BitVec 2), s.fe.round = [] →
      let turn (k : BitVec 2) : Nat := i.val + 32 * (s.fe.rotation[i] + k).toNat
      let q := turn j
      let x := s.queue q
      -- The lane's earlier queues have nothing to process.
      (∀ k < j, (s.queue (turn k)).wait = .gang ∨ ((s.queue (turn k)).wait = .none
        ∧ ((s.queue (turn k)).halt = true ∨ (s.queue (turn k)).consumed = (s.queue (turn k)).doorbell))) →
      x.leaving = false →
      let others : Prop := headsFormed s ∧ ∀ r < 128, r ≠ q →
        (s.queue r).wait = .none ∨ (s.queue r).wait = .gang ∨ ∃ a f, (s.queue r).wait = .signal (some a) f
      let passes : Prop := ∃ s', exec .drumRound s = .next s' ∧ (s'.queue q).wait = .none
        ∧ ((s'.queue q).consumed = x.consumed + 1
          -- The next packet is one of an unassigned OP, which has result 1 in the same round.
          ∨ ((s'.queue q).consumed = x.consumed + 2 ∧ x.doorbell ≠ x.consumed + 1))
      (x.wait = .signal none true → passes)
      ∧ (∀ at_, x.wait = .signal none false → others → signalWord s q at_ true → s.reachable at_ = true → passes)
      ∧ (signalWaits s q → others → ∃ s', exec .drumRound s = .next s' ∧ (s'.queue q).wait = x.wait
        ∧ (s'.queue q).consumed = x.consumed))
    ∧ ∀ (q p : Nat) (c : Context) (s s1 : State), takesPacket s q 6 p c s1 →
      let va := packetAddr 8 p
      let select := packetBytes 16 8 p
      let selected := (List.range 64).filter fun r => bit r select
      let v := s1.touchFe c.ctxid (va :: selected.map fun r => va + .ofNat 64 (64 * r))
      (s.usable c va .read = false ∨ s.readImages c va select = none →
        exec (.rangeCommit q) s = .next ((PacketEnd.halts 5 v).close q))
      ∧ ∀ images, s.usable c va .read = true → s.readImages c va select = some images →
        let rs := commitRanges c.ranges select images
        let legal : Prop := (∀ r < 64, bit r select = true → imageOk (images.getD r 0) = true) ∧ rangesOk rs = true
        (¬ legal → exec (.rangeCommit q) s = .next ((PacketEnd.halts 5 v).close q))
        ∧ (legal → (∃ x ∈ s.flight.copies, s.inCtx c.ctxid x.team = true) →
          exec (.rangeCommit q) s = .next ((PacketEnd.stays v).close q))
        ∧ (legal → (∀ x ∈ s.flight.copies, s.inCtx c.ctxid x.team = false) →
          let s2 := v.performAll (s.inCtx c.ctxid)
          let s3 : State := { s2 with flight := { s2.flight with lines := [] } }
          exec (.rangeCommit q) s = .next ((PacketEnd.done ((s3.modCtx c.ctxid fun c => { c with
            ranges := rs }).retryContext c.ctxid)).close q))

/-- 19 R291, R293: CONTEXT_CTL answers in its result word 1 for what is malformed, 2 for a context that is there or is
not or a full run list, 3 for a PLIM below the bound, 4 for a queue that is mapped, else 0: CREATE appends an entry,
UPDATE keeps its image for the next switch-in, MAPQ and UNMAPQ map and unmap a queue, RESUMEQ clears a halt, PREEMPT
requests a preemption; what the packet names joins the touched dies (21 R319). A result that cannot be written halts the
queue. The model's choices are MAPQ's start with nothing published (log entry 36), a queue in process that UNMAPQ names
(log entry 48), the receipts and drain of DESTROY (log entry 49), which result is given where several fit (log entry
104), that 4 is given of a mapped queue alone (log entry 105), 1 for a queue that is not mapped to the context (log
entry 106), and 0 for a queue that is not halted (log entry 107). 19 R297; 25 R355: FW_HANDOVER answers 3 for an image
that is malformed or too old (the model's choice of code, log entry 61), 1 for one whose signature fails, else keeps it
and stays; between rounds the new firmware takes the state block, 0, or the old one goes on, 2, and prefetched packets
are fetched again. -/
def Obligations.ContextControlAndFirmware : Prop :=
  (
    ∀ (q p : Nat) (c : Context) (s s1 : State), takesPacket s q 7 p c s1 →
      let n := packetBytes 6 2 p
      let result := packetAddr 56 p
      let report (code : Nat) (s : State) : Result := .next ((PacketEnd.done (s.writeResult c.ctxid result code)).close q)
      let target := packetBytes 16 1 p
      let v := s1.touchControl c p
      let ops : List (Nat × Instr) := [(0, .create q), (1, .destroy q), (2, .update q), (3, .mapq q), (4, .unmapq q),
        (5, .resumeq q), (6, .preempt q)]
      (∀ e ∈ ops, packetBytes 4 1 p = e.1 → s.resultLost c result = true →
        exec e.2 s = .next ((PacketEnd.halts 5 v).close q))
      ∧ (s.resultLost c result = false →
        (packetBytes 4 1 p = 0 →
          (∀ e, v.entryImage c (packetAddr 8 p) n = .error e → exec (.create q) s = report e v)
          ∧ ∀ x, v.entryImage c (packetAddr 8 p) n = .ok x → exec (.create q) s =
            if (s.ctx? n).isSome = true ∨ 64 ≤ s.fe.contexts.length then report 2 v
            else if plimOk x = false then report 3 v
            else report 0 { v with fe := { v.fe with contexts := v.fe.contexts ++ [Context.ofImage x] } })
        ∧ (packetBytes 4 1 p = 2 →
          (∀ e, v.entryImage c (packetAddr 8 p) n = .error e → exec (.update q) s = report e v)
          ∧ ∀ x, v.entryImage c (packetAddr 8 p) n = .ok x → exec (.update q) s =
            if (s.ctx? n).isNone = true then report 2 v
            else if plimOk x = false then report 3 v
            else report 0 (v.modCtx n fun c => { c with update := some (leBytes 64 x) }))
        ∧ (packetBytes 4 1 p = 3 → exec (.mapq q) s =
          if 128 ≤ target then report 1 v
          else match s.ctx? n with
            | none => report 2 v
            | some x =>
              if v.ringOk x (packetBytes 17 1 p) (packetAddr 8 p) (packetAddr 24 p) = false then report 1 v
              else if (s.queue target).map.isSome = true then report 4 v
              else report 0 (v.mapQueue target ⟨n, packetBytes 17 1 p, some (packetAddr 8 p), packetAddr 24 p⟩))
        ∧ (packetBytes 4 1 p = 4 ∨ packetBytes 4 1 p = 5 →
          let named := if packetBytes 4 1 p = 4 then exec (.unmapq q) s else exec (.resumeq q) s
          (128 ≤ target → named = report 1 v)
          ∧ (target < 128 → s.ctx? n = none → named = report 2 v)
          ∧ (target < 128 → s.ctx? n ≠ none → (∀ m, (s.queue target).map = some m → m.ctx ≠ n) → named = report 1 v))
        ∧ (∀ m, packetBytes 4 1 p = 4 → target < 128 → s.ctx? n ≠ none → (s.queue target).map = some m → m.ctx = n →
          exec (.unmapq q) s = report 0 (if v.processing q target = true
            then v.putQueue target { s.queue target with leaving := true } else v.unmapQueue target))
        ∧ (∀ m, packetBytes 4 1 p = 5 → target < 128 → s.ctx? n ≠ none → (s.queue target).map = some m → m.ctx = n →
          let x := s.queue target
          let skip : Prop := fld 136 1 p = 1
          exec (.resumeq q) s = report 0 (if x.halt = false then v
            else (v.updateQueue target { x with
              halt := false, err := 0
              consumed := if skip then x.consumed + 1 else x.consumed
              graphNext := if skip then 0 else x.graphNext }).checkOverrun target))
        ∧ (packetBytes 4 1 p = 6 → exec (.preempt q) s =
          if (s.ctx? n).isNone = true then report 2 v
          else report 0 { v.gate with fe := { v.gate.fe with next := some n } })
        ∧ (packetBytes 4 1 p = 1 → exec (.destroy q) s =
          if n = 1 then report 1 v
          else if (s.ctx? n).isNone = true then report 2 v
          else .next ((PacketEnd.stays ((((((v.drainContext n).destroyReceipts n).writeResult c.ctxid result 0).consume
            q).removeContext n))).close q)))
      ∧ ∀ (s : State) (ctx : Nat),
        let s' := s.removeContext ctx
        (∀ x ∈ s'.fe.contexts, x.ctxid ≠ ctx) ∧ (∀ t ∈ s'.teams, t.ctx ≠ ctx) ∧ (∀ n ∈ s'.nodes, n.ctx ≠ ctx)
        ∧ ∀ k < 128, ∀ m, (s'.queue k).map = some m → m.ctx ≠ ctx)
  ∧ (
    (∀ (q p : Nat) (c : Context) (s s1 : State), takesPacket s q 9 p c s1 →
      let result := packetAddr 24 p
      let v := s1.touchFe c.ctxid (result :: imagePages (packetAddr 8 p) (packetBytes 16 4 p))
      let report (code : Nat) : Result := .next ((PacketEnd.done (v.postVa c.ctxid result (leBytes 8 code))).close q)
      let image := s1.peekBytes c (packetAddr 8 p) (packetBytes 16 4 p)
      (s.usable c result .write = false → exec (.fwHandover q) s = .next ((PacketEnd.halts 5 v).close q))
      ∧ (s.usable c result .write = true → image = none → exec (.fwHandover q) s = .next ((PacketEnd.halts 5 v).close q))
      ∧ ∀ bs, s.usable c result .write = true → image = some bs → exec (.fwHandover q) s =
        if firmwareFormed s.dev.fusedSvn bs = false then report 3
        else if Config.firmwareSigned bs = false then report 1
        else .next ((PacketEnd.stays { v with fe := { v.fe with bank := some (bs, q) } }).close q))
      ∧ ∀ (bs : List Byte) (q p : Nat) (c : Context) (s : State), s.fe.bank = some (bs, q) → s.fe.round = [] →
        ((s.queue q).prefetched.head?.map fun e => leNat e.2) = some p → s.queueCtx q = some c →
        let takes := firmwareTakes bs (Config.stateVersion s.fe.firmware)
        let s1 : State := { s with fe := { s.fe with bank := none, firmware := if takes = true then bs else s.fe.firmware } }
        let s2 := (s1.postVa c.ctxid (packetAddr 24 p) (leBytes 8 (if takes = true then 0 else 2))).consume q
        exec .fwHandoverSwitch s = .next { s2 with fe := { s2.fe with queues := s2.fe.queues.map fun x =>
          { x with prefetched := if x.wait = .none then [] else x.prefetched.take 1 } } })

/-! ### Events: placement, completion, slices -/

/-- 19 R283, R285, R286, R288, R289; 03 R43, R44, R52, R55, R56: a placement returns a yielded team whose wait has
ended, or starts the next team of the first node, in the order of the pool, that has an unplaced team and an eligible
core; a core is eligible where the five conditions of R283 hold and its array has not wholly failed (17 R266); of these it
takes one that needs no emulation routine, of full width, that holds a team of the node, with the
greatest AVAIL, with the lowest index, in this order; the team starts in the state of R43. A parked team yields its slot
while its core has no room for a yielded team whose wait has ended, which returns as soon as the slots yielded make that
room, whatever the number of free slots (03 R57; the model's way to keep that promise, log entry 84), else to the next
team of its node; an exiting team that is quiet counts as exited, and its node completes with the last; a held successor
enters the pool. A receipt has the fields of R289 at their places; its SIGNAL is 0 where the signal word cannot be used
(the model's choice, log entry 110). A slot that is freed is held for a waiting gang of its own context, and binds that
one alone (19 R287, the model's reading, log entry 109). -/
def Obligations.PlacementAndCompletion : Prop :=
  let mayReturn (s : State) (t : Team) : Prop :=
    t.yielded = true ∧ t.ctx = s.fe.running
      ∧ (t.cond = .ready ∨ t.cond = .stalled ∨ t.cond = .woken
        ∨ (((∃ d a x, t.cond = .parkedAwait d a x) ∨ ∃ l ph, t.cond = .parkedBarrier l ph) ∧ t.traps ≠ []))
      ∧ ∀ a ∈ s.flight.accesses, a.team = t.id → a.kind.dst? = none
  let crowded (s : State) (core : Nat) (u : Team) : Prop :=
    u ∈ s.teams ∧ u.core = core ∧ mayReturn s u ∧ s.hasRoom none core u.tw u.lsmem u.heat = false
  (∀ (s : State) (t : Team), s.fe.gated = false → s.returning = some t →
    mayReturn s t ∧ exec .teamPlacement s = .next (s.putTeam { t with yielded := false }))
    ∧ (∀ (s : State) (n : Node) (core : Nat), s.fe.gated = false → s.returning = none → s.nextPlacement = some (n, core) →
      let cores := s.eligible n none fun _ => true
      chosenFrom s n cores core
      ∧ (∃ before after, s.fe.pool = before ++ n.id :: after ∧ s.node? n.id = some n ∧ n.ctx = s.fe.running
        ∧ n.placed < n.desc.teams
        ∧ ∀ id ∈ before, ∀ m, s.node? id = some m → m.ctx = s.fe.running → m.placed < m.desc.teams →
          s.eligible m none (fun _ => true) = [])
      ∧ ∃ s' t, exec .teamPlacement s = .next s' ∧ startsOn s s' n core t)
    ∧ (∀ (s : State) (n : Node) (own : Option Nat) (allowed : Nat → Bool) (c : Context) (f : BitVec 512 × BitVec 512)
        (core : Nat), s.ctx? n.ctx = some c → s.features c n.desc.featIdx = some f →
      let here := s.teams.filter fun t => t.core == core && t.ctx == s.fe.running && !t.yielded
      let held := s.fe.gangHolds.filter fun h => h.2 == core && some h.1 != own
        && (s.queue h.1).map.any fun m => m.ctx == s.fe.running
      let tellers := s.tellersOn core
      (core ∈ s.eligible n own allowed ↔ core < 512 ∧ core / 8 % 8 < 6 ∧ s.cores.enabled.getLsbD core = true
        ∧ (n.desc.towers = 0 ∨ n.desc.towers.testBit (core / 128) = true) ∧ allowed core = true
        ∧ (∀ b < 512, f.1.getLsbD b = true → dfmBit s core b = true ∨ f.2.getLsbD b = true)
        ∧ ¬(s.cores.failedA.getLsbD core = true ∧ s.cores.failedB.getLsbD core = true)
        ∧ here.length + tellers + held.length < 32
        ∧ (here.map Team.tw).sum + 32 * tellers + 32 * n.desc.width ≤ 4096
        ∧ (here.map (·.lsmem)).sum + n.desc.lsmem ≤ 2 ^ 20 ∧ n.desc.heat ≤ s.avail core))
    ∧ (∀ (s : State) (t : Team) (n : Node), s.team? t.id = some t → s.node? t.node = some n → s.fe.gated = false →
      t.ctx = s.fe.running → t.yielded = false →
      ((∃ d a x, t.cond = .parkedAwait d a x) ∨ ∃ l ph, t.cond = .parkedBarrier l ph) →
      n.gang = none → (∀ u, s.returnsFor t = some u →
        crowded s t.core u
        ∧ exec (.slotYield t.id) s = .next (((s.putTeam { t with yielded := true, promises := [] }).modNode n.id fun n =>
          { n with yields := n.yields + 1 }).putTeam { u with yielded := false }))
      ∧ (s.returnsFor t = none → (∃ u, crowded s t.core u) →
        exec (.slotYield t.id) s = .next ((s.putTeam { t with yielded := true, promises := [] }).modNode n.id fun n =>
          { n with yields := n.yields + 1 }))
      ∧ ((∀ u, ¬ crowded s t.core u) → n.placed < n.desc.teams →
      let n1 := { n with yields := n.yields + 1 }
      let s1 := (s.putTeam { t with yielded := true, promises := [] }).modNode n.id fun n => { n with yields := n.yields + 1 }
      t.core ∈ s1.eligible n1 none (fun k => k == t.core) →
      exec (.slotYield t.id) s = .next ((s1.placeTeam n1 t.core).leavePool n.id)))
    ∧ (∀ (s : State) (t : Team) (n : Node), s.team? t.id = some t → s.node? t.node = some n → t.cond = .exiting →
      s.quiet t = true →
      let s1 := ({ s with teams := s.teams.filter fun u => u.id ≠ t.id }.freeSlot t.ctx t.core).modNode t.node fun n =>
        { n with exited := n.exited + 1 }
      let n1 := { n with exited := n.exited + 1 }
      let done := { n1 with finish := s.dev.time }
      let posted := if n.desc.receipt = 0 then s1
        else s1.postVa n.ctx n.desc.receipt (receiptBytes done n.status (s1.signalValue n.ctx n.desc))
      let signalled := posted.signalUpdate n.ctx n.desc
      exec (.teamExitComplete t.id) s = .next (if n.exited + 1 < n.desc.teams then s1
        else (if n.status = 0 then signalled.decrementSuccessors n.ctx n.desc else signalled).forgetNode n.id).idlePreempt)
    ∧ (∀ (s : State) (h : Held) (rest : List Held), s.fe.held = h :: rest → s.fe.pool.length < 4096 →
      exec .heldSuccessorEntry s = .next ({ s with fe := { s.fe with held := rest } }.enter h.ctx none h.descAddr h.desc
        h.desc.prio))
    ∧ ∀ (n : Node) (status signal : Nat), status < 2 ^ 8 → signal < 2 ^ 64 → (∀ c ∈ n.cores, c < 512) →
      n.cores.length < 2 ^ 16 →
      let r := receiptBytes n status signal
      let field (o k : Nat) : Nat := leNat ((r.drop o).take k)
      r.length = 64 ∧ field 0 4 = status ∧ field 4 4 = n.faults.toNat ∧ field 8 8 = n.start.toNat
        ∧ field 16 8 = n.finish.toNat ∧ field 24 4 = n.desc.nid.toNat ∧ field 28 4 = n.reruns.toNat
        ∧ field 32 2 = n.cores.length ∧ (n.cores ≠ [] → field 34 2 ∈ n.cores ∧ ∀ c ∈ n.cores, field 34 2 ≤ c)
        ∧ (∀ p < 8, (field 36 1).testBit p = true ↔ ∃ c ∈ n.cores, c / 64 = p)
        ∧ field 37 1 = n.profileN.toNat + 2 * n.halfWidth.toNat + 4 * n.emulated.toNat ∧ field 38 2 = 0
        ∧ field 40 4 = n.yields.toNat ∧ field 44 4 = 0 ∧ field 48 8 = signal ∧ field 56 8 = 0

/-- `u` is team `t` as an asynchronous stop leaves it (05 R79, R83 to R85; 07 R103; 09 R126; 11 R165): its promises have
ended, and it fetches again if it was to issue; all else is as it was, but that an instruction of the iterative class whose
checks pass may leave records, in a context that claims them, on a device that writes them: one for a scalar instruction,
else one for each active lane of every pass that has begun, each as the recurrence stands after some number of digits. -/
def stoppedAs (s : State) (t u : Team) : Prop :=
  u = { t with promises := [], fetched := u.fetched, dcrs := u.dcrs }
  ∧ u.fetched = (if t.cond = .ready ∨ t.cond = .stalled then none else t.fetched)
  ∧ (u.dcrs = t.dcrs ∨ (t.dcrs = [] ∧ (t.cond = .ready ∨ t.cond = .stalled) ∧ t.yielded = false
    ∧ (s.ctxOf t).claim.getLsbD 4 = true ∧ Config.recordsDigits = true
    ∧ ∃ w i, fetch32 s t t.pc = .ok w ∧ decode w = .ok i
      ∧ ((∃ p ∈ divisions, ∃ d a b la r, i = p.1 d a b la
          ∧ Shape.check { srcs := useS [a, b], dsts := [.s d] } t s = none
          ∧ u.dcrs = [r] ∧ divisionRecord p.2.1 p.2.2.1 t (t.sval a.reg) (t.sval b.reg) r)
        ∨ ∃ p ∈ iteratives, ∃ d srcs la, ∃ begun : Nat → Bool, srcs.length = p.2.2 ∧ i = p.1 d srcs la
          ∧ (vecShape s t setF typeBits d srcs false).check t s = none
          ∧ u.dcrs.map (·.lane) = (t.active.filter fun l => begun (l / 32)).map some
          ∧ ∀ r ∈ u.dcrs, ∃ l, laneRecord p.2.1 t (srcs.map (·.reg)) l r)))

/-- 19 R292, R294, R295; 05 R78, R79; 11 R165; 21 R319: the end of a slice requests a preemption when another context is
runnable; a request stops the running context's teams, which may leave
digit records; a switch, once every team stands at a stopping point, goes to the
context that PREEMPT named, else to the first in circular order, from the entry after the running one on, with an urgent
wake, else to the next runnable one in that order, which then runs (that the named one comes first is the model's
choice, log entry 45; that a request may come at any time, log entry 111); it does not come while replies are still in
flight to that context's teams (13 R194; log entry 68). An idle running context gives way after any event that makes
another one runnable; a fire since the slice began does not count before the slice ends (log entry 85), and a GANG
packet that waits counts as a ready node (log entry 108). A slice that ends with no other context runnable is followed
by a whole new one (the model's choice, log entry 99). Every context that was switched out stays owed a spill, which
writes its state to its SAVE area, as bytes that no rule gives (log entry 38), at physical addresses, as the model reads
SAVE (log entries 8, 64 and 71). -/
def Obligations.SlicesAndSwitches : Prop :=
  (∀ (s : State) (c : Context), s.ctx? s.fe.running = some c → s.fe.gated = false →
    s.fe.sliceStart.toNat + 1000 * c.slice.toNat ≤ s.dev.time.toNat →
    let s1 : State := { s with fe := { s.fe with
      sliceStart := s.dev.time
      contexts := s.fe.contexts.map fun c => { c with wakeLate := false, lateTeams := [] } } }
    exec .sliceEnd s = .next (if (∃ x ∈ s.fe.contexts, x.ctxid ≠ s.fe.running ∧ s.runnable x = true)
      then s1.gate else s1))
    ∧ (∀ (s : State) (c : Context), s.ctx? s.fe.running = some c → s.fe.gated = false →
      exec .preemptionRequest s = .next s.gate ∧ s.gate.fe = { s.fe with gated := true } ∧ s.gate.mem = s.mem
        ∧ s.gate.teams.length = s.teams.length
        ∧ ∀ (i : Nat) (t u : Team), s.teams[i]? = some t → s.gate.teams[i]? = some u →
          if t.ctx = s.fe.running then stoppedAs s t u else u = t)
    ∧ (∀ (s : State) (c : Context), s.fe.gated = true → (∀ t ∈ s.teams, t.ctx = s.fe.running → s.inPair t = false) →
      s.nextContext = some c →
      (∀ a ∈ s.flight.accesses, a.kind.dst? = none ∨ s.inCtx c.ctxid a.team = false) →
      exec .contextSwitchIn s = .next (s.switchTo c.ctxid)
        ∧ (s.switchTo c.ctxid).fe.running = c.ctxid
        ∧ (s.fe.running ≠ c.ctxid → (s.ctx? s.fe.running).isSome = true →
          ∀ x, x ∈ (s.switchTo c.ctxid).fe.unspilled ↔ x = s.fe.running ∨ (x ∈ s.fe.unspilled ∧ x ≠ c.ctxid))
        ∧ (∀ n x, s.fe.next = some n → s.ctx? n = some x → c = x)
        ∧ ((∀ n, s.fe.next = some n → s.ctx? n = none) →
          let before := s.fe.contexts.takeWhile fun x => x.ctxid != s.fe.running
          let rest := s.fe.contexts.dropWhile fun x => x.ctxid != s.fe.running
          let circle := rest.drop 1 ++ before ++ rest.take 1
          let urgent (x : Context) : Bool := x.wakeUrg && x.wakePend
          (∀ x, circle.find? urgent = some x → c = x)
            ∧ (circle.find? urgent = none → circle.find? s.runnable = some c)))
    ∧ (∀ (s : State) (c : Context), s.fe.gated = false → s.nextContext = some c →
      exec .shadowPreload s = .next { s with fe := { s.fe with preloaded := some c.ctxid } })
    ∧ (∀ (s : State) (c : Context), s.nextContext = some c →
      (∃ a ∈ s.flight.accesses, a.kind.dst? ≠ none ∧ s.inCtx c.ctxid a.team = true) →
      ∀ s', exec .contextSwitchIn s ≠ .next s')
    ∧ (∀ (i : Instr) (s s' : State), isEvent i = true →
      s.settled → exec i { s with sched := { s.sched with cur := none, during := [] } } = .next s' → s'.sched.during = [] →
      let idle : Prop := (∀ t ∈ s'.teams, t.ctx ≠ s'.fe.running)
        ∧ ∀ id ∈ s'.fe.pool, ∀ n, s'.node? id = some n → n.ctx ≠ s'.fe.running
      let other : Prop := ∃ c ∈ s'.fe.contexts, c.ctxid ≠ s'.fe.running
        ∧ ((∃ id ∈ s'.fe.pool, ∃ n, s'.node? id = some n ∧ n.ctx = c.ctxid)
          ∨ (∃ q ∈ List.range 128, (s'.queue q).wait = .gang ∧ (s'.queue q).map.any (fun m => m.ctx == c.ctxid) = true)
          ∨ (∃ t ∈ s'.teams, t.ctx = c.ctxid ∧ t.wantsIssue = true ∧ ¬(t.id ∈ c.lateTeams ∧ t.cond = .woken))
          ∨ (c.wakePend = true ∧ c.wakeLate = false))
      runTurn (.event i) s = .next (if idle ∧ other then s'.gate else s'))
    ∧ ∀ (s : State) (x : Nat) (rest : List Nat) (c : Context), s.canonical → s.fe.unspilled = x :: rest →
      s.ctx? x = some c →
      let at_ (i : Nat) : Nat := physical (c.save.toNat + 0x8000 + i)
      let s1 := (List.range Config.spillSize).foldl (fun r i =>
        r.writeLoc (at_ i) [Config.spillByte x s.dev.time.toNat i]) s
      exec .stateSpill s = .next { s1 with fe := { s1.fe with unspilled := rest } }
        ∧ ∀ a : Nat, (∀ i < Config.spillSize, a ≠ at_ i) → s1.mem.byte a = s.mem.byte a

/-! ### Events: faults -/

/-- The order in which pending traps are delivered (21 R302). -/
def trapRank (c : TrapCode) : Nat :=
  match c with
  | .dieLost => 0
  | .matrixReset => 1
  | .arrayFault => 2
  | .poison => 3
  | .acquireFailed => 4
  | _ => 5

/-- 21 R302, R308, R314; 17 R267: at a boundary a team takes the first of its pending traps in the order DIE_LOST,
MATRIX_RESET, ARRAY_FAULT, POISON, ACQUIRE_FAILED, once no earlier access of its own comes before the frame that it
writes (15 R224; log entry 11, the model's reading); its wait and its promises end, and IW of the frame is a free value
(log entry 4). A word that cannot be fetched raises the trap of its fetch. -/
def Obligations.PendingTraps : Prop :=
  (∀ (s : State) (t : Team) (x : Trap), s.team? t.id = some t → t.ctx = s.fe.running → s.fe.gated = false →
    t.yielded = false → s.inPair t = false → s.frameHeld t = false →
    (t.cond = .ready ∨ t.cond = .stalled ∨ t.cond = .woken ∨ (∃ d a y, t.cond = .parkedAwait d a y) ∨ ∃ l ph, t.cond = .parkedBarrier l ph) →
    t.traps.find? (fun y => trapRank y.code == trapRank x.code) = some x → trapRank x.code < 5 →
    (∀ y ∈ t.traps, trapRank x.code ≤ trapRank y.code) →
    let u := { t with
      traps := t.traps.erase x, cond := .ready, producer := none, promises := [], retried := false, fetched := none }
    exec (.asyncTrapDelivery t.id) s = .next (((s.putTeam u).deliver u x (Config.boundaryWord x.code.num t.pc.toNat)
      true).discardRest t.id none x))
    ∧ (∀ (s : State) (t : Team), s.team? t.id = some t → s.frameHeld t = true →
      ∀ s', exec (.asyncTrapDelivery t.id) s ≠ .next s')
    ∧ ∀ (s : State) (t : Team) (x : Trap), s.curTeam = some t → fetch32 s t t.pc = .error x →
      exec .instructionFetchFault s = .next ((s.refusedAt t t.pc x).modTeam t.id fun t => { t with fetched := none })

/-- 21 R313, R317: a vertical-port beat that fails once is sent again; a second failure puts the other half in service,
or disables a core at half width (a node with a team on it has then used half width, 19 R289): its accumulators are
lost and its teams end through ARRAY_FAULT with CAUSE 2. 21 R319, R320; 25 R343, R349: the loss of die 0 stops the
device with STATE 4, and the event word tells of it. The loss of another die takes the dies stacked on it; of the teams
whose context touched one of them, those on it end and the others receive DIE_LOST. A UCIe module that fails loses its
base die; a bridge is marked down. -/
def Obligations.LostDiesAndPorts : Prop :=
  (
    ∀ (core : Nat) (half second : Bool) (s : State), isCore core = true → s.cores.enabled.getLsbD core = true →
      (s.cores.half.getLsbD core = true → s.cores.hsel.getLsbD core = half) →
      (second = false → exec (.portBeatError core half second) s = .next s)
      ∧ (second = true → s.cores.half.getLsbD core = false → exec (.portBeatError core half second) s =
        .next { s with
          cores := { s.cores with half := setCore s.cores.half core true, hsel := setCore s.cores.hsel core (!half) }
          nodes := s.nodes.map fun n =>
            if s.teams.any (fun t => t.node == n.id && t.core == core) = true then { n with halfWidth := true } else n })
      ∧ (second = true → s.cores.half.getLsbD core = true →
        let s1 : State := { s with
          cores := { s.cores with enabled := setCore s.cores.enabled core false }
          mem := { s.mem with acc := s.mem.acc.filter fun e => e.1 / (256 * 64) % 512 ≠ core } }
        exec (.portBeatError core half second) s = .next (((s.teams.filter fun t => t.core = core).map (·.id)).foldl
          (fun s id => s.endTeam id ⟨.arrayFault, .ofNat 64 core, 2, none, none⟩) s1))
      ∧ ∀ (id : Nat) (x : Trap) (t : Team), s.team? id = some t → t.cond ≠ .exiting →
        ∃ u, (s.endTeam id x).team? id = some u ∧ u.cond = .exiting ∧ u.matrix = [] ∧ u.traps = [])
  ∧ (
    (∀ (die : Nat) (s : State), isDie die = true → s.dev.lostDies.getLsbD die = false →
      (die = 0 → exec (.dieLost die) s = .next ({ s with dev := { s.dev with
        status := 4, lostDies := s.dev.lostDies ||| 1 } }.postEvent 1 0))
      ∧ (die ≠ 0 → exec (.dieLost die) s = .next (s.loseDie die)))
      ∧ (∀ (a : Nat) (s : State), a < 4 → s.dev.lostDies.getLsbD (1 + a) = false →
        exec (.ucieLinkFailure (.feModule a)) s = .next (s.loseDie (1 + a)))
      ∧ (∀ (a b : Nat) (s : State), a < b → b < 4 → (a, b) ∉ s.dev.bridgesDown →
        exec (.ucieLinkFailure (.bridge a b)) s = .next { s with dev := { s.dev with
          bridgesDown := s.dev.bridgesDown ++ [(a, b)] } })
      ∧ ∀ (die : Nat) (s : State), isDie die = true → die ≠ 0 →
        let lost := dieSet die
        let s' := s.loseDie die
        lost.getLsbD die = true
        ∧ (∀ a < 4, die = 1 + a → ∀ k < 32, lost.getLsbD k = true ↔ k = die ∨ (8 ≤ k ∧ k < 24 ∧ (k - 8) % 8 / 2 = a))
        ∧ s'.dev.lostDies = s.dev.lostDies ||| lost
        ∧ (∀ t ∈ s.teams, s.team? t.id = some t → t.cond ≠ .exiting →
          (∃ c ∈ s.fe.contexts, c.ctxid = t.ctx ∧ c.touched &&& lost ≠ 0) →
          (placedDies t.core &&& lost ≠ 0 → ∃ u, s'.team? t.id = some u ∧ u.cond = .exiting)
          ∧ (placedDies t.core &&& lost = 0 → ∃ u, s'.team? t.id = some u
            ∧ ⟨.dieLost, .ofNat 64 die, 0, none, none⟩ ∈ u.traps))
        ∧ ∀ t ∈ s.teams, s.team? t.id = some t →
          (∀ x ∈ s.teams, x.id = t.id → ∀ c ∈ s.fe.contexts, c.ctxid = x.ctx → c.touched &&& lost = 0) →
          ∃ u, s'.team? t.id = some u ∧ u.traps = t.traps ∧ u.sregs = t.sregs ∧ u.pc = t.pc)

/-- `v` is `s` after copy `c`, with bytes outstanding on a link that fails, has ended (13 R208): the team is told, once
for the copy, with the address of the first byte there; a word whose source byte was lost holds poison; a byte written
across the link holds its copied value where `done` says that the far end wrote it, else its prior one; every other byte
of the copy holds its copied value, and no other byte of memory has changed. -/
def LinkTook (s v : State) (link : Link) (done : Bool) (c : Copy) : Prop :=
  let ms := if c.begun = true then c.moves else s.movesOf (fun p => !s.reachable p || s.behind link p) c.plan
  let lostSource (m : Move) : Prop := ∃ p va, m.src = .loc p va ∧ s.behind link p = true
  let plain (p : Place) : Prop := p.region ≠ .aperture ∧ s.reachable p = true
  let value (b : ByteSrc) : Byte := match b with
    | .fixed x _ => x
    | .loc p _ => s.mem.byte p.loc
  (s.firstCrossing link c = none → v = s)
  ∧ ∀ va, s.firstCrossing link c = some va →
    (∀ t, s.team? c.team = some t → (∀ x ∈ t.traps, x.code ≠ .acquireFailed ∨ x.pcw ≠ some c.pc) →
      (∀ b ∈ c.plan.readFirst, s.reachable b.place = true) → (∀ m ∈ ms, plain m.dst ∧ ∀ p a, m.src = .loc p a → plain p) →
      (v.team? c.team).map (·.traps) = some (t.traps ++ [⟨.acquireFailed, va, 0, none, some c.pc⟩]))
    ∧ v.flight.copies = (match c.followOn with
      | none => []
      | some _ => [{ c with begun := true, moves := [] }])
    ∧ (s.canonical → s.settled → (ms.map (·.dst.loc)).Nodup → (∀ m ∈ ms, plain m.dst ∧ ∀ p a, m.src = .loc p a →
        plain p ∧ ∀ x ∈ ms, x.dst.loc ≠ p.loc) →
      (∀ m ∈ ms,
        (lostSource m → v.mem.byte m.dst.loc = s.mem.byte m.dst.loc ∧ v.mem.wordBad m.dst.loc = true)
        ∧ (¬ lostSource m → v.mem.byte m.dst.loc =
          if s.behind link m.dst = true ∧ done = false then s.mem.byte m.dst.loc else value m.src))
      ∧ ∀ a : Nat, (∀ m ∈ ms, m.dst.loc ≠ a) → v.mem.byte a = s.mem.byte a)

/-- 21 R304, R313, R314, R315: a corrected error counts for the team whose register or cell it is in or that reads the
word, a retried one leaves no trace, an uncorrectable one poisons the word of a register or of memory, in HBM its
granule of 32 bytes, or the accumulator cell; no byte of memory changes. 21 R313; 25 R347, R349; 13 R194, R208, R216: a
flit whose CRC fails once is replayed, with no trace. A link that fails takes what is outstanding on it: each access
brings ACQUIRE_FAILED and a poisoned destination, whether or not the far end performed it, which it can have done only
after what lo places before it (15 R224, R242); a COLL that has bytes behind it ends with STATUS 2 and ACQUIRE_FAILED,
RECV as it was, and breaks its collective (the model's choice, log entries 50 and 101); another copy that has bytes
there ends, ACQUIRE_FAILED with it, its bytes as R208 gives them; a Sprinda port is down from then on, with an event
word. -/
def Obligations.StorageAndLinkErrors : Prop :=
  (
    ∀ (site : EccSite) (s : State), s.siteExists site = true →
      let ofTeam (site : EccSite) (k : Nat) : Prop := (∃ r, site = .scalar k r) ∨ (∃ r l, site = .vector k r l)
        ∨ (∃ m w, site = .mask k m w) ∨ ∃ w, site = .exm k w
      let counted (site : EccSite) (k : Nat) : Prop := ofTeam site k ∨ (∃ r c, site = .cell k r c)
        ∨ ∃ loc, site = .memory (some k) loc ∨ site = .cleanLine (some k) loc
      exec (.eccError site .retried) s = .next s
      ∧ (∀ loc, (site = .memory none loc ∨ site = .cleanLine none loc) → exec (.eccError site .corrected) s = .next s)
      ∧ (∀ k, counted site k → exec (.eccError site .corrected) s = .next (s.modTeam k fun t => { t with
        corr := if t.corr = 127 then 127 else t.corr + 1 }))
      ∧ ∃ s', exec (.eccError site .poisoned) s = .next s'
        ∧ s'.mem.cells = s.mem.cells ∧ s'.dev = s.dev ∧ s'.fe = s.fe
        ∧ ((∀ k r c, site ≠ .cell k r c) → s'.mem.acc = s.mem.acc)
        ∧ (∀ (reader : Option Nat) (loc a : Nat), s.canonical → (site = .memory reader loc ∨ site = .cleanLine reader loc) →
          s'.teams = s.teams ∧ s'.mem.wordBad a =
            (s.mem.wordBad a || decide (if loc < 2 ^ 39 then a / 32 = loc / 32 else a / 4 = loc / 4)))
        ∧ (∀ k row col, site = .cell k row col → s'.teams = s.teams ∧ s'.mem.poison = s.mem.poison
          ∧ ∀ t, s.team? k = some t → ∀ key, s'.mem.cell key = { s.mem.cell key with
            poison := (s.mem.cell key).poison || key == cellKey t.ctx t.core row col })
        ∧ (∀ k, ofTeam site k → s'.mem = s.mem)
        ∧ (∀ k r, site = .scalar k r → s'.teams = s.teams.map fun t => if t.id ≠ k ∨ r = 0 then t else
          { t with sregs := withPoison t.sregs [(r, true)] })
        ∧ (∀ k r l, site = .vector k r l → s'.teams = s.teams.map fun t => if t.id ≠ k then t else
          { t with vregs := .ofFn fun i : Fin 64 => if i.val ≠ r then t.vregs[i] else
            match t.vregs[i] with
            | .dead => .dead
            | .live ls => .live (ls.mapIdx fun j x => if j = l then { x with poison := true } else x) })
        ∧ (∀ k m w, site = .mask k m w → s'.teams = s.teams.map fun t => if t.id ≠ k ∨ m = 0 then t else
          { t with masks := .ofFn fun i : Fin 16 => if i.val ≠ m.toNat then t.masks[i] else
            match t.masks[i] with
            | .dead => .dead
            | .live b p => .live b (p ||| 1#32 <<< w) })
        ∧ ∀ k w, site = .exm k w → s'.teams = s.teams.map fun t => if t.id ≠ k ∨ t.structured = true then t else
          { t with exmPoison := t.exmPoison ||| 1#32 <<< w })
  ∧ (
    (∀ (link : Link) (lost done : List Nat) (s : State),
      (∀ port, link = .sprinda port → port < 24 ∧ s.dev.portsDown.getLsbD port = false) →
      exec (.flitCrcError link false lost done) s = .next s)
      ∧ (∀ (link : Link) (lost done : List Nat) (s : State),
        (∀ port, link = .sprinda port → port < 24 ∧ s.dev.portsDown.getLsbD port = false) →
        let failing := s.flight.accesses.filter fun a => s.behind link a.place && (link == .ixlet || lost.contains a.id)
        let inOrder : Prop := ∀ a ∈ failing, a.id ∈ done → ∀ b ∈ a.after, (∀ x ∈ s.flight.accesses, x.id ≠ b)
          ∨ (b ∈ done ∧ ∃ x ∈ failing, x.id = b)
        let half (a : Access) : Bool := match a.kind with
          | .update .. => true
          | _ => false
        let s1 := (failing.filter half ++ failing.filter fun a => !half a).foldl (fun s a =>
          s.failAccess (done.contains a.id) a) s
        (¬ inOrder → ∀ s', exec (.flitCrcError link true lost done) s ≠ .next s')
        ∧ (inOrder → (∃ s', exec (.flitCrcError link true lost done) s = .next s')
          ∧ (link = .ixlet → s.flight.copies = [] → exec (.flitCrcError link true lost done) s = .next s1)
          ∧ (∀ (c : Copy) (p : CollPart), link = .ixlet → failing = [] → s.flight.copies = [c] → c.coll = some p →
            c.after = [] → exec (.flitCrcError link true lost done) s = .next (
              match (p.send ++ p.recv ++ p.report).find? fun x => s.behind link x.place with
              | none => s
              | some x =>
                let s2 := (toldLost s c x.va).finishColl c p [] 2 0
                { s2 with dev := { s2.dev with brokenColls :=
                  (s2.dev.brokenColls.filter fun e => e ≠ (p.group, p.round)) ++ [(p.group, p.round)] } }))
          ∧ ∀ port, link = .sprinda port → ∃ s2, exec (.flitCrcError link true lost done) s =
              .next ({ s2 with dev := { s2.dev with portsDown := s2.dev.portsDown ||| 1#24 <<< port } }.postEvent 2 port)
            ∧ ((∀ c ∈ s.flight.copies, c.id ∉ lost) → s2 = s1)))
      ∧ (∀ (link : Link) (lost done : List Nat) (s : State) (c : Copy),
        (∀ port, link = .sprinda port → port < 24 ∧ s.dev.portsDown.getLsbD port = false ∧ c.id ∈ lost) →
        (∀ a ∈ s.flight.accesses, s.behind link a.place = true → link ≠ .ixlet ∧ a.id ∉ lost) →
        s.settled → s.flight.copies = [c] → c.coll = none → c.after = [] →
        ∃ v, LinkTook s v link (done.contains c.id) c ∧ exec (.flitCrcError link true lost done) s = .next (match link with
          | .ixlet => v
          | .sprinda port => { v with dev := { v.dev with portsDown := v.dev.portsDown ||| 1#24 <<< port } }.postEvent 2 port))
      ∧ ∀ (a : Access) (s : State),
        let u := if a.kind.isAtomic = true then s.settle a.place.loc a.size else s
        let old := leNat (u.readPlace a.place a.size)
        let failed (s : State) : State :=
          (s.modTeam a.team (spoilt a 0 ⟨.acquireFailed, a.va, 0, none, some a.pc⟩)).endAccess a.id
        s.failAccess false a = failed u
        ∧ (∀ bs, (a.kind = .store bs ∨ a.kind = .strongStore bs ∨ ∃ v d, a.kind = .update v bs d) →
          s.failAccess true a = failed (u.writeLoc a.place.loc bs))
        ∧ (∀ op fp sg rnd sat v d, a.kind = .atomic op fp sg rnd sat v d → s.failAccess true a = failed (
          if u.mem.anyBad a.place.loc a.size = true then u
          else u.writeLoc a.place.loc (leBytes a.size (atomNew op (atomType a.size fp sg) rnd sat old v.toNat))))
        ∧ (∀ e v d, a.kind = .cas e v d → s.failAccess true a = failed (
          if u.mem.anyBad a.place.loc a.size = true ∨ old ≠ e.toNat % 2 ^ (8 * a.size) then u
          else u.writeLoc a.place.loc (leBytes a.size v.toNat)))
        ∧ (((∃ d, a.kind = .load d ∨ a.kind = .strongLoad d) ∨ ∃ v b d, a.kind = .reply v b d) →
          s.failAccess true a = failed u))

/-! ### Events: management, links and debugging -/

/-- The mailbox holds a command of number `k` (25 R349). -/
def commanded (s : State) (k : Nat) : Prop := ∃ c, s.dev.command = some c ∧ c.toNat = k

/-- A command's end: byte 0x800 of the mailbox holds its code (25 R349), and a bell that watches it may fire (15 R236). -/
def answered (s : State) (code : Byte) : State :=
  { s with dev := { s.dev with command := none, mailbox := Assoc.set 0 s.dev.mailbox 0x800 code } }.afterWrite
    (mailboxLoc + 0x800) 1

/-- 19 R270; 25 R347, R349, R354 to R359: SETQ0 gives queue 0 its ring, ROUTE sets an entry of the route table, ATTEST
writes a report with both signatures and the hashes of the firmware and of the record, and advances the leaf counter,
EVENT takes the event word's address, RESET enters the reset sequence; each answers 2 for operands out of range, and
ATTEST 3 when its leaves are used up (2 as well for SETQ0 of a queue 0 that is unmapped and for RESET without die 0, and
that the event word is 8-aligned and below 2^52: the model's choices, log entry 114). A reset discards every context,
node and team and sets STATE 0; the start-up that follows, in a step of its own, refuses a record that is unsigned,
wrongly marked or out of its ranges with STATE 2 and an image that is unsigned or malformed with STATE 3, else leaves
the device in STATE 1: HBM, vaults and local stores zero and clean, the time base 0, the cores as the record has them,
the system context running and queue 0 mapped to it. The model's choices: what the record does not give the state after
a reset, in the system context above all (log entry 1), SETQ0's addresses as the context's (log entry 8) and the packets
fetched before it dropped (log entry 62), steps 2 to 7 of the sequence in one step of the model (log entry 58), the
record hashed without its signatures (log entry 86), which addresses hold a report and the byte of HBM that each names
(log entries 64 and 71), error 2 of ATTEST before error 3 (log entry 100). -/
def Obligations.MailboxAndResets : Prop :=
  (
    ∀ s : State,
      let word (o : Nat) : Nat := leNat (Assoc.getAll 0 s.dev.mailbox o 8)
      (commanded s 1 → s.queueCtx 0 = none → exec .setq0 s = .next (answered s 2))
      ∧ (∀ m c, commanded s 1 → (s.queue 0).map = some m → s.ctx? m.ctx = some c →
        let ring : Addr := .ofNat 64 (word 8)
        let status : Addr := .ofNat 64 (word 24)
        (s.ringOk c (word 16) ring status = false → exec .setq0 s = .next (answered s 2))
        ∧ (s.ringOk c (word 16) ring status = true → exec .setq0 s = .next (answered
          ((((s.touchFe c.ctxid [ring, status]).dropHead 0).updateQueue 0 { s.queue 0 with
            map := some ⟨m.ctx, word 16, some ring, status⟩
            prefetched := [], wait := .none, graphNext := 0 }).checkOverrun 0) 0)))
      ∧ (commanded s 2 → exec .route s = .next (if 4096 ≤ word 8 ∨ 2 ^ 24 ≤ word 16 then answered s 2
        else answered { s with dev := { s.dev with routes := Assoc.set 0 s.dev.routes (word 8) (.ofNat 24 (word 16)) } } 0))
      ∧ (commanded s 3 →
        let leaf := s.dev.lmsNext
        let report := Assoc.getAll 0 s.dev.mailbox 8 48 ++ sha384 s.fe.firmware
          ++ sha384 s.dev.flash.bytes ++ leBytes 8 s.dev.time.toNat ++ leBytes 4 leaf
          ++ leBytes 100 0
        exec .attest s = .next (if inDeviceMemory (word 56) 2124 = false then answered s 2
          else if 2 ^ 20 ≤ leaf then answered s 3
          else answered ({ s with dev := { s.dev with lmsNext := leaf + 1 } }.writeLoc (physical (word 56))
            (report ++ leBytes 96 (Config.identityEcdsa report).toNat
              ++ leBytes 1772 (Config.identityLms report leaf).toNat)) 0))
      ∧ (commanded s 5 → exec .event s = .next (if word 8 % 8 ≠ 0 ∨ 2 ^ 52 ≤ word 8 then answered s 2
        else answered { s with dev := { s.dev with eventWord := some (.ofNat 64 (word 8)) } } 0))
      ∧ (commanded s 4 → s.dev.lostDies.getLsbD 0 = false → ∃ s1, exec .coldReset s = .next s1
        ∧ exec .reset s = .next (answered s1 0))
      ∧ (commanded s 4 → s.dev.lostDies.getLsbD 0 = true → exec .reset s = .next (answered s 2)))
  ∧ (
    ∀ s : State, s.canonical → s.dev.lostDies.getLsbD 0 = false →
      let r := s.dev.flash
      let image := s.dev.image
      let header (o n : Nat) : Nat := leNat ((image.drop o).take n)
      let recordGood : Prop := Config.recordSigned (r.bytes ++ r.signatures) = true ∧ r.magic = 0x47434B50#32
        ∧ r.flagsRsv = 0 ∧ r.rsv = 0 ∧ 70 ≤ r.thot.toNat ∧ r.thot.toNat ≤ 95 ∧ r.thot.toNat + 10 ≤ r.ttrip.toNat
        ∧ r.ttrip.toNat ≤ 110 ∧ r.bcool.toNat ≤ 4095 ∧ r.bhot.toNat ≤ r.bcool.toNat ∧ 600 ≤ r.plimit.toNat
        ∧ r.plimit.toNat ≤ 2400 ∧ r.devid.toNat < 4096 ∧ r.hsel &&& ~~~r.half = 0
      let imageGood : Prop := Config.firmwareSigned image = true ∧ 64 ≤ image.length ∧ header 0 4 = 0x4E475746
        ∧ header 4 4 % 4 = 0 ∧ image.length = 1932 + header 4 4 ∧ header 16 48 = 0 ∧ s.dev.fusedSvn ≤ header 8 4
      ∃ s0 s', exec .coldReset s = .next s0 ∧ exec .ixletReset s = .next s0
        ∧ s0.teams = [] ∧ s0.nodes = [] ∧ s0.cohorts = [] ∧ s0.flight.accesses = [] ∧ s0.flight.copies = []
        ∧ s0.dev = { s.dev with status := 0, command := none } ∧ s0.mem = s.mem ∧ s0.cores = s.cores
        ∧ s0.fe.contexts = [] ∧ (∀ q, (s0.queue q).map = none)
        ∧ step { s0 with sched := { s0.sched with agenda := [] } } = .next s'
        ∧ s'.teams = [] ∧ s'.nodes = [] ∧ s'.cohorts = [] ∧ s'.flight.accesses = [] ∧ s'.flight.copies = []
        ∧ (¬ (recordGood ∧ imageGood) →
          s'.dev = { s0.dev with status := if recordGood then 3 else 2 }
          ∧ s'.mem = s.mem ∧ s'.cores = s.cores ∧ s'.fe = s0.fe)
        ∧ (recordGood → imageGood →
          s'.dev.status = 1 ∧ s'.dev.time = 0 ∧ s'.dev.flash = r ∧ s'.dev.image = image ∧ s'.dev.lmsNext = s.dev.lmsNext
          ∧ s'.dev.fusedSvn = s.dev.fusedSvn ∧ s'.fe.firmware = image
          ∧ s'.dev.regs.hanglim = 0x000F4240 ∧ s'.dev.regs.devid.toNat = r.devid.toNat
          ∧ (∀ a : Nat, (a < 2 ^ 52 ∨ 3 * 2 ^ 52 ≤ a) → s'.mem.byte a = 0)
          ∧ (∀ a : Nat, 2 ^ 52 ≤ a → a < 3 * 2 ^ 52 → s'.mem.byte a = s.mem.byte a)
          ∧ (∀ a : Nat, s'.mem.wordBad a = false)
          ∧ (∀ c < 512, s'.cores.enabled.getLsbD c = (isCore c && r.enable.getLsbD (recordBit c)))
          ∧ (∀ c < 512, s'.cores.half.getLsbD c = (isCore c && r.half.getLsbD (recordBit c)))
          ∧ s'.fe.contexts.map (·.ctxid) = [1] ∧ s'.fe.running = 1
          ∧ (s'.queue 0).map = some ⟨1, 4, none, 0⟩ ∧ ∀ q, q ≠ 0 → (s'.queue q).map = none))

/-- 15 R241; 25 R344, R347, R349: a request of the host reads or writes device memory or the control aperture, one of a
peer whose route has a port up device memory; a write fires bells. STATE and the time base of the FE die stand in the
status page. That HBM's 512 GiB repeat through the address space is the model's choice (log entry 71). 25 R350, R352,
R353; 09 R139: HOT sets above THOT and clears 3 below it; a throttle begins above PCAP or at the trip temperature and
ends when neither holds; a register takes a written value as R350 masks it; TBHI is captured with TBLO, of which a
C-die's copy is at most 2 ticks old (25 R351; that a core reads its die's copy, and how old it is, are the model's
choice, log entry 16); so is that GRPLO takes a value as it is written (log entry 42). -/
def Obligations.RequestsAndRegisters : Prop :=
  (
    ∀ (a : BitVec 52) (o : BusOrder) (dev : BitVec 12) (s : State) (peer : Bool),
      (peer = true → s.portsTo dev.toNat ≠ 0) →
      let row (r : BusReq) : Instr := if peer = true then .peerRequest dev r else .hostRequest r
      let hbm := a.toNat % 2 ^ 39
      let inMemory (n : Nat) : Prop := 0 < n ∧ a.toNat + n ≤ 2 ^ 52 ∧ hbm + n ≤ 2 ^ 39
        ∧ (a.toNat + n ≤ apertureBase ∨ apertureBase + apertureSize ≤ a.toNat)
      (∀ n : Nat, inMemory n →
        exec (row (.read a n o)) s = .next { s with dev := { s.dev with busReply := s.mem.bytes hbm n } })
      ∧ (∀ bs : List Byte, inMemory bs.length → exec (row (.write a bs o)) s = .next (s.writeLoc hbm bs))
      ∧ (peer = false → apertureBase ≤ a.toNat →
        (∀ n : Nat, 0 < n → a.toNat + n ≤ apertureBase + apertureSize → exec (row (.read a n o)) s =
          .next { s with dev := { s.dev with
            busReply := (List.range n).map fun i => s.apertureByte (a.toNat - apertureBase + i) } })
        ∧ ∀ bs : List Byte, bs ≠ [] → a.toNat + bs.length ≤ apertureBase + apertureSize →
          exec (row (.write a bs o)) s = .next (s.apertureStore (a.toNat - apertureBase) bs))
      ∧ (s.apertureByte 0x810000 = s.dev.status
        ∧ ∀ i < 8, s.apertureByte (0x810008 + i) = .ofNat 8 (s.dev.time.toNat / 256 ^ i))
      ∧ ∀ (q : Nat) (p : Word), q < 128 →
        s.apertureStore (0x10000 * q) (leBytes 4 p.toNat) = (s.ringDoorbell q p).afterWrite (apertureBase + 0x10000 * q) 4)
  ∧ (
    ∀ s : State,
      let reads (tower i : Nat) : Nat := (Assoc.get 0 s.dev.stackTemp (8 * tower + i)).toNat
      let thot := s.dev.regs.therm.toNat % 256
      let excess : Prop := s.dev.regs.pcap.toNat % 4096 < s.dev.regs.pnow.toNat % 4096
        ∨ ∃ e ∈ s.dev.colTemp, s.dev.flash.ttrip.toNat ≤ e.2.toNat
      (∀ k < 4, s.dev.hot.getLsbD k = false → (∃ i < 8, thot < reads k i) →
        exec (.hotSet k) s = .next { s with dev := { s.dev with hot := s.dev.hot ||| 1#4 <<< k } })
      ∧ (∀ k < 4, s.dev.hot.getLsbD k = true → (∀ i < 8, reads k i + 3 ≤ thot) →
        exec (.hotClear k) s = .next { s with dev := { s.dev with hot := s.dev.hot &&& ~~~(1#4 <<< k) } })
      ∧ (s.dev.throttled = false → excess → exec .powerThrottle s = .next { s with dev := { s.dev with throttled := true } })
      ∧ (s.dev.throttled = true → ¬ excess → exec .throttleClear s = .next { s with dev := { s.dev with throttled := false } })
      ∧ (∀ (n : BitVec 12) (v : Word), privSpecial n.toNat = true →
        ∃ s', exec (.registerWrite n v) s = .next s' ∧ s' = { s with dev := { s.dev with regs := s'.dev.regs } }
          ∧ (n = 0x102#12 → s'.dev.regs = { s.dev.regs with hanglim := v })
          ∧ (n = 0x10C#12 → s'.dev.regs = { s.dev.regs with devid := v &&& 0xFFF#32 })
          ∧ (n = 0x121#12 → s'.dev.regs = { s.dev.regs with
            pcap := .ofNat 32 (min (v.toNat % 4096) s.dev.flash.plimit.toNat) })
          ∧ (n = 0x108#12 → s'.dev.regs = { s.dev.regs with grplo := v })
          ∧ (n = 0x104#12 → (∀ b ∈ s.armedBells, b.listed = false) →
            s'.dev.regs = { s.dev.regs with ovflo := v &&& 0xFFFF0000#32 }))
      ∧ ∀ t, s.curTeam = some t →
        exec (.registerWrite 0x003#12 0xFFFFFFFF#32) s = .next (s.putTeam { t with flags := 0x1F })
        ∧ exec .tbloCapture s = .next (s.putTeam { t with tbCapture := s.coreTime t.core })
        ∧ (s.coreTime t.core).toNat ≤ s.dev.time.toNat ∧ s.dev.time.toNat ≤ (s.coreTime t.core).toNat + 2)

/-- 21 R307, R308, R320: `r` is what translation answers for an address that an entry or a range with attribute bits
`attr` maps to physical address `phys`. -/
def granted (s : State) (c : Context) (va : Addr) (i : Intent) (attr phys : Nat) (r : Except Trap Place) : Prop :=
  let kind := attr / 2 % 4
  let mem := attr / 2 ^ 8 % 4
  let home := attr / 2 ^ 10 % 4
  let a := phys % 2 ^ 52
  let inAperture : Prop := mem = 0 ∧ 0xFFF0000000000 ≤ a ∧ a < 0xFFF0001000000
  let malformed : Prop := kind = 3 ∨ mem = 3 ∨ (attr.testBit 6 = true ∧ mem ≠ 1)
  let denied (cause : Nat) : Prop := r = .error ⟨.permission, va, cause, none, none⟩
  let reachable : Prop := attr.testBit 5 = true ∨ c.priv = true
  let lost : Prop := mem = 0 ∧ ¬ inAperture ∧ s.dev.lostDies.getLsbD (1 + home) = true
  (malformed → r = .error ⟨.translation, va, 1, none, none⟩)
  ∧ (¬ malformed → ¬ reachable → denied 2)
  ∧ (¬ malformed → reachable → i = .write → attr.testBit 3 = false → denied 0)
  ∧ (¬ malformed → reachable → i = .fetch → attr.testBit 4 = false → denied 1)
  ∧ (¬ malformed → reachable → (i = .write → attr.testBit 3 = true) → (i = .fetch → attr.testBit 4 = true) →
    (lost → r = .error ⟨.dieLost, .ofNat 64 (1 + home), 0, none, none⟩)
    ∧ (¬ lost → ∃ p, r = .ok p ∧ (kind = 0 → p.kind = .rc) ∧ (kind = 1 → p.kind = .so) ∧ (kind = 2 → p.kind = .uo)
      ∧ (inAperture → p.region = .aperture ∧ p.loc = a)
      ∧ (mem = 0 → ¬ inAperture → p.region = .device home ∧ p.loc = a % 2 ^ 39)
      ∧ (mem = 1 → p.region = (if attr.testBit 6 = true then .hostCoherent else .hostLink) ∧ p.loc = 2 ^ 52 + a)
      ∧ (mem = 2 → p.region = .peer ∧ p.loc = 2 * 2 ^ 52 + a)))

/-- 21 R306, R307: `r` is what a walk answers from `table` on, whose level is indexed by `width` bits from bit `lo` of the
address and may hold leaves or pointers as said; `next` is the walk from the table that a pointer names. -/
def walked (s : State) (c : Context) (va : Addr) (i : Intent) (table lo width : Nat) (leaves pointers : Bool)
    (next : Nat → Except Trap Place) (r : Except Trap Place) : Prop :=
  let e := s.mem.nat ((table + 8 * (va.toNat / 2 ^ lo % 2 ^ width)) % 2 ^ 39) 8
  let page := e / 2 ^ 16 % 2 ^ 36 * 2 ^ 16
  let bad : Prop := r = .error ⟨.translation, va, 1, none, none⟩
  let wellFormed : Prop := e / 2 ^ 12 % 2 ^ 4 = 0 ∧ e / 2 ^ 52 % 2 ^ 8 = 0 ∧ page % 2 ^ lo = 0
  (e.testBit 0 = false → r = .error ⟨.translation, va, 0, none, none⟩)
  ∧ (e.testBit 0 = true → e.testBit 7 = true →
    (leaves = false ∨ ¬ wellFormed → bad)
    ∧ (leaves = true → wellFormed → granted s c va i e (page + va.toNat % 2 ^ lo) r))
  ∧ (e.testBit 0 = true → e.testBit 7 = false →
    (pointers = false ∨ e / 2 ^ 52 % 2 ^ 8 ≠ 0 → bad)
    ∧ (pointers = true → e / 2 ^ 52 % 2 ^ 8 = 0 → r = next (e / 2 ^ 12 % 2 ^ 40 * 2 ^ 12)))

/-- 01 R29, R30; 21 R305 to R308, R320: an address that is not canonical raises TRANSLATION with CAUSE 1; the windows
name local store and vaults, and nothing else from the vault window on translates; any other address is translated by
the lowest-numbered range that holds it, else by the four levels of page tables from PTROOT; then U, W and X are
checked, in that order, and the home's die. (HBM's 512 GiB repeat, for tables and pages alike, PBASE + (VA − VSTART) and
table addresses are taken modulo 2^52, and a poisoned entry gives its stored bits: the model's choices, log entries 64,
71 and 112. A fetch from a window comes before the checks of the context's claim and of its die.) 21 R309, R312; 13
R196, R208; 15 R232: an invalidation waits until nothing of the context that the named translations translated is in
flight: all of it, or what the page that holds the address did, as each access and copy carries it; then it completes,
and pending translations of its context, or of the 1 GiB region, are tried again, of a team that the debugger has
stopped when it is resumed. A page whose home changes keeps its contents and its poison, and no copy of a line of the
old or the new page is left; the change waits for copies that have checked the page and for accesses to it, atomics
apart. A bell on it takes a place at the new home, where there is room (15 R235, R238; log entry 94); that a page lies
at its number modulo 2^39 is the model's choice too (log entry 71). -/
def Obligations.Translations : Prop :=
  (∀ (s : State) (c : Context) (core : Nat) (va : Addr) (i : Intent),
    let r := translate s c core va i
    let error (code : TrapCode) (cause : Nat) : Prop := r = .error ⟨code, va, cause, none, none⟩
    let holds (g : Range) : Prop := g.vlen ≠ 0 ∧ g.vstart ≤ va ∧ va.toNat < g.vstart.toNat + g.vlen.toNat
    (2 ^ 56 ≤ va.toNat → va.toNat < 2 ^ 64 - 2 ^ 56 → error .translation 1)
    ∧ (0xFFFFFF0000000000 ≤ va.toNat →
      let o := va.toNat - 0xFFFFFF0000000000
      (2 ^ 20 ≤ o → error .translation 2)
      ∧ (o < 2 ^ 20 → i = .fetch → error .permission 1)
      ∧ (o < 2 ^ 20 → i ≠ .fetch → c.claim.getLsbD 0 = false → error .permission 3)
      ∧ (o < 2 ^ 20 → i ≠ .fetch → c.claim.getLsbD 0 = true → r = .ok ⟨localLoc c.ctxid core o, .rc, .localStore⟩))
    ∧ (0xFFFFFE0000000000 ≤ va.toNat → va.toNat < 0xFFFFFF0000000000 →
      let o := va.toNat - 0xFFFFFE0000000000
      let k := o / 2 ^ 22
      let there : Prop := k < 512 ∧ k / 8 % 8 < 6 ∧ s.dev.flash.vaultAbsent.getLsbD (recordBit k) = false
      (¬ there → error .translation 2)
      ∧ (there → i = .fetch → error .permission 1)
      ∧ (there → i ≠ .fetch → s.dev.lostDies.getLsbD (1 + k / 128) = true →
        r = .error ⟨.dieLost, .ofNat 64 (1 + k / 128), 0, none, none⟩)
      ∧ (there → i ≠ .fetch → s.dev.lostDies.getLsbD (1 + k / 128) = false →
        r = .ok ⟨vaultLoc k (o % 2 ^ 22), .rc, .vault k⟩))
    ∧ ((va.toNat < 2 ^ 56 ∨ (2 ^ 64 - 2 ^ 56 ≤ va.toNat ∧ va.toNat < 0xFFFFFE0000000000)) →
      (∀ (n : Nat) (g : Range), c.ranges.Pairwise (·.1 < ·.1) → (n, g) ∈ c.ranges → holds g →
        (∀ e ∈ c.ranges, holds e.2 → n ≤ e.1) →
        granted s c va i g.attr.toNat (g.pbase.toNat + (va.toNat - g.vstart.toNat)) r)
      ∧ ((∀ e ∈ c.ranges, ¬ holds e.2) → ∃ l1 l2 l3 : Nat → Except Trap Place,
        walked s c va i c.ptroot.toNat 39 18 false true l1 r
        ∧ (∀ table, walked s c va i table 30 9 true true l2 (l1 table))
        ∧ (∀ table, walked s c va i table 21 9 true true l3 (l2 table))
        ∧ ∀ table, walked s c va i table 16 5 true false l3 (l3 table))))
  ∧ (∀ (s : State) (m : PageMove) (b : Armed) (owner slot : Nat), m.old ≤ b.loc → b.loc < m.old + m.size →
    let there : Armed := { b with loc := b.loc - m.old + m.new, home := m.home }
    (b.home = m.home → s.moveBell m b owner slot = some (s, there))
    ∧ (b.home ≠ m.home → s.bellRoom m.home = none → s.moveBell m b owner slot = none)
    ∧ ∀ listed, b.home ≠ m.home → s.bellRoom m.home = some listed → s.moveBell m b owner slot =
      some (s.listBell { there with listed := listed } owner slot, { there with listed := listed }))
  ∧
  (∀ (ctx : BitVec 16) (va : Addr) (s : State),
    let near (a : Addr) : Prop := a.toNat / 2 ^ 30 = va.toNat / 2 ^ 30
    let again (p : Addr → Prop) (t u : Team) : Prop :=
      (∀ a l, t.cond = .pendingTranslation a l →
        (p a → u = { t with cond := .ready, retried := true }) ∧ (¬ p a → u = t))
      ∧ (∀ b a l, t.cond = .stopped b (.translation a l) → (p a → u = { t with retried := true }) ∧ (¬ p a → u = t))
      ∧ ((∀ a l, t.cond ≠ .pendingTranslation a l) → (∀ b a l, t.cond ≠ .stopped b (.translation a l)) → u = t)
    let tried (p : Addr → Prop) (s' : State) : Prop := ∃ f : Team → Team, s' = { s with teams := s.teams.map f }
      ∧ ∀ t ∈ s.teams, (t.ctx = ctx.toNat → again p t (f t)) ∧ (t.ctx ≠ ctx.toNat → f t = t)
    (s.ctx? ctx.toNat = none → exec (.invalidateContext ctx) s = .next s ∧ exec (.invalidatePage ctx va) s = .next s)
    ∧ (s.ctx? ctx.toNat ≠ none →
      let mine (k : Nat) : Prop := ∃ t ∈ s.teams, t.ctx = ctx.toNat ∧ t.id = k
      let held (g : VPage) : Prop := va.toNat / 2 ^ g.bits = g.number
      let busy : Prop := (∃ a ∈ s.flight.accesses, mine a.team) ∨ ∃ c ∈ s.flight.copies, mine c.team
      let pageBusy : Prop := (∃ a ∈ s.flight.accesses, mine a.team ∧ ∃ g, a.page = some g ∧ held g)
        ∨ ∃ c ∈ s.flight.copies, mine c.team ∧ ∃ g ∈ c.mapped, held g
      (busy → ∀ s1, exec (.invalidateContext ctx) s ≠ .next s1)
      ∧ (¬ busy → ∃ s1, exec (.invalidateContext ctx) s = .next s1 ∧ tried (fun _ => True) s1)
      ∧ (pageBusy → ∀ s2, exec (.invalidatePage ctx va) s ≠ .next s2)
      ∧ (¬ pageBusy → ∃ s2, exec (.invalidatePage ctx va) s = .next s2 ∧ tried near s2)))
    ∧ (∀ (s : State) (c : Context) (core : Nat) (va : Addr) (i : Intent) (p : Place), translate s c core va i = .ok p →
      (vaultWindow ≤ va.toNat ∨ (∃ e ∈ c.ranges, e.2.holds va = true) → s.pageOf c va = none)
      ∧ (va.toNat < vaultWindow → (∀ e ∈ c.ranges, e.2.holds va = false) →
        ∃ b ∈ [16, 21, 30], s.pageOf c va = some ⟨va.toNat / 2 ^ b, b⟩))
    ∧ ∀ (pte bits : Nat) (entry : BitVec 64) (s : State), s.canonical →
      bits ∈ [16, 21, 30] → pte + 8 ≤ 2 ^ 39 → pte % 8 = 0 →
      let old := s.mem.nat pte 8
      let o := fld 16 36 old * 2 ^ 16 % 2 ^ 39
      let n := fld 16 36 entry.toNat * 2 ^ 16 % 2 ^ 39
      let inPage (p a : Nat) : Prop := p ≤ a ∧ a < p + 2 ^ bits
      deviceLeaf bits old = true → deviceLeaf bits entry.toNat = true → old % 2 ^ 8 = entry.toNat % 2 ^ 8 →
      (((∃ c ∈ s.flight.copies, ∃ g ∈ c.pages, inPage o (2 ^ 16 * g))
          ∨ ∃ a ∈ s.flight.accesses, inPage o a.place.loc ∧ a.kind.isReply = false ∧ a.kind.isAtomic = false) →
        ∀ s', exec (.pageHomeChange pte bits entry) s ≠ .next s')
      ∧ ((∀ c ∈ s.flight.copies, ∀ g ∈ c.pages, ¬ inPage o (2 ^ 16 * g)) →
        (∀ a ∈ s.flight.accesses, inPage o a.place.loc → a.kind.isReply = true) →
        (∀ b ∈ s.armedBells, inPage o b.loc → b.home = fld 10 2 entry.toNat) →
        ∃ s', exec (.pageHomeChange pte bits entry) s = .next s'
          ∧ (∀ i < 2 ^ bits, (n + i < pte ∨ pte + 8 ≤ n + i) → s'.mem.byte (n + i) = s.mem.byte (o + i)
            ∧ s'.mem.wordBad (n + i) = s.mem.wordBad (o + i))
          ∧ (∀ a : Nat, ¬ inPage n a → (a < pte ∨ pte + 8 ≤ a) → s'.mem.byte a = s.mem.byte a)
          ∧ s'.mem.bytes pte 8 = leBytes 8 entry.toNat
          ∧ ∀ c, c ∈ s'.flight.lines ↔ c ∈ s.flight.lines ∧ ¬ inPage o (128 * c.line) ∧ ¬ inPage n (128 * c.line))

/-- 21 R299, R312, R321, R322; 25 R360; 11 R167: a debug command answers 1 for what is malformed or an item that is not
there, else 2 for a context or team that is not there, else 3 for a context without a debugger, else 4 for a team that
has not stopped and drained, and then has no effect; else it answers 0 and does what it says. STOP stops a team, as a preemption does (05 R79), RESUME
lets it continue from where it was, READ returns an item, WRITE replaces one, live and clean; WATCH and the attachment
act on the context. A store that touches a watched byte of an attached context performs, and WATCH then stops its team.
Which items and values are malformed is the model's choice (log entry 54), and so is that a parked team which was
stopped answers as one that stalled when it is resumed, and executes its instruction again (log entry 53). -/
def Obligations.DebugCommands : Prop :=
  (∀ (r : TeamRef) (item : DebugItem) (v : BitVec 256) (s : State),
    let code (k : Nat) (s : State) : State := { s with dev := { s.dev with debugCode := k, debugValue := 0 } }
    let team := s.debugTeam r
    let noItem : Prop := itemMalformed item = true ∨ ∃ t, team = some t ∧ itemExists t item = false
    let badRead : Prop := noItem ∨ ∃ t, team = some t ∧ debugRead s t item = none
    let badWrite : Prop := noItem ∨ ∃ t, team = some t ∧ debugWrite s t item v = none
    let replies (k : Nat) : Prop := exec (.stop r) s = .next (code k s) ∧ exec (.resume r) s = .next (code k s)
      ∧ (¬ badRead → exec (.read r item) s = .next (code k s)) ∧ (¬ badWrite → exec (.write r item v) s = .next (code k s))
    (∀ t, team = some t → t ∈ s.teams ∧ t.ctx = r.ctx.toNat ∧ t.nid = r.nid ∧ t.index = r.team ∧ t.cond ≠ .exiting)
    ∧ (badRead → exec (.read r item) s = .next (code 1 s))
    ∧ (badWrite → exec (.write r item v) s = .next (code 1 s))
    ∧ (s.ctx? r.ctx.toNat = none ∨ team = none → replies 2)
    ∧ (∀ c t, s.ctx? r.ctx.toNat = some c → team = some t → c.attached = false → replies 3)
    ∧ ∀ c t, s.ctx? r.ctx.toNat = some c → team = some t → c.attached = true →
      let drained : Prop := (∃ b k, t.cond = .stopped b k)
        ∧ ∀ a ∈ s.flight.accesses, a.team = t.id → a.kind.dst? = none
      ((∃ b k, t.cond = .stopped b k) → exec (.stop r) s = .next (code 0 s))
      ∧ ((∀ b k, t.cond ≠ .stopped b k) → s.inPair t = false → ∃ u s' k, exec (.stop r) s = .next s'
        ∧ s'.teams = s.teams.map (fun x => if x.id = t.id then u else x) ∧ u.cond = .stopped false k
        ∧ (t.cond = .ready → k = .none) ∧ (t.cond = .stalled → k = .again) ∧ (t.cond = .woken → k = .woken)
        ∧ (∀ a l, t.cond = .pendingTranslation a l → k = .translation a l)
        ∧ ((∃ d a y, t.cond = .parkedAwait d a y) ∨ (∃ l ph, t.cond = .parkedBarrier l ph) → k = .again)
        ∧ (∃ v, stoppedAs s t v ∧ u = { v with cond := .stopped false k, fetched := u.fetched })
        ∧ u.sregs = t.sregs ∧ u.vregs = t.vregs ∧ u.masks = t.masks ∧ u.pc = t.pc ∧ u.mode = t.mode ∧ u.flags = t.flags
        ∧ s'.dev.debugCode = 0 ∧ s'.mem = s.mem)
      ∧ (¬ drained → exec (.resume r) s = .next (code 4 s)
        ∧ (¬ badRead → exec (.read r item) s = .next (code 4 s))
        ∧ (¬ badWrite → exec (.write r item v) s = .next (code 4 s)))
      ∧ (drained →
        (∀ b, t.cond = .stopped b .none → exec (.resume r) s = .next (code 0 (s.putTeam { t with cond := .ready })))
        ∧ (∀ b, t.cond = .stopped b .again → exec (.resume r) s = .next (code 0 (s.putTeam { t with cond := .stalled })))
        ∧ (∀ b, t.cond = .stopped b .woken → exec (.resume r) s = .next (code 0 (s.putTeam { t with cond := .woken })))
        ∧ (∀ b a l, t.cond = .stopped b (.translation a l) → exec (.resume r) s = .next (code 0 (s.putTeam { t with
          cond := if t.retried = true then .ready else .pendingTranslation a l })))
        ∧ (¬ badRead → ∃ x, debugRead s t item = some x
          ∧ exec (.read r item) s = .next (let s1 := s.touchItem t item
            { s1 with dev := { s1.dev with debugCode := 0, debugValue := x } })
          ∧ (item = .pc → x = t.pc.setWidth 256)
          ∧ (∀ n, item = .scalar n → x = (t.sval n).setWidth 256)
          ∧ (∀ n l, item = .vector n l → x = ((t.vregAt n).lane l).val.setWidth 256)
          ∧ (∀ m w, item = .mask m w → x = (maskWord (t.mbits m) w).setWidth 256)
          ∧ (∀ w, item = .exm w → x = (maskWord t.exm w).setWidth 256)
          ∧ (∀ n, item = .special n → x = (specialValue s t n.toNat).setWidth 256))
        ∧ (¬ badWrite → ∃ s1, debugWrite (s.touchItem t item) t item v = some s1
          ∧ exec (.write r item v) s = .next (code 0 s1)
          ∧ (∀ n, item = .scalar n → s1 = s.putTeam { t with sregs := scalarsAfter t [] [(n, v.setWidth 32)] })
          ∧ (∀ n l, item = .vector n l → s1 = s.putTeam { t with
            vregs := .ofFn fun i : Fin 64 =>
              if i.val ≠ n.toNat then t.vregs[i]
              else .live ((List.range t.tw).map fun j => if j = l then ⟨v.setWidth 32, false⟩ else (t.vregAt n).lane j) })
          ∧ (item = .pc → ∃ u, s1 = s.putTeam u ∧ u.pc = v.setWidth 64 ∧ u.sregs = t.sregs ∧ u.vregs = t.vregs
            ∧ ∃ b, u.cond = .stopped b .none)
          ∧ (∀ va p, item = .memory va → s.flight.copies = [] → translate s (s.ctxOf t) t.core va .write = .ok p →
            p.region = .aperture → s1 = (s.touchItem t item).apertureStore (p.loc - apertureBase) (leBytes 4 (v.toNat % 2 ^ 32)))
          ∧ (∀ va p, item = .memory va → s.canonical → s.flight.copies = [] → s.settled →
            translate s (s.ctxOf t) t.core va .write = .ok p → p.region ≠ .aperture →
            s1.mem.bytes p.loc 4 = leBytes 4 (v.toNat % 2 ^ 32) ∧ SameBytesBut p.loc 4 s s1))))
  ∧ (∀ (ctx : BitVec 16) (slot : Nat) (w : Option Watch) (s : State),
    let code (k : Nat) : State := { s with dev := { s.dev with debugCode := k, debugValue := 0 } }
    let formed : Prop := slot < 4 ∧ ∀ x, w = some x → x.base.toNat % 8 = 0 ∧ (x.reads = true ∨ x.writes = true)
    (¬ formed → exec (.watch ctx slot w) s = .next (code 1))
    ∧ (formed → s.ctx? ctx.toNat = none → exec (.watch ctx slot w) s = .next (code 2))
    ∧ ∀ c, formed → s.ctx? ctx.toNat = some c →
      (c.attached = false → exec (.watch ctx slot w) s = .next (code 3))
      ∧ (c.attached = true → exec (.watch ctx slot w) s = .next ((s.modCtx c.ctxid fun c => { c with
        watches := (c.watches.filter fun e => e.1 ≠ slot) ++ match w with
          | none => []
          | some x => [(slot, x)] }).debugReply 0 0)))
  ∧ (∀ (ctx : BitVec 16) (on : Bool) (s : State),
    (s.ctx? ctx.toNat = none → exec (.debugAttach ctx on) s = .next (s.debugReply 2 0))
    ∧ (s.ctx? ctx.toNat ≠ none →
      exec (.debugAttach ctx on) s = .next ((s.modCtx ctx.toNat fun c => { c with attached := on }).debugReply 0 0)))
  ∧ ∀ p ∈ ([(.stB, 1, false), (.stH, 2, false), (.st, 4, false), (.stD, 8, true)] :
      List ((Reg → MemArg → Instr) × Nat × Bool)),
    ∀ (x : Reg) (m : MemArg) (s : State) (t : Team),
      Issues s t { srcs := ⟨if p.2.2 then .pair x else .s x, false⟩ :: memUses m, dsts := memDsts [] m, ordered := true } →
      s.sched.defer = false → emptyBuffer m t = false → (s.ctxOf t).attached = true →
      ∀ at_, accessPlace s t (memAddress m t p.2.1) p.2.1 p.2.1 .write = .ok at_ → s.reachable at_ = true →
      let va := ((memAddress m t p.2.1).va t).toNat
      let s1 := (begun s at_ p.2.1 ((s.touch t.ctx [at_]).putTeam (stepped t m p.2.1 []))).teamWrite (towerOf t.core) at_
        (leBytes p.2.1 (if p.2.2 then (t.pair x).toNat else (t.sval x).toNat))
      let hit (w : Nat × Watch) : Prop := w ∈ (s.ctxOf t).watches ∧ w.2.writes = true
        ∧ va < w.2.base.toNat + 8 ∧ w.2.base.toNat < va + p.2.1
      ((∀ w, ¬ hit w) → exec (p.1 x m) s = .next s1)
      ∧ ∀ (a : Nat) (w : Nat × Watch), hit w → a = max va w.2.base.toNat → (∀ w', hit w' → a ≤ max va w'.2.base.toNat) →
        ∃ u s', s1.team? t.id = some u ∧ exec (p.1 x m) s = .next s'
          ∧ s' = (s1.writeRecord u ⟨.watch, .ofNat 64 a, 0, none, some t.pc⟩ false false).modTeam t.id fun y =>
            { y with cond := .stopped true .none, promises := [], producer := none, fetched := none, retried := false }
end

