-- ==== Sys2Proof/Laws/Assoc.lean ====
section
/-!
SUPPORT. The laws of sparse tables: read after write, and that every operation keeps the canonical form.
-/
namespace Sys2Proof.Laws

variable {β : Type} {dflt : β}

@[simp] theorem assoc_get_nil (k : Nat) : Assoc.get dflt [] k = dflt := rfl

theorem assoc_above_cons {lo a : Nat} {v : β} {rest : List (Nat × β)} :
    Assoc.above lo ((a, v) :: rest) = true ↔ lo < a := by simp [Assoc.above]

theorem assoc_above_of_lt {lo hi : Nat} {m : List (Nat × β)} (h : Assoc.above hi m = true) (hl : lo ≤ hi) :
    Assoc.above lo m = true := by
  cases m with
  | nil => rfl
  | cons e rest => obtain ⟨a, v⟩ := e; rw [assoc_above_cons] at h ⊢; omega

/-- Nothing is listed below the first key. -/
theorem assoc_get_of_above {m : List (Nat × β)} {lo k : Nat} (h : Assoc.above lo m = true) (hk : k ≤ lo) :
    Assoc.get dflt m k = dflt := by
  cases m with
  | nil => rfl
  | cons e rest =>
    obtain ⟨a, v⟩ := e
    rw [assoc_above_cons] at h
    have h1 : k ≠ a := by omega
    have h2 : k < a := by omega
    simp [Assoc.get, h1, h2]

variable [DecidableEq β]

@[simp] theorem assoc_wf_nil : Assoc.wf dflt [] = true := rfl

theorem assoc_wf_cons {a : Nat} {v : β} {rest : List (Nat × β)} :
    Assoc.wf dflt ((a, v) :: rest) = true ↔ v ≠ dflt ∧ Assoc.above a rest = true ∧ Assoc.wf dflt rest = true := by
  simp [Assoc.wf, and_assoc]

/-- Read after write. -/
theorem assoc_get_set {m : List (Nat × β)} (h : Assoc.wf dflt m = true) (k k' : Nat) (x : β) :
    Assoc.get dflt (Assoc.set dflt m k x) k' = if k' = k then x else Assoc.get dflt m k' := by
  induction m with
  | nil =>
    unfold Assoc.set
    by_cases hx : x = dflt
    · simp [hx]
    · by_cases hk : k' = k <;> simp [hx, hk, Assoc.get]
  | cons e rest ih =>
    obtain ⟨a, v⟩ := e
    obtain ⟨-, hab, hr⟩ := assoc_wf_cons.mp h
    have below : ∀ j, j ≤ a → Assoc.get dflt rest j = dflt := fun j hj => assoc_get_of_above hab hj
    unfold Assoc.set
    by_cases h1 : k < a
    · by_cases hx : x = dflt
      · by_cases hk : k' = k
        · have e1 : k ≠ a := by omega
          simp [h1, hx, hk, Assoc.get, e1]
        · simp [h1, hx, hk]
      · by_cases hk : k' = k
        · simp [h1, hx, hk, Assoc.get]
        · by_cases hlt : k' < k
          · have e1 : k' ≠ a := by omega
            have e2 : k' < a := by omega
            simp [h1, hx, hk, hlt, Assoc.get, e1, e2]
          · simp [h1, hx, hk, hlt, Assoc.get]
    · by_cases h2 : k = a
      · subst h2
        by_cases hx : x = dflt
        · by_cases hk : k' = k
          · simp [hx, hk, below]
          · by_cases hlt : k' < k
            · simp [hx, hk, hlt, Assoc.get, below k' (by omega)]
            · simp [hx, hk, hlt, Assoc.get]
        · by_cases hk : k' = k
          · simp [hx, hk, Assoc.get]
          · simp [hx, hk, Assoc.get]
      · simp only [h1, h2, if_false, Assoc.get, ih hr]
        by_cases hk : k' = k
        · have e1 : k' ≠ a := by omega
          have e2 : ¬ k' < a := by omega
          simp [hk, h2, h1]
        · simp [hk]

theorem assoc_get_set_same {m : List (Nat × β)} (h : Assoc.wf dflt m = true) (k : Nat) (x : β) :
    Assoc.get dflt (Assoc.set dflt m k x) k = x := by simp [assoc_get_set h]

theorem assoc_get_set_other {m : List (Nat × β)} (h : Assoc.wf dflt m = true) {k k' : Nat} (x : β) (hk : k' ≠ k) :
    Assoc.get dflt (Assoc.set dflt m k x) k' = Assoc.get dflt m k' := by simp [assoc_get_set h, hk]

theorem assoc_above_set {m : List (Nat × β)} {lo k : Nat} {x : β} (h : Assoc.above lo m = true)
    (hw : Assoc.wf dflt m = true) (hk : lo < k) : Assoc.above lo (Assoc.set dflt m k x) = true := by
  cases m with
  | nil => unfold Assoc.set; split <;> simp [Assoc.above, hk]
  | cons e rest =>
    obtain ⟨a, v⟩ := e
    obtain ⟨-, hab, -⟩ := assoc_wf_cons.mp hw
    rw [assoc_above_cons] at h
    unfold Assoc.set
    split
    · split
      · simp [Assoc.above, h]
      · simp [Assoc.above, hk]
    · split
      · split
        · exact assoc_above_of_lt hab (by omega)
        · simp [Assoc.above, hk]
      · simp [Assoc.above, h]

/-- A write keeps the canonical form. -/
theorem assoc_wf_set {m : List (Nat × β)} (h : Assoc.wf dflt m = true) (k : Nat) (x : β) :
    Assoc.wf dflt (Assoc.set dflt m k x) = true := by
  induction m with
  | nil =>
    unfold Assoc.set
    by_cases hx : x = dflt <;> simp [hx, Assoc.wf, Assoc.above]
  | cons e rest ih =>
    obtain ⟨a, v⟩ := e
    obtain ⟨hv, hab, hr⟩ := assoc_wf_cons.mp h
    unfold Assoc.set
    by_cases h1 : k < a
    · by_cases hx : x = dflt
      · simpa [h1, hx] using h
      · simp only [h1, if_true, hx, if_false]
        exact assoc_wf_cons.mpr ⟨hx, assoc_above_cons.mpr h1, h⟩
    · by_cases h2 : k = a
      · subst h2
        by_cases hx : x = dflt
        · simpa [hx] using hr
        · simp only [Nat.lt_irrefl, if_false, hx, if_true]
          exact assoc_wf_cons.mpr ⟨hx, hab, hr⟩
      · simp only [h1, h2, if_false]
        exact assoc_wf_cons.mpr ⟨hv, assoc_above_set hab hr (by omega), ih hr⟩

theorem assoc_wf_setAll {m : List (Nat × β)} (h : Assoc.wf dflt m = true) (k : Nat) (xs : List β) :
    Assoc.wf dflt (Assoc.setAll dflt m k xs) = true := by
  induction xs generalizing m k with
  | nil => exact h
  | cons x xs ih => exact ih (assoc_wf_set h k x) (k + 1)

/-- Read after a write of consecutive values. -/
theorem assoc_get_setAll {m : List (Nat × β)} (h : Assoc.wf dflt m = true) (k k' : Nat) (xs : List β) :
    Assoc.get dflt (Assoc.setAll dflt m k xs) k' =
      if k ≤ k' ∧ k' < k + xs.length then xs.getD (k' - k) dflt else Assoc.get dflt m k' := by
  induction xs generalizing m k with
  | nil => simp [Assoc.setAll]
  | cons x xs ih =>
    rw [Assoc.setAll, ih (assoc_wf_set h k x), assoc_get_set h]
    by_cases h0 : k' = k
    · subst h0
      simp
    · by_cases h1 : k + 1 ≤ k' ∧ k' < k + 1 + xs.length
      · have h2 : k ≤ k' ∧ k' < k + (x :: xs).length := by simp only [List.length_cons]; omega
        have h3 : k' - k = (k' - (k + 1)) + 1 := by omega
        rw [if_pos h1, if_pos h2, h3, List.getD_cons_succ]
      · have h2 : ¬ (k ≤ k' ∧ k' < k + (x :: xs).length) := by simp only [List.length_cons]; omega
        rw [if_neg h1, if_neg h0, if_neg h2]

theorem assoc_above_filter {m : List (Nat × β)} {lo : Nat} (p : Nat × β → Bool) (h : Assoc.above lo m = true)
    (hw : Assoc.wf dflt m = true) : Assoc.above lo (m.filter p) = true := by
  induction m with
  | nil => rfl
  | cons e rest ih =>
    obtain ⟨a, v⟩ := e
    obtain ⟨-, hab, hr⟩ := assoc_wf_cons.mp hw
    rw [assoc_above_cons] at h
    rw [List.filter_cons]
    split
    · exact assoc_above_cons.mpr h
    · exact ih (assoc_above_of_lt hab (by omega)) hr

/-- Entries that are taken out leave the canonical form. -/
theorem assoc_wf_filter {m : List (Nat × β)} (p : Nat × β → Bool) (h : Assoc.wf dflt m = true) :
    Assoc.wf dflt (m.filter p) = true := by
  induction m with
  | nil => rfl
  | cons e rest ih =>
    obtain ⟨a, v⟩ := e
    obtain ⟨hv, hab, hr⟩ := assoc_wf_cons.mp h
    rw [List.filter_cons]
    split
    · exact assoc_wf_cons.mpr ⟨hv, assoc_above_filter p hab hr, ih hr⟩
    · exact ih hr

theorem assoc_wf_erase {m : List (Nat × β)} (h : Assoc.wf dflt m = true) (lo n : Nat) :
    Assoc.wf dflt (Assoc.erase lo n m) = true := assoc_wf_filter _ h

end Sys2Proof.Laws
end

