-- ==== Sys2Proof/Laws/Encoding.lean ====
section
/-!
SUPPORT. The small lemmas of the encoder: what its fields hold, that they fit, and how they are read back.
-/
namespace Sys2Proof.Laws

/-! ### Operand codes fit their fields -/

theorem src_bits_lt (a : Src) : a.bits < 128 := by
  have h := a.reg.isLt
  have := Bool.toNat_le a.last
  unfold Src.bits; omega

theorem msrc_bits_lt (a : MSrc) : a.bits < 32 := by
  have h := a.reg.isLt
  have := Bool.toNat_le a.last
  unfold MSrc.bits; omega

theorem addrMode_bits_lt (m : AddrMode) : m.bits < 512 := by
  cases m with
  | disp k => have := k.isLt; simp only [AddrMode.bits]; omega
  | postInc k => have := k.isLt; simp only [AddrMode.bits]; omega
  | index v last => have := v.isLt; have := Bool.toNat_le last; simp only [AddrMode.bits]; omega
  | modulo q k => have := q.isLt; have := k.isLt; simp only [AddrMode.bits]; omega

theorem memArg_bits_lt (m : MemArg) : m.bits < 65536 := by
  have := m.base.isLt
  have := Bool.toNat_le m.last
  have := addrMode_bits_lt m.mode
  unfold MemArg.bits; omega

theorem ordCode_lt (c : Scope) : c.ordCode < 4 := by cases c <;> decide
theorem fenceCode_lt (c : Scope) : c.fenceCode < 5 := by cases c <;> decide
theorem atomOp_code_lt (o : AtomOp) : o.code < 7 := by cases o <;> decide
theorem fenceKind_code_lt (k : FenceKind) : k.code < 4 := by cases k <;> decide
theorem intCond_code_lt (c : IntCond) : c.code < 6 := by cases c <;> decide
theorem fpCond_code_lt (c : FpCond) : c.code < 8 := by cases c <;> decide
theorem bellCond_code_lt (c : BellCond) : c.code < 7 := by cases c <;> decide

theorem memOrd_code_lt (r : MemOrd) : r.code < 16 := by
  cases r with
  | rlx => decide
  | comm => decide
  | acq c => have := ordCode_lt c; simp only [MemOrd.code]; omega
  | rel c => have := ordCode_lt c; simp only [MemOrd.code]; omega
  | ar c => have := ordCode_lt c; simp only [MemOrd.code]; omega

/-! ### Codes are read back -/

theorem memOrd_ofCode (r : MemOrd) (h : r.scopeOk = true) : MemOrd.ofCode? r.code = some r := by
  cases r with
  | rlx => rfl
  | comm => rfl
  | acq c => cases c <;> first | rfl | exact absurd h (by decide)
  | rel c => cases c <;> first | rfl | exact absurd h (by decide)
  | ar c => cases c <;> first | rfl | exact absurd h (by decide)

theorem atomOp_ofCode (o : AtomOp) : AtomOp.ofCode? o.code = some o := by cases o <;> rfl
theorem fenceKind_ofCode (k : FenceKind) : FenceKind.ofCode k.code = k := by cases k <;> rfl
theorem bellCond_ofCode (c : BellCond) : BellCond.ofCode? c.code = some c := by cases c <;> rfl
theorem scope_ofFenceCode (c : Scope) : Scope.ofFenceCode? c.fenceCode = some c := by cases c <;> rfl

theorem ofNat_of_toNat {w n : Nat} (x : BitVec w) (h : n = x.toNat) : BitVec.ofNat w n = x := by
  subst h; simp

theorem regAt_of {lo n : Nat} (r : Reg) (h : fld lo 6 n = r.toNat) : regAt lo n = r := ofNat_of_toNat r h

theorem mregAt_of {lo n : Nat} (r : MReg) (h : fld lo 4 n = r.toNat) : mregAt lo n = r := ofNat_of_toNat r h

theorem flagAt_of {lo n : Nat} (b : Bool) (h : fld lo 1 n = b.toNat) : flagAt lo n = b := by
  unfold flagAt; rw [h]; cases b <;> rfl

/-- Seven bits of a word that hold a source are read back as that source. -/
theorem srcAt_of {lo n : Nat} (a : Src) (h : n / 2 ^ lo % 128 = a.bits) : srcAt lo n = a := by
  have hr := a.reg.isLt
  have hb := Bool.toNat_le a.last
  unfold Src.bits at h
  have hlo : n / 2 ^ (lo + 1) = n / 2 ^ lo / 2 := by rw [Nat.pow_succ, Nat.div_div_eq_div_mul]
  have h1 : regAt (lo + 1) n = a.reg := regAt_of _ (by unfold fld; rw [hlo]; omega)
  have h2 : flagAt lo n = a.last := flagAt_of _ (by unfold fld; omega)
  unfold srcAt; rw [h1, h2]

theorem msrcAt_of {lo n : Nat} (a : MSrc) (h : n / 2 ^ lo % 128 = a.bits) : msrcAt lo n = a := by
  have hr := a.reg.isLt
  have hb := Bool.toNat_le a.last
  unfold MSrc.bits at h
  have hlo : n / 2 ^ (lo + 1) = n / 2 ^ lo / 2 := by rw [Nat.pow_succ, Nat.div_div_eq_div_mul]
  have h1 : mregAt (lo + 1) n = a.reg := mregAt_of _ (by unfold fld; rw [hlo]; omega)
  have h2 : flagAt lo n = a.last := flagAt_of _ (by unfold fld; omega)
  unfold msrcAt; rw [h1, h2]

/-- A 12-bit number split over two fields is read back. -/
theorem n12At_of {n : Nat} (k : BitVec 12) (h1 : fld 14 6 n = k.toNat / 64) (h2 : fld 7 6 n = k.toNat % 64) :
    n12At n = k := ofNat_of_toNat k (by rw [h1, h2]; omega)

/-! ### The formats fit in a word -/

theorem fmtRR_lt {m d a b x : Nat} (hm : m < 64) (hd : d < 64) (ha : a < 128) (hb : b < 128) (hx : x < 64) :
    fmtRR m d a b x < 2 ^ 32 := by unfold fmtRR; omega

theorem fmtN12_lt {m d k x : Nat} (hm : m < 64) (hd : d < 64) (hk : k < 4096) (hx : x < 64) :
    fmtN12 m d k x < 2 ^ 32 := by unfold fmtN12; omega

theorem fmtRI_lt {m d a i x : Nat} (hm : m < 64) (hd : d < 64) (ha : a < 128) (hi : i < 4096) (hx : x < 2) :
    fmtRI m d a i x < 2 ^ 32 := by unfold fmtRI; omega

theorem fmtI20_lt {m d i : Nat} (hm : m < 64) (hd : d < 64) (hi : i < 2 ^ 20) : fmtI20 m d i < 2 ^ 32 := by
  unfold fmtI20; omega

theorem fmtSY_lt {m x : Nat} (hm : m < 64) (hx : x < 2 ^ 26) : fmtSY m x < 2 ^ 32 := by unfold fmtSY; omega

theorem fmtBS_lt {m r k i : Nat} (hm : m < 64) (hr : r < 64) (hk : k < 2) (hi : i < 2 ^ 19) :
    fmtBS m r k i < 2 ^ 32 := by unfold fmtBS; omega

theorem fmtBM_lt {m r k i : Nat} (hm : m < 64) (hr : r < 16) (hk : k < 4) (hi : i < 2 ^ 20) :
    fmtBM m r k i < 2 ^ 32 := by unfold fmtBM; omega

theorem fmtST_lt {o m i : Nat} (ho : o < 8) (hm : m < 16) (hi : i < 2 ^ 19) : fmtST o m i < 2 ^ 32 := by
  unfold fmtST; omega

theorem fmtMEM_lt {m d o : Nat} (a : MemArg) (hm : m < 64) (hd : d < 64) (ho : o < 16) :
    fmtMEM m d a o < 2 ^ 32 := by
  have := memArg_bits_lt a
  unfold fmtMEM; omega

theorem fmtAT_lt {k o r d b l : Nat} (hk : k < 4) (ho : o < 8) (hr : r < 16) (hd : d < 64) (hb : b < 128)
    (hl : l < 16) : fmtAT k o r d b l < 2 ^ 32 := by unfold fmtAT; omega

theorem fmtFence_lt {d c u p k : Nat} (hd : d < 64) (hc : c < 8) (hu : u < 2) (hp : p < 2) (hk : k < 64) :
    fmtFence d c u p k < 2 ^ 32 := by unfold fmtFence; omega

theorem fmtMX_lt {a b c o l : Nat} (ha : a < 64) (hb : b < 64) (hc : c < 64) (ho : o < 16) (hl : l < 16) :
    fmtMX a b c o l < 2 ^ 32 := by unfold fmtMX; omega

/-! ### The fields of the formats -/

/-- Format RR: major, destination, sources, minor. -/
theorem fmtRR_fields {m d a b x : Nat} (hm : m < 64) (hd : d < 64) (ha : a < 128) (hb : b < 128) (hx : x < 64) :
    fld 26 6 (fmtRR m d a b x) = m ∧ fld 20 6 (fmtRR m d a b x) = d ∧ fmtRR m d a b x / 2 ^ 13 % 128 = a
      ∧ fmtRR m d a b x / 2 ^ 6 % 128 = b ∧ fld 0 6 (fmtRR m d a b x) = x := by
  unfold fmtRR fld; omega

/-- Format RI: major, destination, source, immediate, minor. -/
theorem fmtRI_fields {m d a i x : Nat} (hm : m < 64) (hd : d < 64) (ha : a < 128) (hi : i < 4096) (hx : x < 2) :
    fld 26 6 (fmtRI m d a i x) = m ∧ fld 20 6 (fmtRI m d a i x) = d ∧ fmtRI m d a i x / 2 ^ 13 % 128 = a
      ∧ fld 1 12 (fmtRI m d a i x) = i ∧ fld 0 1 (fmtRI m d a i x) = x := by
  unfold fmtRI fld; omega

/-- Format MEM: major, data register, address operand, opcode. -/
theorem fmtMEM_fields {m d o : Nat} (a : MemArg) (hm : m < 64) (hd : d < 64) (ho : o < 16) :
    fld 26 6 (fmtMEM m d a o) = m ∧ fld 20 6 (fmtMEM m d a o) = d ∧ fld 4 16 (fmtMEM m d a o) = a.bits
      ∧ fld 0 4 (fmtMEM m d a o) = o := by
  have := memArg_bits_lt a
  unfold fmtMEM fld; omega

/-- The address operand of a MEM word is read back. -/
theorem memAt_of {n : Nat} (m : MemArg) (h : fld 4 16 n = m.bits) : memAt n = m := by
  obtain ⟨base, last, mode⟩ := m
  have hb := base.isLt
  have hl := Bool.toNat_le last
  have hm := addrMode_bits_lt mode
  simp only [MemArg.bits, fld] at h
  have e1 : regAt 14 n = base := regAt_of _ (by unfold fld; omega)
  have e2 : flagAt 13 n = last := flagAt_of _ (by unfold fld; omega)
  have e3 : n / 16 % 512 = mode.bits := by omega
  unfold memAt
  rw [e1, e2]
  cases mode with
  | disp k =>
    have := k.isLt
    simp only [AddrMode.bits] at e3
    have e4 : fld 11 2 n = 0 := by unfold fld; omega
    rw [e4, show BitVec.ofNat 7 (fld 4 7 n) = k from ofNat_of_toNat _ (by unfold fld; omega)]
    rfl
  | postInc k =>
    have := k.isLt
    simp only [AddrMode.bits] at e3
    have e4 : fld 11 2 n = 1 := by unfold fld; omega
    rw [e4, show BitVec.ofNat 7 (fld 4 7 n) = k from ofNat_of_toNat _ (by unfold fld; omega)]
    rfl
  | index v l =>
    have := v.isLt
    have := Bool.toNat_le l
    simp only [AddrMode.bits] at e3
    have e4 : fld 11 2 n = 2 := by unfold fld; omega
    rw [e4, show regAt 5 n = v from regAt_of _ (by unfold fld; omega),
      show flagAt 4 n = l from flagAt_of _ (by unfold fld; omega)]
    rfl
  | modulo q k =>
    have := q.isLt
    have := k.isLt
    simp only [AddrMode.bits] at e3
    have e4 : fld 11 2 n = 3 := by unfold fld; omega
    rw [e4, show BitVec.ofNat 3 (fld 8 3 n) = q from ofNat_of_toNat _ (by unfold fld; omega),
      show BitVec.ofNat 4 (fld 4 4 n) = k from ofNat_of_toNat _ (by unfold fld; omega)]
    rfl

/-! ### What decoding accepts -/

/-- A word decodes exactly to the well-formed instruction that its fields name and that has this word. -/
theorem decode_eq_ok {w : Word} {i : Instr} :
    decode w = .ok i ↔ parse w.toNat = .ok i ∧ i.wf = true ∧ encodeNat i = some w.toNat := by
  unfold decode
  constructor
  · intro h
    split at h
    · cases h
    · rename_i j hj
      split at h
      · cases h
      · rename_i hw
        split at h
        · rename_i he
          cases h
          exact ⟨hj, by simpa using hw, he⟩
        · cases h
  · rintro ⟨hp, hw, he⟩
    rw [hp]
    simp [hw, he]

/-- An instruction that has a word has one that fits in 32 bits reads back the number itself. -/
theorem ofNat_toNat_of_lt {n : Nat} (h : n < 2 ^ 32) : (BitVec.ofNat 32 n).toNat = n := by
  simp only [BitVec.toNat_ofNat]; omega

end Sys2Proof.Laws
end

