-- ==== Sys2Proof/Laws/Memory.lean ====
section
/-!
SUPPORT. The laws of memory: what a store does to a byte, and that every operation on memory keeps the canonical
form (`Memory.wf`).
-/
namespace Sys2Proof.Laws
open Sys2Proof.Machine

theorem memory_wf_iff {m : Memory} :
    m.wf = true ↔ Assoc.wf 0 m.cells = true ∧ Assoc.wf false m.poison = true ∧ Assoc.wf Cell.zero m.acc = true := by
  simp [Memory.wf, and_assoc]

theorem reset_memory_wf : State.reset.mem.wf = true := by decide

/-! ### Poison, bytes and cells one at a time -/

theorem wf_setWordBad {m : Memory} (h : m.wf = true) (loc : Nat) (p : Bool) : (m.setWordBad loc p).wf = true := by
  obtain ⟨h1, h2, h3⟩ := memory_wf_iff.mp h
  exact memory_wf_iff.mpr ⟨h1, assoc_wf_set h2 _ _, h3⟩

theorem wf_setCell {m : Memory} (h : m.wf = true) (k : Nat) (c : Cell) : (m.setCell k c).wf = true := by
  obtain ⟨h1, h2, h3⟩ := memory_wf_iff.mp h
  exact memory_wf_iff.mpr ⟨h1, h2, assoc_wf_set h3 _ _⟩

theorem wf_cells {m : Memory} (h : m.wf = true) {cells : List Host.Cell} (hc : Assoc.wf 0 cells = true) :
    ({ m with cells := cells } : Memory).wf = true := by
  obtain ⟨-, h2, h3⟩ := memory_wf_iff.mp h
  exact memory_wf_iff.mpr ⟨hc, h2, h3⟩

/-- A fold of an operation that keeps the form keeps it. -/
theorem wf_foldl {α : Type} {f : Memory → α → Memory} (hf : ∀ m a, m.wf = true → (f m a).wf = true)
    {m : Memory} (h : m.wf = true) (l : List α) : (l.foldl f m).wf = true := by
  induction l generalizing m with
  | nil => exact h
  | cons a l ih => exact ih (hf m a h)

@[simp] theorem setWordBad_cells (m : Memory) (loc : Nat) (p : Bool) : (m.setWordBad loc p).cells = m.cells := rfl
@[simp] theorem setCell_cells (m : Memory) (k : Nat) (c : Cell) : (m.setCell k c).cells = m.cells := rfl
@[simp] theorem setCell_poison (m : Memory) (k : Nat) (c : Cell) : (m.setCell k c).poison = m.poison := rfl
@[simp] theorem setWordBad_acc (m : Memory) (loc : Nat) (p : Bool) : (m.setWordBad loc p).acc = m.acc := rfl

theorem foldl_setWordBad_cells (l : List Nat) (p : Bool) (m : Memory) :
    (l.foldl (fun m w => m.setWordBad w p) m).cells = m.cells := by
  induction l generalizing m with
  | nil => rfl
  | cons a l ih => rw [List.foldl_cons, ih]; rfl

theorem foldl_setWordBad_acc (l : List Nat) (p : Bool) (m : Memory) :
    (l.foldl (fun m w => m.setWordBad w p) m).acc = m.acc := by
  induction l generalizing m with
  | nil => rfl
  | cons a l ih => rw [List.foldl_cons, ih]; rfl

/-! ### Stores -/

theorem wf_store {m : Memory} (h : m.wf = true) (loc : Nat) (bs : List Byte) : (m.store loc bs).wf = true :=
  wf_foldl (fun _ w hm => wf_setWordBad hm w false)
    (wf_cells h (assoc_wf_setAll (memory_wf_iff.mp h).1 _ _)) _

@[simp] theorem store_cells (m : Memory) (loc : Nat) (bs : List Byte) :
    (m.store loc bs).cells = Assoc.setAll 0 m.cells loc bs := by
  unfold Memory.store; rw [foldl_setWordBad_cells]

@[simp] theorem store_acc (m : Memory) (loc : Nat) (bs : List Byte) : (m.store loc bs).acc = m.acc := by
  unfold Memory.store; rw [foldl_setWordBad_acc]

/-- Read after write: a stored byte inside, the old byte outside. -/
theorem byte_store {m : Memory} (h : m.wf = true) (loc a : Nat) (bs : List Byte) :
    (m.store loc bs).byte a = if loc ≤ a ∧ a < loc + bs.length then bs.getD (a - loc) 0 else m.byte a := by
  unfold Memory.byte
  rw [store_cells, assoc_get_setAll (memory_wf_iff.mp h).1]

theorem byte_store_other {m : Memory} (h : m.wf = true) {loc a : Nat} (bs : List Byte)
    (ha : a < loc ∨ loc + bs.length ≤ a) : (m.store loc bs).byte a = m.byte a := by
  rw [byte_store h, if_neg (by omega)]

/-- A poison change leaves every byte alone. -/
@[simp] theorem byte_setWordBad (m : Memory) (loc : Nat) (p : Bool) (a : Nat) :
    (m.setWordBad loc p).byte a = m.byte a := rfl

@[simp] theorem byte_setCell (m : Memory) (k : Nat) (c : Cell) (a : Nat) : (m.setCell k c).byte a = m.byte a := rfl

/-- Accumulator cells: read after write. -/
theorem cell_setCell {m : Memory} (h : m.wf = true) (k k' : Nat) (c : Cell) :
    (m.setCell k c).cell k' = if k' = k then c else m.cell k' :=
  assoc_get_set (memory_wf_iff.mp h).2.2 k k' c

/-- Poison: read after write, word by word. -/
theorem wordBad_setWordBad {m : Memory} (h : m.wf = true) (loc a : Nat) (p : Bool) :
    (m.setWordBad loc p).wordBad a = if a / 4 = loc / 4 then p else m.wordBad a :=
  assoc_get_set (memory_wf_iff.mp h).2.1 _ _ p

/-! ### The other operations -/

theorem wf_accWrite {m : Memory} (h : m.wf = true) (bits : Nat) (bad : Bool) (ks : List Nat) :
    (m.accWrite bits bad ks).wf = true := by
  induction ks generalizing m bits with
  | nil => exact h
  | cons k ks ih => exact ih (wf_setCell h k _) _

theorem wf_group {m : Memory} (h : m.wf = true) (o : MatrixOp) (ctx core : Nat) : (o.group ctx core m).1.wf = true := by
  have fold : ∀ {α : Type} (f : Memory × Nat → α → Memory × Nat),
      (∀ a x, a.1.wf = true → (f a x).1.wf = true) → ∀ (l : List α) (a : Memory × Nat),
      a.1.wf = true → (l.foldl f a).1.wf = true := by
    intro α f hf l
    induction l with
    | nil => exact fun a ha => ha
    | cons x l ih => exact fun a ha => ih _ (hf a x ha)
  unfold MatrixOp.group
  refine fold _ (fun a x ha => ?_) _ _ h
  exact fold _ (fun b y hb => wf_accWrite hb _ _ _) _ _ ha

theorem wf_poisonWindow {m : Memory} (h : m.wf = true) (t : Team) : (m.poisonWindow t).wf = true :=
  wf_foldl (fun _ _ hm => wf_setCell hm _ _) h _

theorem wf_spoil {m : Memory} (h : m.wf = true) (loc : Nat) : (m.spoil loc).wf = true := by
  unfold Memory.spoil
  split
  · exact wf_foldl (fun _ _ hm => wf_setWordBad hm _ _) h _
  · exact wf_setWordBad h _ _

theorem wf_dropCore {m : Memory} (h : m.wf = true) (core : Nat) : (m.dropCore core).wf = true := by
  obtain ⟨h1, h2, h3⟩ := memory_wf_iff.mp h
  exact memory_wf_iff.mpr ⟨h1, h2, assoc_wf_filter _ h3⟩

theorem wf_dropContext {m : Memory} (h : m.wf = true) (ctx : Nat) : (m.dropContext ctx).wf = true := by
  obtain ⟨h1, h2, h3⟩ := memory_wf_iff.mp h
  exact memory_wf_iff.mpr ⟨assoc_wf_erase h1 _ _, assoc_wf_erase h2 _ _, assoc_wf_erase h3 _ _⟩

theorem wf_afterReset {m : Memory} (h : m.wf = true) : m.afterReset.wf = true :=
  memory_wf_iff.mpr ⟨assoc_wf_filter _ (memory_wf_iff.mp h).1, rfl, rfl⟩

theorem assoc_wf_foldl_set {β : Type} [DecidableEq β] {dflt : β} (key : Nat × β → Nat)
    (l : List (Nat × β)) {m : List (Nat × β)} (h : Assoc.wf dflt m = true) :
    Assoc.wf dflt (l.foldl (fun m e => Assoc.set dflt m (key e) e.2) m) = true := by
  induction l generalizing m with
  | nil => exact h
  | cons e l ih => exact ih (assoc_wf_set h _ _)

theorem wf_movePage {m : Memory} (h : m.wf = true) (old new size : Nat) : (m.movePage old new size).wf = true := by
  obtain ⟨h1, h2, h3⟩ := memory_wf_iff.mp h
  unfold Memory.movePage
  split
  · exact h
  · exact memory_wf_iff.mpr
      ⟨assoc_wf_foldl_set _ _ (assoc_wf_erase h1 _ _), assoc_wf_foldl_set _ _ (assoc_wf_erase h2 _ _), h3⟩

end Sys2Proof.Laws
end

