-- ==== Sys2Proof/Laws/State.lean ====
section
/-!
SUPPORT. What the updates of the state leave alone: one lemma per field and update, so that no proof unfolds a
record update; and the register writes as one record update each.
-/
namespace Sys2Proof.Laws
open Sys2Proof.Machine

/-! ### Fields of the state that an update does not touch -/

variable (s : State)

@[simp] theorem putTeam_dev (t : Team) : (s.putTeam t).dev = s.dev := rfl
@[simp] theorem putTeam_fe (t : Team) : (s.putTeam t).fe = s.fe := rfl
@[simp] theorem putTeam_cores (t : Team) : (s.putTeam t).cores = s.cores := rfl
@[simp] theorem putTeam_mem (t : Team) : (s.putTeam t).mem = s.mem := rfl
@[simp] theorem putTeam_flight (t : Team) : (s.putTeam t).flight = s.flight := rfl
@[simp] theorem putTeam_cohorts (t : Team) : (s.putTeam t).cohorts = s.cohorts := rfl
@[simp] theorem putTeam_nodes (t : Team) : (s.putTeam t).nodes = s.nodes := rfl
@[simp] theorem putTeam_sched (t : Team) : (s.putTeam t).sched = s.sched := rfl

@[simp] theorem modTeam_dev (id : Nat) (f : Team → Team) : (s.modTeam id f).dev = s.dev := rfl
@[simp] theorem modTeam_fe (id : Nat) (f : Team → Team) : (s.modTeam id f).fe = s.fe := rfl
@[simp] theorem modTeam_cores (id : Nat) (f : Team → Team) : (s.modTeam id f).cores = s.cores := rfl
@[simp] theorem modTeam_mem (id : Nat) (f : Team → Team) : (s.modTeam id f).mem = s.mem := rfl
@[simp] theorem modTeam_flight (id : Nat) (f : Team → Team) : (s.modTeam id f).flight = s.flight := rfl
@[simp] theorem modTeam_cohorts (id : Nat) (f : Team → Team) : (s.modTeam id f).cohorts = s.cohorts := rfl
@[simp] theorem modTeam_nodes (id : Nat) (f : Team → Team) : (s.modTeam id f).nodes = s.nodes := rfl
@[simp] theorem modTeam_sched (id : Nat) (f : Team → Team) : (s.modTeam id f).sched = s.sched := rfl

@[simp] theorem putNode_dev (n : Node) : (s.putNode n).dev = s.dev := rfl
@[simp] theorem putNode_fe (n : Node) : (s.putNode n).fe = s.fe := rfl
@[simp] theorem putNode_cores (n : Node) : (s.putNode n).cores = s.cores := rfl
@[simp] theorem putNode_mem (n : Node) : (s.putNode n).mem = s.mem := rfl
@[simp] theorem putNode_flight (n : Node) : (s.putNode n).flight = s.flight := rfl
@[simp] theorem putNode_cohorts (n : Node) : (s.putNode n).cohorts = s.cohorts := rfl
@[simp] theorem putNode_teams (n : Node) : (s.putNode n).teams = s.teams := rfl
@[simp] theorem putNode_sched (n : Node) : (s.putNode n).sched = s.sched := rfl

@[simp] theorem sliceEnds_dev : (s.sliceEnds).dev = s.dev := rfl
@[simp] theorem sliceEnds_cores : (s.sliceEnds).cores = s.cores := rfl
@[simp] theorem sliceEnds_mem : (s.sliceEnds).mem = s.mem := rfl
@[simp] theorem sliceEnds_flight : (s.sliceEnds).flight = s.flight := rfl
@[simp] theorem sliceEnds_cohorts : (s.sliceEnds).cohorts = s.cohorts := rfl
@[simp] theorem sliceEnds_nodes : (s.sliceEnds).nodes = s.nodes := rfl
@[simp] theorem sliceEnds_teams : (s.sliceEnds).teams = s.teams := rfl
@[simp] theorem sliceEnds_sched : (s.sliceEnds).sched = s.sched := rfl

@[simp] theorem dropLines_dev (tower : Nat) (ps : List Place) : (s.dropLines tower ps).dev = s.dev := rfl
@[simp] theorem dropLines_fe (tower : Nat) (ps : List Place) : (s.dropLines tower ps).fe = s.fe := rfl
@[simp] theorem dropLines_cores (tower : Nat) (ps : List Place) : (s.dropLines tower ps).cores = s.cores := rfl
@[simp] theorem dropLines_cohorts (tower : Nat) (ps : List Place) : (s.dropLines tower ps).cohorts = s.cohorts := rfl
@[simp] theorem dropLines_nodes (tower : Nat) (ps : List Place) : (s.dropLines tower ps).nodes = s.nodes := rfl
@[simp] theorem dropLines_teams (tower : Nat) (ps : List Place) : (s.dropLines tower ps).teams = s.teams := rfl
@[simp] theorem dropLines_sched (tower : Nat) (ps : List Place) : (s.dropLines tower ps).sched = s.sched := rfl

@[simp] theorem servedAtHome_dev (tower : Nat) (ps : List Place) : (s.servedAtHome tower ps).dev = s.dev := rfl
@[simp] theorem servedAtHome_fe (tower : Nat) (ps : List Place) : (s.servedAtHome tower ps).fe = s.fe := rfl
@[simp] theorem servedAtHome_cores (tower : Nat) (ps : List Place) : (s.servedAtHome tower ps).cores = s.cores := rfl
@[simp] theorem servedAtHome_mem (tower : Nat) (ps : List Place) : (s.servedAtHome tower ps).mem = s.mem := rfl
@[simp] theorem servedAtHome_cohorts (tower : Nat) (ps : List Place) : (s.servedAtHome tower ps).cohorts = s.cohorts := rfl
@[simp] theorem servedAtHome_nodes (tower : Nat) (ps : List Place) : (s.servedAtHome tower ps).nodes = s.nodes := rfl
@[simp] theorem servedAtHome_teams (tower : Nat) (ps : List Place) : (s.servedAtHome tower ps).teams = s.teams := rfl
@[simp] theorem servedAtHome_sched (tower : Nat) (ps : List Place) : (s.servedAtHome tower ps).sched = s.sched := rfl

@[simp] theorem lookAhead_dev (u : State) (t : Team) (i : Instr) : (s.lookAhead u t i).dev = s.dev := rfl
@[simp] theorem lookAhead_fe (u : State) (t : Team) (i : Instr) : (s.lookAhead u t i).fe = s.fe := rfl
@[simp] theorem lookAhead_cores (u : State) (t : Team) (i : Instr) : (s.lookAhead u t i).cores = s.cores := rfl
@[simp] theorem lookAhead_mem (u : State) (t : Team) (i : Instr) : (s.lookAhead u t i).mem = s.mem := rfl
@[simp] theorem lookAhead_flight (u : State) (t : Team) (i : Instr) : (s.lookAhead u t i).flight = s.flight := rfl
@[simp] theorem lookAhead_cohorts (u : State) (t : Team) (i : Instr) : (s.lookAhead u t i).cohorts = s.cohorts := rfl
@[simp] theorem lookAhead_nodes (u : State) (t : Team) (i : Instr) : (s.lookAhead u t i).nodes = s.nodes := rfl
@[simp] theorem lookAhead_sched (u : State) (t : Team) (i : Instr) : (s.lookAhead u t i).sched = s.sched := rfl

@[simp] theorem enterReset_status : s.enterReset.dev.status = 0 := rfl
@[simp] theorem enterReset_teams : s.enterReset.teams = [] := rfl
@[simp] theorem enterReset_nodes : s.enterReset.nodes = [] := rfl

@[simp] theorem modNode_dev (id : Nat) (f : Node → Node) : (s.modNode id f).dev = s.dev := rfl
@[simp] theorem modNode_fe (id : Nat) (f : Node → Node) : (s.modNode id f).fe = s.fe := rfl
@[simp] theorem modNode_cores (id : Nat) (f : Node → Node) : (s.modNode id f).cores = s.cores := rfl
@[simp] theorem modNode_mem (id : Nat) (f : Node → Node) : (s.modNode id f).mem = s.mem := rfl
@[simp] theorem modNode_flight (id : Nat) (f : Node → Node) : (s.modNode id f).flight = s.flight := rfl
@[simp] theorem modNode_cohorts (id : Nat) (f : Node → Node) : (s.modNode id f).cohorts = s.cohorts := rfl
@[simp] theorem modNode_teams (id : Nat) (f : Node → Node) : (s.modNode id f).teams = s.teams := rfl
@[simp] theorem modNode_sched (id : Nat) (f : Node → Node) : (s.modNode id f).sched = s.sched := rfl

@[simp] theorem putCtx_dev (c : Context) : (s.putCtx c).dev = s.dev := rfl
@[simp] theorem putCtx_cores (c : Context) : (s.putCtx c).cores = s.cores := rfl
@[simp] theorem putCtx_mem (c : Context) : (s.putCtx c).mem = s.mem := rfl
@[simp] theorem putCtx_flight (c : Context) : (s.putCtx c).flight = s.flight := rfl
@[simp] theorem putCtx_cohorts (c : Context) : (s.putCtx c).cohorts = s.cohorts := rfl
@[simp] theorem putCtx_nodes (c : Context) : (s.putCtx c).nodes = s.nodes := rfl
@[simp] theorem putCtx_teams (c : Context) : (s.putCtx c).teams = s.teams := rfl
@[simp] theorem putCtx_sched (c : Context) : (s.putCtx c).sched = s.sched := rfl

@[simp] theorem modCtx_dev (id : Nat) (f : Context → Context) : (s.modCtx id f).dev = s.dev := rfl
@[simp] theorem modCtx_cores (id : Nat) (f : Context → Context) : (s.modCtx id f).cores = s.cores := rfl
@[simp] theorem modCtx_mem (id : Nat) (f : Context → Context) : (s.modCtx id f).mem = s.mem := rfl
@[simp] theorem modCtx_flight (id : Nat) (f : Context → Context) : (s.modCtx id f).flight = s.flight := rfl
@[simp] theorem modCtx_cohorts (id : Nat) (f : Context → Context) : (s.modCtx id f).cohorts = s.cohorts := rfl
@[simp] theorem modCtx_nodes (id : Nat) (f : Context → Context) : (s.modCtx id f).nodes = s.nodes := rfl
@[simp] theorem modCtx_teams (id : Nat) (f : Context → Context) : (s.modCtx id f).teams = s.teams := rfl
@[simp] theorem modCtx_sched (id : Nat) (f : Context → Context) : (s.modCtx id f).sched = s.sched := rfl

@[simp] theorem putQueue_dev (q : Nat) (x : Queue) : (s.putQueue q x).dev = s.dev := by unfold State.putQueue; split <;> rfl
@[simp] theorem putQueue_cores (q : Nat) (x : Queue) : (s.putQueue q x).cores = s.cores := by unfold State.putQueue; split <;> rfl
@[simp] theorem putQueue_mem (q : Nat) (x : Queue) : (s.putQueue q x).mem = s.mem := by unfold State.putQueue; split <;> rfl
@[simp] theorem putQueue_flight (q : Nat) (x : Queue) : (s.putQueue q x).flight = s.flight := by unfold State.putQueue; split <;> rfl
@[simp] theorem putQueue_cohorts (q : Nat) (x : Queue) : (s.putQueue q x).cohorts = s.cohorts := by unfold State.putQueue; split <;> rfl
@[simp] theorem putQueue_nodes (q : Nat) (x : Queue) : (s.putQueue q x).nodes = s.nodes := by unfold State.putQueue; split <;> rfl
@[simp] theorem putQueue_teams (q : Nat) (x : Queue) : (s.putQueue q x).teams = s.teams := by unfold State.putQueue; split <;> rfl
@[simp] theorem putQueue_sched (q : Nat) (x : Queue) : (s.putQueue q x).sched = s.sched := by unfold State.putQueue; split <;> rfl

@[simp] theorem touch_dev (ctx : Nat) (ps : List Place) : (s.touch ctx ps).dev = s.dev := rfl
@[simp] theorem touch_cores (ctx : Nat) (ps : List Place) : (s.touch ctx ps).cores = s.cores := rfl
@[simp] theorem touch_mem (ctx : Nat) (ps : List Place) : (s.touch ctx ps).mem = s.mem := rfl
@[simp] theorem touch_flight (ctx : Nat) (ps : List Place) : (s.touch ctx ps).flight = s.flight := rfl
@[simp] theorem touch_cohorts (ctx : Nat) (ps : List Place) : (s.touch ctx ps).cohorts = s.cohorts := rfl
@[simp] theorem touch_nodes (ctx : Nat) (ps : List Place) : (s.touch ctx ps).nodes = s.nodes := rfl
@[simp] theorem touch_teams (ctx : Nat) (ps : List Place) : (s.touch ctx ps).teams = s.teams := rfl
@[simp] theorem touch_sched (ctx : Nat) (ps : List Place) : (s.touch ctx ps).sched = s.sched := rfl

@[simp] theorem touchNamed_dev (ctx : Nat) (ps : List Place) : (s.touchNamed ctx ps).dev = s.dev := rfl
@[simp] theorem touchNamed_cores (ctx : Nat) (ps : List Place) : (s.touchNamed ctx ps).cores = s.cores := rfl
@[simp] theorem touchNamed_mem (ctx : Nat) (ps : List Place) : (s.touchNamed ctx ps).mem = s.mem := rfl
@[simp] theorem touchNamed_flight (ctx : Nat) (ps : List Place) : (s.touchNamed ctx ps).flight = s.flight := rfl
@[simp] theorem touchNamed_cohorts (ctx : Nat) (ps : List Place) : (s.touchNamed ctx ps).cohorts = s.cohorts := rfl
@[simp] theorem touchNamed_nodes (ctx : Nat) (ps : List Place) : (s.touchNamed ctx ps).nodes = s.nodes := rfl
@[simp] theorem touchNamed_teams (ctx : Nat) (ps : List Place) : (s.touchNamed ctx ps).teams = s.teams := rfl
@[simp] theorem touchNamed_sched (ctx : Nat) (ps : List Place) : (s.touchNamed ctx ps).sched = s.sched := rfl

@[simp] theorem markWord_dev (tower : Nat) (p : Place) (bad : Bool) : (s.markWord tower p bad).dev = s.dev := rfl
@[simp] theorem markWord_fe (tower : Nat) (p : Place) (bad : Bool) : (s.markWord tower p bad).fe = s.fe := rfl
@[simp] theorem markWord_cores (tower : Nat) (p : Place) (bad : Bool) : (s.markWord tower p bad).cores = s.cores := rfl
@[simp] theorem markWord_cohorts (tower : Nat) (p : Place) (bad : Bool) : (s.markWord tower p bad).cohorts = s.cohorts := rfl
@[simp] theorem markWord_nodes (tower : Nat) (p : Place) (bad : Bool) : (s.markWord tower p bad).nodes = s.nodes := rfl
@[simp] theorem markWord_teams (tower : Nat) (p : Place) (bad : Bool) : (s.markWord tower p bad).teams = s.teams := rfl
@[simp] theorem markWord_sched (tower : Nat) (p : Place) (bad : Bool) : (s.markWord tower p bad).sched = s.sched := rfl

@[simp] theorem touchFe_dev (ctx : Nat) (vas : List Addr) : (s.touchFe ctx vas).dev = s.dev := by unfold State.touchFe; split <;> rfl
@[simp] theorem touchFe_cores (ctx : Nat) (vas : List Addr) : (s.touchFe ctx vas).cores = s.cores := by unfold State.touchFe; split <;> rfl
@[simp] theorem touchFe_mem (ctx : Nat) (vas : List Addr) : (s.touchFe ctx vas).mem = s.mem := by unfold State.touchFe; split <;> rfl
@[simp] theorem touchFe_flight (ctx : Nat) (vas : List Addr) : (s.touchFe ctx vas).flight = s.flight := by unfold State.touchFe; split <;> rfl
@[simp] theorem touchFe_cohorts (ctx : Nat) (vas : List Addr) : (s.touchFe ctx vas).cohorts = s.cohorts := by unfold State.touchFe; split <;> rfl
@[simp] theorem touchFe_nodes (ctx : Nat) (vas : List Addr) : (s.touchFe ctx vas).nodes = s.nodes := by unfold State.touchFe; split <;> rfl
@[simp] theorem touchFe_teams (ctx : Nat) (vas : List Addr) : (s.touchFe ctx vas).teams = s.teams := by unfold State.touchFe; split <;> rfl
@[simp] theorem touchFe_sched (ctx : Nat) (vas : List Addr) : (s.touchFe ctx vas).sched = s.sched := by unfold State.touchFe; split <;> rfl

@[simp] theorem acquireAt_dev (tower : Nat) (c : Option Scope) : (s.acquireAt tower c).dev = s.dev := by unfold State.acquireAt; split <;> [(split <;> rfl); rfl]
@[simp] theorem acquireAt_fe (tower : Nat) (c : Option Scope) : (s.acquireAt tower c).fe = s.fe := by unfold State.acquireAt; split <;> [(split <;> rfl); rfl]
@[simp] theorem acquireAt_cores (tower : Nat) (c : Option Scope) : (s.acquireAt tower c).cores = s.cores := by unfold State.acquireAt; split <;> [(split <;> rfl); rfl]
@[simp] theorem acquireAt_mem (tower : Nat) (c : Option Scope) : (s.acquireAt tower c).mem = s.mem := by unfold State.acquireAt; split <;> [(split <;> rfl); rfl]
@[simp] theorem acquireAt_cohorts (tower : Nat) (c : Option Scope) : (s.acquireAt tower c).cohorts = s.cohorts := by unfold State.acquireAt; split <;> [(split <;> rfl); rfl]
@[simp] theorem acquireAt_nodes (tower : Nat) (c : Option Scope) : (s.acquireAt tower c).nodes = s.nodes := by unfold State.acquireAt; split <;> [(split <;> rfl); rfl]
@[simp] theorem acquireAt_teams (tower : Nat) (c : Option Scope) : (s.acquireAt tower c).teams = s.teams := by unfold State.acquireAt; split <;> [(split <;> rfl); rfl]
@[simp] theorem acquireAt_sched (tower : Nat) (c : Option Scope) : (s.acquireAt tower c).sched = s.sched := by unfold State.acquireAt; split <;> [(split <;> rfl); rfl]

/-- A list of writes leaves alone every field that one write leaves alone. -/
theorem foldl_writeLoc {α β : Type} (f : State → α) (at_ : β → Nat) (bs : β → List Byte)
    (h : ∀ (s : State) (loc : Nat) (b : List Byte), f (s.writeLoc loc b) = f s) (l : List β) (s : State) :
    f (l.foldl (fun s i => s.writeLoc (at_ i) (bs i)) s) = f s := by
  induction l generalizing s with
  | nil => rfl
  | cons b l ih => simp [ih, h]

/-- A spill leaves alone every field that one write leaves alone. -/
theorem spillTo_of {α : Type} (f : State → α)
    (h : ∀ (s : State) (loc : Nat) (b : List Byte), f (s.writeLoc loc b) = f s) (s : State) (ctx : Nat) :
    f (s.spillTo ctx) = f s := by
  unfold State.spillTo
  split
  · rfl
  next c _ =>
    exact foldl_writeLoc f (fun i => physical (c.save.toNat + 0x8000 + i))
      (fun i => [Config.spillByte ctx s.dev.time.toNat i]) h (List.range Config.spillSize) s

theorem spills_of {α : Type} (f : State → α)
    (h : ∀ (s : State) (loc : Nat) (b : List Byte), f (s.writeLoc loc b) = f s) (l : List Nat) (s : State) :
    f (l.foldl State.spillTo s) = f s := by
  induction l generalizing s with
  | nil => rfl
  | cons b l ih => rw [List.foldl_cons, ih, spillTo_of f h]

@[simp] theorem claimUnits_cores (t : Team) : (s.claimUnits t).cores = s.cores := by
  unfold State.claimUnits; exact spills_of State.cores (fun _ _ _ => rfl) _ s
@[simp] theorem claimUnits_flight (t : Team) : (s.claimUnits t).flight = s.flight := by
  unfold State.claimUnits; exact spills_of State.flight (fun _ _ _ => rfl) _ s
@[simp] theorem claimUnits_cohorts (t : Team) : (s.claimUnits t).cohorts = s.cohorts := by
  unfold State.claimUnits; exact spills_of State.cohorts (fun _ _ _ => rfl) _ s
@[simp] theorem claimUnits_nodes (t : Team) : (s.claimUnits t).nodes = s.nodes := by
  unfold State.claimUnits; exact spills_of State.nodes (fun _ _ _ => rfl) _ s
@[simp] theorem claimUnits_sched (t : Team) : (s.claimUnits t).sched = s.sched := by
  unfold State.claimUnits; exact spills_of State.sched (fun _ _ _ => rfl) _ s

@[simp] theorem endAccess_dev (id : Nat) : (s.endAccess id).dev = s.dev := rfl
@[simp] theorem endAccess_fe (id : Nat) : (s.endAccess id).fe = s.fe := rfl
@[simp] theorem endAccess_cores (id : Nat) : (s.endAccess id).cores = s.cores := rfl
@[simp] theorem endAccess_mem (id : Nat) : (s.endAccess id).mem = s.mem := rfl
@[simp] theorem endAccess_cohorts (id : Nat) : (s.endAccess id).cohorts = s.cohorts := rfl
@[simp] theorem endAccess_nodes (id : Nat) : (s.endAccess id).nodes = s.nodes := rfl
@[simp] theorem endAccess_teams (id : Nat) : (s.endAccess id).teams = s.teams := rfl
@[simp] theorem endAccess_sched (id : Nat) : (s.endAccess id).sched = s.sched := rfl

@[simp] theorem endCopy_dev (id : Nat) : (s.endCopy id).dev = s.dev := rfl
@[simp] theorem endCopy_fe (id : Nat) : (s.endCopy id).fe = s.fe := rfl
@[simp] theorem endCopy_cores (id : Nat) : (s.endCopy id).cores = s.cores := rfl
@[simp] theorem endCopy_mem (id : Nat) : (s.endCopy id).mem = s.mem := rfl
@[simp] theorem endCopy_cohorts (id : Nat) : (s.endCopy id).cohorts = s.cohorts := rfl
@[simp] theorem endCopy_nodes (id : Nat) : (s.endCopy id).nodes = s.nodes := rfl
@[simp] theorem endCopy_teams (id : Nat) : (s.endCopy id).teams = s.teams := rfl
@[simp] theorem endCopy_sched (id : Nat) : (s.endCopy id).sched = s.sched := rfl

@[simp] theorem putCopy_dev (c : Copy) : (s.putCopy c).dev = s.dev := rfl
@[simp] theorem putCopy_fe (c : Copy) : (s.putCopy c).fe = s.fe := rfl
@[simp] theorem putCopy_cores (c : Copy) : (s.putCopy c).cores = s.cores := rfl
@[simp] theorem putCopy_mem (c : Copy) : (s.putCopy c).mem = s.mem := rfl
@[simp] theorem putCopy_cohorts (c : Copy) : (s.putCopy c).cohorts = s.cohorts := rfl
@[simp] theorem putCopy_nodes (c : Copy) : (s.putCopy c).nodes = s.nodes := rfl
@[simp] theorem putCopy_teams (c : Copy) : (s.putCopy c).teams = s.teams := rfl
@[simp] theorem putCopy_sched (c : Copy) : (s.putCopy c).sched = s.sched := rfl

@[simp] theorem touchDesc_dev (ctx : Nat) (addr : Addr) : (s.touchDesc ctx addr).dev = s.dev := by
  unfold State.touchDesc; split <;> [rfl; (split <;> simp)]
@[simp] theorem touchDesc_cores (ctx : Nat) (addr : Addr) : (s.touchDesc ctx addr).cores = s.cores := by
  unfold State.touchDesc; split <;> [rfl; (split <;> simp)]
@[simp] theorem touchDesc_mem (ctx : Nat) (addr : Addr) : (s.touchDesc ctx addr).mem = s.mem := by
  unfold State.touchDesc; split <;> [rfl; (split <;> simp)]
@[simp] theorem touchDesc_flight (ctx : Nat) (addr : Addr) : (s.touchDesc ctx addr).flight = s.flight := by
  unfold State.touchDesc; split <;> [rfl; (split <;> simp)]
@[simp] theorem touchDesc_cohorts (ctx : Nat) (addr : Addr) : (s.touchDesc ctx addr).cohorts = s.cohorts := by
  unfold State.touchDesc; split <;> [rfl; (split <;> simp)]
@[simp] theorem touchDesc_nodes (ctx : Nat) (addr : Addr) : (s.touchDesc ctx addr).nodes = s.nodes := by
  unfold State.touchDesc; split <;> [rfl; (split <;> simp)]
@[simp] theorem touchDesc_teams (ctx : Nat) (addr : Addr) : (s.touchDesc ctx addr).teams = s.teams := by
  unfold State.touchDesc; split <;> [rfl; (split <;> simp)]
@[simp] theorem touchDesc_sched (ctx : Nat) (addr : Addr) : (s.touchDesc ctx addr).sched = s.sched := by
  unfold State.touchDesc; split <;> [rfl; (split <;> simp)]
@[simp] theorem touchSlots_dev (q : Nat) (cs : List Word) : (s.touchSlots q cs).dev = s.dev := by
  unfold State.touchSlots; split <;> [rfl; (split <;> simp)]
@[simp] theorem touchSlots_cores (q : Nat) (cs : List Word) : (s.touchSlots q cs).cores = s.cores := by
  unfold State.touchSlots; split <;> [rfl; (split <;> simp)]
@[simp] theorem touchSlots_mem (q : Nat) (cs : List Word) : (s.touchSlots q cs).mem = s.mem := by
  unfold State.touchSlots; split <;> [rfl; (split <;> simp)]
@[simp] theorem touchSlots_flight (q : Nat) (cs : List Word) : (s.touchSlots q cs).flight = s.flight := by
  unfold State.touchSlots; split <;> [rfl; (split <;> simp)]
@[simp] theorem touchSlots_cohorts (q : Nat) (cs : List Word) : (s.touchSlots q cs).cohorts = s.cohorts := by
  unfold State.touchSlots; split <;> [rfl; (split <;> simp)]
@[simp] theorem touchSlots_nodes (q : Nat) (cs : List Word) : (s.touchSlots q cs).nodes = s.nodes := by
  unfold State.touchSlots; split <;> [rfl; (split <;> simp)]
@[simp] theorem touchSlots_teams (q : Nat) (cs : List Word) : (s.touchSlots q cs).teams = s.teams := by
  unfold State.touchSlots; split <;> [rfl; (split <;> simp)]
@[simp] theorem touchSlots_sched (q : Nat) (cs : List Word) : (s.touchSlots q cs).sched = s.sched := by
  unfold State.touchSlots; split <;> [rfl; (split <;> simp)]
@[simp] theorem touchSlot_dev (q : Nat) : (s.touchSlot q).dev = s.dev := touchSlots_dev s q _
@[simp] theorem touchSlot_cores (q : Nat) : (s.touchSlot q).cores = s.cores := touchSlots_cores s q _
@[simp] theorem touchSlot_mem (q : Nat) : (s.touchSlot q).mem = s.mem := touchSlots_mem s q _
@[simp] theorem touchSlot_flight (q : Nat) : (s.touchSlot q).flight = s.flight := touchSlots_flight s q _
@[simp] theorem touchSlot_cohorts (q : Nat) : (s.touchSlot q).cohorts = s.cohorts := touchSlots_cohorts s q _
@[simp] theorem touchSlot_nodes (q : Nat) : (s.touchSlot q).nodes = s.nodes := touchSlots_nodes s q _
@[simp] theorem touchSlot_teams (q : Nat) : (s.touchSlot q).teams = s.teams := touchSlots_teams s q _
@[simp] theorem touchSlot_sched (q : Nat) : (s.touchSlot q).sched = s.sched := touchSlots_sched s q _

@[simp] theorem addNode_dev (n : Node) : (s.addNode n).dev = s.dev := rfl
@[simp] theorem addNode_fe (n : Node) : (s.addNode n).fe = s.fe := rfl
@[simp] theorem addNode_cores (n : Node) : (s.addNode n).cores = s.cores := rfl
@[simp] theorem addNode_mem (n : Node) : (s.addNode n).mem = s.mem := rfl
@[simp] theorem addNode_flight (n : Node) : (s.addNode n).flight = s.flight := rfl
@[simp] theorem addNode_cohorts (n : Node) : (s.addNode n).cohorts = s.cohorts := rfl
@[simp] theorem addNode_teams (n : Node) : (s.addNode n).teams = s.teams := rfl

@[simp] theorem withWord_dev (w : Word) : (s.withWord w).dev = s.dev := rfl
@[simp] theorem withWord_fe (w : Word) : (s.withWord w).fe = s.fe := rfl
@[simp] theorem withWord_cores (w : Word) : (s.withWord w).cores = s.cores := rfl
@[simp] theorem withWord_mem (w : Word) : (s.withWord w).mem = s.mem := rfl
@[simp] theorem withWord_flight (w : Word) : (s.withWord w).flight = s.flight := rfl
@[simp] theorem withWord_cohorts (w : Word) : (s.withWord w).cohorts = s.cohorts := rfl
@[simp] theorem withWord_nodes (w : Word) : (s.withWord w).nodes = s.nodes := rfl
@[simp] theorem withWord_teams (w : Word) : (s.withWord w).teams = s.teams := rfl

@[simp] theorem debugReply_fe (code : Nat) (v : BitVec 256) : (s.debugReply code v).fe = s.fe := rfl
@[simp] theorem debugReply_cores (code : Nat) (v : BitVec 256) : (s.debugReply code v).cores = s.cores := rfl
@[simp] theorem debugReply_mem (code : Nat) (v : BitVec 256) : (s.debugReply code v).mem = s.mem := rfl
@[simp] theorem debugReply_flight (code : Nat) (v : BitVec 256) : (s.debugReply code v).flight = s.flight := rfl
@[simp] theorem debugReply_cohorts (code : Nat) (v : BitVec 256) : (s.debugReply code v).cohorts = s.cohorts := rfl
@[simp] theorem debugReply_nodes (code : Nat) (v : BitVec 256) : (s.debugReply code v).nodes = s.nodes := rfl
@[simp] theorem debugReply_teams (code : Nat) (v : BitVec 256) : (s.debugReply code v).teams = s.teams := rfl
@[simp] theorem debugReply_sched (code : Nat) (v : BitVec 256) : (s.debugReply code v).sched = s.sched := rfl

@[simp] theorem tick_fe (n : Nat) : (s.tick n).fe = s.fe := rfl
@[simp] theorem tick_cores (n : Nat) : (s.tick n).cores = s.cores := rfl
@[simp] theorem tick_mem (n : Nat) : (s.tick n).mem = s.mem := rfl
@[simp] theorem tick_flight (n : Nat) : (s.tick n).flight = s.flight := rfl
@[simp] theorem tick_cohorts (n : Nat) : (s.tick n).cohorts = s.cohorts := rfl
@[simp] theorem tick_nodes (n : Nat) : (s.tick n).nodes = s.nodes := rfl
@[simp] theorem tick_teams (n : Nat) : (s.tick n).teams = s.teams := rfl
@[simp] theorem tick_sched (n : Nat) : (s.tick n).sched = s.sched := rfl

@[simp] theorem exitTeam_dev (t : Team) : (s.exitTeam t).dev = s.dev := rfl
@[simp] theorem exitTeam_fe (t : Team) : (s.exitTeam t).fe = s.fe := rfl
@[simp] theorem exitTeam_cores (t : Team) : (s.exitTeam t).cores = s.cores := rfl
@[simp] theorem exitTeam_mem (t : Team) : (s.exitTeam t).mem = s.mem := rfl
@[simp] theorem exitTeam_flight (t : Team) : (s.exitTeam t).flight = s.flight := rfl
@[simp] theorem exitTeam_nodes (t : Team) : (s.exitTeam t).nodes = s.nodes := rfl
@[simp] theorem exitTeam_sched (t : Team) : (s.exitTeam t).sched = s.sched := rfl

@[simp] theorem stall_dev (t : Team) : (s.stall t).dev = s.dev := rfl
@[simp] theorem stall_fe (t : Team) : (s.stall t).fe = s.fe := rfl
@[simp] theorem stall_cores (t : Team) : (s.stall t).cores = s.cores := rfl
@[simp] theorem stall_mem (t : Team) : (s.stall t).mem = s.mem := rfl
@[simp] theorem stall_flight (t : Team) : (s.stall t).flight = s.flight := rfl
@[simp] theorem stall_cohorts (t : Team) : (s.stall t).cohorts = s.cohorts := rfl
@[simp] theorem stall_nodes (t : Team) : (s.stall t).nodes = s.nodes := rfl
@[simp] theorem stall_sched (t : Team) : (s.stall t).sched = s.sched := rfl

@[simp] theorem enqueue_dev (l : List Access) (a : Access) : (s.enqueue l a).dev = s.dev := rfl
@[simp] theorem enqueue_fe (l : List Access) (a : Access) : (s.enqueue l a).fe = s.fe := rfl
@[simp] theorem enqueue_cores (l : List Access) (a : Access) : (s.enqueue l a).cores = s.cores := rfl
@[simp] theorem enqueue_mem (l : List Access) (a : Access) : (s.enqueue l a).mem = s.mem := rfl
@[simp] theorem enqueue_cohorts (l : List Access) (a : Access) : (s.enqueue l a).cohorts = s.cohorts := rfl
@[simp] theorem enqueue_nodes (l : List Access) (a : Access) : (s.enqueue l a).nodes = s.nodes := rfl
@[simp] theorem enqueue_teams (l : List Access) (a : Access) : (s.enqueue l a).teams = s.teams := rfl
@[simp] theorem enqueue_sched (l : List Access) (a : Access) : (s.enqueue l a).sched = s.sched := rfl

@[simp] theorem afterWrite_cores (loc n : Nat) : (s.afterWrite loc n).cores = s.cores := rfl
@[simp] theorem afterWrite_mem (loc n : Nat) : (s.afterWrite loc n).mem = s.mem := rfl
@[simp] theorem afterWrite_flight (loc n : Nat) : (s.afterWrite loc n).flight = s.flight := rfl
@[simp] theorem afterWrite_cohorts (loc n : Nat) : (s.afterWrite loc n).cohorts = s.cohorts := rfl
@[simp] theorem afterWrite_nodes (loc n : Nat) : (s.afterWrite loc n).nodes = s.nodes := rfl
@[simp] theorem afterWrite_sched (loc n : Nat) : (s.afterWrite loc n).sched = s.sched := rfl

@[simp] theorem writeDevice_fe (n : Nat) (v : Word) : (s.writeDevice n v).fe = s.fe := rfl
@[simp] theorem writeDevice_cores (n : Nat) (v : Word) : (s.writeDevice n v).cores = s.cores := rfl
@[simp] theorem writeDevice_mem (n : Nat) (v : Word) : (s.writeDevice n v).mem = s.mem := rfl
@[simp] theorem writeDevice_flight (n : Nat) (v : Word) : (s.writeDevice n v).flight = s.flight := rfl
@[simp] theorem writeDevice_cohorts (n : Nat) (v : Word) : (s.writeDevice n v).cohorts = s.cohorts := rfl
@[simp] theorem writeDevice_nodes (n : Nat) (v : Word) : (s.writeDevice n v).nodes = s.nodes := rfl
@[simp] theorem writeDevice_teams (n : Nat) (v : Word) : (s.writeDevice n v).teams = s.teams := rfl
@[simp] theorem writeDevice_sched (n : Nat) (v : Word) : (s.writeDevice n v).sched = s.sched := rfl

@[simp] theorem commandDone_cores (code : Byte) : (s.commandDone code).cores = s.cores := rfl
@[simp] theorem commandDone_mem (code : Byte) : (s.commandDone code).mem = s.mem := rfl
@[simp] theorem commandDone_flight (code : Byte) : (s.commandDone code).flight = s.flight := rfl
@[simp] theorem commandDone_cohorts (code : Byte) : (s.commandDone code).cohorts = s.cohorts := rfl
@[simp] theorem commandDone_nodes (code : Byte) : (s.commandDone code).nodes = s.nodes := rfl
@[simp] theorem commandDone_sched (code : Byte) : (s.commandDone code).sched = s.sched := rfl

@[simp] theorem writeLoc_cores (loc : Nat) (bs : List Byte) : (s.writeLoc loc bs).cores = s.cores := rfl
@[simp] theorem writeLoc_flight (loc : Nat) (bs : List Byte) : (s.writeLoc loc bs).flight = s.flight := rfl
@[simp] theorem writeLoc_cohorts (loc : Nat) (bs : List Byte) : (s.writeLoc loc bs).cohorts = s.cohorts := rfl
@[simp] theorem writeLoc_nodes (loc : Nat) (bs : List Byte) : (s.writeLoc loc bs).nodes = s.nodes := rfl
@[simp] theorem writeLoc_sched (loc : Nat) (bs : List Byte) : (s.writeLoc loc bs).sched = s.sched := rfl

/-! ### The one field that they change -/

@[simp] theorem writeLoc_mem (loc : Nat) (bs : List Byte) : (s.writeLoc loc bs).mem = s.mem.store loc bs := rfl

@[simp] theorem putTeam_teams (t : Team) :
    (s.putTeam t).teams = s.teams.map fun u => if u.id = t.id then t else u := rfl

@[simp] theorem modTeam_teams (id : Nat) (f : Team → Team) :
    (s.modTeam id f).teams = s.teams.map fun t => if t.id = id then f t else t := rfl

@[simp] theorem tick_time (n : Nat) : (s.tick n).dev.time = s.dev.time + .ofNat 64 n := rfl

/-- Homes join the touched dies of a context one list after another. -/
theorem touch_touch (ctx : Nat) (ps qs : List Place) : (s.touch ctx ps).touch ctx qs = s.touch ctx (ps ++ qs) := by
  simp only [State.touch, State.modCtx, List.map_map, List.foldl_append]
  congr 3
  funext c
  simp only [Function.comp]
  split <;> simp_all

@[simp] theorem touch_nil (ctx : Nat) : s.touch ctx [] = s := by simp [State.touch, State.modCtx]

/-! ### Register writes as one record update each -/

variable (t : Team)

theorem setSP_eq (r : Reg) (v : Word) (p : Bool) :
    t.setSP r v p =
      { t with sregs := if r = 0#6 then t.sregs else t.sregs.set r.toNat (.live v p) r.isLt } := by
  unfold Team.setSP; split <;> rfl

theorem setS_eq (r : Reg) (v : Word) :
    t.setS r v =
      { t with sregs := if r = 0#6 then t.sregs else t.sregs.set r.toNat (.live v false) r.isLt } :=
  setSP_eq t r v false

theorem killS_eq (r : Reg) :
    t.killS r = { t with sregs := if r = 0#6 then t.sregs else t.sregs.set r.toNat .dead r.isLt } := by
  unfold Team.killS; split <;> rfl

theorem killV_eq (r : Reg) :
    t.killV r = { t with vregs := t.vregs.set (t.virt r).toNat .dead (t.virt r).isLt } := rfl

theorem setM_eq (m : MReg) (b : LaneBits) :
    t.setM m b =
      { t with masks :=
          if m = 0#4 then t.masks else t.masks.set m.toNat (.live (b &&& lanesBelow t.tw) 0) m.isLt } := by
  unfold Team.setM; split <;> rfl

theorem killM_eq (m : MReg) :
    t.killM m = { t with masks := if m = 0#4 then t.masks else t.masks.set m.toNat .dead m.isLt } := by
  unfold Team.killM; split <;> rfl

theorem setLanes_eq (r : Reg) (f : Nat → Option Lane) :
    t.setLanes r f =
      { t with
        vregs :=
          if (List.range t.tw).all (fun l => (f l).isNone) then t.vregs
          else t.vregs.set (t.virt r).toNat
            (.live ((List.range t.tw).map fun l => (f l).getD (t.laneOf r l))) (t.virt r).isLt } := by
  unfold Team.setLanes; split <;> rfl

@[simp] theorem setSP_id (r : Reg) (v : Word) (p : Bool) : (t.setSP r v p).id = t.id := by rw [setSP_eq]
@[simp] theorem setS_id (r : Reg) (v : Word) : (t.setS r v).id = t.id := by rw [setS_eq]
@[simp] theorem setPair_id (r : Reg) (x : Addr) : (t.setPair r x).id = t.id := by
  unfold Team.setPair Team.setPairP; simp
@[simp] theorem killS_id (r : Reg) : (t.killS r).id = t.id := by rw [killS_eq]
@[simp] theorem killV_id (r : Reg) : (t.killV r).id = t.id := rfl
@[simp] theorem killM_id (m : MReg) : (t.killM m).id = t.id := by rw [killM_eq]
@[simp] theorem setM_id (m : MReg) (b : LaneBits) : (t.setM m b).id = t.id := by rw [setM_eq]
@[simp] theorem setLanes_id (r : Reg) (f : Nat → Option Lane) : (t.setLanes r f).id = t.id := by rw [setLanes_eq]
@[simp] theorem advance_id : t.advance.id = t.id := rfl
@[simp] theorem goto_id (a : Addr) : (t.goto a).id = t.id := rfl
@[simp] theorem begin_id : t.begin.id = t.id := rfl
@[simp] theorem orFlags_id (f : Word) : (t.orFlags f).id = t.id := rfl

/-! ### Reading a register after a write -/

/-- s0 reads 0 after any write. -/
@[simp] theorem sval_zero : t.sval 0#6 = 0#32 := by simp [Team.sval]

theorem sval_setS_same (r : Reg) (v : Word) (h : r ≠ 0#6) : (t.setS r v).sval r = v := by
  simp [setS_eq, Team.sval, h, SReg.val]

theorem sval_setS_other (r r' : Reg) (v : Word) (h : r' ≠ r) : (t.setS r v).sval r' = t.sval r' := by
  have hn : r.toNat ≠ r'.toNat := fun e => h (BitVec.eq_of_toNat_eq e.symm)
  by_cases h0 : r = 0#6
  · simp [setS_eq, h0]
  · simp only [setS_eq, h0, if_false, Team.sval]
    rw [Vector.getElem_set_ne _ _ hn]

end Sys2Proof.Laws
end

