-- ==== Sys2Proof/Laws/Ops.lean ====
section
/-!
SUPPORT. The shared operations: what `runRegs` and `runState` answer, and that each operation on the state keeps
memory's canonical form.
-/
namespace Sys2Proof.Laws
open Sys2Proof.Machine

/-! ### Tellers -/

/-- An access that no teller has read for is left as it is. -/
theorem settleOne_eq {a : Access} (h : ∀ old bytes dst, a.kind ≠ .update old bytes dst) (s : State) :
    s.settleOne a = s := by
  unfold State.settleOne
  split
  · exact absurd ‹_› (h _ _ _)
  all_goals rfl

/-- With no teller between its halves there is nothing to finish. -/
theorem tellersDone_eq {s : State} (h : ∀ a ∈ s.flight.accesses, ∀ old bytes dst, a.kind ≠ .update old bytes dst) :
    s.tellersDone = s := by
  unfold State.tellersDone
  generalize s.flight.accesses = l at h
  induction l with
  | nil => rfl
  | cons a l ih =>
    rw [List.foldl_cons, settleOne_eq (h a (by simp))]
    exact ih fun b hb => h b (by simp [hb])

/-! ### Every operation on the state keeps memory's canonical form -/

section Keeps
variable {s : State}

theorem wf_writeLoc (h : s.mem.wf = true) (loc : Nat) (bs : List Byte) : (s.writeLoc loc bs).mem.wf = true := by
  rw [writeLoc_mem]; exact wf_store h _ _

/-- A fold of an operation on the state that keeps the form keeps it. -/
theorem wf_foldState {α : Type} {f : State → α → State} (hf : ∀ s a, s.mem.wf = true → (f s a).mem.wf = true)
    (h : s.mem.wf = true) (l : List α) : (l.foldl f s).mem.wf = true := by
  induction l generalizing s with
  | nil => exact h
  | cons a l ih => exact ih (hf s a h)

/-- The writes of MPLAN, descriptors and mask bytes, keep the form. -/
theorem wf_writePositions (h : s.mem.wf = true) (base F : Nat) (ps : List (Nat × Planed × Nat)) :
    (s.writePositions base F ps).mem.wf = true :=
  wf_foldState (fun _ m hs => wf_foldState (fun _ k hs => by
    unfold State.writeMask
    exact wf_writeLoc hs _ _) hs _) (by
      unfold State.writeDescriptors
      split
      · exact wf_foldState (fun _ x hs => wf_writeLoc hs _ _) h _
      · exact h) _

theorem wf_ownWrite (h : s.mem.wf = true) (w : OwnWrite) : (s.ownWrite w).mem.wf = true := wf_writeLoc h _ _

theorem wf_between (h : s.mem.wf = true) : s.between.mem.wf = true := by
  unfold State.between
  split
  · exact h
  · exact wf_foldState (fun s w hs => wf_ownWrite hs w) (by simpa using h) _

@[simp] theorem replied_mem (a : Access) (k : Option AccessKind) : (s.replied a k).mem = s.mem := by
  unfold State.replied; cases k <;> rfl

theorem wf_settleOne (h : s.mem.wf = true) (a : Access) : (s.settleOne a).mem.wf = true := by
  unfold State.settleOne
  split
  · rw [replied_mem]; exact wf_writeLoc h _ _
  all_goals exact h

theorem wf_settle (h : s.mem.wf = true) (loc n : Nat) : (s.settle loc n).mem.wf = true :=
  wf_foldState (fun _ a hs => wf_settleOne hs a) h _

theorem wf_tellersDone (h : s.mem.wf = true) : s.tellersDone.mem.wf = true :=
  wf_foldState (fun _ a hs => wf_settleOne hs a) h _

theorem wf_pokeVa (h : s.mem.wf = true) (c : Context) (va : Addr) (bs : List Byte) :
    (s.pokeVa c va bs).mem.wf = true := by
  have h1 : (s.touchFe c.ctxid [va]).mem.wf = true := by simpa using h
  unfold State.pokeVa
  dsimp only
  split
  · exact h1
  · split
    · exact h1
    · split
      · exact h1
      · exact wf_writeLoc (wf_settle h1 _ _) _ _
      · exact wf_writeLoc (wf_settle h1 _ _) _ _
      all_goals exact wf_writeLoc h1 _ _

theorem wf_postStatus (h : s.mem.wf = true) (q : Nat) : (s.postStatus q).mem.wf = true := by
  unfold State.postStatus
  split
  · exact h
  · split
    · exact h
    · split
      · exact h
      · exact wf_pokeVa h _ _ _

theorem wf_updateQueue (h : s.mem.wf = true) (q : Nat) (x : Queue) : (s.updateQueue q x).mem.wf = true :=
  wf_postStatus (by simpa using h) q

@[simp] theorem dropHead_mem (q : Nat) : (s.dropHead q).mem = s.mem := rfl

theorem wf_haltQueue (h : s.mem.wf = true) (q err : Nat) : (s.haltQueue q err).mem.wf = true :=
  wf_updateQueue (by simpa using h) q _

theorem wf_ringDoorbell (h : s.mem.wf = true) (q : Nat) (p : Word) : (s.ringDoorbell q p).mem.wf = true := by
  unfold State.ringDoorbell
  split
  · exact h
  · dsimp only
    split
    · exact wf_haltQueue (by simpa using h) q 4
    · simpa using h

theorem wf_apertureStore (h : s.mem.wf = true) (o : Nat) (bs : List Byte) :
    (s.apertureStore o bs).mem.wf = true := by
  unfold State.apertureStore
  dsimp only
  rw [afterWrite_mem]
  split
  · split
    · exact wf_ringDoorbell h _ _
    · exact h
  · split
    · split
      · split
        · exact h
        · split <;> exact h
      · exact h
    · exact h

theorem wf_writePlace (h : s.mem.wf = true) (p : Place) (bs : List Byte) : (s.writePlace p bs).mem.wf = true := by
  unfold State.writePlace
  split
  · exact wf_apertureStore h _ _
  all_goals first | exact wf_writeLoc (wf_settle h _ _) _ _ | exact wf_writeLoc h _ _

theorem wf_teamWrite (h : s.mem.wf = true) (tower : Nat) (p : Place) (bs : List Byte) :
    (s.teamWrite tower p bs).mem.wf = true := wf_writePlace h p bs

theorem wf_writeEach (h : s.mem.wf = true) (tower : Nat) (ps : List Place) (bs : List Byte) :
    (s.writeEach tower ps bs).mem.wf = true := by
  induction ps generalizing s bs with
  | nil => exact h
  | cons p ps ih =>
    cases bs with
    | nil => exact h
    | cons b bs =>
      unfold State.writeEach
      split
      · exact ih (wf_teamWrite h _ _ _) _
      · exact ih h _

/-- Changes of poison bits keep the form. -/
theorem wf_foldBad (f : Place → Bool) {m : Memory} (h : m.wf = true) (l : List Place) :
    (l.foldl (fun m p => m.setWordBad p.loc (f p)) m).wf = true := by
  induction l generalizing m with
  | nil => exact h
  | cons a l ih => exact ih (wf_setWordBad h _ _)

theorem wf_clearWritten (tower : Nat) (h : s.mem.wf = true) (ps : List Place) :
    (State.clearWritten tower s ps).mem.wf = true :=
  wf_foldBad (fun _ => false) h _

/-! ### Traps -/

theorem wf_transfer (h : s.mem.wf = true) {t : Team} {entry ra : Addr} {iw : Word} {code : Nat} {emu : Bool}
    {s' : State} (e : transfer s t entry ra iw code emu = .ok s') : s'.mem.wf = true := by
  unfold transfer at e
  dsimp only at e
  split at e
  · cases e
  · split at e
    · cases e
    · split at e
      · cases e
      · split at e
        · cases e
        · cases e
          exact wf_clearWritten _ (wf_writeEach (by simpa using h) _ _ _) _

theorem wf_writeRecord (h : s.mem.wf = true) (t : Team) (x : Trap) (fatal async : Bool) :
    (s.writeRecord t x fatal async).mem.wf = true := by
  unfold State.writeRecord
  dsimp only
  rw [modTeam_mem, modNode_mem]
  refine wf_writeLoc ?_ _ _
  rw [modCtx_mem]
  exact wf_writeLoc h _ _

theorem wf_endThrough (h : s.mem.wf = true) (t : Team) (x : Trap) (async : Bool) :
    (s.endThrough t x async).mem.wf = true := by
  unfold State.endThrough
  dsimp only
  rw [exitTeam_mem, modNode_mem]
  exact wf_writeRecord h t x true async

theorem wf_stopForDebugger (h : s.mem.wf = true) (t : Team) (x : Trap) (async : Bool) :
    (s.stopForDebugger t x async).mem.wf = true := by
  unfold State.stopForDebugger
  rw [modTeam_mem]
  exact wf_writeRecord h t x false async

theorem wf_deliver (h : s.mem.wf = true) (t : Team) (x : Trap) (iw : Word) (async : Bool) :
    (s.deliver t x iw async).mem.wf = true := by
  have h1 : ∀ u : State, u.mem = s.mem → u.mem.wf = true := fun u e => by rw [e]; exact h
  unfold State.deliver
  dsimp only
  split
  · exact wf_stopForDebugger h t x async
  · have hr := wf_writeRecord (h1 (s.touchFe t.ctx [vectorAddr (s.ctxOf t) x.code]) (touchFe_mem s _ _)) t x false async
    have ends : ∀ y : Trap, (if (s.ctxOf t).attached = true
        then (s.touchFe t.ctx [vectorAddr (s.ctxOf t) x.code]).stopForDebugger t x async
        else (s.touchFe t.ctx [vectorAddr (s.ctxOf t) x.code]).endThrough t y async).mem.wf = true := by
      intro y
      split
      · exact wf_stopForDebugger (h1 _ (touchFe_mem s _ _)) t x async
      · exact wf_endThrough (h1 _ (touchFe_mem s _ _)) t y async
    generalize (s.touchFe t.ctx [vectorAddr (s.ctxOf t) x.code]).writeRecord t x false async = v at hr ⊢
    have hu := h1 (s.touchFe t.ctx [vectorAddr (s.ctxOf t) x.code]) (touchFe_mem s _ _)
    generalize s.touchFe t.ctx [vectorAddr (s.ctxOf t) x.code] = u at ends hu ⊢
    split
    · exact ends _
    · exact ends _
    · rw [modTeam_mem]; exact hr
    · split
      · exact wf_endThrough (by rw [touch_mem]; exact hu) _ _ _
      · split
        · exact wf_endThrough (by rw [touch_mem]; exact hu) _ _ _
        · rename_i e; exact wf_transfer (by rw [touch_mem]; exact hr) e

theorem wf_raise (h : s.mem.wf = true) (t : Team) (x : Trap) : (s.raise t x).mem.wf = true := by
  unfold State.raise
  dsimp only
  split
  · have hv : (s.touchFe t.ctx (boundTried s t x.addr.toNat)).mem.wf = true := by simpa using h
    split
    · exact wf_deliver hv _ _ _ _
    · split
      · rename_i e; rw [modNode_mem]; exact wf_transfer hv e
      · exact wf_deliver (by rw [touch_mem]; exact hv) _ _ _ _
  · exact wf_deliver h _ _ _ _

theorem wf_takeTrap (h : s.mem.wf = true) (t : Team) (x : Trap) : (s.takeTrap t x).mem.wf = true := by
  unfold State.takeTrap
  split
  · exact h
  · exact wf_raise h t x

theorem wf_takeAsync (h : s.mem.wf = true) (t : Team) (x : Trap) : (s.takeAsync t x).mem.wf = true := by
  unfold State.takeAsync
  apply wf_deliver
  exact h

/-- Acquires leave memory alone. -/
theorem foldl_acquireAt_mem (tower : Nat) (f : Place → Option Scope) (l : List Place) (u : State) :
    (l.foldl (fun s p => s.acquireAt tower (f p)) u).mem = u.mem := by
  induction l generalizing u with
  | nil => rfl
  | cons p l ih => rw [List.foldl_cons, ih, acquireAt_mem]

/-- What follows a translation answers what it would by itself. -/
@[simp] theorem afterSeeing_ok {α : Type} {ps : List Place} {r : Except Stop α} {a : α} :
    afterSeeing ps r = .ok a ↔ r = .ok a := by
  unfold afterSeeing; cases r <;> simp

theorem wf_returnFromTrap (h : s.mem.wf = true) {t : Team} {s' : State} (e : returnFromTrap t s = .ok s') :
    s'.mem.wf = true := by
  unfold returnFromTrap raiseAt at e
  dsimp only at e
  split at e
  · cases e
  · split at e
    · cases e
    · repeat' (first | split at e | rw [afterSeeing_ok] at e)
      all_goals first
        | (cases e; done)
        | (cases e; rw [putTeam_mem, foldl_acquireAt_mem]; exact h)

theorem wf_watched (h : s.mem.wf = true) (t : Team) (xs : List Touch) : (s.watched t xs).mem.wf = true := by
  unfold State.watched
  split
  · exact h
  · exact wf_raise h _ _

/-- An instruction that is complete answers the state after its watches, or waits as it stood. -/
theorem completed_cases {t : Team} {s' u : State} {xs : List Touch} (h : s.completed t s' xs = .next u) :
    u = s'.watched t xs ∨ ∃ t', u = s.putTeam t' := by
  unfold State.completed at h
  split at h <;> cases h
  · exact .inr ⟨_, rfl⟩
  · exact .inl rfl

/-- A stop answers a next state: the trap it takes or a stall, after the places that it had translated. -/
theorem stop_finish (e : Stop) (s : State) (t : Team) : ∃ u, e.finish s t = .next u ∧
    ∃ ps : List Place, (∃ x, u = (s.touch t.ctx ps).takeTrap t x) ∨ (∃ t', u = (s.touch t.ctx ps).stall t') := by
  induction e generalizing s with
  | trap x =>
    unfold Stop.finish
    split
    · exact ⟨_, rfl, [], .inr ⟨t.pend x, by rw [touch_nil]⟩⟩
    · exact ⟨_, rfl, [], .inl ⟨x, by rw [touch_nil]⟩⟩
  | stall => exact ⟨_, rfl, [], .inr ⟨t, by rw [touch_nil]⟩⟩
  | seen ps e ih =>
    obtain ⟨u, hu, qs, h⟩ := ih (s.touch t.ctx ps)
    refine ⟨u, hu, ps ++ qs, ?_⟩
    rw [← touch_touch]
    exact h

theorem wf_stop (h : s.mem.wf = true) (t : Team) (e : Stop) {s' : State} (he : e.finish s t = .next s') :
    s'.mem.wf = true := by
  obtain ⟨u, hu, ps, hx⟩ := stop_finish e s t
  rw [hu] at he
  cases he
  obtain ⟨x, rfl⟩ | ⟨t', rfl⟩ := hx
  · exact wf_takeTrap (by rw [touch_mem]; exact h) t x
  · exact h

theorem wf_finish (h : s.mem.wf = true) (t : Team) {r : Except Stop State} {s' : State}
    (hr : ∀ u, r = .ok u → u.mem.wf = true) (e : finish s t r = .next s') : s'.mem.wf = true := by
  cases r with
  | ok u => cases e; exact hr _ rfl
  | error x => exact wf_stop h t x e

/-! ### Accesses and copies -/

@[simp] theorem weakRead_mem (tower : Nat) (keep : Bool) (p : Place) (n : Nat) :
    (s.weakRead tower keep p n).2.mem = s.mem := by
  unfold State.weakRead
  dsimp only
  repeat' split
  all_goals rfl

@[simp] theorem dropLines_mem (tower : Nat) (ps : List Place) : (s.dropLines tower ps).mem = s.mem := rfl

@[simp] theorem markWord_mem (tower : Nat) (p : Place) (bad : Bool) :
    (s.markWord tower p bad).mem = s.mem.setWordBad p.loc bad := rfl

theorem wf_markWord (h : s.mem.wf = true) (tower : Nat) (p : Place) (bad : Bool) :
    (s.markWord tower p bad).mem.wf = true := wf_setWordBad h _ _

@[simp] theorem strongRead_mem (tower : Nat) (a : Access) : (s.strongRead tower a).mem = s.mem := by
  simp [State.strongRead]

@[simp] theorem sourceRead_mem (tower : Nat) (b : ByteSrc) : (s.sourceRead tower b).mem = s.mem := by
  cases b <;> rfl

theorem wf_atomicWrite (h : s.mem.wf = true) (tower : Nat) (a : Access) (old : Nat) (bs : List Byte)
    (dst : Option LoadDst) : (s.atomicWrite tower a old bs dst).state.mem.wf = true := by
  have h1 : (s.strongRead tower a).mem.wf = true := by simpa using h
  unfold State.atomicWrite
  dsimp only
  split
  · exact h1
  · exact wf_teamWrite h1 _ _ _

theorem wf_performAccess (h : s.mem.wf = true) (tower : Nat) (keep : Bool) (a : Access) :
    (s.performAccess tower keep a).state.mem.wf = true := by
  unfold State.performAccess
  split
  · exact h
  · have hu : (if a.kind.asksTeller && s.splitAtomic a.place then s.settle a.place.loc a.size else s).mem.wf = true := by
      split
      · exact wf_settle h _ _
      · exact h
    generalize (if a.kind.asksTeller && s.splitAtomic a.place then s.settle a.place.loc a.size else s) = u at hu
    dsimp only
    split
    · simpa [Performed.done] using hu
    · exact wf_teamWrite hu _ _ _
    · split <;> simpa [Performed.done, State.readPoison] using hu
    · exact wf_teamWrite hu _ _ _
    · split
      · simpa [Performed.done, State.readPoison] using hu
      · exact wf_atomicWrite hu _ _ _ _ _
    · split
      · simpa [Performed.done, State.readPoison] using hu
      · exact wf_atomicWrite hu _ _ _ _ _
    · exact wf_writeLoc hu _ _
    · simpa [Performed.done] using hu

theorem wf_rest {r : Performed} (h : r.state.mem.wf = true) (keep : Bool) (a : Access) :
    (r.rest keep a).state.mem.wf = true := by
  unfold Performed.rest
  split
  · exact h
  · exact wf_performAccess h _ _ _

theorem wf_performWhole (h : s.mem.wf = true) (keep : Bool) (a : Access) : (s.performWhole keep a).mem.wf = true :=
  wf_rest (wf_rest (wf_performAccess h _ _ _) _ _) _ _

theorem wf_issue (h : s.mem.wf = true) (t : Team) (as : List Access) : (s.issue t as).mem.wf = true := by
  unfold State.issue
  dsimp only
  split
  · exact wf_foldState (fun s a hs => by simpa using hs) (by simpa using h) _
  · exact wf_foldState (fun s a hs => wf_performWhole hs _ _) (by simpa using h) _

theorem wf_doAccesses (h : s.mem.wf = true) (t : Team) (as : List Access) : (s.doAccesses t as).mem.wf = true :=
  wf_issue (by simpa using h) t as

theorem wf_performMove (h : s.mem.wf = true) (tower : Nat) (c : Copy) (m : Move) (rest : List Move) :
    (s.performMove tower c m rest).1.mem.wf = true := by
  unfold State.performMove
  dsimp only
  split
  · exact h
  · split
    · exact wf_markWord (s := s.copyFailed c.team c.pc _) h _ _ _
    · have h1 : (s.sourceRead tower m.src).mem.wf = true := by simpa using h
      split
      · exact wf_markWord (wf_teamWrite h1 _ _ _) _ _ _
      · split
        · exact wf_markWord (wf_teamWrite h1 _ _ _) _ _ _
        · exact wf_teamWrite h1 _ _ _

theorem wf_performMoves (h : s.mem.wf = true) (tower : Nat) (c : Copy) (fuel : Nat) (ms : List Move) :
    (State.performMoves tower c fuel s ms).mem.wf = true := by
  induction fuel generalizing s ms with
  | zero => exact h
  | succ n ih =>
    cases ms with
    | nil => exact h
    | cons m ms => exact ih (wf_performMove h _ _ _ _) _

@[simp] theorem copyMoved_mem (c : Copy) : (s.copyMoved c).mem = s.mem := by
  unfold State.copyMoved; split <;> rfl

@[simp] theorem copyFailed_mem (team : Nat) (pc va : Addr) : (s.copyFailed team pc va).mem = s.mem := rfl

@[simp] theorem beginCopy_mem (tower : Nat) (lost : Place → Bool) (c : Copy) :
    (s.beginCopy tower lost c).1.mem = s.mem := by
  unfold State.beginCopy
  split
  · rfl
  · dsimp only; split <;> rfl

theorem wf_performCopy (h : s.mem.wf = true) (tower : Nat) (c : Copy) : (s.performCopy tower c).mem.wf = true := by
  unfold State.performCopy
  dsimp only
  rw [copyMoved_mem]
  exact wf_performMoves (by rw [beginCopy_mem]; exact h) _ _ _ _

theorem wf_startCopy (h : s.mem.wf = true) (t : Team) (recs : List Place) (p : CopyPlan) (o : Option MatrixOp) :
    (s.startCopy t recs p o).mem.wf = true := by
  unfold State.startCopy
  dsimp only
  split
  · exact h
  · exact wf_performCopy (by exact h) _ _

theorem wf_discardRest (h : s.mem.wf = true) (team : Nat) (copies : Option (List Nat)) (x : Trap) :
    (s.discardRest team copies x).mem.wf = true := by
  unfold State.discardRest
  split
  · exact h
  · dsimp only
    split
    · exact wf_foldState (f := State.endCopy) (fun s a hs => hs) (by simpa using h) _
    · exact h

theorem wf_halfWay (h : s.mem.wf = true) (p : Place) : (s.halfWay p).mem.wf = true := by
  unfold State.halfWay
  split
  · exact wf_between h
  · exact h

theorem wf_updateWord (h : s.mem.wf = true) (p : Place) (op : Nat) (v : BitVec 64) :
    (s.updateWord p op v).mem.wf = true := by
  have h1 := wf_settle h p.loc 8
  unfold State.updateWord
  generalize s.settle p.loc 8 = u at h1
  dsimp only
  split
  · exact h1
  · exact wf_writePlace (wf_halfWay h1 p) _ _

theorem wf_postVa (h : s.mem.wf = true) (ctx : Nat) (va : Addr) (bs : List Byte) :
    (s.postVa ctx va bs).mem.wf = true := by
  have h1 : (s.touchFe ctx [va]).mem.wf = true := by simpa using h
  unfold State.postVa
  split
  · exact h
  · dsimp only
    split
    · exact h1
    · split
      · exact wf_writePlace h1 _ _
      · exact h1

end Keeps

/-! ### What an instruction on its team's registers answers -/

/-- It completes: its checks pass and its effect is a team. -/
theorem runRegs_next {sh : Team → Shape} {effect : Team → Except Stop Team} {s : State} {t t' : Team}
    (hc : s.curTeam = some t) (hk : (sh t).check t s = none) (he : effect t.begin = .ok t') :
    runRegs sh effect s = .next (s.putTeam ((sh t).retire t')) := by
  unfold runRegs
  simp only [hc, hk, he]

/-- Its checks stop it. -/
theorem runRegs_checked {sh : Team → Shape} {effect : Team → Except Stop Team} {s : State} {t : Team} {stop : Stop}
    (hc : s.curTeam = some t) (hk : (sh t).check t s = some stop) :
    runRegs sh effect s = finish s t (.error stop) := by
  unfold runRegs
  simp only [hc, hk]

/-- Its effect stops it. -/
theorem runRegs_stopped {sh : Team → Shape} {effect : Team → Except Stop Team} {s : State} {t : Team} {stop : Stop}
    (hc : s.curTeam = some t) (hk : (sh t).check t s = none) (he : effect t.begin = .error stop) :
    runRegs sh effect s = finish s t (.error stop) := by
  unfold runRegs
  simp only [hc, hk, he]

/-- All that it can answer as a next state: its effect on its team, or its stop. -/
theorem runRegs_cases {sh : Team → Shape} {effect : Team → Except Stop Team} {s s' : State}
    (h : runRegs sh effect s = .next s') :
    ∃ t, s.curTeam = some t ∧
      ((∃ t', (sh t).check t s = none ∧ effect t.begin = .ok t' ∧ s' = s.putTeam ((sh t).retire t'))
        ∨ ∃ e : Stop, e.finish s t = .next s') := by
  unfold runRegs at h
  split at h
  · cases h
  · rename_i t ht
    refine ⟨t, ht, ?_⟩
    split at h
    · exact .inr ⟨_, h⟩
    · rename_i hk
      split at h
      · exact .inr ⟨_, h⟩
      · rename_i t' he
        cases h
        exact .inl ⟨t', hk, he, rfl⟩

/-- It keeps memory's canonical form: its own effect touches no memory. -/
theorem wf_runRegs {sh : Team → Shape} {effect : Team → Except Stop Team} {s s' : State}
    (hw : s.mem.wf = true) (h : runRegs sh effect s = .next s') : s'.mem.wf = true := by
  obtain ⟨t, -, ⟨t', -, -, rfl⟩ | ⟨e, he⟩⟩ := runRegs_cases h
  · exact hw
  · exact wf_stop hw t e he

/-! ### What an instruction that also acts outside its team answers -/

theorem runState_completed {sh : Team → State → Shape} {effect : Team → State → Except Stop (State × List Touch)}
    {s s' : State} {t : Team} {xs : List Touch} (hc : s.curTeam = some t) (hk : (sh t s).check t s = none)
    (he : effect t.begin (s.putTeam t.begin) = .ok (s', xs)) :
    runState sh effect s = s.completed t (s'.modTeam t.id (sh t s).retire) xs := by
  unfold runState
  simp only [hc, hk, he]

/-- Where no watch is hit, it completes. -/
theorem completed_next {s s' : State} {t : Team} {xs : List Touch} (hw : s'.watchTrap t xs = none) :
    s.completed t s' xs = .next s' := by
  simp [State.completed, State.watched, hw]

theorem runState_next {sh : Team → State → Shape} {effect : Team → State → Except Stop (State × List Touch)}
    {s s' : State} {t : Team} {xs : List Touch} (hc : s.curTeam = some t) (hk : (sh t s).check t s = none)
    (he : effect t.begin (s.putTeam t.begin) = .ok (s', xs))
    (hw : (s'.modTeam t.id (sh t s).retire).watchTrap t xs = none) :
    runState sh effect s = .next (s'.modTeam t.id (sh t s).retire) := by
  rw [runState_completed hc hk he, completed_next hw]

/-- A context that no debugger is attached to has no watch. -/
theorem watchTrap_unattached {s : State} {t : Team} (h : (s.ctxOf t).attached = false) (xs : List Touch) :
    s.watchTrap t xs = none := by
  simp [State.watchTrap, h]

theorem runState_checked {sh : Team → State → Shape} {effect : Team → State → Except Stop (State × List Touch)}
    {s : State} {t : Team} {stop : Stop} (hc : s.curTeam = some t) (hk : (sh t s).check t s = some stop) :
    runState sh effect s = finish s t (.error stop) := by
  unfold runState
  simp only [hc, hk]

theorem runState_stopped {sh : Team → State → Shape} {effect : Team → State → Except Stop (State × List Touch)}
    {s : State} {t : Team} {stop : Stop} (hc : s.curTeam = some t) (hk : (sh t s).check t s = none)
    (he : effect t.begin (s.putTeam t.begin) = .error stop) :
    runState sh effect s = finish s t (.error stop) := by
  unfold runState
  simp only [hc, hk, he]

theorem runState_cases {sh : Team → State → Shape} {effect : Team → State → Except Stop (State × List Touch)}
    {s s' : State} (h : runState sh effect s = .next s') :
    ∃ t, s.curTeam = some t ∧
      ((∃ u xs, (sh t s).check t s = none ∧ effect t.begin (s.putTeam t.begin) = .ok (u, xs)
          ∧ s' = (u.modTeam t.id (sh t s).retire).watched t xs)
        ∨ (∃ e : Stop, e.finish s t = .next s') ∨ ∃ t', s' = s.putTeam t') := by
  unfold runState at h
  split at h
  · cases h
  · rename_i t ht
    refine ⟨t, ht, ?_⟩
    split at h
    · exact .inr (.inl ⟨_, h⟩)
    · rename_i hk
      split at h
      · exact .inr (.inl ⟨_, h⟩)
      · rename_i u xs he
        obtain rfl | ⟨t', rfl⟩ := completed_cases h
        · exact .inl ⟨u, xs, hk, he, rfl⟩
        · exact .inr (.inr ⟨t', rfl⟩)

/-- It keeps memory's canonical form if its effect does. -/
theorem wf_runState {sh : Team → State → Shape} {effect : Team → State → Except Stop (State × List Touch)}
    {s s' : State} (hw : s.mem.wf = true)
    (he : ∀ (t : Team) (u v : State) (xs : List Touch),
      u.mem.wf = true → effect t u = .ok (v, xs) → v.mem.wf = true)
    (h : runState sh effect s = .next s') : s'.mem.wf = true := by
  obtain ⟨t, -, ⟨u, xs, -, hu, rfl⟩ | ⟨e, hx⟩ | ⟨t', rfl⟩⟩ := runState_cases h
  · exact wf_watched (by rw [modTeam_mem]; exact he _ _ _ _ (by simpa using hw) hu) t xs
  · exact wf_stop hw t e hx
  · exact hw

end Sys2Proof.Laws
end

