-- ==== Sys2Proof/Laws/PerInstr.lean ====
section
/-!
SUPPORT. Statements about every instruction as syntax, one lemma per constructor of `Instr`.
-/

/-- The word that the encoder gives an instruction fits in 32 bits (07 R106). -/
def Sys2Proof.Laws.WordFits.Statement (i : Sys2Proof.Instr) : Prop :=
  ∀ n : Nat, Sys2Proof.encodeNat i = some n → n < 2 ^ 32

namespace Sys2Proof.Laws

/-- The word of a row is the number its format gives. -/
theorem fits_of_some {i : Instr} {k : Nat} (h : encodeNat i = some k) (hk : k < 2 ^ 32) :
    WordFits.Statement i := by
  intro n hn
  rw [h] at hn
  cases hn
  exact hk

/-- An event has no word. -/
theorem fits_of_none {i : Instr} (h : encodeNat i = none) : WordFits.Statement i := by
  intro n hn
  rw [h] at hn
  cases hn

theorem WordFits.add (d : Reg) (a b : Src) : WordFits.Statement (.add d a b) :=
  fits_of_some rfl (fmtRR_lt (by decide) (by have := d.isLt; omega) (src_bits_lt a) (src_bits_lt b) (by decide))
theorem WordFits.sub (d : Reg) (a b : Src) : WordFits.Statement (.sub d a b) :=
  fits_of_some rfl (fmtRR_lt (by decide) (by have := d.isLt; omega) (src_bits_lt a) (src_bits_lt b) (by decide))
theorem WordFits.mul (d : Reg) (a b : Src) : WordFits.Statement (.mul d a b) :=
  fits_of_some rfl (fmtRR_lt (by decide) (by have := d.isLt; omega) (src_bits_lt a) (src_bits_lt b) (by decide))
theorem WordFits.mulh (d : Reg) (a b : Src) : WordFits.Statement (.mulh d a b) :=
  fits_of_some rfl (fmtRR_lt (by decide) (by have := d.isLt; omega) (src_bits_lt a) (src_bits_lt b) (by decide))
theorem WordFits.mulhu (d : Reg) (a b : Src) : WordFits.Statement (.mulhu d a b) :=
  fits_of_some rfl (fmtRR_lt (by decide) (by have := d.isLt; omega) (src_bits_lt a) (src_bits_lt b) (by decide))
theorem WordFits.and (d : Reg) (a b : Src) : WordFits.Statement (.and d a b) :=
  fits_of_some rfl (fmtRR_lt (by decide) (by have := d.isLt; omega) (src_bits_lt a) (src_bits_lt b) (by decide))
theorem WordFits.or (d : Reg) (a b : Src) : WordFits.Statement (.or d a b) :=
  fits_of_some rfl (fmtRR_lt (by decide) (by have := d.isLt; omega) (src_bits_lt a) (src_bits_lt b) (by decide))
theorem WordFits.xor (d : Reg) (a b : Src) : WordFits.Statement (.xor d a b) :=
  fits_of_some rfl (fmtRR_lt (by decide) (by have := d.isLt; omega) (src_bits_lt a) (src_bits_lt b) (by decide))
theorem WordFits.andn (d : Reg) (a b : Src) : WordFits.Statement (.andn d a b) :=
  fits_of_some rfl (fmtRR_lt (by decide) (by have := d.isLt; omega) (src_bits_lt a) (src_bits_lt b) (by decide))
theorem WordFits.shl (d : Reg) (a b : Src) : WordFits.Statement (.shl d a b) :=
  fits_of_some rfl (fmtRR_lt (by decide) (by have := d.isLt; omega) (src_bits_lt a) (src_bits_lt b) (by decide))
theorem WordFits.shr (d : Reg) (a b : Src) : WordFits.Statement (.shr d a b) :=
  fits_of_some rfl (fmtRR_lt (by decide) (by have := d.isLt; omega) (src_bits_lt a) (src_bits_lt b) (by decide))
theorem WordFits.sra (d : Reg) (a b : Src) : WordFits.Statement (.sra d a b) :=
  fits_of_some rfl (fmtRR_lt (by decide) (by have := d.isLt; omega) (src_bits_lt a) (src_bits_lt b) (by decide))
theorem WordFits.min (d : Reg) (a b : Src) : WordFits.Statement (.min d a b) :=
  fits_of_some rfl (fmtRR_lt (by decide) (by have := d.isLt; omega) (src_bits_lt a) (src_bits_lt b) (by decide))
theorem WordFits.max (d : Reg) (a b : Src) : WordFits.Statement (.max d a b) :=
  fits_of_some rfl (fmtRR_lt (by decide) (by have := d.isLt; omega) (src_bits_lt a) (src_bits_lt b) (by decide))
theorem WordFits.minu (d : Reg) (a b : Src) : WordFits.Statement (.minu d a b) :=
  fits_of_some rfl (fmtRR_lt (by decide) (by have := d.isLt; omega) (src_bits_lt a) (src_bits_lt b) (by decide))
theorem WordFits.maxu (d : Reg) (a b : Src) : WordFits.Statement (.maxu d a b) :=
  fits_of_some rfl (fmtRR_lt (by decide) (by have := d.isLt; omega) (src_bits_lt a) (src_bits_lt b) (by decide))
theorem WordFits.seq (d : Reg) (a b : Src) : WordFits.Statement (.seq d a b) :=
  fits_of_some rfl (fmtRR_lt (by decide) (by have := d.isLt; omega) (src_bits_lt a) (src_bits_lt b) (by decide))
theorem WordFits.sne (d : Reg) (a b : Src) : WordFits.Statement (.sne d a b) :=
  fits_of_some rfl (fmtRR_lt (by decide) (by have := d.isLt; omega) (src_bits_lt a) (src_bits_lt b) (by decide))
theorem WordFits.slt (d : Reg) (a b : Src) : WordFits.Statement (.slt d a b) :=
  fits_of_some rfl (fmtRR_lt (by decide) (by have := d.isLt; omega) (src_bits_lt a) (src_bits_lt b) (by decide))
theorem WordFits.sltu (d : Reg) (a b : Src) : WordFits.Statement (.sltu d a b) :=
  fits_of_some rfl (fmtRR_lt (by decide) (by have := d.isLt; omega) (src_bits_lt a) (src_bits_lt b) (by decide))
theorem WordFits.sel (d : Reg) (a b : Src) : WordFits.Statement (.sel d a b) :=
  fits_of_some rfl (fmtRR_lt (by decide) (by have := d.isLt; omega) (src_bits_lt a) (src_bits_lt b) (by decide))
theorem WordFits.clz (d : Reg) (a : Src) : WordFits.Statement (.clz d a) :=
  fits_of_some rfl (fmtRR_lt (by decide) (by have := d.isLt; omega) (src_bits_lt a) (by decide) (by decide))
theorem WordFits.popc (d : Reg) (a : Src) : WordFits.Statement (.popc d a) :=
  fits_of_some rfl (fmtRR_lt (by decide) (by have := d.isLt; omega) (src_bits_lt a) (by decide) (by decide))
theorem WordFits.sext (d : Reg) (a : Src) (n : BitVec 6) : WordFits.Statement (.sext d a n) :=
  fits_of_some rfl (fmtRR_lt (by decide) (by have := d.isLt; omega) (src_bits_lt a) (by have := n.isLt; omega) (by decide))
theorem WordFits.zext (d : Reg) (a : Src) (n : BitVec 6) : WordFits.Statement (.zext d a n) :=
  fits_of_some rfl (fmtRR_lt (by decide) (by have := d.isLt; omega) (src_bits_lt a) (by have := n.isLt; omega) (by decide))
theorem WordFits.mov (d : Reg) (a : Src) : WordFits.Statement (.mov d a) :=
  fits_of_some rfl (fmtRR_lt (by decide) (by have := d.isLt; omega) (src_bits_lt a) (by decide) (by decide))
theorem WordFits.div (d : Reg) (a b : Src) (la : BitVec 4) : WordFits.Statement (.div d a b la) :=
  fits_of_some rfl (fmtRR_lt (by decide) (by have := d.isLt; omega) (src_bits_lt a) (src_bits_lt b) (by have := la.isLt; omega))
theorem WordFits.divu (d : Reg) (a b : Src) (la : BitVec 4) : WordFits.Statement (.divu d a b la) :=
  fits_of_some rfl (fmtRR_lt (by decide) (by have := d.isLt; omega) (src_bits_lt a) (src_bits_lt b) (by have := la.isLt; omega))
theorem WordFits.rem (d : Reg) (a b : Src) (la : BitVec 4) : WordFits.Statement (.rem d a b la) :=
  fits_of_some rfl (fmtRR_lt (by decide) (by have := d.isLt; omega) (src_bits_lt a) (src_bits_lt b) (by have := la.isLt; omega))
theorem WordFits.remu (d : Reg) (a b : Src) (la : BitVec 4) : WordFits.Statement (.remu d a b la) :=
  fits_of_some rfl (fmtRR_lt (by decide) (by have := d.isLt; omega) (src_bits_lt a) (src_bits_lt b) (by have := la.isLt; omega))
theorem WordFits.addx (d : Reg) (a b : Src) : WordFits.Statement (.addx d a b) :=
  fits_of_some rfl (fmtRR_lt (by decide) (by have := d.isLt; omega) (src_bits_lt a) (src_bits_lt b) (by decide))
theorem WordFits.subx (d : Reg) (a b : Src) : WordFits.Statement (.subx d a b) :=
  fits_of_some rfl (fmtRR_lt (by decide) (by have := d.isLt; omega) (src_bits_lt a) (src_bits_lt b) (by decide))
theorem WordFits.shlix (d : Reg) (a : Src) (n : BitVec 6) : WordFits.Statement (.shlix d a n) :=
  fits_of_some rfl (fmtRR_lt (by decide) (by have := d.isLt; omega) (src_bits_lt a) (by have := n.isLt; omega) (by decide))
theorem WordFits.shrix (d : Reg) (a : Src) (n : BitVec 6) : WordFits.Statement (.shrix d a n) :=
  fits_of_some rfl (fmtRR_lt (by decide) (by have := d.isLt; omega) (src_bits_lt a) (by have := n.isLt; omega) (by decide))
theorem WordFits.sltux (d : Reg) (a b : Src) : WordFits.Statement (.sltux d a b) :=
  fits_of_some rfl (fmtRR_lt (by decide) (by have := d.isLt; omega) (src_bits_lt a) (src_bits_lt b) (by decide))
theorem WordFits.mand (d : MReg) (a b : MSrc) : WordFits.Statement (.mand d a b) :=
  fits_of_some rfl (fmtRR_lt (by decide) (by have := d.isLt; omega) (by have := msrc_bits_lt a; omega) (by have := msrc_bits_lt b; omega) (by decide))
theorem WordFits.mor (d : MReg) (a b : MSrc) : WordFits.Statement (.mor d a b) :=
  fits_of_some rfl (fmtRR_lt (by decide) (by have := d.isLt; omega) (by have := msrc_bits_lt a; omega) (by have := msrc_bits_lt b; omega) (by decide))
theorem WordFits.mxor (d : MReg) (a b : MSrc) : WordFits.Statement (.mxor d a b) :=
  fits_of_some rfl (fmtRR_lt (by decide) (by have := d.isLt; omega) (by have := msrc_bits_lt a; omega) (by have := msrc_bits_lt b; omega) (by decide))
theorem WordFits.mandn (d : MReg) (a b : MSrc) : WordFits.Statement (.mandn d a b) :=
  fits_of_some rfl (fmtRR_lt (by decide) (by have := d.isLt; omega) (by have := msrc_bits_lt a; omega) (by have := msrc_bits_lt b; omega) (by decide))
theorem WordFits.mnot (d : MReg) (a : MSrc) : WordFits.Statement (.mnot d a) :=
  fits_of_some rfl (fmtRR_lt (by decide) (by have := d.isLt; omega) (by have := msrc_bits_lt a; omega) (by decide) (by decide))
theorem WordFits.mmov (d : MReg) (a : MSrc) : WordFits.Statement (.mmov d a) :=
  fits_of_some rfl (fmtRR_lt (by decide) (by have := d.isLt; omega) (by have := msrc_bits_lt a; omega) (by decide) (by decide))
theorem WordFits.mall (d : MReg) : WordFits.Statement (.mall d) :=
  fits_of_some rfl (fmtRR_lt (by decide) (by have := d.isLt; omega) (by decide) (by decide) (by decide))
theorem WordFits.mclr (d : MReg) : WordFits.Statement (.mclr d) :=
  fits_of_some rfl (fmtRR_lt (by decide) (by have := d.isLt; omega) (by decide) (by decide) (by decide))
theorem WordFits.mpopc (d : Reg) (a : MSrc) : WordFits.Statement (.mpopc d a) :=
  fits_of_some rfl (fmtRR_lt (by decide) (by have := d.isLt; omega) (by have := msrc_bits_lt a; omega) (by decide) (by decide))
theorem WordFits.mffs (d : Reg) (a : MSrc) : WordFits.Statement (.mffs d a) :=
  fits_of_some rfl (fmtRR_lt (by decide) (by have := d.isLt; omega) (by have := msrc_bits_lt a; omega) (by decide) (by decide))
theorem WordFits.msetw (d : MReg) (a b : Src) : WordFits.Statement (.msetw d a b) :=
  fits_of_some rfl (fmtRR_lt (by decide) (by have := d.isLt; omega) (src_bits_lt a) (src_bits_lt b) (by decide))
theorem WordFits.mgetw (d : Reg) (a : MSrc) (b : Src) : WordFits.Statement (.mgetw d a b) :=
  fits_of_some rfl (fmtRR_lt (by decide) (by have := d.isLt; omega) (by have := msrc_bits_lt a; omega) (src_bits_lt b) (by decide))
theorem WordFits.msumw (d : Reg) (a : MSrc) : WordFits.Statement (.msumw d a) :=
  fits_of_some rfl (fmtRR_lt (by decide) (by have := d.isLt; omega) (by have := msrc_bits_lt a; omega) (by decide) (by decide))
theorem WordFits.exmset (a : MSrc) : WordFits.Statement (.exmset a) :=
  fits_of_some rfl (fmtRR_lt (by decide) (by decide) (by have := msrc_bits_lt a; omega) (by decide) (by decide))
theorem WordFits.exmget (d : MReg) : WordFits.Statement (.exmget d) :=
  fits_of_some rfl (fmtRR_lt (by decide) (by have := d.isLt; omega) (by decide) (by decide) (by decide))
theorem WordFits.modew (a : Src) : WordFits.Statement (.modew a) :=
  fits_of_some rfl (fmtRR_lt (by decide) (by decide) (src_bits_lt a) (by decide) (by decide))
theorem WordFits.srd (d : Reg) (n : BitVec 12) : WordFits.Statement (.srd d n) :=
  fits_of_some rfl (fmtN12_lt (by decide) (by have := d.isLt; omega) (by have := n.isLt; omega) (by decide))
theorem WordFits.swr (n : BitVec 12) (s : Reg) : WordFits.Statement (.swr n s) :=
  fits_of_some rfl (fmtN12_lt (by decide) (by have := s.isLt; omega) (by have := n.isLt; omega) (by decide))
theorem WordFits.stamp (d : Reg) : WordFits.Statement (.stamp d) :=
  fits_of_some rfl (fmtRR_lt (by decide) (by have := d.isLt; omega) (by decide) (by decide) (by decide))
theorem WordFits.trap (n : BitVec 12) : WordFits.Statement (.trap n) :=
  fits_of_some rfl (fmtN12_lt (by decide) (by decide) (by have := n.isLt; omega) (by decide))
theorem WordFits.brk (n : BitVec 12) : WordFits.Statement (.brk n) :=
  fits_of_some rfl (fmtN12_lt (by decide) (by decide) (by have := n.isLt; omega) (by decide))
theorem WordFits.regacq (k : BitVec 3) : WordFits.Statement (.regacq k) :=
  fits_of_some rfl (fmtRR_lt (by decide) (by decide) (by decide) (by have := k.isLt; omega) (by decide))
theorem WordFits.regacqNb (d : Reg) (k : BitVec 3) : WordFits.Statement (.regacqNb d k) :=
  fits_of_some rfl (fmtRR_lt (by decide) (by have := d.isLt; omega) (by decide) (by have := k.isLt; omega) (by decide))
theorem WordFits.regrel (k : BitVec 3) : WordFits.Statement (.regrel k) :=
  fits_of_some rfl (fmtRR_lt (by decide) (by decide) (by decide) (by have := k.isLt; omega) (by decide))
theorem WordFits.node (d : Reg) (a b : Src) : WordFits.Statement (.node d a b) :=
  fits_of_some rfl (fmtRR_lt (by decide) (by have := d.isLt; omega) (src_bits_lt a) (src_bits_lt b) (by decide))
theorem WordFits.addi (d : Reg) (a : Src) (i : BitVec 12) : WordFits.Statement (.addi d a i) :=
  fits_of_some rfl (fmtRI_lt (by decide) (by have := d.isLt; omega) (src_bits_lt a) (by have := i.isLt; omega) (by decide))
theorem WordFits.andi (d : Reg) (a : Src) (i : BitVec 12) : WordFits.Statement (.andi d a i) :=
  fits_of_some rfl (fmtRI_lt (by decide) (by have := d.isLt; omega) (src_bits_lt a) (by have := i.isLt; omega) (by decide))
theorem WordFits.ori (d : Reg) (a : Src) (i : BitVec 12) : WordFits.Statement (.ori d a i) :=
  fits_of_some rfl (fmtRI_lt (by decide) (by have := d.isLt; omega) (src_bits_lt a) (by have := i.isLt; omega) (by decide))
theorem WordFits.xori (d : Reg) (a : Src) (i : BitVec 12) : WordFits.Statement (.xori d a i) :=
  fits_of_some rfl (fmtRI_lt (by decide) (by have := d.isLt; omega) (src_bits_lt a) (by have := i.isLt; omega) (by decide))
theorem WordFits.shli (d : Reg) (a : Src) (n : BitVec 5) : WordFits.Statement (.shli d a n) :=
  fits_of_some rfl (fmtRI_lt (by decide) (by have := d.isLt; omega) (src_bits_lt a) (by have := n.isLt; omega) (by decide))
theorem WordFits.shri (d : Reg) (a : Src) (n : BitVec 5) : WordFits.Statement (.shri d a n) :=
  fits_of_some rfl (fmtRI_lt (by decide) (by have := d.isLt; omega) (src_bits_lt a) (by have := n.isLt; omega) (by decide))
theorem WordFits.srai (d : Reg) (a : Src) (n : BitVec 5) : WordFits.Statement (.srai d a n) :=
  fits_of_some rfl (fmtRI_lt (by decide) (by have := d.isLt; omega) (src_bits_lt a) (by have := n.isLt; omega) (by decide))
theorem WordFits.slti (d : Reg) (a : Src) (i : BitVec 12) : WordFits.Statement (.slti d a i) :=
  fits_of_some rfl (fmtRI_lt (by decide) (by have := d.isLt; omega) (src_bits_lt a) (by have := i.isLt; omega) (by decide))
theorem WordFits.sltiu (d : Reg) (a : Src) (i : BitVec 12) : WordFits.Statement (.sltiu d a i) :=
  fits_of_some rfl (fmtRI_lt (by decide) (by have := d.isLt; omega) (src_bits_lt a) (by have := i.isLt; omega) (by decide))
theorem WordFits.addix (d : Reg) (a : Src) (i : BitVec 12) : WordFits.Statement (.addix d a i) :=
  fits_of_some rfl (fmtRI_lt (by decide) (by have := d.isLt; omega) (src_bits_lt a) (by have := i.isLt; omega) (by decide))
theorem WordFits.lui (d : Reg) (i : BitVec 20) : WordFits.Statement (.lui d i) :=
  fits_of_some rfl (fmtI20_lt (by decide) (by have := d.isLt; omega) (by have := i.isLt; omega))
theorem WordFits.addpc (d : Reg) (i : BitVec 20) : WordFits.Statement (.addpc d i) :=
  fits_of_some rfl (fmtI20_lt (by decide) (by have := d.isLt; omega) (by have := i.isLt; omega))
theorem WordFits.setmode (i : BitVec 20) : WordFits.Statement (.setmode i) :=
  fits_of_some rfl (fmtI20_lt (by decide) (by decide) (by have := i.isLt; omega))
theorem WordFits.vli (d : Reg) (i : BitVec 20) : WordFits.Statement (.vli d i) :=
  fits_of_some rfl (fmtI20_lt (by decide) (by have := d.isLt; omega) (by have := i.isLt; omega))
theorem WordFits.br (i : BitVec 26) : WordFits.Statement (.br i) :=
  fits_of_some rfl (fmtSY_lt (by decide) (by have := i.isLt; omega))
theorem WordFits.bz (s : Reg) (i : BitVec 19) : WordFits.Statement (.bz s i) :=
  fits_of_some rfl (fmtBS_lt (by decide) (by have := s.isLt; omega) (by decide) (by have := i.isLt; omega))
theorem WordFits.bnz (s : Reg) (i : BitVec 19) : WordFits.Statement (.bnz s i) :=
  fits_of_some rfl (fmtBS_lt (by decide) (by have := s.isLt; omega) (by decide) (by have := i.isLt; omega))
theorem WordFits.bany (m : MReg) (i : BitVec 20) : WordFits.Statement (.bany m i) :=
  fits_of_some rfl (fmtBM_lt (by decide) (by have := m.isLt; omega) (by decide) (by have := i.isLt; omega))
theorem WordFits.ball (m : MReg) (i : BitVec 20) : WordFits.Statement (.ball m i) :=
  fits_of_some rfl (fmtBM_lt (by decide) (by have := m.isLt; omega) (by decide) (by have := i.isLt; omega))
theorem WordFits.bnone (m : MReg) (i : BitVec 20) : WordFits.Statement (.bnone m i) :=
  fits_of_some rfl (fmtBM_lt (by decide) (by have := m.isLt; omega) (by decide) (by have := i.isLt; omega))
theorem WordFits.callr (a : Src) : WordFits.Statement (.callr a) :=
  fits_of_some rfl (fmtSY_lt (by decide) (by have := src_bits_lt a; omega))
theorem WordFits.jmpr (a : Src) : WordFits.Statement (.jmpr a) :=
  fits_of_some rfl (fmtSY_lt (by decide) (by have := src_bits_lt a; omega))
theorem WordFits.ret : WordFits.Statement .ret :=
  fits_of_some rfl (fmtSY_lt (by decide) (by decide))
theorem WordFits.eret : WordFits.Statement .eret :=
  fits_of_some rfl (fmtSY_lt (by decide) (by decide))
theorem WordFits.entry : WordFits.Statement .entry :=
  fits_of_some rfl (fmtSY_lt (by decide) (by decide))
theorem WordFits.exit : WordFits.Statement .exit :=
  fits_of_some rfl (fmtSY_lt (by decide) (by decide))
theorem WordFits.nop : WordFits.Statement .nop :=
  fits_of_some rfl (fmtSY_lt (by decide) (by decide))
theorem WordFits.yield : WordFits.Statement .yield :=
  fits_of_some rfl (fmtSY_lt (by decide) (by decide))
theorem WordFits.sif (m : MReg) : WordFits.Statement (.sif m) :=
  fits_of_some rfl (fmtST_lt (by decide) (by have := m.isLt; omega) (by decide))
theorem WordFits.selse : WordFits.Statement .selse :=
  fits_of_some rfl (fmtST_lt (by decide) (by decide) (by decide))
theorem WordFits.sendif : WordFits.Statement .sendif :=
  fits_of_some rfl (fmtST_lt (by decide) (by decide) (by decide))
theorem WordFits.sloop : WordFits.Statement .sloop :=
  fits_of_some rfl (fmtST_lt (by decide) (by decide) (by decide))
theorem WordFits.sbrk (m : MReg) (d : BitVec 8) : WordFits.Statement (.sbrk m d) :=
  fits_of_some rfl (fmtST_lt (by decide) (by have := m.isLt; omega) (by have := d.isLt; omega))
theorem WordFits.scont (m : MReg) (d : BitVec 8) : WordFits.Statement (.scont m d) :=
  fits_of_some rfl (fmtST_lt (by decide) (by have := m.isLt; omega) (by have := d.isLt; omega))
theorem WordFits.sendlp (m : MReg) (i : BitVec 19) : WordFits.Statement (.sendlp m i) :=
  fits_of_some rfl (fmtST_lt (by decide) (by have := m.isLt; omega) (by have := i.isLt; omega))
theorem WordFits.vadd (d : Reg) (a b : Src) : WordFits.Statement (.vadd d a b) :=
  fits_of_some rfl (fmtRR_lt (by decide) (by have := d.isLt; omega) (src_bits_lt a) (src_bits_lt b) (by decide))
theorem WordFits.vsub (d : Reg) (a b : Src) : WordFits.Statement (.vsub d a b) :=
  fits_of_some rfl (fmtRR_lt (by decide) (by have := d.isLt; omega) (src_bits_lt a) (src_bits_lt b) (by decide))
theorem WordFits.vmul (d : Reg) (a b : Src) : WordFits.Statement (.vmul d a b) :=
  fits_of_some rfl (fmtRR_lt (by decide) (by have := d.isLt; omega) (src_bits_lt a) (src_bits_lt b) (by decide))
theorem WordFits.vmulh (d : Reg) (a b : Src) : WordFits.Statement (.vmulh d a b) :=
  fits_of_some rfl (fmtRR_lt (by decide) (by have := d.isLt; omega) (src_bits_lt a) (src_bits_lt b) (by decide))
theorem WordFits.vmad (d : Reg) (a b : Src) : WordFits.Statement (.vmad d a b) :=
  fits_of_some rfl (fmtRR_lt (by decide) (by have := d.isLt; omega) (src_bits_lt a) (src_bits_lt b) (by decide))
theorem WordFits.vmin (d : Reg) (a b : Src) : WordFits.Statement (.vmin d a b) :=
  fits_of_some rfl (fmtRR_lt (by decide) (by have := d.isLt; omega) (src_bits_lt a) (src_bits_lt b) (by decide))
theorem WordFits.vmax (d : Reg) (a b : Src) : WordFits.Statement (.vmax d a b) :=
  fits_of_some rfl (fmtRR_lt (by decide) (by have := d.isLt; omega) (src_bits_lt a) (src_bits_lt b) (by decide))
theorem WordFits.vand (d : Reg) (a b : Src) : WordFits.Statement (.vand d a b) :=
  fits_of_some rfl (fmtRR_lt (by decide) (by have := d.isLt; omega) (src_bits_lt a) (src_bits_lt b) (by decide))
theorem WordFits.vor (d : Reg) (a b : Src) : WordFits.Statement (.vor d a b) :=
  fits_of_some rfl (fmtRR_lt (by decide) (by have := d.isLt; omega) (src_bits_lt a) (src_bits_lt b) (by decide))
theorem WordFits.vxor (d : Reg) (a b : Src) : WordFits.Statement (.vxor d a b) :=
  fits_of_some rfl (fmtRR_lt (by decide) (by have := d.isLt; omega) (src_bits_lt a) (src_bits_lt b) (by decide))
theorem WordFits.vandn (d : Reg) (a b : Src) : WordFits.Statement (.vandn d a b) :=
  fits_of_some rfl (fmtRR_lt (by decide) (by have := d.isLt; omega) (src_bits_lt a) (src_bits_lt b) (by decide))
theorem WordFits.vshl (d : Reg) (a b : Src) : WordFits.Statement (.vshl d a b) :=
  fits_of_some rfl (fmtRR_lt (by decide) (by have := d.isLt; omega) (src_bits_lt a) (src_bits_lt b) (by decide))
theorem WordFits.vshr (d : Reg) (a b : Src) : WordFits.Statement (.vshr d a b) :=
  fits_of_some rfl (fmtRR_lt (by decide) (by have := d.isLt; omega) (src_bits_lt a) (src_bits_lt b) (by decide))
theorem WordFits.vsra (d : Reg) (a b : Src) : WordFits.Statement (.vsra d a b) :=
  fits_of_some rfl (fmtRR_lt (by decide) (by have := d.isLt; omega) (src_bits_lt a) (src_bits_lt b) (by decide))
theorem WordFits.vcmp (c : IntCond) (d : MReg) (a b : Src) : WordFits.Statement (.vcmp c d a b) :=
  fits_of_some rfl (fmtRR_lt (by decide) (by have := d.isLt; omega) (src_bits_lt a) (src_bits_lt b) (by have := intCond_code_lt c; omega))
theorem WordFits.vabs (d : Reg) (a : Src) : WordFits.Statement (.vabs d a) :=
  fits_of_some rfl (fmtRR_lt (by decide) (by have := d.isLt; omega) (src_bits_lt a) (by decide) (by decide))
theorem WordFits.vneg (d : Reg) (a : Src) : WordFits.Statement (.vneg d a) :=
  fits_of_some rfl (fmtRR_lt (by decide) (by have := d.isLt; omega) (src_bits_lt a) (by decide) (by decide))
theorem WordFits.vmov (d : Reg) (a : Src) : WordFits.Statement (.vmov d a) :=
  fits_of_some rfl (fmtRR_lt (by decide) (by have := d.isLt; omega) (src_bits_lt a) (by decide) (by decide))
theorem WordFits.vlane (d : Reg) : WordFits.Statement (.vlane d) :=
  fits_of_some rfl (fmtRR_lt (by decide) (by have := d.isLt; omega) (by decide) (by decide) (by decide))
theorem WordFits.vsel (d : Reg) (a b : Src) (k : MReg) : WordFits.Statement (.vsel d a b k) :=
  fits_of_some rfl (fmtRR_lt (by decide) (by have := d.isLt; omega) (src_bits_lt a) (src_bits_lt b) (by have := k.isLt; omega))
theorem WordFits.vaddi (d : Reg) (a : Src) (i : BitVec 12) : WordFits.Statement (.vaddi d a i) :=
  fits_of_some rfl (fmtRI_lt (by decide) (by have := d.isLt; omega) (src_bits_lt a) (by have := i.isLt; omega) (by decide))
theorem WordFits.vshli (d : Reg) (a : Src) (n : BitVec 5) : WordFits.Statement (.vshli d a n) :=
  fits_of_some rfl (fmtRI_lt (by decide) (by have := d.isLt; omega) (src_bits_lt a) (by have := n.isLt; omega) (by decide))
theorem WordFits.vshri (d : Reg) (a : Src) (n : BitVec 5) : WordFits.Statement (.vshri d a n) :=
  fits_of_some rfl (fmtRI_lt (by decide) (by have := d.isLt; omega) (src_bits_lt a) (by have := n.isLt; omega) (by decide))
theorem WordFits.vfadd (d : Reg) (a b : Src) : WordFits.Statement (.vfadd d a b) :=
  fits_of_some rfl (fmtRR_lt (by decide) (by have := d.isLt; omega) (src_bits_lt a) (src_bits_lt b) (by decide))
theorem WordFits.vfsub (d : Reg) (a b : Src) : WordFits.Statement (.vfsub d a b) :=
  fits_of_some rfl (fmtRR_lt (by decide) (by have := d.isLt; omega) (src_bits_lt a) (src_bits_lt b) (by decide))
theorem WordFits.vfmul (d : Reg) (a b : Src) : WordFits.Statement (.vfmul d a b) :=
  fits_of_some rfl (fmtRR_lt (by decide) (by have := d.isLt; omega) (src_bits_lt a) (src_bits_lt b) (by decide))
theorem WordFits.vfma (d : Reg) (a b : Src) : WordFits.Statement (.vfma d a b) :=
  fits_of_some rfl (fmtRR_lt (by decide) (by have := d.isLt; omega) (src_bits_lt a) (src_bits_lt b) (by decide))
theorem WordFits.vfms (d : Reg) (a b : Src) : WordFits.Statement (.vfms d a b) :=
  fits_of_some rfl (fmtRR_lt (by decide) (by have := d.isLt; omega) (src_bits_lt a) (src_bits_lt b) (by decide))
theorem WordFits.vfnma (d : Reg) (a b : Src) : WordFits.Statement (.vfnma d a b) :=
  fits_of_some rfl (fmtRR_lt (by decide) (by have := d.isLt; omega) (src_bits_lt a) (src_bits_lt b) (by decide))
theorem WordFits.vfmin (d : Reg) (a b : Src) : WordFits.Statement (.vfmin d a b) :=
  fits_of_some rfl (fmtRR_lt (by decide) (by have := d.isLt; omega) (src_bits_lt a) (src_bits_lt b) (by decide))
theorem WordFits.vfmax (d : Reg) (a b : Src) : WordFits.Statement (.vfmax d a b) :=
  fits_of_some rfl (fmtRR_lt (by decide) (by have := d.isLt; omega) (src_bits_lt a) (src_bits_lt b) (by decide))
theorem WordFits.vfminm (d : Reg) (a b : Src) : WordFits.Statement (.vfminm d a b) :=
  fits_of_some rfl (fmtRR_lt (by decide) (by have := d.isLt; omega) (src_bits_lt a) (src_bits_lt b) (by decide))
theorem WordFits.vfmaxm (d : Reg) (a b : Src) : WordFits.Statement (.vfmaxm d a b) :=
  fits_of_some rfl (fmtRR_lt (by decide) (by have := d.isLt; omega) (src_bits_lt a) (src_bits_lt b) (by decide))
theorem WordFits.vfabs (d : Reg) (a : Src) : WordFits.Statement (.vfabs d a) :=
  fits_of_some rfl (fmtRR_lt (by decide) (by have := d.isLt; omega) (src_bits_lt a) (by decide) (by decide))
theorem WordFits.vfneg (d : Reg) (a : Src) : WordFits.Statement (.vfneg d a) :=
  fits_of_some rfl (fmtRR_lt (by decide) (by have := d.isLt; omega) (src_bits_lt a) (by decide) (by decide))
theorem WordFits.vfsgn (d : Reg) (a : Src) : WordFits.Statement (.vfsgn d a) :=
  fits_of_some rfl (fmtRR_lt (by decide) (by have := d.isLt; omega) (src_bits_lt a) (by decide) (by decide))
theorem WordFits.vfsgnK (d : Reg) (a : Src) : WordFits.Statement (.vfsgnK d a) :=
  fits_of_some rfl (fmtRR_lt (by decide) (by have := d.isLt; omega) (src_bits_lt a) (by decide) (by decide))
theorem WordFits.vfcmp (c : FpCond) (d : MReg) (a b : Src) : WordFits.Statement (.vfcmp c d a b) :=
  fits_of_some rfl (fmtRR_lt (by decide) (by have := d.isLt; omega) (src_bits_lt a) (src_bits_lt b) (by have := fpCond_code_lt c; omega))
theorem WordFits.vfcmpK (c : FpCond) (d : MReg) (a b : Src) : WordFits.Statement (.vfcmpK c d a b) :=
  fits_of_some rfl (fmtRR_lt (by decide) (by have := d.isLt; omega) (src_bits_lt a) (src_bits_lt b) (by have := fpCond_code_lt c; omega))
theorem WordFits.vfclass (d : Reg) (a : Src) : WordFits.Statement (.vfclass d a) :=
  fits_of_some rfl (fmtRR_lt (by decide) (by have := d.isLt; omega) (src_bits_lt a) (by decide) (by decide))
theorem WordFits.vfdiv (d : Reg) (a b : Src) (la : BitVec 4) : WordFits.Statement (.vfdiv d a b la) :=
  fits_of_some rfl (fmtRR_lt (by decide) (by have := d.isLt; omega) (src_bits_lt a) (src_bits_lt b) (by have := la.isLt; omega))
theorem WordFits.vfsqrt (d : Reg) (a : Src) (la : BitVec 4) : WordFits.Statement (.vfsqrt d a la) :=
  fits_of_some rfl (fmtRR_lt (by decide) (by have := d.isLt; omega) (src_bits_lt a) (by decide) (by have := la.isLt; omega))
theorem WordFits.vfrsq (d : Reg) (a : Src) (la : BitVec 4) : WordFits.Statement (.vfrsq d a la) :=
  fits_of_some rfl (fmtRR_lt (by decide) (by have := d.isLt; omega) (src_bits_lt a) (by decide) (by have := la.isLt; omega))
theorem WordFits.vfrcp (d : Reg) (a : Src) (la : BitVec 4) : WordFits.Statement (.vfrcp d a la) :=
  fits_of_some rfl (fmtRR_lt (by decide) (by have := d.isLt; omega) (src_bits_lt a) (by decide) (by have := la.isLt; omega))
theorem WordFits.vfexp2 (d : Reg) (a : Src) (la : BitVec 4) : WordFits.Statement (.vfexp2 d a la) :=
  fits_of_some rfl (fmtRR_lt (by decide) (by have := d.isLt; omega) (src_bits_lt a) (by decide) (by have := la.isLt; omega))
theorem WordFits.vflog2 (d : Reg) (a : Src) (la : BitVec 4) : WordFits.Statement (.vflog2 d a la) :=
  fits_of_some rfl (fmtRR_lt (by decide) (by have := d.isLt; omega) (src_bits_lt a) (by decide) (by have := la.isLt; omega))
theorem WordFits.vcvt (d : Reg) (a : Src) (f : BitVec 5) (sel : BitVec 5) : WordFits.Statement (.vcvt d a f sel) :=
  fits_of_some rfl (fmtRR_lt (by decide) (by have := d.isLt; omega) (src_bits_lt a) (by have := f.isLt; omega) (by have := sel.isLt; omega))
theorem WordFits.vqnt (d : Reg) (a b : Src) (f : BitVec 5) : WordFits.Statement (.vqnt d a b f) :=
  fits_of_some rfl (fmtRR_lt (by decide) (by have := d.isLt; omega) (src_bits_lt a) (src_bits_lt b) (by have := f.isLt; omega))
theorem WordFits.vpack (d : Reg) (a b : Src) : WordFits.Statement (.vpack d a b) :=
  fits_of_some rfl (fmtRR_lt (by decide) (by have := d.isLt; omega) (src_bits_lt a) (src_bits_lt b) (by decide))
theorem WordFits.vunpk (d : Reg) (a : Src) (sel : Bool) : WordFits.Statement (.vunpk d a sel) :=
  fits_of_some rfl (fmtRR_lt (by decide) (by have := d.isLt; omega) (src_bits_lt a) (by have := Bool.toNat_le sel; omega) (by decide))
theorem WordFits.vdot2 (d : Reg) (a b : Src) : WordFits.Statement (.vdot2 d a b) :=
  fits_of_some rfl (fmtRR_lt (by decide) (by have := d.isLt; omega) (src_bits_lt a) (src_bits_lt b) (by decide))
theorem WordFits.vdot4 (d : Reg) (a b : Src) : WordFits.Statement (.vdot4 d a b) :=
  fits_of_some rfl (fmtRR_lt (by decide) (by have := d.isLt; omega) (src_bits_lt a) (src_bits_lt b) (by decide))
theorem WordFits.vdot8 (d : Reg) (a b : Src) : WordFits.Statement (.vdot8 d a b) :=
  fits_of_some rfl (fmtRR_lt (by decide) (by have := d.isLt; omega) (src_bits_lt a) (src_bits_lt b) (by decide))
theorem WordFits.vshfl (d : Reg) (a b : Src) (la : BitVec 4) : WordFits.Statement (.vshfl d a b la) :=
  fits_of_some rfl (fmtRR_lt (by decide) (by have := d.isLt; omega) (src_bits_lt a) (src_bits_lt b) (by have := la.isLt; omega))
theorem WordFits.vbcast (d : Reg) (a : Src) (la : BitVec 4) : WordFits.Statement (.vbcast d a la) :=
  fits_of_some rfl (fmtRR_lt (by decide) (by have := d.isLt; omega) (src_bits_lt a) (by decide) (by have := la.isLt; omega))
theorem WordFits.vext (d : Reg) (a b : Src) (la : BitVec 4) : WordFits.Statement (.vext d a b la) :=
  fits_of_some rfl (fmtRR_lt (by decide) (by have := d.isLt; omega) (src_bits_lt a) (src_bits_lt b) (by have := la.isLt; omega))
theorem WordFits.vins (d : Reg) (a b : Src) (la : BitVec 4) : WordFits.Statement (.vins d a b la) :=
  fits_of_some rfl (fmtRR_lt (by decide) (by have := d.isLt; omega) (src_bits_lt a) (src_bits_lt b) (by have := la.isLt; omega))
theorem WordFits.vredadd (d : Reg) (a : Src) (la : BitVec 4) : WordFits.Statement (.vredadd d a la) :=
  fits_of_some rfl (fmtRR_lt (by decide) (by have := d.isLt; omega) (src_bits_lt a) (by decide) (by have := la.isLt; omega))
theorem WordFits.vredmax (d : Reg) (a : Src) (la : BitVec 4) : WordFits.Statement (.vredmax d a la) :=
  fits_of_some rfl (fmtRR_lt (by decide) (by have := d.isLt; omega) (src_bits_lt a) (by decide) (by have := la.isLt; omega))
theorem WordFits.vredmin (d : Reg) (a : Src) (la : BitVec 4) : WordFits.Statement (.vredmin d a la) :=
  fits_of_some rfl (fmtRR_lt (by decide) (by have := d.isLt; omega) (src_bits_lt a) (by decide) (by have := la.isLt; omega))
theorem WordFits.vscan (d : Reg) (a : Src) (la : BitVec 4) : WordFits.Statement (.vscan d a la) :=
  fits_of_some rfl (fmtRR_lt (by decide) (by have := d.isLt; omega) (src_bits_lt a) (by decide) (by have := la.isLt; omega))
theorem WordFits.ldU8 (d : Reg) (mem : MemArg) : WordFits.Statement (.ldU8 d mem) :=
  fits_of_some rfl (fmtMEM_lt mem (by decide) (by have := d.isLt; omega) (by decide))
theorem WordFits.ldS8 (d : Reg) (mem : MemArg) : WordFits.Statement (.ldS8 d mem) :=
  fits_of_some rfl (fmtMEM_lt mem (by decide) (by have := d.isLt; omega) (by decide))
theorem WordFits.ldU16 (d : Reg) (mem : MemArg) : WordFits.Statement (.ldU16 d mem) :=
  fits_of_some rfl (fmtMEM_lt mem (by decide) (by have := d.isLt; omega) (by decide))
theorem WordFits.ldS16 (d : Reg) (mem : MemArg) : WordFits.Statement (.ldS16 d mem) :=
  fits_of_some rfl (fmtMEM_lt mem (by decide) (by have := d.isLt; omega) (by decide))
theorem WordFits.ld (d : Reg) (mem : MemArg) : WordFits.Statement (.ld d mem) :=
  fits_of_some rfl (fmtMEM_lt mem (by decide) (by have := d.isLt; omega) (by decide))
theorem WordFits.ldD (d : Reg) (mem : MemArg) : WordFits.Statement (.ldD d mem) :=
  fits_of_some rfl (fmtMEM_lt mem (by decide) (by have := d.isLt; omega) (by decide))
theorem WordFits.stB (s : Reg) (mem : MemArg) : WordFits.Statement (.stB s mem) :=
  fits_of_some rfl (fmtMEM_lt mem (by decide) (by have := s.isLt; omega) (by decide))
theorem WordFits.stH (s : Reg) (mem : MemArg) : WordFits.Statement (.stH s mem) :=
  fits_of_some rfl (fmtMEM_lt mem (by decide) (by have := s.isLt; omega) (by decide))
theorem WordFits.st (s : Reg) (mem : MemArg) : WordFits.Statement (.st s mem) :=
  fits_of_some rfl (fmtMEM_lt mem (by decide) (by have := s.isLt; omega) (by decide))
theorem WordFits.stD (s : Reg) (mem : MemArg) : WordFits.Statement (.stD s mem) :=
  fits_of_some rfl (fmtMEM_lt mem (by decide) (by have := s.isLt; omega) (by decide))
theorem WordFits.pref (mem : MemArg) : WordFits.Statement (.pref mem) :=
  fits_of_some rfl (fmtMEM_lt mem (by decide) (by decide) (by decide))
theorem WordFits.cwb (mem : MemArg) : WordFits.Statement (.cwb mem) :=
  fits_of_some rfl (fmtMEM_lt mem (by decide) (by decide) (by decide))
theorem WordFits.cinv (mem : MemArg) : WordFits.Statement (.cinv mem) :=
  fits_of_some rfl (fmtMEM_lt mem (by decide) (by decide) (by decide))
theorem WordFits.discard (mem : MemArg) : WordFits.Statement (.discard mem) :=
  fits_of_some rfl (fmtMEM_lt mem (by decide) (by decide) (by decide))
theorem WordFits.vld (d : Reg) (mem : MemArg) (z : BitVec 2) : WordFits.Statement (.vld d mem z) :=
  fits_of_some rfl (fmtMEM_lt mem (by decide) (by have := d.isLt; omega) (by have := z.isLt; omega))
theorem WordFits.vst (s : Reg) (mem : MemArg) (z : BitVec 2) : WordFits.Statement (.vst s mem z) :=
  fits_of_some rfl (fmtMEM_lt mem (by decide) (by have := s.isLt; omega) (by have := z.isLt; omega))
theorem WordFits.vlds (d : Reg) (mem : MemArg) (z : BitVec 2) : WordFits.Statement (.vlds d mem z) :=
  fits_of_some rfl (fmtMEM_lt mem (by decide) (by have := d.isLt; omega) (by have := z.isLt; omega))
theorem WordFits.vsts (s : Reg) (mem : MemArg) (z : BitVec 2) : WordFits.Statement (.vsts s mem z) :=
  fits_of_some rfl (fmtMEM_lt mem (by decide) (by have := s.isLt; omega) (by have := z.isLt; omega))
theorem WordFits.atom (o : AtomOp) (r : MemOrd) (d : Reg) (b : Src) (la : BitVec 4) : WordFits.Statement (.atom o r d b la) :=
  fits_of_some rfl (fmtAT_lt (by decide) (by have := atomOp_code_lt o; omega) (by have := memOrd_code_lt r; omega) (by have := d.isLt; omega) (src_bits_lt b) (by have := la.isLt; omega))
theorem WordFits.cas (r : MemOrd) (d : Reg) (b : Src) (la : BitVec 4) : WordFits.Statement (.cas r d b la) :=
  fits_of_some rfl (fmtAT_lt (by decide) (by decide) (by have := memOrd_code_lt r; omega) (by have := d.isLt; omega) (src_bits_lt b) (by have := la.isLt; omega))
theorem WordFits.red (o : AtomOp) (r : MemOrd) (d : Reg) (b : Src) (la : BitVec 4) : WordFits.Statement (.red o r d b la) :=
  fits_of_some rfl (fmtAT_lt (by decide) (by have := atomOp_code_lt o; omega) (by have := memOrd_code_lt r; omega) (by have := d.isLt; omega) (src_bits_lt b) (by have := la.isLt; omega))
theorem WordFits.stStrong (r : MemOrd) (d : Reg) (b : Src) (la : BitVec 4) : WordFits.Statement (.stStrong r d b la) :=
  fits_of_some rfl (fmtAT_lt (by decide) (by decide) (by have := memOrd_code_lt r; omega) (by have := d.isLt; omega) (src_bits_lt b) (by have := la.isLt; omega))
theorem WordFits.ldStrong (r : MemOrd) (d : Reg) (b : Src) (la : BitVec 4) : WordFits.Statement (.ldStrong r d b la) :=
  fits_of_some rfl (fmtAT_lt (by decide) (by decide) (by have := memOrd_code_lt r; omega) (by have := d.isLt; omega) (src_bits_lt b) (by have := la.isLt; omega))
theorem WordFits.vatom (o : AtomOp) (r : MemOrd) (d : Reg) (b : Src) (la : BitVec 4) : WordFits.Statement (.vatom o r d b la) :=
  fits_of_some rfl (fmtAT_lt (by decide) (by have := atomOp_code_lt o; omega) (by have := memOrd_code_lt r; omega) (by have := d.isLt; omega) (src_bits_lt b) (by have := la.isLt; omega))
theorem WordFits.vcas (r : MemOrd) (d : Reg) (b : Src) (la : BitVec 4) : WordFits.Statement (.vcas r d b la) :=
  fits_of_some rfl (fmtAT_lt (by decide) (by decide) (by have := memOrd_code_lt r; omega) (by have := d.isLt; omega) (src_bits_lt b) (by have := la.isLt; omega))
theorem WordFits.vred (o : AtomOp) (r : MemOrd) (d : Reg) (b : Src) (la : BitVec 4) : WordFits.Statement (.vred o r d b la) :=
  fits_of_some rfl (fmtAT_lt (by decide) (by have := atomOp_code_lt o; omega) (by have := memOrd_code_lt r; omega) (by have := d.isLt; omega) (src_bits_lt b) (by have := la.isLt; omega))
theorem WordFits.vstStrong (r : MemOrd) (d : Reg) (b : Src) (la : BitVec 4) : WordFits.Statement (.vstStrong r d b la) :=
  fits_of_some rfl (fmtAT_lt (by decide) (by decide) (by have := memOrd_code_lt r; omega) (by have := d.isLt; omega) (src_bits_lt b) (by have := la.isLt; omega))
theorem WordFits.vldStrong (r : MemOrd) (d : Reg) (b : Src) (la : BitVec 4) : WordFits.Statement (.vldStrong r d b la) :=
  fits_of_some rfl (fmtAT_lt (by decide) (by decide) (by have := memOrd_code_lt r; omega) (by have := d.isLt; omega) (src_bits_lt b) (by have := la.isLt; omega))
theorem WordFits.fence (k : FenceKind) (c : Scope) (uo cp : Bool) (d : Reg) : WordFits.Statement (.fence k c uo cp d) :=
  fits_of_some rfl (fmtFence_lt (by have := d.isLt; omega) (by have := fenceCode_lt c; omega) (by have := Bool.toNat_le uo; omega) (by have := Bool.toNat_le cp; omega) (by have := fenceKind_code_lt k; omega))
theorem WordFits.fwait (a : Src) : WordFits.Statement (.fwait a) :=
  fits_of_some rfl (fmtRR_lt (by decide) (by decide) (src_bits_lt a) (by decide) (by decide))
theorem WordFits.await (d : Reg) (a : Src) : WordFits.Statement (.await d a) :=
  fits_of_some rfl (fmtRR_lt (by decide) (by have := d.isLt; omega) (src_bits_lt a) (by decide) (by decide))
theorem WordFits.bellclr (slot : BitVec 2) : WordFits.Statement (.bellclr slot) :=
  fits_of_some rfl (fmtRR_lt (by decide) (by decide) (by decide) (by have := slot.isLt; omega) (by decide))
theorem WordFits.bwait (a b : Src) : WordFits.Statement (.bwait a b) :=
  fits_of_some rfl (fmtRR_lt (by decide) (by decide) (src_bits_lt a) (src_bits_lt b) (by decide))
theorem WordFits.arrive (d : Reg) (a : Src) : WordFits.Statement (.arrive d a) :=
  fits_of_some rfl (fmtRR_lt (by decide) (by have := d.isLt; omega) (src_bits_lt a) (by decide) (by decide))
theorem WordFits.arrivePub (d : Reg) (a : Src) : WordFits.Statement (.arrivePub d a) :=
  fits_of_some rfl (fmtRR_lt (by decide) (by have := d.isLt; omega) (src_bits_lt a) (by decide) (by decide))
theorem WordFits.arriveDrop (d : Reg) (a : Src) : WordFits.Statement (.arriveDrop d a) :=
  fits_of_some rfl (fmtRR_lt (by decide) (by have := d.isLt; omega) (src_bits_lt a) (by decide) (by decide))
theorem WordFits.arriveDropPub (d : Reg) (a : Src) : WordFits.Statement (.arriveDropPub d a) :=
  fits_of_some rfl (fmtRR_lt (by decide) (by have := d.isLt; omega) (src_bits_lt a) (by decide) (by decide))
theorem WordFits.join (d : Reg) (a : Src) : WordFits.Statement (.join d a) :=
  fits_of_some rfl (fmtRR_lt (by decide) (by have := d.isLt; omega) (src_bits_lt a) (by decide) (by decide))
theorem WordFits.leave (d : Reg) (a : Src) : WordFits.Statement (.leave d a) :=
  fits_of_some rfl (fmtRR_lt (by decide) (by have := d.isLt; omega) (src_bits_lt a) (by decide) (by decide))
theorem WordFits.clead (d : Reg) (a : Src) : WordFits.Statement (.clead d a) :=
  fits_of_some rfl (fmtRR_lt (by decide) (by have := d.isLt; omega) (src_bits_lt a) (by decide) (by decide))
theorem WordFits.bell (c : BellCond) (d : Reg) (slot : BitVec 2) (a b : Src) : WordFits.Statement (.bell c d slot a b) :=
  fits_of_some rfl (fmtRR_lt (by decide) (by have := d.isLt; omega) (src_bits_lt a) (src_bits_lt b) (by have := bellCond_code_lt c; have := slot.isLt; omega))
theorem WordFits.cpy (d : Reg) (a b : Src) : WordFits.Statement (.cpy d a b) :=
  fits_of_some rfl (fmtRR_lt (by decide) (by have := d.isLt; omega) (src_bits_lt a) (src_bits_lt b) (by decide))
theorem WordFits.cpyt (d : Reg) (a b : Src) : WordFits.Statement (.cpyt d a b) :=
  fits_of_some rfl (fmtRR_lt (by decide) (by have := d.isLt; omega) (src_bits_lt a) (src_bits_lt b) (by decide))
theorem WordFits.gath (d : Reg) (a : Src) : WordFits.Statement (.gath d a) :=
  fits_of_some rfl (fmtRR_lt (by decide) (by have := d.isLt; omega) (src_bits_lt a) (by decide) (by decide))
theorem WordFits.scat (d : Reg) (a : Src) : WordFits.Statement (.scat d a) :=
  fits_of_some rfl (fmtRR_lt (by decide) (by have := d.isLt; omega) (src_bits_lt a) (by decide) (by decide))
theorem WordFits.cseal (t : BitVec 6) : WordFits.Statement (.cseal t) :=
  fits_of_some rfl (fmtRR_lt (by decide) (by decide) (by decide) (by have := t.isLt; omega) (by decide))
theorem WordFits.cwany (d : Reg) (a : Src) : WordFits.Statement (.cwany d a) :=
  fits_of_some rfl (fmtRR_lt (by decide) (by have := d.isLt; omega) (src_bits_lt a) (by decide) (by decide))
theorem WordFits.cwall (a : Src) : WordFits.Statement (.cwall a) :=
  fits_of_some rfl (fmtRR_lt (by decide) (by decide) (src_bits_lt a) (by decide) (by decide))
theorem WordFits.cffr (d : Reg) (a : Src) : WordFits.Statement (.cffr d a) :=
  fits_of_some rfl (fmtRR_lt (by decide) (by have := d.isLt; omega) (src_bits_lt a) (by decide) (by decide))
theorem WordFits.ctclr (a : Src) : WordFits.Statement (.ctclr a) :=
  fits_of_some rfl (fmtRR_lt (by decide) (by decide) (src_bits_lt a) (by decide) (by decide))
theorem WordFits.coll (a : Src) : WordFits.Statement (.coll a) :=
  fits_of_some rfl (fmtRR_lt (by decide) (by decide) (src_bits_lt a) (by decide) (by decide))
theorem WordFits.mtile (a b c : Reg) (la : BitVec 4) : WordFits.Statement (.mtile a b c la) :=
  fits_of_some rfl (fmtMX_lt (by have := a.isLt; omega) (by have := b.isLt; omega) (by have := c.isLt; omega) (by decide) (by have := la.isLt; omega))
theorem WordFits.mma (a b c : Reg) (la : BitVec 4) : WordFits.Statement (.mma a b c la) :=
  fits_of_some rfl (fmtMX_lt (by have := a.isLt; omega) (by have := b.isLt; omega) (by have := c.isLt; omega) (by decide) (by have := la.isLt; omega))
theorem WordFits.mzero (a b : Reg) (la : BitVec 4) : WordFits.Statement (.mzero a b la) :=
  fits_of_some rfl (fmtMX_lt (by have := a.isLt; omega) (by have := b.isLt; omega) (by decide) (by decide) (by have := la.isLt; omega))
theorem WordFits.maccrd (a b : Reg) (la : BitVec 4) : WordFits.Statement (.maccrd a b la) :=
  fits_of_some rfl (fmtMX_lt (by have := a.isLt; omega) (by have := b.isLt; omega) (by decide) (by decide) (by have := la.isLt; omega))
theorem WordFits.maccwr (a b : Reg) (la : BitVec 4) : WordFits.Statement (.maccwr a b la) :=
  fits_of_some rfl (fmtMX_lt (by have := a.isLt; omega) (by have := b.isLt; omega) (by decide) (by decide) (by have := la.isLt; omega))
theorem WordFits.maccld (a b c : Reg) (la : BitVec 4) : WordFits.Statement (.maccld a b c la) :=
  fits_of_some rfl (fmtMX_lt (by have := a.isLt; omega) (by have := b.isLt; omega) (by have := c.isLt; omega) (by decide) (by have := la.isLt; omega))
theorem WordFits.maccst (a b c : Reg) (la : BitVec 4) : WordFits.Statement (.maccst a b c la) :=
  fits_of_some rfl (fmtMX_lt (by have := a.isLt; omega) (by have := b.isLt; omega) (by have := c.isLt; omega) (by decide) (by have := la.isLt; omega))
theorem WordFits.acwin (a b c : Reg) (la : BitVec 4) : WordFits.Statement (.acwin a b c la) :=
  fits_of_some rfl (fmtMX_lt (by have := a.isLt; omega) (by have := b.isLt; omega) (by have := c.isLt; omega) (by decide) (by have := la.isLt; omega))
theorem WordFits.mplan (a b c : Reg) (la : BitVec 4) : WordFits.Statement (.mplan a b c la) :=
  fits_of_some rfl (fmtMX_lt (by have := a.isLt; omega) (by have := b.isLt; omega) (by have := c.isLt; omega) (by decide) (by have := la.isLt; omega))
theorem WordFits.mchk (a b : Reg) (la : BitVec 4) : WordFits.Statement (.mchk a b la) :=
  fits_of_some rfl (fmtMX_lt (by have := a.isLt; omega) (by have := b.isLt; omega) (by decide) (by decide) (by have := la.isLt; omega))
theorem WordFits.doorbell (queue : Nat) (count : Word) : WordFits.Statement (.doorbell queue count) := fits_of_none rfl
theorem WordFits.packetPrefetch (queue n : Nat) : WordFits.Statement (.packetPrefetch queue n) := fits_of_none rfl
theorem WordFits.drumRound : WordFits.Statement .drumRound := fits_of_none rfl
theorem WordFits.graph (queue : Nat) : WordFits.Statement (.graph queue) := fits_of_none rfl
theorem WordFits.nodePacket (queue : Nat) : WordFits.Statement (.nodePacket queue) := fits_of_none rfl
theorem WordFits.gang (queue : Nat) : WordFits.Statement (.gang queue) := fits_of_none rfl
theorem WordFits.gangReserveRetry (queue : Nat) : WordFits.Statement (.gangReserveRetry queue) := fits_of_none rfl
theorem WordFits.signal (queue : Nat) : WordFits.Statement (.signal queue) := fits_of_none rfl
theorem WordFits.waitSignal (queue : Nat) : WordFits.Statement (.waitSignal queue) := fits_of_none rfl
theorem WordFits.rangeCommit (queue : Nat) : WordFits.Statement (.rangeCommit queue) := fits_of_none rfl
theorem WordFits.marker (queue : Nat) : WordFits.Statement (.marker queue) := fits_of_none rfl
theorem WordFits.create (queue : Nat) : WordFits.Statement (.create queue) := fits_of_none rfl
theorem WordFits.destroy (queue : Nat) : WordFits.Statement (.destroy queue) := fits_of_none rfl
theorem WordFits.update (queue : Nat) : WordFits.Statement (.update queue) := fits_of_none rfl
theorem WordFits.mapq (queue : Nat) : WordFits.Statement (.mapq queue) := fits_of_none rfl
theorem WordFits.unmapq (queue : Nat) : WordFits.Statement (.unmapq queue) := fits_of_none rfl
theorem WordFits.resumeq (queue : Nat) : WordFits.Statement (.resumeq queue) := fits_of_none rfl
theorem WordFits.preempt (queue : Nat) : WordFits.Statement (.preempt queue) := fits_of_none rfl
theorem WordFits.fwHandover (queue : Nat) : WordFits.Statement (.fwHandover queue) := fits_of_none rfl
theorem WordFits.fwHandoverSwitch : WordFits.Statement .fwHandoverSwitch := fits_of_none rfl
theorem WordFits.teamPlacement : WordFits.Statement .teamPlacement := fits_of_none rfl
theorem WordFits.slotYield (team : Nat) : WordFits.Statement (.slotYield team) := fits_of_none rfl
theorem WordFits.teamExitComplete (team : Nat) : WordFits.Statement (.teamExitComplete team) := fits_of_none rfl
theorem WordFits.heldSuccessorEntry : WordFits.Statement .heldSuccessorEntry := fits_of_none rfl
theorem WordFits.sliceEnd : WordFits.Statement .sliceEnd := fits_of_none rfl
theorem WordFits.preemptionRequest : WordFits.Statement .preemptionRequest := fits_of_none rfl
theorem WordFits.contextSwitchIn : WordFits.Statement .contextSwitchIn := fits_of_none rfl
theorem WordFits.shadowPreload : WordFits.Statement .shadowPreload := fits_of_none rfl
theorem WordFits.stateSpill : WordFits.Statement .stateSpill := fits_of_none rfl
theorem WordFits.atomicPerform (access : Nat) : WordFits.Statement (.atomicPerform access) := fits_of_none rfl
theorem WordFits.atomicReply (access : Nat) : WordFits.Statement (.atomicReply access) := fits_of_none rfl
theorem WordFits.writePerform (access : Nat) : WordFits.Statement (.writePerform access) := fits_of_none rfl
theorem WordFits.copyPerform (copy : Nat) (bytes : List Nat) : WordFits.Statement (.copyPerform copy bytes) := fits_of_none rfl
theorem WordFits.followOnIssue (copy : Nat) : WordFits.Statement (.followOnIssue copy) := fits_of_none rfl
theorem WordFits.fenceComplete (team : Nat) (ticket : Word) : WordFits.Statement (.fenceComplete team ticket) := fits_of_none rfl
theorem WordFits.awaitTimeout (team : Nat) : WordFits.Statement (.awaitTimeout team) := fits_of_none rfl
theorem WordFits.collComplete (copy : Nat) (remote : List RankPart) : WordFits.Statement (.collComplete copy remote) := fits_of_none rfl
theorem WordFits.kGroupStep (team : Nat) (check : StepCheck) : WordFits.Statement (.kGroupStep team check) := fits_of_none rfl
theorem WordFits.matrixReset (core : Nat) : WordFits.Statement (.matrixReset core) := fits_of_none rfl
theorem WordFits.asyncTrapDelivery (team : Nat) : WordFits.Statement (.asyncTrapDelivery team) := fits_of_none rfl
theorem WordFits.pageHomeChange (pte pageBits : Nat) (entry : BitVec 64) : WordFits.Statement (.pageHomeChange pte pageBits entry) := fits_of_none rfl
theorem WordFits.invalidateContext (ctx : BitVec 16) : WordFits.Statement (.invalidateContext ctx) := fits_of_none rfl
theorem WordFits.invalidatePage (ctx : BitVec 16) (va : Addr) : WordFits.Statement (.invalidatePage ctx va) := fits_of_none rfl
theorem WordFits.tbloCapture : WordFits.Statement .tbloCapture := fits_of_none rfl
theorem WordFits.registerWrite (n : BitVec 12) (v : Word) : WordFits.Statement (.registerWrite n v) := fits_of_none rfl
theorem WordFits.hostRequest (r : BusReq) : WordFits.Statement (.hostRequest r) := fits_of_none rfl
theorem WordFits.peerRequest (device : BitVec 12) (r : BusReq) : WordFits.Statement (.peerRequest device r) := fits_of_none rfl
theorem WordFits.flitCrcError (link : Link) (second : Bool) (lost done : List Nat) : WordFits.Statement (.flitCrcError link second lost done) := fits_of_none rfl
theorem WordFits.ucieLinkFailure (link : UcieLink) : WordFits.Statement (.ucieLinkFailure link) := fits_of_none rfl
theorem WordFits.eccError (site : EccSite) (outcome : EccOutcome) : WordFits.Statement (.eccError site outcome) := fits_of_none rfl
theorem WordFits.portBeatError (core : Nat) (half : Bool) (second : Bool) : WordFits.Statement (.portBeatError core half second) := fits_of_none rfl
theorem WordFits.dieLost (die : Nat) : WordFits.Statement (.dieLost die) := fits_of_none rfl
theorem WordFits.hotSet (tower : Nat) : WordFits.Statement (.hotSet tower) := fits_of_none rfl
theorem WordFits.hotClear (tower : Nat) : WordFits.Statement (.hotClear tower) := fits_of_none rfl
theorem WordFits.powerThrottle : WordFits.Statement .powerThrottle := fits_of_none rfl
theorem WordFits.setq0 : WordFits.Statement .setq0 := fits_of_none rfl
theorem WordFits.route : WordFits.Statement .route := fits_of_none rfl
theorem WordFits.attest : WordFits.Statement .attest := fits_of_none rfl
theorem WordFits.reset : WordFits.Statement .reset := fits_of_none rfl
theorem WordFits.event : WordFits.Statement .event := fits_of_none rfl
theorem WordFits.coldReset : WordFits.Statement .coldReset := fits_of_none rfl
theorem WordFits.ixletReset : WordFits.Statement .ixletReset := fits_of_none rfl
theorem WordFits.stop (t : TeamRef) : WordFits.Statement (.stop t) := fits_of_none rfl
theorem WordFits.resume (t : TeamRef) : WordFits.Statement (.resume t) := fits_of_none rfl
theorem WordFits.read (t : TeamRef) (item : DebugItem) : WordFits.Statement (.read t item) := fits_of_none rfl
theorem WordFits.write (t : TeamRef) (item : DebugItem) (v : BitVec 256) : WordFits.Statement (.write t item v) := fits_of_none rfl
theorem WordFits.watch (ctx : BitVec 16) (slot : Nat) (w : Option Watch) : WordFits.Statement (.watch ctx slot w) := fits_of_none rfl
theorem WordFits.illegalOpcodeWord (w : Word) : WordFits.Statement (.illegalOpcodeWord w) := fits_of_none rfl
theorem WordFits.instructionFetchFault : WordFits.Statement .instructionFetchFault := fits_of_none rfl
theorem WordFits.loadPerform (access : Nat) (keep : Bool) : WordFits.Statement (.loadPerform access keep) := fits_of_none rfl
theorem WordFits.throttleClear : WordFits.Statement .throttleClear := fits_of_none rfl
theorem WordFits.debugAttach (ctx : BitVec 16) (on : Bool) : WordFits.Statement (.debugAttach ctx on) := fits_of_none rfl

end Sys2Proof.Laws
end

