-- ==== Sys2Proof/Laws/Registers.lean ====
section
/-!
SUPPORT. Register files after an instruction, in closed form: what writes and last uses leave of each register
(07 R100, R101), as `scalarsAfter`, `masksAfter` and `vectorsAfter` of Safety say it.
-/
namespace Sys2Proof.Laws
open Sys2Proof.Machine

/-! ### Last uses -/

/-- Scalar registers that become dead, all at once; s0 never does. -/
def killedS (l : List Reg) (v : Vector SReg 64) : Vector SReg 64 :=
  .ofFn fun i : Fin 64 => if i = 0 then v[i] else if l.any fun r => r.toNat == i.val then .dead else v[i]
/-- The same for virtual vector registers. -/
def killedV (l : List Reg) (v : Vector VReg 64) : Vector VReg 64 :=
  .ofFn fun i : Fin 64 => if l.any fun r => r.toNat == i.val then .dead else v[i]
/-- The same for mask registers. -/
def killedM (l : List MReg) (v : Vector MaskReg 16) : Vector MaskReg 16 :=
  .ofFn fun i : Fin 16 => if i = 0 then v[i] else if l.any fun r => r.toNat == i.val then .dead else v[i]

@[simp] theorem killedS_nil (v : Vector SReg 64) : killedS [] v = v := by ext i hi; simp [killedS]
@[simp] theorem killedV_nil (v : Vector VReg 64) : killedV [] v = v := by ext i hi; simp [killedV]
@[simp] theorem killedM_nil (v : Vector MaskReg 16) : killedM [] v = v := by ext i hi; simp [killedM]

theorem killedS_killedS (a b : List Reg) (v : Vector SReg 64) : killedS b (killedS a v) = killedS (a ++ b) v := by
  ext i hi
  simp only [killedS, Vector.getElem_ofFn, Fin.getElem_fin, List.any_append, Bool.or_eq_true]
  split
  · rfl
  · by_cases h : (a.any fun r => r.toNat == i) = true <;> by_cases h' : (b.any fun r => r.toNat == i) = true <;>
      simp [h, h']

theorem killedV_killedV (a b : List Reg) (v : Vector VReg 64) : killedV b (killedV a v) = killedV (a ++ b) v := by
  ext i hi
  simp only [killedV, Vector.getElem_ofFn, Fin.getElem_fin, List.any_append, Bool.or_eq_true]
  by_cases h : (a.any fun r => r.toNat == i) = true <;> by_cases h' : (b.any fun r => r.toNat == i) = true <;>
    simp [h, h']

theorem killedM_killedM (a b : List MReg) (v : Vector MaskReg 16) : killedM b (killedM a v) = killedM (a ++ b) v := by
  ext i hi
  simp only [killedM, Vector.getElem_ofFn, Fin.getElem_fin, List.any_append, Bool.or_eq_true]
  split
  · rfl
  · by_cases h : (a.any fun r => r.toNat == i) = true <;> by_cases h' : (b.any fun r => r.toNat == i) = true <;>
      simp [h, h']

theorem killedS_one (r : Reg) (v : Vector SReg 64) :
    killedS [r] v = if r = 0#6 then v else v.set r.toNat .dead r.isLt := by
  ext i hi
  simp only [killedS, Vector.getElem_ofFn, Fin.getElem_fin, List.any_cons, List.any_nil, Bool.or_false, beq_iff_eq,
    Fin.ext_iff, Fin.val_zero]
  by_cases h : r = 0#6
  · subst h; by_cases h0 : i = 0 <;> simp [h0]; omega
  · have hn : r.toNat ≠ 0 := fun e => h (BitVec.eq_of_toNat_eq e)
    simp only [h, if_false, Vector.getElem_set]
    by_cases h0 : i = 0
    · simp [h0, hn]
    · simp [h0]

theorem killedV_one (r : Reg) (v : Vector VReg 64) : killedV [r] v = v.set r.toNat .dead r.isLt := by
  ext i hi
  simp only [killedV, Vector.getElem_ofFn, Fin.getElem_fin, List.any_cons, List.any_nil, Bool.or_false, beq_iff_eq,
    Vector.getElem_set]

theorem killedM_one (r : MReg) (v : Vector MaskReg 16) :
    killedM [r] v = if r = 0#4 then v else v.set r.toNat .dead r.isLt := by
  ext i hi
  simp only [killedM, Vector.getElem_ofFn, Fin.getElem_fin, List.any_cons, List.any_nil, Bool.or_false, beq_iff_eq,
    Fin.ext_iff, Fin.val_zero]
  by_cases h : r = 0#4
  · subst h; by_cases h0 : i = 0 <;> simp [h0]; omega
  · have hn : r.toNat ≠ 0 := fun e => h (BitVec.eq_of_toNat_eq e)
    simp only [h, if_false, Vector.getElem_set]
    by_cases h0 : i = 0
    · simp [h0, hn]
    · simp [h0]

/-- Registers of a team that become dead, all at once; the vector registers by their operand numbers. -/
def killed (S V : List Reg) (M : List MReg) (t : Team) : Team :=
  { t with sregs := killedS S t.sregs, vregs := killedV (V.map t.virt) t.vregs, masks := killedM M t.masks }

@[simp] theorem killed_vbase (S V : List Reg) (M : List MReg) (t : Team) : (killed S V M t).vbase = t.vbase := by
  simp only [killed]
@[simp] theorem killed_promises (S V : List Reg) (M : List MReg) (t : Team) :
    (killed S V M t).promises = t.promises := by
  simp only [killed]
@[simp] theorem killed_id (S V : List Reg) (M : List MReg) (t : Team) : (killed S V M t).id = t.id := by
  simp only [killed]

theorem killed_nil (t : Team) : killed [] [] [] t = t := by
  unfold killed
  rw [killedS_nil, List.map_nil, killedV_nil, killedM_nil]

theorem killed_killed (S V S' V' : List Reg) (M M' : List MReg) (t : Team) :
    killed S' V' M' (killed S V M t) = killed (S ++ S') (V ++ V') (M ++ M') t := by
  have e : Team.virt (killed S V M t) = t.virt := by funext r; simp only [Team.virt, killed_vbase]
  show ({ killed S V M t with
      sregs := killedS S' (killed S V M t).sregs
      vregs := killedV (V'.map (Team.virt (killed S V M t))) (killed S V M t).vregs
      masks := killedM M' (killed S V M t).masks } : Team) = _
  rw [e]
  simp only [killed, killedS_killedS, killedV_killedV, killedM_killedM, List.map_append]

theorem killS_killed (t : Team) (r : Reg) : t.killS r = killed [r] [] [] t := by
  rw [killS_eq]
  unfold killed
  rw [killedS_one, List.map_nil, killedV_nil, killedM_nil]

theorem killV_killed (t : Team) (r : Reg) : t.killV r = killed [] [r] [] t := by
  rw [killV_eq]
  unfold killed
  rw [killedS_nil, List.map_cons, List.map_nil, killedV_one, killedM_nil]

theorem killM_killed (t : Team) (r : MReg) : t.killM r = killed [] [] [r] t := by
  rw [killM_eq]
  unfold killed
  rw [killedS_nil, List.map_nil, killedV_nil, killedM_one]

theorem foldl_killS (l : List Reg) (t : Team) : l.foldl Team.killS t = killed l [] [] t := by
  induction l generalizing t with
  | nil => exact (killed_nil t).symm
  | cons r l ih => rw [List.foldl_cons, ih, killS_killed, killed_killed]; rfl

theorem foldl_killV (l : List Reg) (t : Team) : l.foldl Team.killV t = killed [] l [] t := by
  induction l generalizing t with
  | nil => exact (killed_nil t).symm
  | cons r l ih => rw [List.foldl_cons, ih, killV_killed, killed_killed]; rfl

theorem foldl_killM (l : List MReg) (t : Team) : l.foldl Team.killM t = killed [] [] l t := by
  induction l generalizing t with
  | nil => exact (killed_nil t).symm
  | cons r l ih => rw [List.foldl_cons, ih, killM_killed, killed_killed]; rfl

/-- The scalar registers that the instruction uses up: those of sources with a set last-use bit that it does not
also write (07 R101). -/
def usedUpS (sh : Shape) : List Reg :=
  ((sh.srcs ++ sh.unread).filter (·.last)).flatMap fun u =>
    u.o.scalars.filter fun r => !(sh.dsts.flatMap Opnd.scalars).contains r
def usedUpV (sh : Shape) : List Reg :=
  ((sh.srcs ++ sh.unread).filter (·.last)).flatMap fun u =>
    u.o.vectors.filter fun r => !(sh.dsts.flatMap Opnd.vectors).contains r
def usedUpM (sh : Shape) : List MReg :=
  ((sh.srcs ++ sh.unread).filter (·.last)).flatMap fun u =>
    u.o.maskRegs.filter fun r => !(sh.dsts.flatMap Opnd.maskRegs).contains r

theorem foldl_killOpnd (us : List Use) (keep : List Opnd) (t : Team) :
    us.foldl (fun t u => t.killOpnd u.o keep) t =
      killed (us.flatMap fun u => u.o.scalars.filter fun r => !(keep.flatMap Opnd.scalars).contains r)
        (us.flatMap fun u => u.o.vectors.filter fun r => !(keep.flatMap Opnd.vectors).contains r)
        (us.flatMap fun u => u.o.maskRegs.filter fun r => !(keep.flatMap Opnd.maskRegs).contains r) t := by
  induction us generalizing t with
  | nil => exact (killed_nil t).symm
  | cons u us ih =>
    rw [List.foldl_cons, ih]
    unfold Team.killOpnd
    simp only [foldl_killS, foldl_killV, foldl_killM, killed_killed, List.flatMap_cons, List.append_nil,
      List.nil_append]

/-- What completes with an instruction, in closed form. -/
theorem retire_eq (sh : Shape) (t : Team) :
    sh.retire t =
      { killed (usedUpS sh) (usedUpV sh) (usedUpM sh) t with
        promises := agePromises t.promises ++ sh.promise t
        issued := t.issued + 1 } := by
  have e : ((sh.srcs ++ sh.unread).filter (·.last)).foldl (fun t u => t.killOpnd u.o sh.dsts) t =
      killed (usedUpS sh) (usedUpV sh) (usedUpM sh) t := foldl_killOpnd _ _ _
  unfold Shape.retire
  simp only [e, killed]

end Sys2Proof.Laws
end

