-- ==== Sys2Proof/Laws/Touch.lean ====
section
/-!
SUPPORT. The touched-dies mask (21 R319) takes part in no translation, and in nothing that the front end reads.
-/
namespace Sys2Proof.Laws
open Sys2Proof.Machine

/-- Two states in which every address translates, and every byte reads, alike. -/
def SameSpace (s s' : State) : Prop :=
  s'.mem = s.mem ∧ s'.dev = s.dev ∧ s'.cores = s.cores ∧ ∀ q, (s'.queue q).doorbell = (s.queue q).doorbell

/-- Two contexts that differ at most in their touched-dies masks. -/
def SameMap (c c' : Context) : Prop := c' = { c with touched := c'.touched }

variable {s s' : State} {c c' : Context}

theorem windowPlace_same (hs : SameSpace s s') (hc : SameMap c c') (core : Nat) (va : Addr) (i : Intent) :
    windowPlace s' c' core va i = windowPlace s c core va i := by
  have hd := hs.2.1
  rw [hc]; simp only [windowPlace, State.homeLost, hd]; rfl

theorem permit_same (hs : SameSpace s s') (hc : SameMap c c') (va : Addr) (i : Intent) (attr : Nat) (p : Place) :
    permit s' c' va i attr p = permit s c va i attr p := by
  have hd := hs.2.1
  rw [hc]; simp only [permit, State.homeLost, hd]; rfl

theorem walk_same (hs : SameSpace s s') (hc : SameMap c c') (va : Addr) (i : Intent) (ls) (table : Nat) :
    walk s' c' va i table ls = walk s c va i table ls := by
  induction ls generalizing table with
  | nil => rfl
  | cons l ls ih => simp only [walk, ih, leafPlace, permit_same hs hc, hs.1]

theorem translate_same (hs : SameSpace s s') (hc : SameMap c c') (core : Nat) (va : Addr) (i : Intent) :
    translate s' c' core va i = translate s c core va i := by
  have hr : c'.ranges = c.ranges ∧ c'.ptroot = c.ptroot := by rw [hc]; exact ⟨rfl, rfl⟩
  simp only [Machine.translate, windowPlace_same hs hc, permit_same hs hc, walk_same hs hc, hr.1, hr.2]

theorem feTranslate_same (hs : SameSpace s s') (hc : SameMap c c') (va : Addr) (i : Intent) :
    s'.feTranslate c' va i = s.feTranslate c va i := by
  unfold State.feTranslate; rw [translate_same hs hc]

theorem readPlace_same (hs : SameSpace s s') (p : Place) (n : Nat) : s'.readPlace p n = s.readPlace p n := by
  simp only [State.readPlace, State.apertureByte, hs.1, hs.2.1, hs.2.2.2]

theorem reachable_same (hs : SameSpace s s') (p : Place) : s'.reachable p = s.reachable p := by
  simp only [State.reachable, State.portsTo, hs.2.1]

theorem peek_same (hs : SameSpace s s') (hc : SameMap c c') (va : Addr) (n : Nat) : s'.peek c' va n = s.peek c va n := by
  simp only [State.peek, feTranslate_same hs hc, readPlace_same hs, reachable_same hs]

theorem usable_same (hs : SameSpace s s') (hc : SameMap c c') (va : Addr) (i : Intent) :
    s'.usable c' va i = s.usable c va i := by
  simp only [State.usable, feTranslate_same hs hc]

theorem names_same (hs : SameSpace s s') (hc : SameMap c c') (va : Addr) (i : Intent) :
    s'.names c' va i = s.names c va i := by
  simp only [State.names, translate_same hs hc]

theorem features_same (hs : SameSpace s s') (hc : SameMap c c') (idx : Nat) : s'.features c' idx = s.features c idx := by
  have hf : c'.feattab = c.feattab ∧ c'.featcnt = c.featcnt := by rw [hc]; exact ⟨rfl, rfl⟩
  simp only [State.features, State.vectorSet, peek_same hs hc, hf.1, hf.2]

/-- Neither the conditions of R280 nor acceptance reads the mask. -/
theorem descOk_same (hs : SameSpace s s') (hc : SameMap c c') (x : Nat) (fresh formed : Bool) :
    s'.descOk c' x fresh formed = s.descOk c x fresh formed := by
  have hf : c'.claim = c.claim ∧ c'.featcnt = c.featcnt := by rw [hc]; exact ⟨rfl, rfl⟩
  simp only [State.descOk, State.someCore, State.operandsOk, State.addressesOk, Desc.permits, featureFit, dfmBit,
    profileN, features_same hs hc, peek_same hs hc, names_same hs hc, hs.2.1, hs.2.2.1, hf.1, hf.2]

theorem accept_same (hs : SameSpace s s') (hc : SameMap c c') (addr : Addr) (fresh : Bool) :
    s'.accept c' addr fresh = s.accept c addr fresh := by
  simp only [State.accept, peek_same hs hc, descOk_same hs hc]

theorem sameSpace_touch (ctx : Nat) (ps : List Place) : SameSpace s (s.touch ctx ps) := ⟨rfl, rfl, rfl, fun _ => rfl⟩

theorem sameSpace_touchFe (ctx : Nat) (vas : List Addr) : SameSpace s (s.touchFe ctx vas) := by
  unfold State.touchFe; split <;> exact ⟨rfl, rfl, rfl, fun _ => rfl⟩

end Sys2Proof.Laws
end

