-- ==== Sys2Proof/Tests/Slice0.lean ====
section
/-!
SUPPORT. The model's own tests: what WellFormed refuses, words of every instruction with what they stand for, single
steps, and for every statement states and operands that meet its hypotheses.
-/
open Sys2Proof Sys2Proof.Machine

section
set_option Elab.async false

/-! ### What WellFormed refuses -/

/-- One ill-formed term for each check of 07 R93, R109 and of the tables of 09, 13 and 17. -/
theorem test_wf_refuses_registers : ([.addx 5 ⟨4, false⟩ ⟨6, false⟩, .addx 4 ⟨5, false⟩ ⟨6, false⟩, .addx 4 ⟨6, false⟩ ⟨7, false⟩,
    .callr ⟨9, false⟩, .mtile 2 8 10 0, .vld 3 ⟨4, false, .disp 0⟩ 3, .ld 8 ⟨63, false, .disp 0⟩,
    .ld 8 ⟨4, false, .index 7 false⟩, .cas .rlx 8 ⟨61, false⟩ 0, .cas .rlx 8 ⟨62, false⟩ 0,
    .maccld 1 3 2 0] : List Instr).all (fun i => !i.wf) = true := by decide +kernel

theorem test_wf_refuses_values : ([.sext 4 ⟨5, false⟩ 0, .zext 4 ⟨5, false⟩ 33, .regacq 0, .regrel 0, .sbrk 1 254, .scont 1 255,
    .atom .swap .comm 8 ⟨4, false⟩ 0, .red .swap .rlx 8 ⟨4, false⟩ 0, .red .add (.acq .dv) 8 ⟨4, false⟩ 0,
    .cas .comm 8 ⟨4, false⟩ 0, .stStrong (.acq .dv) 8 ⟨4, false⟩ 0, .ldStrong (.rel .dv) 8 ⟨4, false⟩ 0,
    .ldStrong (.acq .tm) 8 ⟨4, false⟩ 0] : List Instr).all (fun i => !i.wf) = true := by decide +kernel

/-! ### Words and what they stand for -/

/-- Each word decodes to its instruction, and the instruction's word is that one. -/
def wordsDecode (ps : List (Word × Instr)) : Bool :=
  ps.all fun p => (decode p.1).toOption == some p.2 && encode p.2 == some p.1

/-- The lists of words worked out in 07, 09, 11, 13 and 17. -/
theorem test_words_worked_scalar : wordsDecode [
    (0x40412345, .lui 4 0x12345), (0x0841600D, .mov 4 ⟨5, true⟩), (0x0871C40B, .sext 7 ⟨7, false⟩ 8),
    (0x10410400, .addx 4 ⟨4, false⟩ ⟨8, false⟩), (0x10411402, .shlix 4 ⟨4, false⟩ 40), (0x38410FFE, .addix 4 ⟨4, false⟩ 2047),
    (0x44400001, .addpc 4 1), (0x1400400D, .exmset ⟨1, false⟩), (0x1430000E, .exmget 3), (0x5C080000, .callr ⟨8, false⟩),
    (0x5C488000, .jmpr ⟨8, true⟩), (0x5C800000, .ret), (0x5CC00000, .eret), (0x5D000000, .entry), (0x5D400000, .exit),
    (0x5D800000, .nop), (0x5DC00000, .yield), (0x48000135, .setmode 0x135), (0x18500182, .swr 3 5), (0x18A00003, .stamp 10),
    (0x18011184, .trap 0x123), (0x18800107, .regacqNb 8 2), (0x18950389, .node 9 ⟨20, false⟩ ⟨7, false⟩),
    (0x58400005, .bany 1 5), (0x60080000, .sif 1), (0x62100800, .sbrk 2 1)] = true := by decide +kernel

theorem test_words_worked_others : wordsDecode [
    (0x4C100000, .vli 1 0), (0x8C515FFE, .vaddi 5 ⟨5, false⟩ 0xFFF), (0x9030C008, .vshli 3 ⟨3, false⟩ 4),
    (0x9030C009, .vshri 3 ⟨3, false⟩ 4), (0x8890000B, .vlane 9), (0x88608194, .vsel 6 ⟨2, false⟩ ⟨3, false⟩ 4),
    (0xA0200000, .vfadd 2 ⟨0, false⟩ ⟨0, false⟩), (0xA8512007, .vfsgnK 5 ⟨4, true⟩), (0xB02000C2, .vfdiv 2 ⟨0, false⟩ ⟨1, true⟩ 2),
    (0xC03083B0, .vqnt 3 ⟨2, false⟩ ⟨7, false⟩ 0x10), (0xC0308801, .vcvt 3 ⟨2, false⟩ 0x10 1), (0xC4804103, .vdot4 8 ⟨1, false⟩ ⟨2, false⟩),
    (0xC8418010, .vbcast 4 ⟨6, false⟩ 0), (0xCCA12001, .vredadd 10 ⟨4, true⟩ 1),
    (0xE0810044, .ld 8 ⟨4, false, .disp 4⟩), (0xE0811A14, .ld 8 ⟨4, false, .modulo 2 1⟩), (0xE0910818, .st 9 ⟨4, false, .postInc 1⟩),
    (0xE8810002, .atom .add .rlx 8 ⟨4, false⟩ 2), (0xE8A10A10, .red .max .comm 10 ⟨4, false⟩ 0), (0xECC60001, .fence .rl .dv false false 12),
    (0xEC030004, .fwait ⟨12, false⟩), (0xECC38005, .await 12 ⟨14, false⟩), (0xEC950009, .arrivePub 9 ⟨20, false⟩), (0xF0000284, .cseal 5),
    (0xF0028006, .cwall ⟨10, false⟩), (0xF4220C10, .mma 2 8 12 0), (0xF4824020, .mzero 8 9 0), (0xF4520030, .maccrd 5 8 0),
    (0xF4850960, .maccst 8 20 9 0), (0xF4928B70, .acwin 9 10 11 0), (0xF420CC80, .mplan 2 3 12 0), (0xF4900090, .mchk 9 0 0)] = true := by
  decide +kernel

/-- Words that 07 R112, 09 and 13 refuse: a last-use bit of a field that is not read, a reserved bit set, an odd pair, an
unassigned ORD. -/
theorem test_words_refused : ([0x0841C04D, 0x5D000001, 0x10510400, 0xE8810022, 0x00000000, 0xFFFFFFFF] : List Word).all
    (fun w => (decode w).toOption == none) = true := by decide +kernel

/-! Every instruction's word, each field written where its format has it (07 R107 to R111). -/

theorem test_words_integer_1 : wordsDecode [
    (0x056AA600, .add 22 ⟨42, true⟩ ⟨12, false⟩),
    (0x056AA601, .sub 22 ⟨42, true⟩ ⟨12, false⟩),
    (0x056AA602, .mul 22 ⟨42, true⟩ ⟨12, false⟩),
    (0x056AA603, .mulh 22 ⟨42, true⟩ ⟨12, false⟩),
    (0x056AA604, .mulhu 22 ⟨42, true⟩ ⟨12, false⟩),
    (0x056AA605, .and 22 ⟨42, true⟩ ⟨12, false⟩),
    (0x056AA606, .or 22 ⟨42, true⟩ ⟨12, false⟩),
    (0x056AA607, .xor 22 ⟨42, true⟩ ⟨12, false⟩),
    (0x056AA608, .andn 22 ⟨42, true⟩ ⟨12, false⟩),
    (0x056AA609, .shl 22 ⟨42, true⟩ ⟨12, false⟩),
    (0x056AA60A, .shr 22 ⟨42, true⟩ ⟨12, false⟩),
    (0x056AA60B, .sra 22 ⟨42, true⟩ ⟨12, false⟩),
    (0x096AA600, .min 22 ⟨42, true⟩ ⟨12, false⟩),
    (0x096AA601, .max 22 ⟨42, true⟩ ⟨12, false⟩),
    (0x096AA602, .minu 22 ⟨42, true⟩ ⟨12, false⟩),
    (0x096AA603, .maxu 22 ⟨42, true⟩ ⟨12, false⟩),
    (0x096AA604, .seq 22 ⟨42, true⟩ ⟨12, false⟩),
    (0x096AA605, .sne 22 ⟨42, true⟩ ⟨12, false⟩),
    (0x096AA606, .slt 22 ⟨42, true⟩ ⟨12, false⟩),
    (0x096AA607, .sltu 22 ⟨42, true⟩ ⟨12, false⟩),
    (0x096AA608, .sel 22 ⟨42, true⟩ ⟨12, false⟩),
    (0x096AA009, .clz 22 ⟨42, true⟩),
    (0x096AA00A, .popc 22 ⟨42, true⟩),
    (0x096AAA8B, .sext 22 ⟨42, true⟩ 21),
    (0x096AAA8C, .zext 22 ⟨42, true⟩ 21),
    (0x096AA00D, .mov 22 ⟨42, true⟩)] = true := by decide +kernel

theorem test_words_integer_2 : wordsDecode [
    (0x0D6AA605, .div 22 ⟨42, true⟩ ⟨12, false⟩ 5),
    (0x0D6AA615, .divu 22 ⟨42, true⟩ ⟨12, false⟩ 5),
    (0x0D6AA625, .rem 22 ⟨42, true⟩ ⟨12, false⟩ 5),
    (0x0D6AA635, .remu 22 ⟨42, true⟩ ⟨12, false⟩ 5),
    (0x116AA600, .addx 22 ⟨42, true⟩ ⟨12, false⟩),
    (0x116AA601, .subx 22 ⟨42, true⟩ ⟨12, false⟩),
    (0x116AAA82, .shlix 22 ⟨42, true⟩ 21),
    (0x116AAA83, .shrix 22 ⟨42, true⟩ 21),
    (0x116AA604, .sltux 22 ⟨42, true⟩ ⟨12, false⟩),
    (0x216AA7A2, .addi 22 ⟨42, true⟩ 0x3d1),
    (0x256AA7A2, .andi 22 ⟨42, true⟩ 0x3d1),
    (0x296AA7A2, .ori 22 ⟨42, true⟩ 0x3d1),
    (0x2D6AA7A2, .xori 22 ⟨42, true⟩ 0x3d1),
    (0x316AA026, .shli 22 ⟨42, true⟩ 19),
    (0x316AA027, .shri 22 ⟨42, true⟩ 19),
    (0x316AA067, .srai 22 ⟨42, true⟩ 19),
    (0x356AA7A2, .slti 22 ⟨42, true⟩ 0x3d1),
    (0x356AA7A3, .sltiu 22 ⟨42, true⟩ 0x3d1),
    (0x396AA7A2, .addix 22 ⟨42, true⟩ 0x3d1),
    (0x4165C3D1, .lui 22 0x5c3d1),
    (0x4565C3D1, .addpc 22 0x5c3d1)] = true := by decide +kernel

theorem test_words_mask : wordsDecode [
    (0x14626180, .mand 6 ⟨9, true⟩ ⟨3, false⟩),
    (0x14626181, .mor 6 ⟨9, true⟩ ⟨3, false⟩),
    (0x14626182, .mxor 6 ⟨9, true⟩ ⟨3, false⟩),
    (0x14626183, .mandn 6 ⟨9, true⟩ ⟨3, false⟩),
    (0x14626004, .mnot 6 ⟨9, true⟩),
    (0x14626005, .mmov 6 ⟨9, true⟩),
    (0x14600006, .mall 6),
    (0x14600007, .mclr 6),
    (0x15626008, .mpopc 22 ⟨9, true⟩),
    (0x15626009, .mffs 22 ⟨9, true⟩),
    (0x146AA60A, .msetw 6 ⟨42, true⟩ ⟨12, false⟩),
    (0x1562660B, .mgetw 22 ⟨9, true⟩ ⟨12, false⟩),
    (0x1562600C, .msumw 22 ⟨9, true⟩),
    (0x1402600D, .exmset ⟨9, true⟩),
    (0x1460000E, .exmget 6)] = true := by decide +kernel

theorem test_words_system : wordsDecode [
    (0x180AA000, .modew ⟨42, true⟩),
    (0x19649181, .srd 22 0x4A3),
    (0x19649182, .swr 0x4A3 22),
    (0x19600003, .stamp 22),
    (0x18049184, .trap 0x4A3),
    (0x18049185, .brk 0x4A3),
    (0x18000286, .regacq 5),
    (0x19600287, .regacqNb 22 5),
    (0x18000288, .regrel 5),
    (0x196AA609, .node 22 ⟨42, true⟩ ⟨12, false⟩),
    (0x4805C3D1, .setmode 0x5c3d1)] = true := by decide +kernel

theorem test_words_control : wordsDecode [
    (0x4D65C3D1, .vli 22 0x5c3d1),
    (0x52A5C3D1, .br 0x2a5c3d1),
    (0x5565C3D1, .bz 22 0x5c3d1),
    (0x556DC3D1, .bnz 22 0x5c3d1),
    (0x5AC5C3D1, .bany 11 0x5c3d1),
    (0x5AD5C3D1, .ball 11 0x5c3d1),
    (0x5AE5C3D1, .bnone 11 0x5c3d1),
    (0x5C2A8000, .callr ⟨42, true⟩),
    (0x5C6A8000, .jmpr ⟨42, true⟩),
    (0x5C800000, .ret),
    (0x5CC00000, .eret),
    (0x5D000000, .entry),
    (0x5D400000, .exit),
    (0x5D800000, .nop),
    (0x5DC00000, .yield)] = true := by decide +kernel

theorem test_words_structured : wordsDecode [
    (0x60580000, .sif 11),
    (0x60800000, .selse),
    (0x61000000, .sendif),
    (0x61800000, .sloop),
    (0x62592800, .sbrk 11 37),
    (0x62D92800, .scont 11 37),
    (0x635DC3D1, .sendlp 11 0x5c3d1)] = true := by decide +kernel

theorem test_words_vector_integer : wordsDecode [
    (0x816AA600, .vadd 22 ⟨42, true⟩ ⟨12, false⟩),
    (0x816AA601, .vsub 22 ⟨42, true⟩ ⟨12, false⟩),
    (0x816AA602, .vmul 22 ⟨42, true⟩ ⟨12, false⟩),
    (0x816AA603, .vmulh 22 ⟨42, true⟩ ⟨12, false⟩),
    (0x816AA604, .vmad 22 ⟨42, true⟩ ⟨12, false⟩),
    (0x816AA605, .vmin 22 ⟨42, true⟩ ⟨12, false⟩),
    (0x816AA606, .vmax 22 ⟨42, true⟩ ⟨12, false⟩),
    (0x856AA600, .vand 22 ⟨42, true⟩ ⟨12, false⟩),
    (0x856AA601, .vor 22 ⟨42, true⟩ ⟨12, false⟩),
    (0x856AA602, .vxor 22 ⟨42, true⟩ ⟨12, false⟩),
    (0x856AA603, .vandn 22 ⟨42, true⟩ ⟨12, false⟩),
    (0x856AA604, .vshl 22 ⟨42, true⟩ ⟨12, false⟩),
    (0x856AA605, .vshr 22 ⟨42, true⟩ ⟨12, false⟩),
    (0x856AA606, .vsra 22 ⟨42, true⟩ ⟨12, false⟩),
    (0x886AA603, .vcmp .ge 6 ⟨42, true⟩ ⟨12, false⟩),
    (0x896AA008, .vabs 22 ⟨42, true⟩),
    (0x896AA009, .vneg 22 ⟨42, true⟩),
    (0x896AA00A, .vmov 22 ⟨42, true⟩),
    (0x8960000B, .vlane 22),
    (0x896AA617, .vsel 22 ⟨42, true⟩ ⟨12, false⟩ 7),
    (0x8D6AA7A2, .vaddi 22 ⟨42, true⟩ 0x3d1),
    (0x916AA026, .vshli 22 ⟨42, true⟩ 19),
    (0x916AA027, .vshri 22 ⟨42, true⟩ 19)] = true := by decide +kernel

theorem test_words_vector_float : wordsDecode [
    (0xA16AA600, .vfadd 22 ⟨42, true⟩ ⟨12, false⟩),
    (0xA16AA601, .vfsub 22 ⟨42, true⟩ ⟨12, false⟩),
    (0xA16AA602, .vfmul 22 ⟨42, true⟩ ⟨12, false⟩),
    (0xA56AA600, .vfma 22 ⟨42, true⟩ ⟨12, false⟩),
    (0xA56AA601, .vfms 22 ⟨42, true⟩ ⟨12, false⟩),
    (0xA56AA602, .vfnma 22 ⟨42, true⟩ ⟨12, false⟩),
    (0xA96AA600, .vfmin 22 ⟨42, true⟩ ⟨12, false⟩),
    (0xA96AA601, .vfmax 22 ⟨42, true⟩ ⟨12, false⟩),
    (0xA96AA602, .vfminm 22 ⟨42, true⟩ ⟨12, false⟩),
    (0xA96AA603, .vfmaxm 22 ⟨42, true⟩ ⟨12, false⟩),
    (0xA96AA004, .vfabs 22 ⟨42, true⟩),
    (0xA96AA005, .vfneg 22 ⟨42, true⟩),
    (0xA96AA006, .vfsgn 22 ⟨42, true⟩),
    (0xA96AA007, .vfsgnK 22 ⟨42, true⟩),
    (0xAC6AA603, .vfcmp .le 6 ⟨42, true⟩ ⟨12, false⟩),
    (0xAC6AA60B, .vfcmpK .le 6 ⟨42, true⟩ ⟨12, false⟩),
    (0xAD6AA010, .vfclass 22 ⟨42, true⟩)] = true := by decide +kernel

theorem test_words_iterative : wordsDecode [
    (0xB16AA605, .vfdiv 22 ⟨42, true⟩ ⟨12, false⟩ 5),
    (0xB16AA015, .vfsqrt 22 ⟨42, true⟩ 5),
    (0xB16AA025, .vfrsq 22 ⟨42, true⟩ 5),
    (0xB16AA035, .vfrcp 22 ⟨42, true⟩ 5),
    (0xB56AA005, .vfexp2 22 ⟨42, true⟩ 5),
    (0xB56AA015, .vflog2 22 ⟨42, true⟩ 5)] = true := by decide +kernel

theorem test_words_conversion : wordsDecode [
    (0xC16AA811, .vcvt 22 ⟨42, true⟩ 16 17),
    (0xC16AA630, .vqnt 22 ⟨42, true⟩ ⟨12, false⟩ 16),
    (0xC56AA600, .vpack 22 ⟨42, true⟩ ⟨12, false⟩),
    (0xC56AA081, .vunpk 22 ⟨42, true⟩ true),
    (0xC56AA602, .vdot2 22 ⟨42, true⟩ ⟨12, false⟩),
    (0xC56AA603, .vdot4 22 ⟨42, true⟩ ⟨12, false⟩),
    (0xC56AA604, .vdot8 22 ⟨42, true⟩ ⟨12, false⟩)] = true := by decide +kernel

theorem test_words_cross_lane : wordsDecode [
    (0xC96AA605, .vshfl 22 ⟨42, true⟩ ⟨12, false⟩ 5),
    (0xC96AA015, .vbcast 22 ⟨42, true⟩ 5),
    (0xC96AA625, .vext 22 ⟨42, true⟩ ⟨12, false⟩ 5),
    (0xC96AA635, .vins 22 ⟨42, true⟩ ⟨12, false⟩ 5),
    (0xCD6AA005, .vredadd 22 ⟨42, true⟩ 5),
    (0xCD6AA015, .vredmax 22 ⟨42, true⟩ 5),
    (0xCD6AA025, .vredmin 22 ⟨42, true⟩ 5),
    (0xCD6AA035, .vscan 22 ⟨42, true⟩ 5)] = true := by decide +kernel

theorem test_words_scalar_memory : wordsDecode [
    (0xE16322B0, .ldU8 22 ⟨12, true, .disp 0x2B⟩),
    (0xE16322B1, .ldS8 22 ⟨12, true, .disp 0x2B⟩),
    (0xE16322B2, .ldU16 22 ⟨12, true, .disp 0x2B⟩),
    (0xE16322B3, .ldS16 22 ⟨12, true, .disp 0x2B⟩),
    (0xE16322B4, .ld 22 ⟨12, true, .disp 0x2B⟩),
    (0xE16322B5, .ldD 22 ⟨12, true, .disp 0x2B⟩),
    (0xE16322B6, .stB 22 ⟨12, true, .disp 0x2B⟩),
    (0xE16322B7, .stH 22 ⟨12, true, .disp 0x2B⟩),
    (0xE16322B8, .st 22 ⟨12, true, .disp 0x2B⟩),
    (0xE16322B9, .stD 22 ⟨12, true, .disp 0x2B⟩),
    (0xE00322BA, .pref ⟨12, true, .disp 0x2B⟩),
    (0xE00322BB, .cwb ⟨12, true, .disp 0x2B⟩),
    (0xE00322BC, .cinv ⟨12, true, .disp 0x2B⟩),
    (0xE00322BD, .discard ⟨12, true, .disp 0x2B⟩)] = true := by decide +kernel

theorem test_words_vector_memory : wordsDecode [
    (0xE56322B2, .vld 22 ⟨12, true, .disp 0x2B⟩ 2),
    (0xE56322B6, .vst 22 ⟨12, true, .disp 0x2B⟩ 2),
    (0xE56322BA, .vlds 22 ⟨12, true, .disp 0x2B⟩ 2),
    (0xE56322BE, .vsts 22 ⟨12, true, .disp 0x2B⟩ 2)] = true := by decide +kernel

theorem test_words_strong : wordsDecode [
    (0xE96322E5, .atom .max (.ar .dv) 22 ⟨12, true⟩ 5),
    (0xE96327F5, .cas (.ar .sy) 22 ⟨12, true⟩ 5),
    (0xE9632AA5, .red .max (.rel .dv) 22 ⟨12, true⟩ 5),
    (0xE9632EA5, .stStrong (.rel .dv) 22 ⟨12, true⟩ 5),
    (0xE9632F65, .ldStrong (.acq .dv) 22 ⟨12, true⟩ 5),
    (0xE96332E5, .vatom .max (.ar .dv) 22 ⟨12, true⟩ 5),
    (0xE96337F5, .vcas (.ar .sy) 22 ⟨12, true⟩ 5),
    (0xE9633AA5, .vred .max (.rel .dv) 22 ⟨12, true⟩ 5),
    (0xE9633EA5, .vstStrong (.rel .dv) 22 ⟨12, true⟩ 5),
    (0xE9633F65, .vldStrong (.acq .dv) 22 ⟨12, true⟩ 5)] = true := by decide +kernel

theorem test_words_synchronising : wordsDecode [
    (0xED678001, .fence .rl .dv true true 22),
    (0xEC0AA004, .fwait ⟨42, true⟩),
    (0xED6AA005, .await 22 ⟨42, true⟩),
    (0xEC000106, .bellclr 2),
    (0xEC0AA607, .bwait ⟨42, true⟩ ⟨12, false⟩),
    (0xED6AA008, .arrive 22 ⟨42, true⟩),
    (0xED6AA009, .arrivePub 22 ⟨42, true⟩),
    (0xED6AA00A, .arriveDrop 22 ⟨42, true⟩),
    (0xED6AA00B, .arriveDropPub 22 ⟨42, true⟩),
    (0xED6AA00C, .join 22 ⟨42, true⟩),
    (0xED6AA00D, .leave 22 ⟨42, true⟩),
    (0xED6AA00E, .clead 22 ⟨42, true⟩),
    (0xED6AA62E, .bell .ge 22 2 ⟨42, true⟩ ⟨12, false⟩)] = true := by decide +kernel

theorem test_words_copying : wordsDecode [
    (0xF16AA600, .cpy 22 ⟨42, true⟩ ⟨12, false⟩),
    (0xF16AA601, .cpyt 22 ⟨42, true⟩ ⟨12, false⟩),
    (0xF16AA002, .gath 22 ⟨42, true⟩),
    (0xF16AA003, .scat 22 ⟨42, true⟩),
    (0xF0001284, .cseal 37),
    (0xF16AA005, .cwany 22 ⟨42, true⟩),
    (0xF00AA006, .cwall ⟨42, true⟩),
    (0xF16AA007, .cffr 22 ⟨42, true⟩),
    (0xF00AA008, .ctclr ⟨42, true⟩),
    (0xF00AA009, .coll ⟨42, true⟩)] = true := by decide +kernel

theorem test_words_matrix : wordsDecode [
    (0xF6A31C05, .mtile 42 12 28 5),
    (0xF6A31C15, .mma 42 12 28 5),
    (0xF6A30025, .mzero 42 12 5),
    (0xF6A30035, .maccrd 42 12 5),
    (0xF6A30045, .maccwr 42 12 5),
    (0xF6A31C55, .maccld 42 12 28 5),
    (0xF6A31C65, .maccst 42 12 28 5),
    (0xF6A31C75, .acwin 42 12 28 5),
    (0xF6A31C85, .mplan 42 12 28 5),
    (0xF6A30095, .mchk 42 12 5)] = true := by decide +kernel
/-! ### A small machine -/

/-- The system context, claiming its units: 1 MiB at 0x1_0000 mapped to itself, 64 KiB of host memory at 0x20_0000, 64 KiB
of peer memory at 0x30_0000. -/
def demoCtx : Context := { Context.system with
  ranges := [(0, codeRange), (1, { codeRange with vstart := 0x200000, vlen := 0x10000, attr := 0x139 }),
    (2, { codeRange with vstart := 0x300000, vlen := 0x10000, attr := 0x239 })]
  trapvec := 0x30000
  claim := 0x0F }

/-- A team of 32 lanes on core 0, lanes 0 and 1 active, every vector register live. -/
def demoTeam : Team :=
  { Team.fresh 1 (Node.fresh 0 1 none 0x18000#64 loneDesc 0) 0 with
    exmBits := 3
    vregs := Vector.replicate 64 (.live (List.replicate 32 ⟨1, false⟩)) }

/-- The team with words in scalar registers, and with a MODE. -/
def demoRegs (ws : List (Reg × Word)) : Team := { demoTeam with sregs := scalarsAfter demoTeam [] ws }
def demoMode (m : Word) : Team := { demoTeam with mode := m }
def demoStructured : Team := { demoTeam with structured := true, nest := List.replicate 32 0 }

/-- The device after reset with that context and one team, which holds the turn. -/
def demo (t : Team) : State := { State.reset with
  fe := { State.reset.fe with contexts := [demoCtx] }
  teams := [t]
  nodes := [Node.fresh 0 1 none 0x18000#64 loneDesc 0]
  sched := { State.reset.sched with cur := some t.id } }

/-- The same with a context of another kind, and with words in memory. -/
def demoIn (c : Context) (t : Team) : State := { demo t with fe := { State.reset.fe with contexts := [c] } }
def demoMem (ws : List (Nat × List Byte)) (t : Team) : State :=
  { demo t with mem := ws.foldl (fun m w => m.store w.1 w.2) State.reset.mem }
theorem demo_unwatched (t : Team) : (demo t).unwatched := by simp [State.unwatched, demo, demoCtx, Context.system]
theorem demo_settled (t : Team) : (demo t).settled := fun _ h => nomatch h
theorem demoMem_unwatched (ws : List (Nat × List Byte)) (t : Team) : (demoMem ws t).unwatched := by
  simp [State.unwatched, demoMem, demo, demoCtx, Context.system]
theorem demoMem_settled (ws : List (Nat × List Byte)) (t : Team) : (demoMem ws t).settled := fun _ h => nomatch h
/-- The same machine with a profile N core 0. -/
def demoNarrow (t : Team) : State := { demo t with dev := { (demo t).dev with flash := { (demo t).dev.flash with profile := 1 } } }
def demoUser : Context := { demoCtx with priv := false }

theorem issues_of {s : State} {t : Team} {sh : Shape} (h1 : s.curTeam = some t := by rfl)
    (h2 : sh.check t s = none := by decide +kernel) : Issues s t sh := ⟨h1, h2⟩

theorem ok_of {ε α : Type} {x : Except ε α} {a : α} (h : x.toOption = some a) : x = .ok a := by
  cases x <;> simp_all [Except.toOption]

/-- Whether an instruction completes with a next state that has a property. -/
def runs (i : Instr) (s : State) (p : State → Bool) : Bool :=
  match exec i s with
  | .next s' => p s'
  | .fault _ => false
  | .refused _ => false

/-- A property of the first team, and the words of a vector register's first lanes. -/
def ofTeam (p : Team → Bool) (s : State) : Bool := s.teams.head?.any p
def lanesOf (t : Team) (r : Reg) (n : Nat) : List Nat := (List.range n).map fun l => (t.vval r l).toNat

/-! ### Hypotheses that can be met: encoding, steps, invariants -/

theorem wit_DecodeAndEncodeAgree : (Instr.add 4 ⟨5, true⟩ ⟨6, false⟩).wf = true
    ∧ encode (.add 4 ⟨5, true⟩ ⟨6, false⟩) = some 0x04416300#32 ∧ decode 0x04416300#32 = .ok (.add 4 ⟨5, true⟩ ⟨6, false⟩) :=
  ⟨rfl, by decide +kernel, ok_of (by decide +kernel)⟩

theorem wit_DecodingOfWords : (0xFFFFFFFF#32).toNat / 2 ^ 26 = 0x3F ∧ (demo demoTeam).curTeam = some demoTeam
    ∧ (decode 0xFFFFFFFF#32).isOk = false := ⟨by decide +kernel, rfl, by decide +kernel⟩

theorem wit_StepRunsInstruction : let s := demoMem [(0x10000, [0x00, 0x43, 0x41, 0x04])] demoTeam
    s.dev.status = 1 ∧ s.team? 1 = some demoTeam ∧ s.mayIssue demoTeam = true ∧ demoTeam.traps = []
    ∧ (s.beginIssue demoTeam false).issueWord demoTeam = .ok 0x04414300#32
    ∧ decode 0x04414300#32 = .ok (.add 4 ⟨5, false⟩ ⟨6, false⟩) ∧ encode .drumRound = none :=
  ⟨rfl, rfl, rfl, rfl, ok_of (by decide +kernel), ok_of (by decide +kernel), rfl⟩

/-- A device that starts up; an event between whose halves a write of the host falls. -/
theorem wit_StepRunsInstruction_events : let s := demo demoTeam
    let z : State := { s with dev := { s.dev with status := 0 } }
    let w : OwnWrite := ⟨false, 0x10000, [1]⟩
    (z.dev.status = 0 ∧ z.sched.agenda = []) ∧ (s.dev.status = 1 ∧ w.fits = true ∧ encode (.signal 2) = none) ∧ s.sched.during = []
    ∧ ({ s with sched := { s.sched with during := [[w]] } } : State).sched.during = [w] :: [] := by decide +kernel

/-- A state of the invariants, with a team and stored words, that takes a step. -/
theorem wit_StepKeepsInvariants : let s := (demo demoTeam).withFetchWord 32 0x5D800000
    s.mem.wf = true ∧ s.teams.all (·.reservedClear) = true
    ∧ (match step s with | .next _ => true | .fault _ => false | .refused _ => false) = true := by decide +kernel

theorem wit_UnprivilegedKeepsDeviceRegisters : let s := demoIn demoUser demoTeam
    encode (.add 4 ⟨5, false⟩ ⟨6, false⟩) ≠ none ∧ s.curTeam = some demoTeam ∧ (s.ctxOf demoTeam).priv = false
    ∧ runs (.add 4 ⟨5, false⟩ ⟨6, false⟩) s (fun _ => true) = true := ⟨by decide, rfl, rfl, by decide +kernel⟩

/-! ### Hypotheses that can be met: scalar and mask instructions -/

theorem wit_ScalarArithmetic : Issues (demo demoTeam) demoTeam { srcs := useS [⟨2, true⟩, ⟨3, false⟩], dsts := [.s 2] }
    ∧ (Instr.sext 2 ⟨2, true⟩ 32).wf = true ∧ Issues (demo demoTeam) demoTeam { srcs := useS [⟨2, true⟩], dsts := [.s 2] } :=
  ⟨issues_of, rfl, issues_of⟩

theorem wit_ScalarPairsAndMoves : Issues (demo demoTeam) demoTeam { srcs := useP [⟨2, true⟩, ⟨4, false⟩], dsts := [.pair 0] }
    ∧ Issues (demo demoTeam) demoTeam { srcs := useP [⟨2, true⟩], dsts := [.pair 2] }
    ∧ Issues (demo demoTeam) demoTeam { srcs := useP [⟨2, true⟩, ⟨4, false⟩], dsts := [.s 3] }
    ∧ Issues (demo demoTeam) demoTeam { srcs := useS [⟨2, true⟩, ⟨4, false⟩, ⟨6, false⟩], dsts := [.s 6] }
    ∧ Issues (demo demoTeam) demoTeam { dsts := [.s 6] } ∧ Issues (demo demoTeam) demoTeam { dsts := [.pair 6] } :=
  ⟨issues_of, issues_of, issues_of, issues_of, issues_of, issues_of⟩

theorem wit_ScalarDivision : Issues (demo demoTeam) demoTeam
    { srcs := useS [⟨2, true⟩, ⟨3, false⟩], dsts := [.s 4], la := (3#4).toNat } ∧ demoTeam.dcrs = [] := ⟨issues_of, rfl⟩

theorem wit_MaskZero : demoTeam.passes ≤ 32 ∧ (15#4 : MReg) ≠ 0#4 := by decide +kernel

theorem wit_MaskInstructions : Issues (demo demoTeam) demoTeam { srcs := useM [⟨1, true⟩, ⟨0, false⟩], dsts := [.m 1] }
    ∧ Issues (demo demoTeam) demoTeam { srcs := useM [⟨1, true⟩], dsts := [.m 0] } ∧ Issues (demo demoTeam) demoTeam { dsts := [.m 1] }
    ∧ Issues (demo demoTeam) demoTeam { srcs := useM [⟨1, true⟩], dsts := [.s 1] }
    ∧ Issues (demo demoTeam) demoTeam { srcs := useM [⟨1, true⟩] ++ useS [⟨2, true⟩], dsts := [.s 1] }
    ∧ Issues (demo demoTeam) demoTeam { srcs := useS [⟨2, true⟩, ⟨2, false⟩], dsts := [.m 1] }
    ∧ (Issues (demo demoTeam) demoTeam { srcs := useM [⟨1, true⟩] } ∧ demoTeam.structured = false)
    ∧ ((demo demoStructured).curTeam = some demoStructured ∧ demoStructured.structured = true)
    ∧ Issues (demo demoTeam) demoTeam { dsts := [.m 1], exm := true }
    ∧ Issues (demo demoStructured) demoStructured { dsts := [.m 1], exm := true } :=
  ⟨issues_of, issues_of, issues_of, issues_of, issues_of, issues_of, ⟨issues_of, rfl⟩, ⟨rfl, rfl⟩, issues_of, issues_of⟩

/-! ### Hypotheses that can be met: MODE, special registers, the window -/

/-- MODE values at the edges: RND 4 passes, RND 5 and bit 13 do not, RND 1 does not under NVR 1. -/
theorem wit_SpecialRegisterWrites_mode : let t (v : Word) := demoRegs [(2, v)]
    (Issues (demo (t 0x9F)) (t 0x9F) { srcs := useS [⟨2, true⟩] } ∧ ((demo (t 0x9F)).ctxOf (t 0x9F)).nvr = 2
      ∧ (t 0x9F).sval 2 = 0x9F#32 ∧ modeAccepted 2 0x9F#32)
    ∧ (Issues (demo (t 0xBF)) (t 0xBF) { srcs := useS [⟨2, true⟩] } ∧ ¬ modeAccepted 2 0xBF#32)
    ∧ ¬ modeAccepted 2 0x2000#32 ∧ ¬ modeAccepted 1 0x20#32 ∧ modeAccepted 2 ((0x135#20).setWidth 32)
    ∧ Issues (demo (t 0x9F)) (t 0x9F) { srcs := useS [⟨2, false⟩] } :=
  ⟨⟨issues_of, rfl, rfl, by unfold modeAccepted; decide⟩, ⟨issues_of, by unfold modeAccepted; decide⟩,
    by unfold modeAccepted; decide, by unfold modeAccepted; decide, by unfold modeAccepted; decide, issues_of⟩

/-- A team one of whose bells lies on the overflow list. -/
def demoListed : Team := { demoTeam with bells := demoTeam.bells.set 0 ⟨some ⟨0x11000, 4, 0, .eq, 1, 0, true⟩, false⟩ }

theorem wit_SpecialRegisterWrites : (Issues (demo demoTeam) demoTeam { srcs := useS [⟨2, false⟩] } ∧ demoTeam.matrixPending = false
      ∧ ((demo demoTeam).ctxOf demoTeam).priv = true ∧ (∀ n ∈ [0x100, 0x101, 0x102, 0x104, 0x105, 0x106, 0x108, 0x109, 0x10A, 0x10C,
        0x110, 0x111, 0x120, 0x121, 0x122], privSpecial n = true)
      ∧ ((demo demoTeam).putTeam demoTeam.past).armedBells.all (fun b => !b.listed) = true)
    ∧ Issues (demo demoListed) demoListed { srcs := useS [⟨2, false⟩] }
    ∧ ((demo demoListed).putTeam demoListed.past).armedBells.any (fun b => b.listed) = true :=
  ⟨⟨issues_of, rfl, rfl, by decide, by decide +kernel⟩, issues_of, by decide +kernel⟩

theorem wit_SpecialRegisterReads : (Issues (demo demoTeam) demoTeam { dsts := [.s 8], exm := (1#12 : BitVec 12) == 1#12 }
      ∧ userSpecial 1 = true ∧ ((demo demoTeam).ctxOf demoTeam).priv = true ∧ privSpecial 0x122 = true ∧ demoTeam.matrixPending = false)
    ∧ (userSpecial 0x0FF = false ∧ (demo demoTeam).curTeam = some demoTeam)
    ∧ ((demoIn demoUser demoTeam).curTeam = some demoTeam ∧ ((demoIn demoUser demoTeam).ctxOf demoTeam).priv = false)
    ∧ privSpecial 0x103 = false :=
  ⟨⟨issues_of, rfl, rfl, rfl, rfl⟩, ⟨rfl, rfl⟩, ⟨rfl, rfl⟩, rfl⟩

/-- A window of `n` blocks at block `b`, limited to `l`. -/
def demoWindow (b n l : Nat) : Team := { demoTeam with vbase := .ofNat 3 b, blocks := .ofNat 4 n, blockLimit := .ofNat 4 l }

/-- The cases of the window at their edges: k blocks more are 9 in all; 8, one beyond the limit; the limit; k is the
whole window; one block stays. -/
theorem wit_RegisterWindow : let is (t : Team) := Issues (demo t) t { dsts := [.s 8] }
    (is (demoWindow 4 3 8) ∧ 8 < 4 + 3 + (2#3 : BitVec 3).toNat)
    ∧ (is (demoWindow 4 2 3) ∧ 4 + 2 + (2#3).toNat ≤ 8 ∧ 3 < 2 + (2#3 : BitVec 3).toNat)
    ∧ (is (demoWindow 4 2 4) ∧ 2 + (2#3 : BitVec 3).toNat ≤ 4) ∧ (is (demoWindow 4 2 4) ∧ 2 < 1 + (2#3 : BitVec 3).toNat)
    ∧ (is (demoWindow 4 3 4) ∧ 1 + (2#3 : BitVec 3).toNat ≤ 3) :=
  ⟨⟨issues_of, by decide⟩, ⟨issues_of, by decide, by decide⟩, ⟨issues_of, by decide⟩, ⟨issues_of, by decide⟩,
    ⟨issues_of, by decide⟩⟩

/-! ### Hypotheses that can be met: branches, calls, transfers, structured opcodes -/

theorem exists_ok {ε α : Type} {x : Except ε α} (h : x.isOk = true) : ∃ a, x = .ok a := by
  cases x with
  | ok a => exact ⟨a, rfl⟩
  | error _ => simp [Except.isOk, Except.toBool] at h

theorem exists_error {ε α : Type} {x : Except ε α} (h : x.isOk = false) : ∃ e, x = .error e := by
  cases x with
  | ok _ => simp [Except.isOk, Except.toBool] at h
  | error e => exact ⟨e, rfl⟩

/-- A pair of scalar registers that holds a small address. -/
def demoAt (r : Reg) (a : Word) : Team := demoRegs [(r, a), (r + 1#6, 0)]
/-- An ENTRY word at 0x1_1000, which the trap table names for a software trap; zero entries for the others. -/
def demoCode (t : Team) : State := demoMem [(0x11000, [0, 0, 0, 0x5D]), (0x30000 + 8 * TrapCode.software.num, [0, 0x10, 1])] t

theorem wit_BranchesCallsAndJumps_branches : Issues (demo demoTeam) demoTeam { srcs := useS [⟨2, false⟩] }
    ∧ (demoTeam.structured = false ∧ Issues (demo demoTeam) demoTeam { srcs := useM [⟨1, false⟩], exm := true })
    ∧ ((demo demoStructured).curTeam = some demoStructured ∧ demoStructured.structured = true) :=
  ⟨issues_of, ⟨rfl, issues_of⟩, ⟨rfl, rfl⟩⟩

/-- BR to a word that can be read and to one that cannot; CALLR to a misaligned address, an unmapped one, one whose word
is no ENTRY and one whose word is. -/
theorem wit_BranchesCallsAndJumps_jumps : Issues (demo demoTeam) demoTeam { dsts := [.s 63] }
    ∧ (∃ w, fetch32 (demo demoTeam) demoTeam (targetOf demoTeam 1) = .ok w)
    ∧ (∃ x, fetch32 (demo demoTeam) demoTeam (targetOf demoTeam (-1)) = .error x)
    ∧ (Issues (demo (demoAt 8 0x11002)) (demoAt 8 0x11002) { srcs := useP [⟨8, true⟩], dsts := [.s 63] }
      ∧ ((demoAt 8 0x11002).pair 8).toNat % 4 ≠ 0)
    ∧ (Issues (demo (demoAt 8 0xFFFC)) (demoAt 8 0xFFFC) { srcs := useP [⟨8, true⟩], dsts := [] }
      ∧ ((demoAt 8 0xFFFC).pair 8).toNat % 4 = 0 ∧ ∃ x, fetch32 (demo (demoAt 8 0xFFFC)) (demoAt 8 0xFFFC) 0xFFFC = .error x)
    ∧ (Issues (demoCode (demoAt 8 0x11000)) (demoAt 8 0x11000) { srcs := useP [⟨8, true⟩], dsts := [.s 63] }
      ∧ (demoAt 8 0x11000).pair 8 = 0x11000
      ∧ fetch32 (demoCode (demoAt 8 0x11000)) (demoAt 8 0x11000) 0x11000 = .ok 0x5D000000#32
      ∧ fetch32 (demo (demoAt 8 0x11000)) (demoAt 8 0x11000) 0x11000 = .ok 0#32) :=
  ⟨issues_of, exists_ok (by decide +kernel), exists_error (by decide +kernel), ⟨issues_of, by decide +kernel⟩,
    ⟨issues_of, by decide +kernel, exists_error (by decide +kernel)⟩,
    ⟨issues_of, by decide +kernel, ok_of (by decide +kernel), ok_of (by decide +kernel)⟩⟩

theorem wit_ReturnInRegion : (Issues (demo (demoRegs [(63, 0x11004)])) (demoRegs [(63, 0x11004)]) { srcs := useS [⟨63, false⟩] }
      ∧ ((demoRegs [(63, 0x11004)]).sval 63).toNat % 4 = 0)
    ∧ Issues (demo (demoRegs [(63, 0x11005)])) (demoRegs [(63, 0x11005)]) { srcs := useS [⟨63, false⟩] }
    ∧ ((demoRegs [(63, 0x11005)]).sval 63).toNat % 4 ≠ 0 :=
  ⟨⟨issues_of, by decide +kernel⟩, issues_of, by decide +kernel⟩

/-- A load in flight that acquires, which the frame of a transfer waits for. -/
def demoHeldFrame (t : Team) : State := { demo t with flight := { Flight.empty with
  accesses := [⟨5, 1, 0x10000, 0x11000, ⟨0x11000, .rc, .device 0⟩, 4, .load (.scalar 20 false 0), some .dv, none, false, [], none⟩], nextId := 6 } }

/-- A team with a fault of a follow-on to report. -/
def demoFollow : Team := { demoTeam with followFaults := [([3], ⟨.arrayFault, 0, 1, none, none⟩)] }

theorem wit_HintsAndExit : ((demo demoTeam).curTeam = some demoTeam ∧ demoTeam.followFaults = [])
    ∧ (demo demoFollow).curTeam = some demoFollow ∧ (demo demoFollow).frameHeld demoFollow = false
    ∧ demoFollow.followFaults = ([3], ⟨.arrayFault, 0, 1, none, none⟩) :: []
    ∧ (demoHeldFrame demoFollow).curTeam = some demoFollow ∧ (demoHeldFrame demoFollow).frameHeld demoFollow = true :=
  ⟨⟨rfl, rfl⟩, rfl, by decide +kernel, rfl, rfl, by decide +kernel⟩

/-- The same with poison in the routine's first word. -/
def demoNoCode (t : Team) : State := let s := demoCode t; { s with mem := s.mem.setWordBad 0x11000 true }

/-- At time 0 every die's copy of the time base reads 0 (25 R351), and a record starts with it. -/
theorem recordBytes_start {s : State} (h : s.dev.time = 0) (ctx : Nat) (vas : List Addr) (t : Team) (x : Trap) (f a : Bool) :
    recordBytes (s.touchFe ctx vas) t x f a =
    leBytes 8 0 ++ leBytes 8 ((x.pcw.getD t.pc).toNat % 2 ^ 57 + t.corr.toNat * 2 ^ 57)
      ++ leBytes 8 (x.addr.toNat % 2 ^ 57 + x.code.num * 2 ^ 57 + f.toNat * 2 ^ 63) ++ leBytes 4 t.nid.toNat
      ++ leBytes 4 (t.index.toNat + (x.lane.getD 0x3FF) * 2 ^ 16 + x.cause * 2 ^ 26 + a.toNat * 2 ^ 30) := by
  simp [recordBytes, State.coreTime, State.timeOn, dieReading, h]

theorem wit_TrapsRaisedAndDelivered : let s := demoCode demoTeam
    let x : Trap := ⟨.software, 5, 0, none, none⟩
    let recorded (s : State) (x : Trap) : State :=
      (s.touchFe 1 [(s.ctxOf demoTeam).trapvec + .ofNat 64 (8 * x.code.num)]).writeRecord demoTeam x false false
    s.curTeam = some demoTeam ∧ demoTeam.retried = false ∧ x.code ≠ .featureAbsent ∧ (s.ctxOf demoTeam).attached = false
    ∧ s.frameHeld demoTeam = false ∧ (demoHeldFrame demoTeam).frameHeld demoTeam = true
    ∧ (s.nodes.map (·.id)) = [demoTeam.node]
    ∧ readVector (recorded s ⟨.break_, 5, 0, none, none⟩) (s.ctxOf demoTeam) .break_ = .ends
    ∧ readVector (recorded s x) (s.ctxOf demoTeam) .software = .handler 0x11000
    ∧ (∃ w, fetch32 (recorded s x) demoTeam 0x11000 = .ok w)
    ∧ (let r := (recorded s x).touch 1 ((s.touchFe 1 [(s.ctxOf demoTeam).trapvec + .ofNat 64 (8 * 14)]).placesAt demoTeam [0x11000])
      ∃ s2, transfer r (((recorded s x).team? 1).getD demoTeam) 0x11000 demoTeam.pc s.sched.iw 14 false = .ok s2)
    ∧ (let s := demoNoCode demoTeam
      s.frameHeld demoTeam = false ∧ readVector (recorded s x) (s.ctxOf demoTeam) .software = .handler 0x11000
      ∧ ∃ y, fetch32 (recorded s x) demoTeam 0x11000 = .error y) :=
  ⟨rfl, rfl, by decide, rfl, by decide +kernel, by decide +kernel, rfl,
    by simp only [State.writeRecord, recordBytes_start (s := demoCode demoTeam) rfl]; decide +kernel,
    by simp only [State.writeRecord, recordBytes_start (s := demoCode demoTeam) rfl]; decide +kernel,
    exists_ok (by decide +kernel), exists_ok (by decide +kernel), by decide +kernel,
    by simp only [State.writeRecord, recordBytes_start (s := demoNoCode demoTeam) rfl]; decide +kernel,
    exists_error (by decide +kernel)⟩

/-- Entry 1 for TRANSLATION, an entry that is no address, a table that cannot be read; no routine is bound. -/
theorem wit_TrapsRaisedAndDelivered_entries : let x (c : TrapCode) : Trap := ⟨c, 0, 0, none, none⟩
    let recorded (s : State) (x : Trap) : State :=
      (s.touchFe 1 [(s.ctxOf demoTeam).trapvec + .ofNat 64 (8 * x.code.num)]).writeRecord demoTeam x false false
    let s := demoMem [(0x30040, [1]), (0x30070, [6])] demoTeam
    let u := demoIn { demoCtx with trapvec := 0x900000 } demoTeam
    entryValue (recorded s (x .translation)) (s.ctxOf demoTeam) .translation = some 1
    ∧ entryValue (recorded s (x .software)) (s.ctxOf demoTeam) .software = some 6
    ∧ entryValue (recorded u (x .software)) (u.ctxOf demoTeam) .software = none
    ∧ boundRoutine s demoTeam 0 = none ∧ s.ctx? 1 = some demoCtx :=
  ⟨by simp only [State.writeRecord, recordBytes_start (s := demoMem [(0x30040, [1]), (0x30070, [6])] demoTeam) rfl]; decide +kernel,
    by simp only [State.writeRecord, recordBytes_start (s := demoMem [(0x30040, [1]), (0x30070, [6])] demoTeam) rfl]; decide +kernel,
    by simp only [State.writeRecord, recordBytes_start (s := demoIn { demoCtx with trapvec := 0x900000 } demoTeam) rfl]; decide +kernel,
    by decide +kernel, rfl⟩

theorem wit_TransferWritesFrame : let s := demo demoTeam
    s.mem.wf = true ∧ s.settled ∧ s.team? demoTeam.id = some demoTeam ∧ (∃ ps, placesOf s demoTeam (demoTeam.stackStart
        + (demoTeam.sval 62 - 32#32).setWidth 64) 32 .write = .ok ps ∧ (∀ p ∈ ps, p.region ≠ .aperture ∧ s.reachable p = true)
        ∧ (ps.map (·.loc)).Nodup)
    ∧ ∃ s', transfer s demoTeam 0x11000 0x10004 0 14 false = .ok s' :=
  ⟨rfl, demo_settled _, rfl, ⟨(List.range 32).map fun i => ⟨0x20FE0 + i, .rc, .device 0⟩, ok_of (by decide +kernel),
    by decide +kernel, by decide +kernel⟩, exists_ok (by decide +kernel)⟩

/-- A team whose s62 is a frame's offset, and a frame at that place of its stack. -/
def demoSp (v : Word) : Team := demoRegs [(62, v)]
def demoFrame (ra mode : Word) (t : Team) : State :=
  demoMem [(0x20FE0, leBytes 8 ra.toNat), (0x20FEC, leBytes 4 mode.toNat)] t

/-- A store in flight. -/
def demoBusy : State := { demo demoTeam with flight := { Flight.empty with
  accesses := [⟨5, 1, 0x10000, 0x11000, ⟨0x11000, .rc, .device 0⟩, 4, .store [1, 2, 3, 4], none, none, false, [4], none⟩], nextId := 6 } }

/-- ERET: a frame beyond the stack; one whose stack is not mapped; an access in flight that acquires; a stack on a peer
that no port reaches; a poisoned word, one of a frame at no word's start too; a MODE that is refused; a misaligned
address; a good frame. -/
theorem wit_ReturnFromTrap : let t := demoSp 0xFE0
    let lost := { t with stackBase := 0xFFFFF0 }
    let peer := { t with stackBase := 0x300000 }
    let odd := demoSp 0xFDD
    let bad := let s := demo t; { s with mem := s.mem.setWordBad 0x20FEC true }
    let tail := let s := demo odd; { s with mem := s.mem.setWordBad 0x20FF0 true }
    let is (s : State) (t : Team) := Issues s t { srcs := useS [⟨62, false⟩], dsts := [.s 63, .s 62] }
    let at_ (s : State) (t : Team) := placesOf s t (t.stackStart + (t.sval 62).setWidth 64)
    (is (demo (demoSp 0xFE1)) (demoSp 0xFE1) ∧ stackOk (demoSp 0xFE1) 0xFE1 32 = false)
    ∧ (is (demo lost) lost ∧ stackOk lost (lost.sval 62).toNat 32 = true ∧ at_ (demo lost) lost 0 .read = .ok []
      ∧ ∃ x, translate (demo lost) ((demo lost).ctxOf lost) lost.core (lost.stackStart + (lost.sval 62).setWidth 64) .read = .error x)
    ∧ (is (demoHeldFrame t) t ∧ ∃ ps, at_ (demoHeldFrame t) t 32 .read = .ok ps
      ∧ ∃ p ∈ ps, (demoHeldFrame t).heldBack (t.byteAccess p false (p.order .rlx none) none) = true)
    ∧ (is (demo peer) peer ∧ ∃ ps, at_ (demo peer) peer 32 .read = .ok ps ∧ (ps[0]?).all (demo peer).reachable = false
      ∧ ∀ p ∈ ps, (demo peer).heldBack (peer.byteAccess p false (p.order .rlx none) none) = false)
    ∧ (is bad t ∧ bad.mem.wordBad 0x20FEC = true ∧ bad.mem.wordBad 0x20FE0 = false)
    ∧ (is tail odd ∧ stackOk odd 0xFDD 32 = true ∧ (odd.stackStart + 0xFDD#64).toNat + 19 = 0x20FF0 ∧ tail.mem.wordBad 0x20FF0 = true)
    ∧ (is (demoFrame 0x10008 0xA0 t) t ∧ ¬ modeAccepted 2 0xA0) ∧ (is (demoFrame 0x10006 0x17 t) t ∧ modeAccepted 2 0x17)
    ∧ (is (demoFrame 0x10008 0x17 t) t ∧ (demoFrame 0x10008 0x17 t).unwatched
      ∧ ∃ ps, at_ (demoFrame 0x10008 0x17 t) t 32 .read = .ok ps ∧ ∀ p ∈ ps, (demoFrame 0x10008 0x17 t).reachable p = true)
    ∧ (demoFrame 0x10006 0x17 t).mem.nat 0x20FE0 8 % 4 ≠ 0 ∧ (demoFrame 0x10008 0x17 t).mem.nat 0x20FE0 8 % 4 = 0
    ∧ (demoFrame 0x10008 0x17 t).mem.nat 0x20FEC 4 = 0x17 :=
  ⟨⟨issues_of, by decide +kernel⟩, ⟨issues_of, by decide +kernel, ok_of (by decide +kernel), exists_error (by decide +kernel)⟩,
    ⟨issues_of, (List.range 32).map fun i => ⟨0x20FE0 + i, .rc, .device 0⟩, ok_of (by decide +kernel), by decide +kernel⟩,
    ⟨issues_of, (List.range 32).map fun i => ⟨peerLoc (0x10FE0 + i), .rc, .peer⟩, ok_of (by decide +kernel), by decide +kernel,
      by decide +kernel⟩,
    ⟨issues_of, by decide +kernel, by decide +kernel⟩, ⟨issues_of, by decide +kernel, by decide +kernel, by decide +kernel⟩,
    ⟨issues_of, by unfold modeAccepted; decide⟩, ⟨issues_of, by unfold modeAccepted; decide⟩,
    ⟨issues_of, demoMem_unwatched _ _, (List.range 32).map fun i => ⟨0x20FE0 + i, .rc, .device 0⟩, ok_of (by decide +kernel),
      by decide +kernel⟩, by decide +kernel, by decide +kernel, by decide +kernel⟩

/-- A team in structured style with a nesting counter in lane 0. -/
def demoNest (c : BitVec 8) : Team := { demoStructured with nest := c :: List.replicate 31 0 }

/-- SIF on a counter at 254 still counts; at 255 it overflows. -/
theorem wit_StructuredOpcodes : let is (t : Team) := Issues (demo t) t { srcs := useM [⟨1, false⟩] } ∧ t.structured = true
    let after (t : Team) := (List.range t.tw).map fun l =>
      let c := (t.nestAt l).toNat; if c ≠ 0 then c + 1 else if (t.mbits 1).getLsbD l = false then 1 else c
    (is (demoNest 254) ∧ ∀ c ∈ after (demoNest 254), c ≤ 255) ∧ (is (demoNest 255) ∧ ∃ c ∈ after (demoNest 255), 255 < c)
    ∧ ((demo demoTeam).curTeam = some demoTeam ∧ demoTeam.structured = false) :=
  ⟨⟨⟨issues_of, rfl⟩, by decide +kernel⟩, ⟨⟨issues_of, rfl⟩, by decide +kernel⟩, rfl, rfl⟩

/-! ### Hypotheses that can be met: vector instructions -/

theorem wit_VectorIntegerArithmetic : let t := demoMode 0x0A
    Issues (demo t) t (vecShape (demo t) t setI typeBits 3 [⟨1, true⟩, ⟨2, false⟩] false)
    ∧ Issues (demo t) t (vecShape (demo t) t setI typeBits 3 [⟨1, true⟩, ⟨2, false⟩] true)
    ∧ Issues (demo t) t (vecShape (demo t) t setI typeBits 3 [⟨1, true⟩] false)
    ∧ Issues (demo t) t (vecShape (demo t) t setShift typeBits 3 [⟨1, true⟩, ⟨2, false⟩] false)
    ∧ Issues (demo t) t (vecShape (demo t) t setShift typeBits 3 [⟨1, true⟩] false) :=
  ⟨issues_of, issues_of, issues_of, issues_of, issues_of⟩

/-- The failing checks of VADD v3, v1^, v2: FP64, whose fields are pairs; an unassigned TYPE; a window of one block,
with v9 as an operand; poison of v2 in lane 1. -/
def demoPoisonV (t : Team) (r : Reg) (l : Nat) : Team := { t with
  vregs := t.vregs.set r.toNat (.live ((List.range 32).map fun k => ⟨1, k == l⟩)) }

theorem wit_VectorIntegerArithmetic_checks : let t := demoPoisonV (demoMode 0x0A) 2 1
    let f := { t with blocks := 1 }
    ((demoMode 0x18).type = 0x18 ∧ (3#6 : Reg).toNat % 2 = 1) ∧ (setI (demoMode 0x0D).type = false ∧ (demoMode 0x0D).type ≠ 0x18)
    ∧ (setI f.type = true ∧ 8 * f.blocks.toNat ≤ (9#6 : Reg).toNat)
    ∧ (setI t.type = true ∧ 9 < 8 * t.blocks.toNat ∧ (vecShape (demo t) t setI typeBits 3 [⟨1, true⟩, ⟨2, false⟩] false).waits t (demo t) = false
      ∧ (∀ w < t.passes, t.exmBad.getLsbD w = false ∧ (t.mbad t.guard).getLsbD w = false)
      ∧ 1 ∈ t.active ∧ t.vbad 2 1 = true ∧ t.vbad 1 1 = false ∧ t.vbad 1 0 = false ∧ t.vbad 2 0 = false) := by decide +kernel

/-- A producer one word before the team's instruction, with v1 as its destination. -/
def demoProducer : Team := { demoTeam with producer := some ⟨demoTeam.pc - 4#64, 1, false, 1⟩ }
/-- The operands of a comparison of v1, for the last time, with v2. -/
def cmpShape (s : State) (t : Team) : Shape :=
  { srcs := [⟨vField t.type 1, true⟩, ⟨vField t.type 2, false⟩], dsts := [.m 1], vector := true
    early := typeTrap (pairFields t.type [1, 2]) (setF t.type), feature := featureTrap s t.core (typeBits t.type) }

theorem wit_VectorComparesAndCancellation : let t := demoMode 0x0A
    let u := demoProducer
    Issues (demo t) t { srcs := useV [⟨1, true⟩, ⟨2, false⟩], dsts := [.m 1], vector := true, early := typeTrap (pairFields t.type [1, 2]) (setI t.type)
                        feature := featureTrap (demo t) t.core (typeBits t.type) }
    ∧ Issues (demo u) u (cmpShape (demo u) u)
    ∧ (u.producer = some ⟨u.pc - 4#64, 1, false, 1⟩ ∧ u.pc = u.pc - 4#64 + 4#64)
    ∧ Issues (demo demoTeam) demoTeam (cmpShape (demo demoTeam) demoTeam) ∧ demoTeam.producer = none
    ∧ Issues (demo u) u (vecShape (demo u) u setF typeBits 3 [⟨1, true⟩] false) :=
  ⟨issues_of, issues_of, ⟨rfl, by decide⟩, issues_of, rfl, issues_of⟩

/-- FP32, and FP64 whose fields name pairs. -/
theorem wit_VectorFloat : let t := demoMode 0x17
    let u := demoMode 0x18
    Issues (demo t) t (vecShape (demo t) t setF typeBits 3 [⟨1, true⟩, ⟨2, false⟩] false)
    ∧ Issues (demo u) u (vecShape (demo u) u setF typeBits 4 [⟨2, true⟩, ⟨6, false⟩] false)
    ∧ Issues (demo t) t (vecShape (demo t) t setF typeBits 3 [⟨1, true⟩, ⟨2, false⟩] true)
    ∧ Issues (demo t) t (vecShape (demo t) t setF typeBits 3 [⟨1, true⟩] false)
    ∧ (profileN (demoNarrow u) u.core = true ∧ u.type = 0x18 ∧ ∀ r ∈ [2#6, 6, 4], r.toNat % 2 = 0 ∧ r.toNat < 8 * u.blocks.toNat) :=
  ⟨issues_of, issues_of, issues_of, issues_of, by decide +kernel⟩

/-- One and a half is rounded to 2 and two and a half to 2 in MODE.RND 0, and 65520 overflows FP16 (05 R65, R66). -/
theorem test_roundInt : roundInt 0 (3 / 2) = 2 ∧ roundInt 0 (5 / 2) = 2 ∧ roundInt 1 (-3 / 2) = -1 ∧ roundInt 4 (5 / 2) = 3 := by
  norm_num [roundInt]
theorem test_round_overflow : (fpFmt 0x14).map (fun f => (f.round 0 false false ⟨65520, 1, false⟩).bits) = some 0x7C00 := by decide +kernel

theorem wit_VectorIterative : demoTeam.dcrs = []
    ∧ Issues (demo demoTeam) demoTeam { vecShape (demo demoTeam) demoTeam setF typeBits 3 [⟨1, true⟩, ⟨2, false⟩] false with la := 3 }
    ∧ Issues (demo demoTeam) demoTeam { vecShape (demo demoTeam) demoTeam setF typeBits 3 [⟨1, true⟩] false with la := 0 } :=
  ⟨rfl, issues_of, issues_of⟩

theorem wit_VectorConversionsAndPacking : let t := demoMode 0x17
    let p8 := demoMode 0x04
    (∃ p, cvtPlan t.type 0x10 1 = some p ∧ Issues (demo t) t
      { srcs := [⟨vField t.type 2, true⟩] ++ (if p.k = elemCount 0x10 then [] else [⟨vField 0x10 3, false⟩]), dsts := [vField 0x10 3]
        vector := true, early := typeTrap (pairFields t.type [2] ++ pairFields 0x10 [3]) true
        feature := featureTrap (demo t) t.core (convertBits t.type 0x10) })
    ∧ Issues (demo t) t
      { srcs := [⟨vField t.type 2, true⟩, ⟨.v 1, false⟩] ++ (if elemCount t.type < elemCount 0x10 then [⟨vField 0x10 3, false⟩] else [])
        dsts := [vField 0x10 3], vector := true, early := typeTrap (pairFields t.type [2] ++ pairFields 0x10 [3]) true
        feature := featureTrap (demo t) t.core (convertBits t.type 0x10) }
    ∧ Issues (demo p8) p8 (packShape p8 setPack 3 [⟨1, true⟩, ⟨2, false⟩] false)
    ∧ Issues (demo p8) p8 (packShape p8 setPack 3 [⟨1, true⟩] false)
    ∧ (p8.type ∈ [4, 5] ∧ Issues (demo p8) p8 (packShape p8 (fun _ => true) 3 [⟨1, true⟩, ⟨2, false⟩] true))
    ∧ (demoMode 0).type ∈ [0, 1, 2]
    ∧ Issues (demo (demoMode 0)) (demoMode 0) (packShape (demoMode 0) (fun _ => true) 3 [⟨1, true⟩, ⟨2, false⟩] true)
    ∧ (demoMode 7).type ∈ [6, 7]
    ∧ Issues (demo (demoMode 7)) (demoMode 7) (packShape (demoMode 7) (fun _ => true) 3 [⟨1, true⟩, ⟨2, false⟩] true) :=
  ⟨⟨_, rfl, issues_of⟩, issues_of, issues_of, issues_of, ⟨by decide +kernel, issues_of⟩, by decide +kernel, issues_of,
    by decide +kernel, issues_of⟩

/-- VSHFL of v1 by v2 and its poison: of v2 in lane 1; of the word of v1 that lane 0 names. -/
theorem wit_VectorMovesAndReductions_poison : let sh : Shape :=
      { srcs := [⟨.vgroup 1 1, true⟩, ⟨.vgroup 2 1, false⟩], dsts := [.v 3], vector := true, la := (1#4).toNat }
    let t := demoPoisonV demoTeam 2 1
    let u := demoPoisonV demoTeam 1 1
    Issues (demo demoTeam) demoTeam sh ∧ (∀ l ∈ demoTeam.active, demoTeam.vbad 2 l = false)
    ∧ (Issues (demo t) t sh ∧ 1 ∈ t.active ∧ t.vbad 2 1 = true ∧ t.vbad 2 0 = false ∧ t.vbad 1 (t.vval 2 0).toNat = false)
    ∧ (Issues (demo u) u sh ∧ 0 ∈ u.active ∧ (u.vval 2 0).toNat < u.tw ∧ u.vbad 1 (u.vval 2 0).toNat = true) :=
  ⟨issues_of, by decide +kernel, ⟨issues_of, by decide +kernel⟩, issues_of, by decide +kernel⟩

theorem wit_VectorMovesAndReductions_moves : let t := demoTeam
    let far := demoRegs [(2, 32)]
    Issues (demo t) t { srcs := useV [⟨1, true⟩, ⟨2, false⟩], dsts := [.v 3], vector := true }
    ∧ Issues (demo t) t { srcs := useV [⟨1, true⟩], dsts := [.v 3], vector := true }
    ∧ Issues (demo t) t { srcs := useV [⟨1, true⟩, ⟨2, false⟩] ++ useM [⟨1, false⟩], dsts := [.v 3], vector := true }
    ∧ Issues (demo t) t { dsts := [.v 3], vector := true }
    ∧ Issues (demo t) t { srcs := useS [⟨2, true⟩], dsts := [.v 3], vector := true, la := (1#4).toNat }
    ∧ (Issues (demo far) far { srcs := [⟨.vgroup 1 1, true⟩] ++ useS [⟨2, true⟩], dsts := [.s 3], vector := true, always := true
                               la := (1#4).toNat } ∧ ¬ (far.sval 2).toNat < far.tw)
    ∧ ((t.active.contains (t.sval 2).toNat) = true ∧ Issues (demo t) t
        { srcs := useS [⟨1, true⟩] ++ useS [⟨2, false⟩], dsts := [.v 3], vector := true, always := true, la := (1#4).toNat })
    ∧ (far.active.contains (far.sval 2).toNat) = false
    ∧ Issues (demo far) far { srcs := [] ++ useS [⟨2, false⟩], unread := useS [⟨1, true⟩], dsts := [.v 3], vector := true, always := true
                              la := (1#4).toNat } :=
  ⟨issues_of, issues_of, issues_of, issues_of, issues_of, ⟨issues_of, by decide +kernel⟩,
    ⟨by decide +kernel, issues_of⟩, by decide +kernel, issues_of⟩

/-- The operands of a reduction of v2, or of the pair v2 under FP64, into s4. -/
def sumShape (s : State) (t : Team) : Shape :=
  { srcs := [⟨vField t.type 2, true⟩], dsts := [if t.type = 0x18 then .pair 4 else .s 4], vector := true, la := 1
    early := typeTrap (pairFields t.type [4, 2]) (setI t.type || setF t.type), feature := featureTrap s t.core (typeBits t.type) }

theorem wit_VectorMovesAndReductions_reductions : let t := demoMode 0x0A
    Issues (demo t) t (sumShape (demo t) t) ∧ Issues (demo (demoMode 0x18)) (demoMode 0x18) (sumShape (demo (demoMode 0x18)) (demoMode 0x18))
    ∧ setI t.type = true
    ∧ Issues (demo t) t { vecShape (demo t) t (fun T => setI T || setF T) typeBits 3 [⟨2, true⟩] false with la := 1 }
    ∧ setI (demoMode 0x17).type = false
    ∧ Issues (demo (demoMode 0x17)) (demoMode 0x17)
      { vecShape (demo (demoMode 0x17)) (demoMode 0x17) (fun T => setI T || setF T) typeBits 3 [⟨2, true⟩] false with la := 1 } :=
  ⟨issues_of, issues_of, rfl, issues_of, rfl, issues_of⟩

/-! ### Hypotheses that can be met: memory -/

/-- A poisoned word at 0x1_1000, whose address is in s8. -/
def demoBad : State := let s := demo (demoAt 8 0x11000); { s with mem := s.mem.setWordBad 0x11000 true }
theorem demoBad_unwatched : demoBad.unwatched := by simp [State.unwatched, demoBad, demo, demoCtx, Context.system]

/-- A load and a store with post-increment of an aligned word; a store to a peer that no port reaches; a circular
buffer. -/
theorem wit_ScalarLoadsAndStores : let t := demoAt 8 0x11000
    let m : MemArg := ⟨8, false, .postInc 1⟩
    let p := demoAt 8 0x300000
    (Issues (demo t) t { srcs := memUses m, dsts := memDsts [.pair 6] m, ordered := true } ∧ (demo t).sched.defer = false
      ∧ (demo t).unwatched ∧ emptyBuffer m t = false
      ∧ accessPlace (demo t) t (memAddress m t 8) 8 8 .read = .ok ⟨0x11000, .rc, .device 0⟩)
    ∧ (Issues (demo t) t { srcs := ⟨.pair 6, false⟩ :: memUses m, dsts := memDsts [] m, ordered := true }
      ∧ accessPlace (demo t) t (memAddress m t 8) 8 8 .write = .ok ⟨0x11000, .rc, .device 0⟩
      ∧ (demo t).reachable ⟨0x11000, .rc, .device 0⟩ = true ∧ (demo t).canonical)
    ∧ (Issues (demo p) p { srcs := ⟨.s 6, false⟩ :: memUses m, dsts := memDsts [] m, ordered := true }
      ∧ ∃ at_, accessPlace (demo p) p (memAddress m p 4) 4 4 .write = .ok at_ ∧ (demo p).reachable at_ = false)
    ∧ emptyBuffer ⟨8, false, .modulo 2 1⟩ { demoTeam with qLen := Vector.replicate 8 64 } = false :=
  ⟨⟨issues_of, rfl, demo_unwatched _, rfl, ok_of (by decide +kernel)⟩, ⟨issues_of, ok_of (by decide +kernel), rfl, rfl⟩,
    ⟨issues_of, ⟨peerLoc 0x10000, .rc, .peer⟩, ok_of (by decide +kernel), by decide +kernel⟩, by decide⟩

/-- The failing checks of an access: a misaligned address; an offset past the stack; an unmapped address; in a vector
form, of lane 1 after lane 0 has passed; and a circular buffer of no bytes. -/
theorem wit_AccessFails : let form (t : Team) : AForm := memAddress ⟨8, false, .disp 0⟩ t 4
    let stack (v : Word) : AForm := memAddress ⟨62, false, .disp 0⟩ (demoRegs [(62, v)]) 4
    ((form (demoAt 8 0x11002)).va demoTeam).toNat % 4 ≠ 0
    ∧ (((stack 0xFFC).va demoTeam).toNat % 4 = 0 ∧ stackOk demoTeam 0xFFC 4 = true)
    ∧ (stack 0x1000 = .stack 0x1000 ∧ ((stack 0x1000).va demoTeam).toNat % 4 = 0 ∧ stackOk demoTeam 0x1000 4 = false)
    ∧ (((form (demoAt 8 0x500000)).va demoTeam).toNat % 4 = 0
      ∧ (translate (demo demoTeam) demoCtx 0 0x500000 .read).isOk = false)
    ∧ (let t := demoAt 8 0x1FFFFC
      (accessPlace (demo t) t (laneAddress ⟨8, false, .disp 0⟩ t 4 1) 4 4 .read).isOk = true
      ∧ (accessPlace (demo (demoAt 8 0x10FFFC)) (demoAt 8 0x10FFFC) (laneAddress ⟨8, false, .disp 0⟩ (demoAt 8 0x10FFFC) 4 0) 4 4 .read).isOk = true
      ∧ (accessPlace (demo (demoAt 8 0x10FFFC)) (demoAt 8 0x10FFFC) (laneAddress ⟨8, false, .disp 0⟩ (demoAt 8 0x10FFFC) 4 1) 4 4 .read).isOk = false)
    ∧ emptyBuffer ⟨8, false, .modulo 2 1⟩ demoTeam = true
    ∧ Issues (demo (demoAt 8 0x500000)) (demoAt 8 0x500000)
      { srcs := memUses ⟨8, false, .disp 0⟩, dsts := memDsts [.s 6] ⟨8, false, .disp 0⟩, ordered := true } := by
  refine ⟨by decide +kernel, by decide +kernel, by decide +kernel, by decide +kernel, by decide +kernel, by decide +kernel, issues_of⟩

/-- Lanes 0 and 1 at the base and the next element; sizes 1 and 8, the latter in a pair. -/
theorem wit_VectorMemory : let t := demoAt 8 0x11000
    let m : MemArg := ⟨8, false, .postInc 1⟩
    (Issues (demo t) t { srcs := memUses m, dsts := memDsts [laneOpnd 3 6] m, vector := true, always := memSteps m, ordered := true }
      ∧ (∀ l ∈ t.active, (accessPlace (demo t) t (laneAddress m t 8 l) 8 8 .read).isOk = true
        ∧ (demo t).reachable (placeAt (demo t) t (laneAddress m t 8 l) 8 .read) = true
        ∧ (demo t).mem.anyBad (placeAt (demo t) t (laneAddress m t 8 l) 8 .read).loc 8 = false))
    ∧ Issues (demo t) t { srcs := ⟨laneOpnd 0 6, false⟩ :: memUses m, dsts := memDsts [] m, vector := true, always := memSteps m
                          ordered := true }
    ∧ (∀ l ∈ t.active, (accessPlace (demo t) t (laneAddress m t 1 l) 1 1 .write).isOk = true
        ∧ (demo t).reachable (placeAt (demo t) t (laneAddress m t 1 l) 1 .write) = true
        ∧ (placeAt (demo t) t (laneAddress m t 1 l) 1 .write).region ≠ .aperture) :=
  ⟨⟨issues_of, by decide +kernel⟩, issues_of, by decide +kernel⟩

theorem wit_CacheControl : let t := demoAt 8 0x11000
    let m : MemArg := ⟨8, true, .disp 0⟩
    Issues (demo t) t { srcs := memUses m, dsts := memDsts [] m } ∧ emptyBuffer m t = false
    ∧ Issues (demo t) t { srcs := memUses m, dsts := memDsts [] m, ordered := true }
    ∧ accessPlace (demo t) t (memAddress m t 128) 1 1 .read = .ok ⟨0x11000, .rc, .device 0⟩
    ∧ accessPlace (demo t) t (memAddress m t 128) 128 128 .write = .ok ⟨0x11000, .rc, .device 0⟩ :=
  ⟨issues_of, rfl, issues_of, ok_of (by decide +kernel), ok_of (by decide +kernel)⟩

/-- An atomic on a clean word and on a poisoned one, on a peer out of reach, and a CAS of a doubleword. -/
theorem wit_ScalarAtomics : let t := demoAt 8 0x11000
    let u := { t with mode := 0x0B }
    let w := { t with mode := 0x18 }
    let p := { demoAt 8 0x300000 with mode := 0x0B }
    (Issues (demo u) u (scalarStrong (.atom .add true) u 1 2 (commAdd .add .comm) 6 ⟨8, true⟩ 3) ∧ (demo u).unwatched
      ∧ u.width = 4 ∧ accessPlace (demo u) u (.absolute (u.pair 8)) 4 4 .write = .ok ⟨0x11000, .rc, .device 0⟩
      ∧ (demo u).reachable ⟨0x11000, .rc, .device 0⟩ = true ∧ (demo u).mem.wordBad 0x11000 = false)
    ∧ (Issues demoBad t (scalarStrong (.atom .add true) t 1 2 false 6 ⟨8, true⟩ 3) ∧ demoBad.unwatched
      ∧ demoBad.mem.wordBad 0x11000 = true)
    ∧ (Issues (demo p) p (scalarStrong .load p 1 2 false 6 ⟨8, true⟩ 0)
      ∧ ∃ at_, accessPlace (demo p) p (.absolute (p.pair 8)) 4 4 .read = .ok at_ ∧ (demo p).reachable at_ = false)
    ∧ (Issues (demo w) w (scalarStrong .cas w 2 4 false 4 ⟨8, true⟩ 0) ∧ w.width = 8)
    ∧ Issues (demo u) u (scalarStrong .store u 1 2 false 6 ⟨8, true⟩ 0)
    ∧ Issues (demo u) u (scalarStrong (.atom .add false) u 1 2 false 6 ⟨8, true⟩ 0) :=
  ⟨⟨issues_of, demo_unwatched _, rfl, ok_of (by decide +kernel), rfl, rfl⟩, ⟨issues_of, demoBad_unwatched, by decide +kernel⟩,
    ⟨issues_of, ⟨peerLoc 0x10000, .rc, .peer⟩, ok_of (by decide +kernel), by decide +kernel⟩, ⟨issues_of, rfl⟩, issues_of, issues_of⟩

/-- Lane offsets of 4 bytes. -/
def demoLanes : Team := { demoAt 8 0x11000 with
  mode := 0x0B
  vregs := demoTeam.vregs.set 20 (.live ((List.range 32).map fun l => ⟨.ofNat 32 (4 * l), false⟩)) }

theorem wit_VectorAtomics : let t := demoLanes
    let s := demo t
    let form (l : Nat) : AForm := .absolute (t.pair 8 + (t.vval 20 l).signExtend 64)
    (Issues s t (vectorStrong (.atom .add true) t 2 4 false 20 ⟨8, true⟩ 3) ∧ Issues s t (vectorStrong .cas t 4 8 false 20 ⟨8, true⟩ 3)
      ∧ Issues s t (vectorStrong .store t 2 4 false 20 ⟨8, true⟩ 3) ∧ Issues s t (vectorStrong .load t 2 4 false 20 ⟨8, true⟩ 3)
      ∧ Issues s t (vectorStrong (.atom .add false) t 2 4 false 20 ⟨8, true⟩ 3))
    ∧ s.sched.defer = false ∧ s.unwatched ∧ t.width = 4
    ∧ ∀ l ∈ t.active, (accessPlace s t (form l) 4 4 .write).isOk = true ∧ s.reachable (placeAt s t (form l) 4 .write) = true
      ∧ (placeAt s t (form l) 4 .write).region ≠ .aperture ∧ s.mem.anyBad (placeAt s t (form l) 4 .write).loc 4 = false :=
  ⟨⟨issues_of, issues_of, issues_of, issues_of, issues_of⟩, rfl, demo_unwatched _, rfl, by decide +kernel⟩

theorem wit_Fences : Issues (demo demoTeam) demoTeam { dsts := [.s 6], ordered := true }
    ∧ Issues (demo demoTeam) demoTeam { srcs := useS [⟨2, true⟩] } := ⟨issues_of, issues_of⟩

/-- The operands of BELL.GEU s6, 1, s8^, s10. -/
def bellShape (t : Team) : Shape :=
  { srcs := [⟨.pair 8, true⟩, ⟨bellOpnd .geu t.width 10, false⟩], dsts := [.s 6], ordered := true, early := bellTrap t .geu 10 }
/-- A machine whose bell table of tower 0 is full. -/
def demoFull (t : Team) : State := { demo t with
  teams := t :: List.replicate 4096 { demoTeam with id := 2, bells := Vector.replicate 4 ⟨some ⟨0x12000, 4, 0, .eq, 1, 0, false⟩, false⟩ } }

/-- The same with room for one bell on the overflow list. -/
def demoListing (t : Team) : State := { demoFull t with dev := { (demo t).dev with regs := { (demo t).dev.regs with ovfcap := 1 } } }

/-- BELL on a poisoned word; on a word that is 0, whose condition 0 ≥ 0 holds and 0 ≥ 1 does not; with room, and with
none; on host memory. -/
theorem wit_Bells_bell : let t := { demoAt 8 0x11000 with mode := 0x0B }
    let h := { demoAt 8 0x200000 with mode := 0x0B }
    let at_ : Place := ⟨0x11000, .rc, .device 0⟩
    (Issues (demo t) t (bellShape t) ∧ (demo t).busy t = false ∧ (demo t).unwatched ∧ t.width = 4
      ∧ accessPlace (demo t) t (.absolute (t.pair 8)) 4 4 .read = .ok at_ ∧ at_.region ∉ [.hostCoherent, .hostLink, .peer]
      ∧ (demo t).mem.anyBad 0x11000 4 = false
      ∧ bellHolds .geu 4 (.ofNat 64 (leNat ((demo t).readPlace at_ 4))) 0 0 = true
      ∧ bellHolds .geu 4 (.ofNat 64 (leNat ((demo t).readPlace at_ 4))) 1 0 = false
      ∧ (demo t).bellRoom 0 = some false)
    ∧ demoBad.mem.anyBad 0x11000 4 = true
    ∧ (Issues (demo h) h (bellShape h) ∧ ∃ p, accessPlace (demo h) h (.absolute (h.pair 8)) 4 4 .read = .ok p ∧ p.region = .hostLink)
    ∧ Issues (demoFull t) t (bellShape t) ∧ (demoFull t).bellRoom 0 = none ∧ (demoListing t).bellRoom 0 = some true :=
  ⟨⟨issues_of, rfl, demo_unwatched _, rfl, ok_of (by decide +kernel), by decide, by decide +kernel, by decide +kernel,
      by decide +kernel, by decide +kernel⟩, by decide +kernel,
    ⟨issues_of, ⟨hostLoc 0x10000, .rc, .hostLink⟩, ok_of (by decide +kernel), rfl⟩, issues_of, by decide +kernel, by decide +kernel⟩

/-- AWAIT: slot 2 fired; nothing armed; a slot armed, with the wait over and with time left. -/
theorem wit_Bells_await : let is (t : Team) := Issues (demo t) t { srcs := useS [⟨2, true⟩], dsts := [.pair 6] }
    let armed : BellSlot := ⟨some ⟨0x11000, 4, 0, .eq, 1, 0, false⟩, false⟩
    let fired := { demoTeam with bells := demoTeam.bells.set 2 ⟨none, true⟩ }
    let ended := { demoTeam with bells := demoTeam.bells.set 3 armed }
    let waits := { demoRegs [(2, 7)] with bells := demoTeam.bells.set 3 armed }
    Issues (demo demoTeam) demoTeam {} ∧ (is fired ∧ fired.bells[2].fired = true ∧ ∀ j : Fin 4, j < 2 → fired.bells[j].fired = false)
    ∧ (is demoTeam ∧ (∀ k : Fin 4, demoTeam.bells[k].fired = false) ∧ ¬ ∃ k : Fin 4, demoTeam.bells[k].armed.isSome = true)
    ∧ (is ended ∧ (∀ k : Fin 4, ended.bells[k].fired = false) ∧ (∃ k : Fin 4, ended.bells[k].armed.isSome = true) ∧ ended.sval 2 = 0)
    ∧ is waits ∧ waits.sval 2 ≠ 0 :=
  ⟨issues_of, ⟨issues_of, by decide +kernel⟩, ⟨issues_of, by decide +kernel⟩, ⟨issues_of, by decide +kernel⟩, issues_of,
    by decide +kernel⟩

/-- A barrier word in vault 0, and its address in s8. -/
def demoVault (o : Word) : Team := demoRegs [(8, o), (9, 0xFFFFFE00)]
def demoVaultBad (t : Team) : State := let s := demo t; { s with mem := s.mem.setWordBad (vaultLoc 0 8) true }
theorem demoVaultBad_unwatched (t : Team) : (demoVaultBad t).unwatched := by
  simp [State.unwatched, demoVaultBad, demo, demoCtx, Context.system]

theorem wit_Barriers : let is (t : Team) := Issues (demo t) t { srcs := useP [⟨8, true⟩], dsts := [.s 6], ordered := true }
    let t := demoVault 8
    let w := demoRegs [(8, 8), (9, 0xFFFFFE00), (10, 1)]
    let at_ : Place := ⟨vaultLoc 0 8, .rc, .vault 0⟩
    (is (demoVault 4) ∧ ((demoVault 4).pair 8).toNat % 8 ≠ 0)
    ∧ (is (demoAt 8 0x11000) ∧ ((demoAt 8 0x11000).pair 8).toNat % 8 = 0 ∧ ((demoAt 8 0x11000).pair 8).toNat < vaultWindow)
    ∧ (is t ∧ (demo t).busy t = false ∧ (demo t).unwatched ∧ barrierPlace (demo t) t (t.pair 8) .write = .ok at_
      ∧ (demo t).mem.anyBad at_.loc 8 = false)
    ∧ (Issues (demoVaultBad t) t { srcs := useP [⟨8, true⟩], dsts := [.s 6], ordered := true } ∧ (demoVaultBad t).unwatched
      ∧ (demoVaultBad t).mem.anyBad at_.loc 8 = true)
    ∧ (Issues (demo w) w { srcs := useP [⟨8, true⟩] ++ useS [⟨10, false⟩], ordered := true }
      ∧ barrierPlace (demo w) w (w.pair 8) .read = .ok at_ ∧ w.cond ≠ .woken
      ∧ (BitVec.ofNat 64 (leNat ((demo w).readPlace at_ 8))).extractLsb' 16 32 ≠ w.sval 10)
    ∧ Issues (demo t) t { srcs := useP [⟨8, true⟩] ++ useS [⟨10, false⟩], ordered := true }
    ∧ (BitVec.ofNat 64 (leNat ((demo t).readPlace at_ 8))).extractLsb' 16 32 = t.sval 10
    ∧ Issues (demoVaultBad t) t { srcs := useP [⟨8, true⟩] ++ useS [⟨10, false⟩], ordered := true }
    ∧ (demo { t with cond := .woken }).curTeam = some { t with cond := .woken } :=
  ⟨⟨issues_of, by decide +kernel⟩, ⟨issues_of, by decide +kernel, by decide +kernel⟩,
    ⟨issues_of, rfl, demo_unwatched _, ok_of (by decide +kernel), by decide +kernel⟩,
    ⟨issues_of, demoVaultBad_unwatched _, by decide +kernel⟩, ⟨issues_of, ok_of (by decide +kernel), by decide, by decide +kernel⟩,
    issues_of, by decide +kernel, issues_of, rfl⟩

/-- Cohorts for the cases of JOIN, LEAVE and CLEAD: none, one of 63 and of 64 members, 1,023 and 1,024 in the tower. -/
def demoCohorts (cs : List Cohort) (t : Team) : State := { demo t with cohorts := cs }
def cohortOf (h : BitVec 16) (n : Nat) : Cohort := ⟨1, 0, h, List.replicate n 9⟩

theorem wit_Cohorts : let t := demoRegs [(2, 5)]
    let is (s : State) (t : Team) := Issues s t { srcs := useS [⟨2, true⟩], dsts := [.s 6] }
    let mine (c : Cohort) : Bool := c.ctx == 1 && c.tower == 0 && c.handle == 5#16
    let m := { t with cid1 := 5 }
    let f := { t with cid0 := 1, cid1 := 2 }
    (is (demo demoTeam) demoTeam ∧ (demoTeam.sval 2).setWidth 16 = 0#16)
    ∧ (is (demo m) m ∧ m.cid1 = 5 ∧ (m.sval 2).setWidth 16 = 5#16) ∧ (is (demo f) f ∧ f.cid0 ≠ 0 ∧ f.cid1 ≠ 0 ∧ f.cid0 ≠ 5 ∧ f.cid1 ≠ 5)
    ∧ (is (demoCohorts [cohortOf 5 64] t) t ∧ [cohortOf 5 64].find? mine = some (cohortOf 5 64) ∧ 64 ≤ (cohortOf 5 64).members.length)
    ∧ (is (demoCohorts [cohortOf 5 63] t) t ∧ [cohortOf 5 63].find? mine = some (cohortOf 5 63) ∧ (cohortOf 5 63).members.length < 64)
    ∧ (is (demoCohorts (List.replicate 1024 (cohortOf 6 1)) t) t ∧ (List.replicate 1024 (cohortOf 6 1)).find? mine = none
      ∧ 1024 ≤ ((List.replicate 1024 (cohortOf 6 1)).filter fun c => c.tower = 0).length)
    ∧ is (demoCohorts (List.replicate 1023 (cohortOf 6 1)) t) t
    ∧ ((List.replicate 1023 (cohortOf 6 1)).filter fun c => c.tower = 0).length < 1024
    ∧ is (demoCohorts [cohortOf 5 63] m) m :=
  ⟨⟨issues_of, by decide +kernel⟩, ⟨issues_of, by decide +kernel⟩, ⟨issues_of, by decide +kernel⟩,
    ⟨issues_of, by decide +kernel⟩, ⟨issues_of, by decide +kernel⟩, ⟨issues_of, by decide +kernel⟩, issues_of, by decide +kernel, issues_of⟩

/-! ### Hypotheses that can be met: copies, tags, nodes, the array -/

theorem exists_places {α β : Type} (f : α → List ByteAt) (g : β → List ByteAt) {s : State} {x : Except Stop α} {y : Except Stop β}
    (h : (match x, y with
      | .ok a, .ok b => (f a ++ g b).all fun p => p.place.region != .aperture && s.reachable p.place
      | .ok _, .error _ => false
      | .error _, _ => false) = true) : ∃ ps, x = .ok ps ∧ ∃ ds, y = .ok ds ∧ carried s (f ps ++ g ds) := by
  split at h
  · refine ⟨_, rfl, _, rfl, fun p hp => ?_⟩
    have := List.all_eq_true.mp h p hp
    simpa using this
  · cases h
  · cases h

theorem exists_where {ε α : Type} {x : Except ε α} {p : α → Bool}
    (h : (match x with | .ok a => p a | .error _ => false) = true) : ∃ a, x = .ok a ∧ p a = true := by
  cases x with
  | ok a => exact ⟨a, rfl, h⟩
  | error _ => cases h

/-- s8 and s10 hold the addresses of a destination and of a source, s12 a count. -/
def demoCopy (d a n : Word) : Team := demoRegs [(8, d), (9, 0), (10, a), (11, 0), (12, n)]
/-- A shape record's bytes (17 R248). -/
def recordOf (addr pitch fmt layout rows cols : Nat) : List Byte :=
  leBytes 16 (addr + pitch * 2 ^ 64 + fmt * 2 ^ 88 + layout * 2 ^ 93 + rows * 2 ^ 96 + cols * 2 ^ 112)
/-- Records at 0x1_2000 (two rows of four bytes), 0x1_2010 (where they go) and 0x1_2020 (a planed tile). -/
def demoTiles (t : Team) : State :=
  demoMem [(0x12000, recordOf 0x13000 16 5 0 2 4), (0x12010, recordOf 0x13100 8 5 0 2 4), (0x12020, recordOf 0x14000 16 5 1 2 4)] t

/-- CPY of four bytes, at once, in a turn that defers and behind an earlier copy; CPYT between layouts 0 and into layout
1; GATH of two elements of four bytes. -/
theorem wit_Copies : let t := demoCopy 0x11000 0x11100 4
    let u := demoCopy 0x12010 0x12000 0
    let v := demoCopy 0x12020 0x12000 0
    let g := demoCopy 0x11000 0x12000 0
    let gs := demoMem [(0x12000, leBytes 32 (0x13000 + 0x12100 * 2 ^ 64 + 2 * 2 ^ 128 + 4 * 2 ^ 160)), (0x12104, leBytes 4 8)] g
    let sh : Shape := { srcs := [⟨.pair 8, false⟩, ⟨.pair 10, true⟩, ⟨.s 12, true⟩], alone := true }
    let late := let s := demo t; { s with sched := { s.sched with defer := true } }
    let behind := { demo t with flight := { Flight.empty with
      copies := [⟨5, 1, 0x10000, [], [], [], ⟨[], [⟨⟨0x11100, .rc, .device 0⟩, 0x11100⟩], none⟩, false, [], none, none⟩], nextId := 6 } }
    let num (s : State) (t : Team) (va : Addr) := (recordBytesAt s t va 16).toOption.map (·.1)
    let src := leNat (recordOf 0x13000 16 5 0 2 4)
    let dst := leNat (recordOf 0x13100 8 5 0 2 4)
    let plane := leNat (recordOf 0x14000 16 5 1 2 4)
    (Issues (demo t) t sh ∧ (demo t).unwatched ∧ (demo t).canonical ∧ (demo t).settled ∧ earlierCopies (demo t) t = []
      ∧ ∃ ps, bytePlaces (demo t) t (t.pair 10) 4 .read = .ok ps ∧ ∃ ds, bytePlaces (demo t) t (t.pair 8) 4 .write = .ok ds
        ∧ carried (demo t) (id ps ++ id ds))
    ∧ (Issues late t sh ∧ late.sched.defer = true ∧ ∃ ds, bytePlaces late t (t.pair 8) 4 .write = .ok ds ∧ ds.isEmpty = false)
    ∧ (Issues behind t sh ∧ earlierCopies behind t = [5] ∧ behind.flight.copies.all (fun c => c.id < behind.flight.nextId) = true)
    ∧ (Issues (demoTiles u) u sh ∧ (demoTiles u).unwatched ∧ (demoTiles u).mem.wf = true
      ∧ num (demoTiles u) u (u.pair 8) = some dst ∧ num (demoTiles u) u (u.pair 10) = some src
      ∧ tilesPair (.ofNat src) (.ofNat dst) = true ∧ followOn (demoTiles u) u (u.sval 12) = .ok none
      ∧ ∃ ps, piecePlaces (demoTiles u) u .read (ShapeRec.ofNat src).pieces = .ok ps
        ∧ ∃ ds, piecePlaces (demoTiles u) u .write (ShapeRec.ofNat dst).pieces = .ok ds
        ∧ carried (demoTiles u) (List.flatten ps ++ List.flatten ds))
    ∧ (Issues (demoTiles v) v sh ∧ num (demoTiles v) v (v.pair 8) = some plane ∧ tilesPair (.ofNat src) (.ofNat plane) = true
      ∧ (ShapeRec.ofNat plane).layout ≠ 0 ∧ (ShapeRec.ofNat plane).addr.toNat % 256 = 0
      ∧ ∃ ps, piecePlaces (demoTiles v) v .read (ShapeRec.ofNat src).pieces = .ok ps
        ∧ ∃ ds, bytePlaces (demoTiles v) v 0x14000 (planeTileSize 5 2 4) .write = .ok ds
        ∧ carried (demoTiles v) (List.flatten ps ++ id ds))
    ∧ Issues gs g { srcs := [⟨.pair 8, false⟩, ⟨.pair 10, true⟩], alone := true } ∧ gs.mem.wf = true
    ∧ (∃ x, recordBytesAt gs g (g.pair 10) 32 = .ok x ∧ ((CopyList.ofNat x.1).legal
      && ((listElements gs g (CopyList.ofNat x.1)).toOption.map (·.1)) == some [0x13000, 0x13008]) = true)
    ∧ ∃ ps, piecePlaces gs g .read [(0x13000, 4), (0x13008, 4)] = .ok ps
        ∧ ∃ ds, piecePlaces gs g .write [(0x11000, 4), (0x11004, 4)] = .ok ds ∧ carried gs (List.flatten ps ++ List.flatten ds) :=
  ⟨⟨issues_of, demo_unwatched _, rfl, demo_settled _, rfl, exists_places _ _ (by decide +kernel)⟩,
    ⟨issues_of, rfl, by simpa using exists_where (p := fun ds : List ByteAt => !ds.isEmpty) (by decide +kernel)⟩, ⟨issues_of, rfl, rfl⟩,
    ⟨issues_of, demoMem_unwatched _ _, by decide +kernel, by decide +kernel, by decide +kernel, by decide +kernel,
      ok_of (by decide +kernel), exists_places _ _ (by decide +kernel)⟩,
    ⟨issues_of, by decide +kernel, by decide +kernel, by decide +kernel, by decide +kernel, exists_places _ _ (by decide +kernel)⟩,
    issues_of, by decide +kernel, exists_where (by decide +kernel), exists_places _ _ (by decide +kernel)⟩

/-- A collective's descriptor: send 0x1_3000, receive 0x1_3100, one FP32 element, group 0 of one rank. -/
def demoColl (t : Team) : State :=
  let s := demoMem [(0x12000, leBytes 64 (0x13000 + 0x13100 * 2 ^ 64 + 2 ^ 128 + 0x17 * 2 ^ 176 + 2 ^ 240))] t
  { s with dev := { s.dev with regs := { s.dev.regs with grpcnt := 1 } } }
theorem demoColl_unwatched (t : Team) : (demoColl t).unwatched := by
  simp [State.unwatched, demoColl, demoMem, demo, demoCtx, Context.system]

theorem wit_TagsCollectivesAndNodes_coll : let t := demoAt 8 0x12000
    let s := demoColl t
    Issues s t { srcs := useP [⟨8, true⟩], alone := true } ∧ s.unwatched ∧ (t.pair 8).toNat % 64 = 0
    ∧ (∃ x, recordBytesAt s t (t.pair 8) 64 = .ok x ∧ ((CollDesc.ofNat x.1).legal 2 1 && (CollDesc.ofNat x.1).sizes == (4, 4)
      && (CollDesc.ofNat x.1).send == 0x13000 && (CollDesc.ofNat x.1).recv == 0x13100) = true)
    ∧ (∃ ps, bytePlaces s t 0x13000 4 .read = .ok ps) ∧ (∃ rs, bytePlaces s t 0x13100 4 .write = .ok rs)
    ∧ ∃ report, bytePlaces s t 0x12024 8 .write = .ok report :=
  ⟨issues_of, demoColl_unwatched _, by decide +kernel, exists_where (by decide +kernel), exists_ok (by decide +kernel),
    exists_ok (by decide +kernel), exists_ok (by decide +kernel)⟩

/-- The bytes of a node descriptor of one team of 32 lanes (19 R277), and a feature table of one entry. -/
def nodeBytes : List Byte := leBytes 128 (0x10000 + 1 * 2 ^ 64 + 1 * 2 ^ 96 + 0x8801 * 2 ^ 128 + 0x20000 * 2 ^ 192 + 0x1000 * 2 ^ 256)
/-- A node descriptor at an address, with a context that has one feature entry. -/
def demoNode (at_ : Word) (va : Nat) (f : State → State) : Team × State :=
  let t := demoAt 8 at_
  let s := demoMem [(va, nodeBytes)] t
  (t, f { s with fe := { s.fe with contexts := [{ demoCtx with feattab := 0x16000, featcnt := 1 }] } })

theorem wit_TagsCollectivesAndNodes_node :
    let is (x : Team × State) :=
      Issues x.2 x.1 { srcs := useP [⟨8, true⟩] ++ useS [⟨2, false⟩], dsts := [.s 6], alone := true }
    let uneven := demoNode 0x15040 0x15000 id
    let n := demoNode 0x15000 0x15000 id
    let empty := demoNode 0x15000 0x15800 id
    let packed := demoNode 0x15000 0x15000 fun s => { s with fe := { s.fe with pool := List.replicate 4096 0 } }
    (is uneven ∧ (uneven.1.pair 8).toNat % 128 ≠ 0)
    ∧ (is n ∧ (n.1.pair 8).toNat % 128 = 0 ∧ translate n.2 (n.2.ctxOf n.1) n.1.core (n.1.pair 8) .read = .ok ⟨0x15000, .rc, .device 0⟩
      ∧ n.2.sealedBusy n.1 = false ∧ n.2.fe.pool.length < 4096 ∧ n.2.fe.held = []
      ∧ (n.2.accept (n.2.ctxOf n.1) (n.1.pair 8) true).isSome = true)
    ∧ (is empty ∧ empty.2.accept (empty.2.ctxOf empty.1) (empty.1.pair 8) true = none)
    ∧ is packed ∧ 4096 ≤ packed.2.fe.pool.length :=
  ⟨⟨issues_of, by decide +kernel⟩, ⟨issues_of, by decide +kernel, ok_of (by decide +kernel), by decide +kernel, by decide +kernel,
      rfl, by decide +kernel⟩, ⟨issues_of, by decide +kernel⟩, issues_of,
    show 4096 ≤ (List.replicate 4096 0).length from List.length_replicate.ge⟩

/-- A fault of a follow-on in a batch bound to tag 5, which the mask names, with the trap's frame free and held. -/
theorem wit_TagsCollectivesAndNodes_tags : let t := demoAt 8 0x20
    let x : List Nat × Trap := ([3], ⟨.arrayFault, 0, 1, none, none⟩)
    let u := { t with followFaults := [x] }
    let bound (s : State) : State := { s with flight := { s.flight with batches := [⟨4, 1, 1, 0, 5, [3]⟩] } }
    let is (s : State) := Issues s u { srcs := useP [⟨8, true⟩], dsts := [.s 6] } ∧ u.followFaults.find? (fun f => s.flight.batches.any
      fun b => b.team == u.id && f.1.any b.copies.contains && (u.pair 8).getLsbD b.tag) = some x
    (Issues (demo t) t {} ∧ coveredFault (demo t) t (t.pair 8) = none ∧ Issues (demo t) t { srcs := useP [⟨8, true⟩], dsts := [.s 6] }
      ∧ Issues (demo t) t { srcs := useP [⟨8, true⟩] })
    ∧ (is (bound (demo u)) ∧ (bound (demo u)).frameHeld u = false)
    ∧ is (bound (demoHeldFrame u)) ∧ (bound (demoHeldFrame u)).frameHeld u = true :=
  ⟨⟨issues_of, by decide +kernel, issues_of, issues_of⟩, ⟨⟨issues_of, by decide +kernel⟩, by decide +kernel⟩,
    ⟨issues_of, by decide +kernel⟩, by decide +kernel⟩

/-- A team whose window is rows 0 to 63, with words in s2, s3 and the pair s8. -/
def demoRows (a b : Word) : Team := { demoRegs [(2, a), (3, b), (8, 0x13000), (9, 0)] with acl := 64 }

/-- MZERO of the last row of the window, of none, from the first row beyond it, and over row 255; lanes 0 and 1 at row
63, with cells clean and poisoned; lane 1 in the row beyond the window; MACCLD and MACCST of a row, of one outside the
window, and from a misaligned address. -/
theorem wit_AccumulatorInstructions :
    let z (t : Team) :=
      Issues (demo t) t { srcs := useS [⟨2, false⟩, ⟨3, false⟩], la := (2#4).toNat, ordered := true, cells := true, early := matrixClaimed (demo t) t }
    let rd (s : State) (t : Team) :=
      Issues s t { srcs := useS [⟨3, false⟩], dsts := [.v 1], vector := true, la := 2, ordered := true, cells := true, early := matrixClaimed s t }
    let wr (t : Team) := Issues (demo t) t
      { srcs := useS [⟨2, false⟩] ++ useV [⟨1, false⟩], vector := true, la := 2, ordered := true, cells := true, early := matrixClaimed (demo t) t }
    let fl := demoRows (64 * 63) (64 * 63)
    let edge := demoRows (64 * 63 + 63) (64 * 63 + 63)
    let m := demoRows 63 1
    let high := { demoRows 255 2 with acl := 300 }
    let odd := { m with sregs := scalarsAfter m [] [(8, 0x13002)] }
    let bad := let s := demo fl; { s with mem := s.mem.setCell (cellKey 1 0 63 1) ⟨7, true⟩ }
    let mv (t : Team) := Issues (demo t) t
      { srcs := useS [⟨2, false⟩] ++ useP [⟨8, false⟩] ++ useS [⟨3, false⟩], la := 2, alone := true, early := matrixClaimed (demo t) t }
    let row (t : Team) (l : Nat) : Nat := ((t.sval 3).toNat + l) / 64
    (z m ∧ (m.sval 2).toNat = 63 ∧ (m.sval 3).toNat = 1 ∧ inWindow m 63)
    ∧ (z (demoRows 64 0) ∧ ((demoRows 64 0).sval 3).toNat = 0)
    ∧ (z (demoRows 64 1) ∧ outsideFirst (demoRows 64 1) 64 1 64)
    ∧ (z high ∧ (high.sval 2).toNat = 255 ∧ (high.sval 3).toNat = 2 ∧ outsideFirst high 255 2 256)
    ∧ (rd (demo fl) fl ∧ (∀ l ∈ fl.active, inWindow fl (row fl l))
      ∧ ∀ l ∈ fl.active, ((demo fl).mem.cell (cellKey fl.ctx fl.core (row fl l) (((fl.sval 3).toNat + l) % 64))).poison = false)
    ∧ (rd bad fl ∧ (bad.mem.cell (cellKey fl.ctx fl.core (row fl 1) (((fl.sval 3).toNat + 1) % 64))).poison = true)
    ∧ (rd (demo edge) edge ∧ wr edge ∧ 1 ∈ edge.active ∧ inWindow edge (row edge 0) ∧ ¬ inWindow edge (row edge 1))
    ∧ wr fl ∧ (mv odd ∧ (odd.pair 8).toNat % 4 ≠ 0) ∧ (mv (demoRows 64 1) ∧ outsideFirst (demoRows 64 1) 64 1 64)
    ∧ mv m ∧ (demo m).unwatched
    ∧ ∀ i ∈ List.range 64, (accessPlace (demo m) m (.absolute (m.pair 8 + .ofNat 64 (4 * i))) 4 4 .write).isOk = true
      ∧ (demo m).reachable (placeAt (demo m) m (.absolute (m.pair 8 + .ofNat 64 (4 * i))) 4 .write) = true
      ∧ (placeAt (demo m) m (.absolute (m.pair 8 + .ofNat 64 (4 * i))) 4 .write).region ≠ .aperture := by
  have beyond : outsideFirst (demoRows 64 1) 64 1 64 :=
    ⟨le_refl _, by decide, by unfold inWindow; decide +kernel, fun q h1 h2 => absurd h1 (by omega)⟩
  have above : outsideFirst { demoRows 255 2 with acl := 300 } 255 2 256 :=
    ⟨by decide, by decide, by unfold inWindow; decide +kernel, fun q h1 h2 => by
      obtain rfl : q = 255 := by omega
      unfold inWindow; decide +kernel⟩
  exact ⟨⟨issues_of, by decide +kernel, by decide +kernel, by unfold inWindow; decide +kernel⟩, ⟨issues_of, by decide +kernel⟩,
    ⟨issues_of, beyond⟩, ⟨issues_of, by decide +kernel, by decide +kernel, above⟩,
    ⟨issues_of, by unfold inWindow; decide +kernel, by decide +kernel⟩, ⟨issues_of, by decide +kernel⟩,
    ⟨issues_of, issues_of, by decide +kernel, by unfold inWindow; decide +kernel, by unfold inWindow; decide +kernel⟩, issues_of,
    ⟨issues_of, by decide +kernel⟩, ⟨issues_of, beyond⟩, issues_of, demo_unwatched _, by decide +kernel⟩

/-- MMA with operands in the local store: A planed FP16, B FP16, C FP32. -/
def demoMma (w : Nat → Word) (exm : LaneBits) : Team :=
  { demoRegs [(12, 0), (13, 0xFFFFFF00), (14, 0x4000), (15, 0xFFFFFF00)] with
    acl := 64, exmBits := exm, vregs := demoTeam.vregs.set 2 (.live ((List.range 32).map fun l => ⟨w l, false⟩)) }

theorem wit_MatrixIssueAndControl_issue : let is (t : Team) := Issues (demo t) t (matrixShape 2 8 12 3 t (demo t))
    let good := demoMma (fun _ => 0x5E10) 3
    let uneven := demoMma (fun l => .ofNat 32 l) 3
    let idle := demoMma (fun _ => 0x5E10) 0
    (is good ∧ (demo good).unwatched ∧ ∃ r, matrixChecks (demo good) good false 0 2 8 12 = .ok r ∧ r.isSome = true)
    ∧ (is uneven ∧ ∃ l ∈ uneven.active, ∃ k ∈ uneven.active, uneven.vval 2 k ≠ uneven.vval 2 l) ∧ is idle ∧ idle.active = [] := by
  refine ⟨⟨issues_of, demo_unwatched _, ?_⟩, ⟨issues_of, by decide +kernel⟩, issues_of, by decide +kernel⟩
  have h : ((matrixChecks (demo (demoMma (fun _ => 0x5E10) 3)) (demoMma (fun _ => 0x5E10) 3) false 0 2 8 12).toOption.map
    (·.isSome)) = some true := by decide +kernel
  cases hc : matrixChecks (demo (demoMma (fun _ => 0x5E10) 3)) (demoMma (fun _ => 0x5E10) 3) false 0 2 8 12 with
  | error e => rw [hc] at h; simp [Except.toOption] at h
  | ok r => rw [hc] at h; exact ⟨r, rfl, by simpa [Except.toOption] using h⟩

/-- ACWIN: a reserved bit; a window whose end is before its start; the edge 256; a leader, a member and none. MPLAN under
FP16; MCHK. -/
theorem wit_MatrixIssueAndControl_control : let w (sel win : Word) := demoRegs [(2, sel), (3, win)]
    let is (t : Team) := Issues (demo t) t { srcs := useS [⟨2, false⟩, ⟨3, false⟩], dsts := [.s 6], la := 1, early := matrixClaimed (demo t) t }
    let p := demoMma (fun _ => 0x10) 3
    let k := demoRegs [(2, 2)]
    let mc (t : Team) := Issues (demo t) t { srcs := useS [⟨2, false⟩], dsts := [.s 6], la := 1, early := matrixClaimed (demo t) t }
    (is (w 0x400000 0) ∧ (0x400000#32).toNat / 2 ^ 22 ≠ 0)
    ∧ (is (w 0 1) ∧ (1#32).extractLsb' 16 9 < (1#32).extractLsb' 0 9)
    ∧ (is (w 5 0x01000000) ∧ (0x01000000#32).extractLsb' 0 9 ≤ (0x01000000#32).extractLsb' 16 9
      ∧ ((0x01000000#32).extractLsb' 16 9).toNat ≤ 256 ∧ (0x01000000#32).extractLsb' 9 7 = 0#7 ∧ (0x01000000#32).toNat / 2 ^ 25 = 0)
    ∧ (Issues (demo p) p { srcs := [⟨.v 2, false⟩, ⟨mplanOpnd p 2 3, false⟩, ⟨.pair 12, false⟩, ⟨.s 14, false⟩]
                           unread := [⟨.quad 12, false⟩], vector := true, la := 1, alone := true, early := matrixClaimed (demo p) p }
      ∧ vote p 2 = .ok (some 0x10) ∧ wordA 0x10 ≠ 0x18 ∧ (p.pair 12).toNat % 256 = 0
      ∧ ∃ base, tileBytes (demo p) p (p.pair 12) (blockSize 0x10) .write = .ok base)
    ∧ (mc k ∧ 1 < (k.sval 2).toNat) ∧ mc demoTeam ∧ (demoTeam.sval 2).toNat ≤ 1 ∧ demoTeam.matrixPending = false :=
  ⟨⟨issues_of, by decide +kernel⟩, ⟨issues_of, by decide +kernel⟩, ⟨issues_of, by decide +kernel⟩,
    ⟨issues_of, ok_of (by decide +kernel), by decide +kernel, by decide +kernel, exists_ok (by decide +kernel)⟩,
    ⟨issues_of, by decide +kernel⟩, issues_of, by decide +kernel⟩

/-! ### Hypotheses that can be met: what is in flight, the array's steps -/

/-- One access in flight at a place, behind one that has performed; poison at 0x1_1000 on demand. -/
def demoAccess (k : AccessKind) (p : Place) : Access := ⟨5, 1, 0x10000, 0x11000, p, 4, k, none, none, false, [4], none⟩
def demoFlight (k : AccessKind) (p : Place) : State :=
  { demo demoTeam with flight := { Flight.empty with accesses := [demoAccess k p], nextId := 6 } }
theorem demo_canPerform (k : AccessKind) (p : Place) : canPerform (demoFlight k p) (demoAccess k p) :=
  ⟨rfl, by simp [demoFlight, demoAccess]⟩
def demoPlace : Place := ⟨0x11000, .rc, .device 0⟩
def demoPeer : Place := ⟨peerLoc 0x10000, .rc, .peer⟩

/-- A load and a store that a deferring turn issues; the kinds of access, a place that can be reached, one that cannot
and one over a link without native atomics, with poison; 32-bit operands of an atomic. -/
theorem wit_AccessesInFlight : let t := demoAt 8 0x11000
    let m : MemArg := ⟨8, false, .postInc 1⟩
    let late := let s := demo t; { s with sched := { s.sched with defer := true } }
    let host : Place := ⟨hostLoc 0x10000, .rc, .hostLink⟩
    let kinds : List AccessKind := [.load (.scalar 6 false 0), .strongLoad (.scalar 6 false 0), .store [1, 2, 3, 4],
      .strongStore [1, 2, 3, 4], .atomic .add false true 0 false 0xFFFFFFFF none, .cas 0 1 (.scalar 6 false 0),
      .update 0 [1, 2, 3, 4] none, .reply 7 false (.scalar 6 false 0)]
    (late.sched.defer = true ∧ late.unwatched ∧ emptyBuffer m t = false
      ∧ Issues late t { srcs := memUses m, dsts := memDsts [.s 6] m, ordered := true }
      ∧ Issues late t { srcs := ⟨.s 6, false⟩ :: memUses m, dsts := memDsts [] m, ordered := true }
      ∧ accessPlace late t (memAddress m t 4) 4 4 .read = .ok ⟨0x11000, .rc, .device 0⟩
      ∧ accessPlace late t (memAddress m t 4) 4 4 .write = .ok ⟨0x11000, .rc, .device 0⟩)
    ∧ (∀ k p, canPerform (demoFlight k p) (demoAccess k p))
    ∧ (∀ k ∈ kinds, (demoFlight k demoPeer).reachable demoPeer = false ∧ (demoFlight k demoPlace).reachable demoPlace = true
      ∧ (demoFlight k host).splitAtomic host = true ∧ (demoFlight k demoPlace).splitAtomic demoPlace = false)
    ∧ kinds.map (fun k => (k.isLoad, k.isStore, k.isUpdate, k.isReply)) = [(true, false, false, false), (true, false, false, false),
      (false, true, false, false), (false, true, false, false), (false, false, true, false), (false, false, true, false),
      (false, false, true, false), (false, false, false, true)]
    ∧ (∀ k ∈ kinds, let s := demoFlight k demoPlace; ({ s with mem := s.mem.setWordBad 0x11000 true }).mem.wordBad demoPlace.loc = true)
    ∧ (demoAccess (.cas 0 1 (.scalar 6 false 0)) demoPlace).size = 4 ∧ (0xFFFFFFFF#64).toNat < 2 ^ (8 * 4) :=
  ⟨⟨rfl, by simp [State.unwatched, demo, demoCtx, Context.system], rfl, issues_of, issues_of, ok_of (by decide +kernel),
      ok_of (by decide +kernel)⟩, demo_canPerform, by decide +kernel, by decide +kernel, by decide +kernel, rfl, by decide +kernel⟩

/-- A pending matrix instruction of one row, one element and one column. -/
def demoOp : MatrixOp :=
  ⟨0xF4220C10, 0x10000, 0x5E10, 0, localLoc 1 0 0, localLoc 1 0 0x4000, 128, 1, 1, 1, 0, 64, 2, 0, 0, none, false⟩

/-- MMA: a word that is not legal; FP64 beside FP32 on a profile N core, which lacks both; no window; and MCHK behind a
pending instruction. -/
theorem wit_MatrixIssueAndControl_traps : let illegal := demoMma (fun _ => 0xFF000000) 3
    let absent := demoMma (fun _ => 0x5EF8) 3
    let out := { demoMma (fun _ => 0x5E10) 3 with acl := 0 }
    let busy := { demoTeam with matrix := [demoOp] }
    let is (s : State) (t : Team) := Issues s t (matrixShape 2 8 12 3 t s)
    (is (demo illegal) illegal ∧ (∀ k ∈ illegal.active, illegal.vval 2 k = illegal.vval 2 0) ∧ wordLegal 2 (illegal.vval 2 0) = false)
    ∧ (is (demoNarrow absent) absent ∧ wordLegal 2 (absent.vval 2 0) = true
      ∧ ((wordA 0x5EF8, wordB 0x5EF8), wordC 0x5EF8) = ((0x18, 0x17), 0x17)
      ∧ dfmBit (demoNarrow absent) 0 23 = false ∧ dfmBit (demoNarrow absent) 0 24 = false)
    ∧ (is (demo out) out ∧ ∃ x, matrixChecks (demo out) out false 0 2 8 12 = .error x)
    ∧ Issues (demo busy) busy { srcs := useS [⟨2, false⟩], dsts := [.s 6], la := 1, early := matrixClaimed (demo busy) busy }
    ∧ (busy.sval 2).toNat ≤ 1 ∧ busy.matrixPending = true :=
  ⟨⟨issues_of, by decide +kernel⟩, ⟨issues_of, by decide +kernel⟩, ⟨issues_of, exists_error (by decide +kernel)⟩, issues_of,
    by decide +kernel⟩

/-- A copy in flight. -/
def demoMoving (c : Copy) : State :=
  { demo demoTeam with flight := { Flight.empty with copies := [c], nextId := 6 } }
def demoPlan : CopyPlan := ⟨[[⟨demoPlace, 0x11000⟩]], [⟨⟨0x11001, .rc, .device 0⟩, 0x11001⟩], none⟩
def demoWaiting : Copy := ⟨5, 1, 0x10000, [], [], [], demoPlan, false, [], none, none⟩
/-- A copy with one byte to move, from a source to a destination. -/
def demoByte (dst : Place) (src : ByteSrc) : Copy := ⟨5, 1, 0x10000, [], [], [], demoPlan, true, [⟨dst, 0x11001, src, true⟩], none, none⟩
def demoMove : Copy := demoByte demoPlace (.fixed 7 false)
def demoIssuing : Copy := ⟨5, 1, 0x10000, [], [], [], demoPlan, true, [], some demoOp, none⟩

/-- A fence whose cover has performed; an AWAIT whose time is over; a copy that has not begun; bytes that a copy moves: clean,
poisoned, from and to a peer that no port reaches; a follow-on. -/
theorem wit_CompletionsInFlight : let f : Fence := ⟨1, .aq, .dv, [4]⟩
    let t := { demoTeam with fences := [f] }
    let u := { demoTeam with cond := .parkedAwait 6 ⟨2, true⟩ (some 0) }
    let moves (c : Copy) (dst : Place) (src : ByteSrc) := (demoMoving c).copy? 5 = some c ∧ c.begun = true ∧ c.after = []
      ∧ c.moves[0]? = some ⟨dst, 0x11001, src, true⟩
    ((demo t).team? t.id = some t ∧ (t.fences.find? fun g => g.ticket == f.ticket) = some f
      ∧ (∀ c ∈ f.cover, (∀ a ∈ (demo t).flight.accesses, a.id ≠ c) ∧ ∀ x ∈ (demo t).flight.copies, x.id ≠ c))
    ∧ ((demo u).team? u.id = some u ∧ u.cond = .parkedAwait 6 ⟨2, true⟩ (some 0) ∧ 0 ≤ ((demo u).coreTime u.core).toNat)
    ∧ ((demoMoving demoWaiting).copy? 5 = some demoWaiting ∧ demoWaiting.begun = false ∧ demoWaiting.after = []
      ∧ demoWaiting.plan.readFirst = [])
    ∧ (moves demoMove demoPlace (.fixed 7 false) ∧ (demoMoving demoMove).reachable demoPlace = true
      ∧ (demoMoving demoMove).moveSource (.fixed 7 false) = .ok (7, false))
    ∧ (moves (demoByte demoPlace (.fixed 7 true)) demoPlace (.fixed 7 true)
      ∧ (demoMoving demoMove).moveSource (.fixed 7 true) = .ok (7, true))
    ∧ (moves (demoByte demoPlace (.loc demoPeer 0x300000)) demoPlace (.loc demoPeer 0x300000)
      ∧ (demoMoving (demoByte demoPlace (.loc demoPeer 0x300000))).moveSource (.loc demoPeer 0x300000) = .error 0x300000)
    ∧ (moves (demoByte demoPeer (.fixed 7 false)) demoPeer (.fixed 7 false)
      ∧ (demoMoving (demoByte demoPeer (.fixed 7 false))).reachable demoPeer = false)
    ∧ (demoMoving demoIssuing).copy? 5 = some demoIssuing ∧ demoIssuing.followOn = some demoOp ∧ demoIssuing.begun = true
    ∧ demoIssuing.moves = [] :=
  ⟨⟨rfl, rfl, by decide +kernel⟩, ⟨rfl, rfl, Nat.zero_le _⟩, ⟨rfl, rfl, rfl, rfl⟩, ⟨⟨rfl, rfl, rfl, rfl⟩, rfl, rfl⟩,
    ⟨⟨rfl, rfl, rfl, rfl⟩, rfl⟩, ⟨⟨rfl, rfl, rfl, rfl⟩, by decide +kernel⟩, ⟨⟨rfl, rfl, rfl, rfl⟩, by decide +kernel⟩, rfl, rfl, rfl, rfl⟩

/-- Rank 0 of `n` in group 0, and the group's table of `k` ranks: NRANKS and the table at 0x5_0010, rank 1 on tower 1. -/
def demoPart (n : Nat) : CollPart := ⟨0, [], [], [], 0x12000, 0x13000, 0, 0, 0, 0x17, 0, false, 0, 0, n, 0, 0, 0⟩
def demoRank (n : Nat) : Copy := ⟨5, 1, 0x10000, [], [], [], ⟨[], [], none⟩, false, [], none, some (demoPart n)⟩
def demoGroup (k n : Nat) (lost : Word) : State :=
  let s := demoMoving (demoRank n)
  { s with
    mem := (s.mem.store 0x50000 (leBytes 8 k ++ leBytes 8 0x50010)).store 0x50014 (leBytes 4 0x1000)
    dev := { s.dev with lostDies := lost, regs := { s.dev.regs with grplo := 0x50000, grpcnt := 1 } } }

/-- A part that says otherwise than the group's table; a group whose only rank has come; one whose other rank is on a
lost die. -/
theorem wit_CompletionsInFlight_coll : let ds (s : State) (n : Nat) : List RankData := (collParts s (demoPart n)).map fun x => x.2.data s
    let came (s : State) (n r : Nat) : Bool := (ds s n).any fun d => d.issuer == r
    let ready (s : State) (n : Nat) : Bool := (ds s n).all (fun d => ((ds s n).filter fun x => x.issuer == d.issuer).length == 1)
      && (List.range (s.groupRanks 0)).all fun r => came s n r || s.rankLost 0 r
    ((demoGroup 2 1 4).copy? 5 = some (demoRank 1) ∧ (demoRank 1).coll = some (demoPart 1) ∧ (demoRank 1).after = []
      ∧ ready (demoGroup 2 1 4) 1 = true ∧ (demoGroup 2 1 4).collWrong 0 (ds (demoGroup 2 1 4) 1) = true)
    ∧ ((demoGroup 1 1 0).copy? 5 = some (demoRank 1) ∧ ready (demoGroup 1 1 0) 1 = true
      ∧ (demoGroup 1 1 0).collWrong 0 (ds (demoGroup 1 1 0) 1) = false ∧ (demoGroup 1 1 0).groupRanks 0 = 1 ∧ came (demoGroup 1 1 0) 1 0 = true)
    ∧ (ready (demoGroup 2 2 4) 2 = true ∧ (demoGroup 2 2 4).collWrong 0 (ds (demoGroup 2 2 4) 2) = false
      ∧ (demoGroup 2 2 4).groupRanks 0 = 2 ∧ came (demoGroup 2 2 4) 2 1 = false) :=
  ⟨⟨rfl, rfl, rfl, by decide +kernel, by decide +kernel⟩, ⟨rfl, by decide +kernel⟩, by decide +kernel⟩

/-- A copy over its own source on a peer that no port reaches; a collective that a failed link has broken; a NaN. -/
theorem wit_CompletionsInFlight_lost : let c : Copy := { demoWaiting with
      plan := ⟨[[⟨demoPeer, 0x300000⟩]], [⟨demoPeer, 0x300000⟩], none⟩ }
    let g : State := let s := demoGroup 1 1 0; { s with dev := { s.dev with brokenColls := [(0, 0)] } }
    ((demoMoving c).copy? 5 = some c ∧ c.begun = false ∧ c.after = []
      ∧ (c.plan.readFirst.find? fun b => !(demoMoving c).reachable b.place) = some ⟨demoPeer, 0x300000⟩)
    ∧ (g.copy? 5 = some (demoRank 1) ∧ (0, 0) ∈ g.dev.brokenColls ∧ (collParts g (demoPart 1)).all (fun x => x.1.after == []) = true)
    ∧ setF 0x17 = true ∧ ((typeFmt 0x17).decode 0x7F800001).isNan = true :=
  ⟨⟨rfl, rfl, rfl, by decide +kernel⟩, ⟨rfl, by decide +kernel, by decide +kernel⟩, by decide +kernel, by decide +kernel⟩

theorem wit_ArrayArithmetic : (demo demoTeam).mem.wf = true ∧ (wordC demoOp.fmt ≠ 0x18 ∧ demoOp.n ≤ 64)
    ∧ wordC (0x62B5#32) = 0x18 := ⟨rfl, by decide +kernel, by decide +kernel⟩

/-- The array with its halves sound, with one lost and with both lost. -/
def demoArray (half a b : BitVec 512) : State :=
  let s := demo { demoTeam with matrix := [demoOp], acl := 64 }
  { s with
    cores := { s.cores with half := half, hsel := a, failedA := a, failedB := b }
    fe := { s.fe with unitHolders := [⟨1, 0, 1⟩] } }

theorem wit_ArrayStepsAndReset : let t := { demoTeam with matrix := [demoOp], acl := 64 }
    let c := { demoIssuing with team := 1 }
    (∀ s ∈ [demoArray 0 0 0, demoArray 1 0 1, demoArray 1 1 1], s.team? 1 = some t ∧ s.fe.running = t.ctx ∧ s.fe.gated = false
      ∧ s.dev.throttled = false ∧ s.mem.wf = true ∧ s.dev.regs.hanglim ≠ 0 ∧ s.fe.unitHolders.contains ⟨1, 0, t.ctx⟩ = true)
    ∧ t.matrix = demoOp :: [] ∧ t.yielded = false ∧ t.cond = .ready
    ∧ ((demoArray 1 1 1).cores.failedA.getLsbD 0 && (demoArray 1 1 1).cores.failedB.getLsbD 0) = true
    ∧ ((demoArray 1 0 1).cores.failedA.getLsbD 0 && (demoArray 1 0 1).cores.failedB.getLsbD 0) = false
    ∧ (demoArray 1 0 1).cores.half.getLsbD 0 = true ∧ (demoArray 0 0 0).cores.half.getLsbD 0 = false
    ∧ (c.team = t.id ∧ c.followOn ≠ none) ∧ ([c].map (·.id)).Nodup :=
  ⟨by decide +kernel, rfl, rfl, rfl, by decide +kernel, by decide +kernel, by decide +kernel, by decide +kernel, ⟨rfl, by decide⟩,
    by decide⟩

/-! ### Hypotheses that can be met: queues and packets -/

/-- Queue 2 of the system context: its ring at 0x4_0000, its status word at 0x4_1000, a packet taken in the round. -/
def demoQueue (p : Nat) : Queue :=
  { Queue.unmapped with map := some ⟨1, 4, some 0x40000, 0x41000⟩, doorbell := 1, prefetched := [(0, leBytes 64 p)] }
def demoPacketIn (c : Context) (p : Nat) (s : State) : State := { s with
  fe := { s.fe with contexts := [c], queues := s.fe.queues.set 2 (demoQueue p), round := [2] } }
def demoPacket (p : Nat) : State := demoPacketIn demoCtx p (demo demoTeam)
/-- A body's fields: 64-bit values at byte offsets, over a first word. -/
def packetOf (w : Nat) (fs : List (Nat × Nat)) : Nat := (fs.map fun f => f.2 * 2 ^ (8 * f.1)).foldl (· + ·) w
/-- The state with the round going on. -/
def roundDone (s : State) : State := { s with fe := { s.fe with round := [] } }

theorem takes_of {s : State} {type p : Nat} {c : Context} (h1 : s.fe.round = [2] := by rfl)
    (h2 : ((s.queue 2).prefetched.head?.map fun e => leNat e.2) = some p := by decide +kernel)
    (h3 : packetType p = type := by decide +kernel) (h4 : s.queueCtx 2 = some c := by rfl) :
    takesPacket s 2 type p c (roundDone s) := ⟨⟨[], h1, rfl⟩, h2, h3, h4⟩

theorem wit_QueuesAndRounds : let s := demoPacket 2
    let x := { demoQueue 2 with prefetched := [] }
    let e := { s with fe := { s.fe with queues := s.fe.queues.set 2 x } }
    2 < 128 ∧ (e.queue 2 = x ∧ x.map = some ⟨1, 4, some 0x40000, 0x41000⟩ ∧ e.ctx? 1 = some demoCtx ∧ x.halt = false
      ∧ x.prefetched.length + 1 ≤ (x.doorbell - x.consumed).toNat ∧ ∃ p, e.feTranslate demoCtx 0x40000 .read = .ok p)
    ∧ (demo demoTeam).fe.round = [] ∧ (s.queue 2).leaving = false ∧ s.mem.wf = true
    ∧ s.feTranslate demoCtx 0x41000 .write = .ok ⟨0x41000, .rc, .device 0⟩ :=
  ⟨by decide, ⟨rfl, rfl, rfl, rfl, by decide +kernel, exists_ok (by decide +kernel)⟩, rfl, rfl, rfl, ok_of (by decide +kernel)⟩

/-- A round that takes the one queue with a packet; no WAIT_SIGNAL waits, and the packet is well-formed. -/
theorem wit_QueuesAndRounds_round : let s := roundDone (let s := demoPacket 2; { s with mem := s.mem.store 0x40000 (leBytes 64 2) })
    s.fe.round = [] ∧ ((List.range 128).all fun q => (s.queue q).wait == .none && match (s.head q).2 with
      | none => true
      | some p => !unassignedOp p && (s.queueCtx q).any fun c => packetErr c.priv p == 0) = true
    ∧ ((s.head 2).2 == some 2 && !(s.head 2).1.waitsUnder 2 2) = true
    ∧ runs .drumRound s (fun s => s.fe.round == [2] && s.fe.rotation[2] == 1#2) = true := by
  refine ⟨rfl, ?_, ?_, ?_⟩ <;> decide +kernel

/-- The head packet: as its ring slot has it; rewritten since, or not fetched yet; with another stamp. -/
theorem wit_QueuesAndRounds_head : let ring (p : Nat) : State := let s := demoPacket 2; { s with mem := s.mem.store 0x40000 (leBytes 64 p) }
    let x := demoQueue 2
    let now (p : Nat) := (ring p).readPlace ⟨0x40000, .rc, .device 0⟩ 64
    (x.map = some ⟨1, 4, some 0x40000, 0x41000⟩ ∧ x.halt = false ∧ x.consumed ≠ x.doorbell
      ∧ ∀ p ∈ [2, 4, 0x10002], (ring p).queue 2 = x ∧ (ring p).feTranslate demoCtx 0x40000 .read = .ok ⟨0x40000, .rc, .device 0⟩)
    ∧ x.prefetched = [(x.consumed, leBytes 64 2)]
    ∧ (packetStamp (leNat (now 2)) = 0 ∧ (leBytes 64 2).take 4 = (now 2).take 4)
    ∧ (packetStamp (leNat (now 4)) = 0 ∧ (leBytes 64 2).take 4 ≠ (now 4).take 4) ∧ packetStamp (leNat (now 0x10002)) ≠ 0 := by
  refine ⟨⟨rfl, rfl, by decide, fun p hp => ⟨rfl, ok_of ?_⟩⟩, rfl, by decide +kernel, by decide +kernel, by decide +kernel⟩
  revert p; decide +kernel

/-- The context with a feature entry, and a node descriptor at 0x1_5000. -/
def demoFeat : Context := { demoCtx with feattab := 0x16000, featcnt := 1 }
def demoDesc (p : Nat) (f : State → State) : State := f (demoPacketIn demoFeat p (demoMem [(0x15000, nodeBytes)] demoTeam))
def poolFull (s : State) : State := { s with fe := { s.fe with pool := List.replicate 4096 0 } }

theorem poolFull_busy (s : State) : (poolFull s).poolBusy = true := by
  have : 4096 ≤ (poolFull s).fe.pool.length := List.length_replicate.ge
  simp [State.poolBusy, this]

theorem wit_NodeAndGangPackets_node : let p (a : Nat) := packetOf 2 [(8, a)]
    (∃ c s1, takesPacket (demoDesc (p 0) id) 2 2 (p 0) c s1 ∧ c = demoFeat) ∧ (demoDesc (p 0) id).usable demoFeat 0 .read = false
    ∧ (∃ c s1, takesPacket (demoDesc (p 0x15000) poolFull) 2 2 (p 0x15000) c s1 ∧ c = demoFeat)
    ∧ (demoDesc (p 0x15000) poolFull).usable demoFeat 0x15000 .read = true ∧ (demoDesc (p 0x15000) poolFull).poolBusy = true
    ∧ (∃ c s1, takesPacket (demoDesc (p 0x15080) id) 2 2 (p 0x15080) c s1 ∧ c = demoFeat)
    ∧ (demoDesc (p 0x15080) id).usable demoFeat 0x15080 .read = true ∧ (demoDesc (p 0x15080) id).accept demoFeat 0x15080 true = none
    ∧ (∃ c s1, takesPacket (demoDesc (p 0x15000) id) 2 2 (p 0x15000) c s1 ∧ c = demoFeat)
    ∧ (demoDesc (p 0x15000) id).poolBusy = false ∧ ((demoDesc (p 0x15000) id).accept demoFeat 0x15000 true).isSome = true :=
  ⟨⟨_, _, takes_of, rfl⟩, by decide +kernel, ⟨_, _, takes_of, rfl⟩, by decide +kernel, poolFull_busy _, ⟨_, _, takes_of, rfl⟩,
    by decide +kernel, by decide +kernel, ⟨_, _, takes_of, rfl⟩, by decide +kernel, by decide +kernel⟩

/-- GRAPH: the region done; an unreadable PRED; PRED not 0; PRED 0 with a full pool, a refused and an accepted descriptor. -/
theorem wit_NodeAndGangPackets_graph : let p (a n : Nat) := packetOf 1 [(8, a), (16, n)]
    let at_ (i : Nat) (s : State) : State := s.putQueue 2 { s.queue 2 with graphNext := i }
    let held (s : State) : State := { s with mem := s.mem.store 0x15028 [1, 0, 0, 0] }
    let s := demoDesc (p 0x15000 2) id
    (∃ c s1, takesPacket (demoDesc (p 0x15000 2) (at_ 2)) 2 1 (p 0x15000 2) c s1 ∧ c = demoFeat)
    ∧ packetBytes 16 4 (p 0x15000 2) ≤ ((demoDesc (p 0x15000 2) (at_ 2)).queue 2).graphNext
    ∧ (∃ c s1, takesPacket (demoDesc (p 0 1) id) 2 1 (p 0 1) c s1 ∧ c = demoFeat) ∧ (demoDesc (p 0 1) id).peek demoFeat 40 4 = none
    ∧ (∃ c s1, takesPacket (demoDesc (p 0x15000 2) held) 2 1 (p 0x15000 2) c s1 ∧ c = demoFeat)
    ∧ (demoDesc (p 0x15000 2) held).peek demoFeat 0x15028 4 = some 1
    ∧ (∃ c s1, takesPacket s 2 1 (p 0x15000 2) c s1 ∧ c = demoFeat) ∧ 0 < packetBytes 16 4 (p 0x15000 2)
    ∧ s.peek demoFeat 0x15028 4 = some 0 ∧ s.poolBusy = false ∧ (s.accept demoFeat 0x15000 false).isSome = true
    ∧ (∃ c s1, takesPacket (demoDesc (p 0x15000 2) poolFull) 2 1 (p 0x15000 2) c s1 ∧ c = demoFeat)
    ∧ (demoDesc (p 0x15080 1) id).accept demoFeat 0x15080 false = none :=
  ⟨⟨_, _, takes_of, rfl⟩, by decide +kernel, ⟨_, _, takes_of, rfl⟩, by decide +kernel, ⟨_, _, takes_of, rfl⟩, by decide +kernel,
    ⟨_, _, takes_of, rfl⟩, by decide +kernel, by decide +kernel, by decide +kernel, by decide +kernel, ⟨_, _, takes_of, rfl⟩,
    by decide +kernel⟩

/-- GANG: a part that cannot be read; no part at all is refused; and a gang that waits. -/
theorem wit_NodeAndGangPackets_gang : let p (a : Nat) := packetOf (3 + 2 ^ 32) [(8, a), (16, 255)]
    let waits (s : State) : State := s.putQueue 2 { s.queue 2 with wait := .gang }
    (∃ c s1, takesPacket (demoDesc (p 0) id) 2 3 (p 0) c s1 ∧ c = demoFeat)
    ∧ (match (demoDesc (p 0) id).acceptParts demoFeat (gangParts (p 0)) with | .error e => e == 5 | .ok _ => false) = true
    ∧ (∃ c s1, takesPacket (demoDesc 3 id) 2 3 3 c s1 ∧ c = demoFeat) ∧ (demoDesc 3 id).acceptParts demoFeat (gangParts 3) = .ok []
    ∧ ((demoDesc (p 0x15000) waits).queue 2).wait = .gang ∧ (demoDesc (p 0x15000) waits).queueCtx 2 = some demoFeat
    ∧ (((demoDesc (p 0x15000) waits).queue 2).prefetched.head?.map fun e => leNat e.2) = some (p 0x15000) :=
  ⟨⟨_, _, takes_of, rfl⟩, by decide +kernel, ⟨_, _, takes_of, rfl⟩, ok_of (by decide +kernel), rfl, rfl, by decide +kernel⟩

/-- SIGNAL, WAIT_SIGNAL, MARKER and RANGE_COMMIT: an address that cannot be used, and one that can; a condition that
holds and one that does not, in device memory, with a full bell table, and in host memory; images that are legal and not. -/
theorem wit_SignalPackets : let sig (a : Nat) := packetOf 4 [(8, a), (16, 5), (24, 1)]
    let wait (a v : Nat) := packetOf 5 [(8, a), (16, v)]
    let mark (a : Nat) := packetOf 8 [(8, a), (16, 7)]
    let commit (a : Nat) := packetOf 6 [(8, a), (16, 1)]
    let full (p : Nat) := demoPacketIn demoCtx p (demoFull demoTeam)
    (∃ c s1, takesPacket (demoPacket (sig 0)) 2 4 (sig 0) c s1 ∧ s1.wordPlace 1 0 = none)
    ∧ (∃ c s1, takesPacket (demoPacket (sig 0x11000)) 2 4 (sig 0x11000) c s1 ∧ s1.wordPlace 1 0x11000 = some demoPlace)
    ∧ (∃ c s1, takesPacket (demoPacket (wait 0 0)) 2 5 (wait 0 0) c s1 ∧ c = demoCtx)
    ∧ (∃ x, (demoPacket (wait 0 0)).feTranslate demoCtx 0 .read = .error x)
    ∧ (∃ c s1, takesPacket (demoPacket (wait 0x11000 0)) 2 5 (wait 0x11000 0) c s1 ∧ c = demoCtx)
    ∧ (demoPacket (wait 0x11000 0)).feTranslate demoCtx 0x11000 .read = .ok demoPlace
    ∧ bellHolds .eq 8 (.ofNat 64 (leNat ((demoPacket 5).readPlace demoPlace 8))) 0 0 = true
    ∧ bellHolds .eq 8 (.ofNat 64 (leNat ((demoPacket 5).readPlace demoPlace 8))) 1 0 = false
    ∧ (∃ c s1, takesPacket (demoPacket (wait 0x11000 1)) 2 5 (wait 0x11000 1) c s1 ∧ s1.bellRoom 0 = some false)
    ∧ (∃ c s1, takesPacket (full (wait 0x11000 1)) 2 5 (wait 0x11000 1) c s1 ∧ s1.bellRoom 0 = none)
    ∧ (∃ c s1, takesPacket (demoPacket (wait 0x200000 1)) 2 5 (wait 0x200000 1) c s1 ∧ c = demoCtx)
    ∧ (demoPacket (wait 0x200000 1)).feTranslate demoCtx 0x200000 .read = .ok ⟨hostLoc 0x10000, .rc, .hostLink⟩
    ∧ (∃ c s1, takesPacket (demoPacket (mark 0)) 2 8 (mark 0) c s1 ∧ c = demoCtx)
    ∧ (∃ x, (demoPacket (mark 0)).feTranslate demoCtx 0 .write = .error x)
    ∧ (∃ c s1, takesPacket (demoPacket (mark 0x11000)) 2 8 (mark 0x11000) c s1 ∧ c = demoCtx)
    ∧ (demoPacket (mark 0x11000)).feTranslate demoCtx 0x11000 .write = .ok demoPlace
    ∧ (∃ c s1, takesPacket (demoPacket (commit 0)) 2 6 (commit 0) c s1 ∧ (demoPacket (commit 0)).readImages demoCtx 0 1 = none)
    ∧ (∃ c s1, takesPacket (demoPacket (commit 0x12000)) 2 6 (commit 0x12000) c s1
      ∧ ((demoPacket (commit 0x12000)).readImages demoCtx 0x12000 1).isSome = true)
    ∧ (demoPacket (commit 0x12000)).flight.copies = []
    ∧ (let s := demoPacketIn demoCtx (commit 0x12000) (demoMoving demoMove)
      (∃ c s1, takesPacket s 2 6 (commit 0x12000) c s1 ∧ c = demoCtx) ∧ ∃ x ∈ s.flight.copies, s.inCtx 1 x.team = true)
    ∧ imageOk 1 = false ∧ rangesOk (commitRanges [] 1 []) = true :=
  ⟨⟨_, _, takes_of, by decide +kernel⟩, ⟨_, _, takes_of, by decide +kernel⟩, ⟨_, _, takes_of, rfl⟩, exists_error (by decide +kernel),
    ⟨_, _, takes_of, rfl⟩, ok_of (by decide +kernel), by decide +kernel, by decide +kernel, ⟨_, _, takes_of, by decide +kernel⟩,
    ⟨_, _, takes_of, by decide +kernel⟩, ⟨_, _, takes_of, rfl⟩, ok_of (by decide +kernel), ⟨_, _, takes_of, rfl⟩,
    exists_error (by decide +kernel), ⟨_, _, takes_of, rfl⟩, ok_of (by decide +kernel), ⟨_, _, takes_of, by decide +kernel⟩,
    ⟨_, _, takes_of, by decide +kernel⟩, rfl, ⟨⟨_, _, takes_of, rfl⟩, demoMove, by decide +kernel, by decide +kernel⟩,
    by decide +kernel, by decide +kernel⟩

/-- SIGNAL over a link without native atomics, while the host writes its word. -/
theorem wit_SignalPackets_link : let p := packetOf 4 [(8, 0x200000), (16, 5), (24, 1)]
    let s : State := let s := demoPacket p; { s with sched := { s.sched with during := [[⟨false, 0x10000, [1]⟩]] } }
    (∃ c s1, takesPacket s 2 4 p c s1 ∧ s1.wordPlace 1 0x200000 = some ⟨hostLoc 0x10000, .rc, .hostLink⟩)
    ∧ s.splitAtomic ⟨hostLoc 0x10000, .rc, .hostLink⟩ = true ∧ s.reachable ⟨hostLoc 0x10000, .rc, .hostLink⟩ = true :=
  ⟨⟨_, _, takes_of, by decide +kernel⟩, by decide +kernel⟩

/-- A CONTEXT_CTL packet: operation, context, the two operands at bytes 8 and 16, RESULT. -/
def controlOf (op ctx a b result : Nat) : Nat := packetOf 7 [(4, op), (6, ctx), (8, a), (16, b), (56, result)]

/-- RESULT lost; an image that cannot be read and one that can; queues that are out of range, named of a context that is
not there, mapped to another, mapped to the one named. -/
theorem wit_ContextControlAndFirmware_control : let s (p : Nat) : State := { demoPacket p with
      mem := State.reset.mem.store 0x15000 (leBytes 64 (7 + 2 * 2 ^ 16 + 10 * 2 ^ 32 + 100000 * 2 ^ 64)) }
    let lost := controlOf 0 7 0x15000 0 0x100
    let create (a : Nat) := controlOf 0 7 a 0 0x11000
    let mapq := controlOf 3 1 0x50000 5 0
    let unmap (ctx q : Nat) := controlOf 4 ctx 0 q 0
    (∃ c s1, takesPacket (s lost) 2 7 lost c s1 ∧ packetBytes 4 1 lost = 0 ∧ (s lost).resultLost demoCtx 0x100 = true)
    ∧ (∃ c s1, takesPacket (s (create 0x15010)) 2 7 (create 0x15010) c s1 ∧ (s (create 0x15010)).resultLost demoCtx 0x11000 = false
      ∧ ∃ e, s1.entryImage demoCtx 0x15010 7 = .error e)
    ∧ (∃ c s1, takesPacket (s (create 0x15000)) 2 7 (create 0x15000) c s1 ∧ ∃ x, s1.entryImage demoCtx 0x15000 7 = .ok x ∧ plimOk x = true)
    ∧ (∃ c s1, takesPacket (s mapq) 2 7 mapq c s1 ∧ packetBytes 4 1 mapq = 3 ∧ packetBytes 16 1 mapq < 128)
    ∧ (∃ c s1, takesPacket (s (unmap 1 128)) 2 7 (unmap 1 128) c s1 ∧ 128 ≤ packetBytes 16 1 (unmap 1 128))
    ∧ (∃ c s1, takesPacket (s (unmap 9 3)) 2 7 (unmap 9 3) c s1 ∧ (s (unmap 9 3)).ctx? (packetBytes 6 2 (unmap 9 3)) = none)
    ∧ (∃ c s1, takesPacket (s (unmap 1 3)) 2 7 (unmap 1 3) c s1 ∧ ((s (unmap 1 3)).queue 3).map = none)
    ∧ (∃ c s1, takesPacket (s (unmap 1 0)) 2 7 (unmap 1 0) c s1 ∧ ((s (unmap 1 0)).queue 0).map.map (·.ctx) = some 1
      ∧ (s (unmap 1 0)).ctx? (packetBytes 6 2 (unmap 1 0)) ≠ none)
    ∧ (∃ c s1, takesPacket (s (controlOf 5 1 0 0 0)) 2 7 (controlOf 5 1 0 0 0) c s1 ∧ c = demoCtx)
    ∧ (∃ c s1, takesPacket (s (controlOf 6 1 0 0 0)) 2 7 (controlOf 6 1 0 0 0) c s1 ∧ c = demoCtx)
    ∧ (∃ c s1, takesPacket (s (controlOf 1 1 0 0 0)) 2 7 (controlOf 1 1 0 0 0) c s1 ∧ c = demoCtx)
    ∧ ∃ c s1, takesPacket (s (controlOf 2 1 0 0 0)) 2 7 (controlOf 2 1 0 0 0) c s1 ∧ c = demoCtx :=
  ⟨⟨_, _, takes_of, by decide +kernel, by decide +kernel⟩, ⟨_, _, takes_of, by decide +kernel, exists_error (by decide +kernel)⟩,
    ⟨_, _, takes_of, 7 + 2 * 2 ^ 16 + 10 * 2 ^ 32 + 100000 * 2 ^ 64, ok_of (by decide +kernel), by decide +kernel⟩,
    ⟨_, _, takes_of, by decide +kernel, by decide +kernel⟩, ⟨_, _, takes_of, by decide +kernel⟩, ⟨_, _, takes_of, by decide +kernel⟩,
    ⟨_, _, takes_of, by decide +kernel⟩, ⟨_, _, takes_of, by decide +kernel, by decide +kernel⟩, ⟨_, _, takes_of, rfl⟩,
    ⟨_, _, takes_of, rfl⟩, ⟨_, _, takes_of, rfl⟩, ⟨_, _, takes_of, rfl⟩⟩

/-- CREATE of a context that is there, and of one whose PLIM is below the bound; RESUMEQ with SKIP of a queue that halted. -/
theorem wit_ContextControlAndFirmware_results : let image (n plim : Nat) := leBytes 64 (n + 2 * 2 ^ 16 + 10 * 2 ^ 32 + plim * 2 ^ 64)
    let s (n plim p : Nat) : State := { demoPacket p with mem := State.reset.mem.store 0x15000 (image n plim) }
    let create (n : Nat) := controlOf 0 n 0x15000 0 0x11000
    let low := leNat (image 7 10)
    let skip := controlOf 5 1 0 (3 + 2 ^ 8) 0x11000
    let h : State := (demoPacket skip).putQueue 3 { demoQueue 2 with halt := true, err := 3, prefetched := [] }
    (∃ c s1, takesPacket (s 1 100000 (create 1)) 2 7 (create 1) c s1 ∧ packetBytes 4 1 (create 1) = 0
      ∧ (s 1 100000 (create 1)).resultLost demoCtx 0x11000 = false
      ∧ ((s 1 100000 (create 1)).touchControl demoCtx (create 1)).entryImage demoCtx 0x15000 1 = .ok (leNat (image 1 100000))
      ∧ ((s 1 100000 (create 1)).ctx? 1).isSome = true)
    ∧ (∃ c s1, takesPacket (s 7 10 (create 7)) 2 7 (create 7) c s1
      ∧ ((s 7 10 (create 7)).touchControl demoCtx (create 7)).entryImage demoCtx 0x15000 7 = .ok low ∧ plimOk low = false
      ∧ (s 7 10 (create 7)).ctx? 7 = none ∧ (s 7 10 (create 7)).fe.contexts.length < 64)
    ∧ ∃ c s1, takesPacket h 2 7 skip c s1 ∧ packetBytes 4 1 skip = 5 ∧ packetBytes 16 1 skip = 3 ∧ fld 136 1 skip = 1
      ∧ (h.queue 3).map.map (·.ctx) = some 1 ∧ (h.queue 3).halt = true ∧ h.resultLost demoCtx 0x11000 = false :=
  ⟨⟨_, _, takes_of, by decide +kernel, by decide +kernel, ok_of (by decide +kernel), by decide +kernel⟩,
    ⟨_, _, takes_of, ok_of (by decide +kernel), by decide +kernel, by decide +kernel, by decide +kernel⟩,
    ⟨_, _, takes_of, by decide +kernel⟩⟩

theorem wit_ContextControlAndFirmware_images : firmwareFormed 0 (List.replicate 64 0) = false ∧ firmwareFormed 0 initialImage = true
    ∧ firmwareTakes initialImage 0 = true := by decide +kernel

/-- FW_HANDOVER: RESULT lost, an image that cannot be read, an image; then the switch between rounds. -/
theorem wit_ContextControlAndFirmware_firmware : let p (a n r : Nat) := packetOf 9 [(8, a), (16, n), (24, r)]
    let b := let s := demoPacket (p 0x12000 64 0x11000); { s with fe := { s.fe with bank := some ([], 2), round := [] } }
    (∃ c s1, takesPacket (demoPacket (p 0x12000 64 0)) 2 9 (p 0x12000 64 0) c s1
      ∧ (demoPacket (p 0x12000 64 0)).usable demoCtx 0 .write = false)
    ∧ (∃ c s1, takesPacket (demoPacket (p 0 64 0x11000)) 2 9 (p 0 64 0x11000) c s1
      ∧ (demoPacket (p 0 64 0x11000)).usable demoCtx 0x11000 .write = true ∧ s1.peekBytes demoCtx 0 64 = none)
    ∧ (∃ c s1, takesPacket (demoPacket (p 0x12000 64 0x11000)) 2 9 (p 0x12000 64 0x11000) c s1
      ∧ (s1.peekBytes demoCtx 0x12000 64).isSome = true)
    ∧ b.fe.bank = some ([], 2) ∧ b.fe.round = [] ∧ b.queueCtx 2 = some demoCtx
    ∧ ((b.queue 2).prefetched.head?.map fun e => leNat e.2) = some (p 0x12000 64 0x11000) :=
  ⟨⟨_, _, takes_of, by decide +kernel⟩, ⟨_, _, takes_of, by decide +kernel, by decide +kernel⟩, ⟨_, _, takes_of, by decide +kernel⟩,
    rfl, rfl, rfl, by decide +kernel⟩

/-! ### Hypotheses that can be met: placement, completion, slices -/

/-- Cores 0 and 1, all tellers on core 0; a node of two teams in the pool, one placed on core 1. -/
def demoPool (ts : List Team) : State :=
  let s := demoIn demoFeat demoTeam
  { s with
    cores := { s.cores with enabled := 3 }
    fe := { s.fe with pool := [0] }
    nodes := [{ Node.fresh 0 1 none 0x18000#64 { loneDesc with teams := 2 } 0 with placed := ts.length, cores := [1] }]
    teams := ts }
/-- A team of that node: parked, yielded with its wait ended, exiting. -/
def demoParked : Team := { demoTeam with core := 1, cond := .parkedAwait 6 ⟨2, true⟩ none }
def demoYielded : Team := { demoTeam with core := 1, yielded := true }
def demoExiting : Team := { demoTeam with core := 1, cond := .exiting }

/-- A parked team that takes up core 1's local store, and a yielded one of that core that needs it; a held successor. -/
def demoHuge : Team := { demoParked with lsmem := 2 ^ 20 }
def demoAway : Team := { demoYielded with id := 2, lsmem := 2 ^ 20 }
def demoWaits (hs : List Held) : State := let s := demoPool []; { s with fe := { s.fe with held := hs } }

theorem wit_PlacementAndCompletion : ((demoPool [demoYielded]).fe.gated = false ∧ (demoPool [demoYielded]).returning = some demoYielded)
    ∧ ((demoPool []).returning = none ∧ (demoPool []).nextPlacement.map (fun x => (x.1.id, x.2)) = some (0, 1))
    ∧ ((demoPool [demoParked]).team? 1 = some demoParked ∧ ((demoPool [demoParked]).node? 0).isSome = true
      ∧ demoParked.ctx = (demoPool [demoParked]).fe.running ∧ demoParked.cond = .parkedAwait 6 ⟨2, true⟩ none
      ∧ ((demoPool [demoParked]).node? 0).all (fun n => n.gang == none && decide (n.placed < n.desc.teams)
        && (((demoPool [demoParked]).putTeam { demoParked with yielded := true, promises := [] }).modNode 0
          fun n => { n with yields := n.yields + 1 }).eligible { n with yields := n.yields + 1 } none (fun k => k == 1) == [1]) = true)
    ∧ ((demoPool [demoExiting]).team? 1 = some demoExiting ∧ demoExiting.cond = .exiting ∧ (demoPool [demoExiting]).quiet demoExiting = true)
    ∧ ((demoPool [demoHuge, demoAway]).returnsFor demoHuge = some demoAway ∧ (demoPool [demoHuge, demoAway]).team? 1 = some demoHuge
      ∧ (∃ d a x, demoHuge.cond = .parkedAwait d a x) ∧ ((demoPool [demoHuge, demoAway]).node? 0).all (fun n => n.gang == none) = true)
    ∧ ((demoWaits [⟨1, 0x18000, loneDesc⟩]).fe.held = ⟨1, 0x18000, loneDesc⟩ :: [] ∧ (demoWaits [⟨1, 0x18000, loneDesc⟩]).fe.pool.length < 4096) :=
  ⟨⟨rfl, by decide +kernel⟩, ⟨by decide +kernel, by decide +kernel⟩, ⟨rfl, rfl, rfl, rfl, by decide +kernel⟩, ⟨rfl, rfl, by decide +kernel⟩,
    ⟨by decide +kernel, rfl, ⟨_, _, _, rfl⟩, by decide +kernel⟩, rfl, by decide⟩

/-- Two parked teams of which one slot is too little for a yielded team of their core; a node for a receipt. -/
theorem wit_PlacementAndCompletion_crowded : let half : Team := { demoParked with lsmem := 2 ^ 19 }
    let s := demoPool [half, { half with id := 3 }, demoAway]
    (s.team? 1 = some half ∧ (s.node? 0).all (fun n => n.gang == none) = true ∧ s.returnsFor half = none
      ∧ s.hasRoom none 1 demoAway.tw demoAway.lsmem demoAway.heat = false ∧ demoAway.yielded = true)
    ∧ (demoPool [demoHuge, demoAway]).hasRoom none 1 demoAway.tw demoAway.lsmem demoAway.heat = false
    ∧ (∀ c ∈ [511, 64], c < 512) ∧ [511, 64].length < 2 ^ 16 :=
  ⟨⟨rfl, by decide +kernel⟩, by decide +kernel, by decide, by decide⟩

/-- Two contexts, the running one at the end of its slice; the other wakes. -/
def demoSlices (gated pend : Bool) (next : Option Nat) : State :=
  let s := demo demoTeam
  { s with
    dev := { s.dev with time := 10000 }
    fe := { s.fe with contexts := [demoCtx, { demoCtx with ctxid := 2, wakeUrg := true, wakePend := pend }], gated := gated, next := next
                      unspilled := [2] } }

theorem wit_SlicesAndSwitches : let s := demoSlices false true none
    (s.ctx? s.fe.running = some demoCtx ∧ s.fe.gated = false ∧ s.fe.sliceStart.toNat + 1000 * demoCtx.slice.toNat ≤ s.dev.time.toNat)
    ∧ (demoSlices true true none).fe.gated = true
    ∧ (∀ t ∈ (demoSlices true true none).teams, t.ctx = (demoSlices true true none).fe.running → (demoSlices true true none).inPair t = false)
    ∧ (demoSlices true true none).nextContext.map (·.ctxid) = some 2 ∧ (demoSlices true false (some 1)).nextContext.map (·.ctxid) = some 1
    ∧ (demoSlices true true none).flight.accesses = []
    ∧ s.nextContext.isSome = true ∧ (s.fe.unspilled = 2 :: [] ∧ (s.ctx? 2).isSome = true)
    ∧ (let r := { demoSlices true true (some 1) with flight := { Flight.empty with
        accesses := [demoAccess (.reply 7 false (.scalar 6 false 0)) demoPlace] } }
      r.nextContext.map (·.ctxid) = some 1 ∧ ∃ a ∈ r.flight.accesses, a.kind.dst? ≠ none ∧ r.inCtx 1 a.team = true)
    ∧ (let w (s : State) : State := { s with teams := [{ demoTeam with ctx := 2 }] }
      isEvent .sliceEnd = true ∧ ((w (demoSlices false false none)).runnable { demoCtx with ctxid := 2 }) = true
      ∧ runs .sliceEnd { w (demoSlices false false none) with sched := { State.reset.sched with cur := none } } (fun s => s.sched.during == [] && s.teams.all fun t => t.ctx != s.fe.running)) :=
  ⟨⟨rfl, rfl, by decide +kernel⟩, rfl, by decide +kernel, by decide +kernel, by decide +kernel, rfl,
    by decide +kernel, ⟨rfl, by decide +kernel⟩, by decide +kernel, by decide +kernel⟩

/-! ### Hypotheses that can be met: faults, management, debugging -/

theorem wit_PendingTraps : let x : Trap := ⟨.poison, 0x11000, 1, none, none⟩
    let t := { demoTeam with traps := [⟨.acquireFailed, 0, 0, none, none⟩, x] }
    let f := { demoTeam with pc := 0 }
    ((demo t).team? t.id = some t ∧ t.ctx = (demo t).fe.running ∧ (demo t).fe.gated = false ∧ t.yielded = false ∧ (demo t).inPair t = false
      ∧ (demo t).frameHeld t = false ∧ t.cond = .ready ∧ t.traps.find? (fun y => trapRank y.code == trapRank x.code) = some x ∧ trapRank x.code < 5
      ∧ ∀ y ∈ t.traps, trapRank x.code ≤ trapRank y.code)
    ∧ ((demoHeldFrame t).team? t.id = some t ∧ (demoHeldFrame t).frameHeld t = true)
    ∧ (demo f).curTeam = some f ∧ ∃ y, fetch32 (demo f) f f.pc = .error y :=
  ⟨⟨rfl, rfl, rfl, rfl, by decide +kernel, by decide +kernel, rfl, by decide +kernel, by decide, by decide +kernel⟩,
    ⟨rfl, by decide +kernel⟩, rfl, exists_error (by decide +kernel)⟩

/-- Core 0 at half width. -/
def demoHalf : State := let s := demo demoTeam; { s with cores := { s.cores with half := 1 } }

theorem wit_LostDiesAndPorts : let s := demo demoTeam
    let touched := demoIn { demoCtx with touched := 0x103 } demoTeam
    (isCore 0 = true ∧ s.cores.enabled.getLsbD 0 = true ∧ s.cores.half.getLsbD 0 = false)
    ∧ (demoHalf.cores.half.getLsbD 0 = true ∧ demoHalf.cores.hsel.getLsbD 0 = false)
    ∧ (s.team? 1 = some demoTeam ∧ demoTeam.cond ≠ .exiting) ∧ (isDie 0 = true ∧ s.dev.lostDies.getLsbD 0 = false)
    ∧ (isDie 23 = true ∧ s.dev.lostDies.getLsbD 23 = false) ∧ (3 < 4 ∧ s.dev.lostDies.getLsbD (1 + 3) = false)
    ∧ (2, 3) ∉ s.dev.bridgesDown ∧ touched.fe.contexts.map (·.ctxid) = [demoTeam.ctx]
    ∧ (0x103#32 &&& dieSet 8 ≠ 0 ∧ placedDies 0 &&& dieSet 8 ≠ 0) ∧ demoCtx.touched &&& dieSet 2 = 0
    ∧ (0x104#32 &&& dieSet 2 ≠ 0 ∧ placedDies 0 &&& dieSet 2 = 0) := by decide +kernel

/-- Every site; a failing link whose accesses are done in their order, and one done before the access that it comes
after; the kinds of an access. -/
theorem wit_StorageAndLinkErrors : let host : Place := ⟨hostLoc 0x10000, .rc, .hostLink⟩
    let s := demoFlight (.store [1, 2, 3, 4]) host
    let after : State := { s with flight := { s.flight with
      accesses := [{ demoAccess (.store [1, 2, 3, 4]) host with id := 4, after := [] }, demoAccess (.store [1, 2, 3, 4]) host] } }
    (∀ x ∈ [EccSite.memory none 0x11000, .memory (some 1) 0x11000, .cleanLine none 0x11000, .cleanLine (some 1) 0x11000,
      .cell 1 255 63, .scalar 1 63, .vector 1 63 0, .mask 1 15 0, .exm 1 0], s.siteExists x = true)
    ∧ (s.team? 1).isSome = true ∧ s.flight.copies = [] ∧ 23 < 24 ∧ s.dev.portsDown.getLsbD 23 = false
    ∧ s.behind .ixlet host = true ∧ runs (.flitCrcError .ixlet true [] [5]) s (fun s => s.flight.accesses.isEmpty) = true
    ∧ runs (.flitCrcError .ixlet true [] [5]) after (fun _ => true) = false
    ∧ runs (.flitCrcError (.sprinda 23) true [] []) s (fun s => s.dev.portsDown.getLsbD 23) = true
    ∧ (demoAccess (.store [1, 2, 3, 4]) host).kind = .store [1, 2, 3, 4] := by decide +kernel

/-- A COLL with a byte behind Ixlet. -/
theorem wit_StorageAndLinkErrors_coll : let host : Place := ⟨hostLoc 0x10000, .rc, .hostLink⟩
    let p : CollPart := { demoPart 1 with send := [⟨host, 0x200000⟩] }
    let c : Copy := { demoRank 1 with coll := some p }
    (demoMoving c).flight.copies = [c] ∧ c.coll = some p ∧ c.after = [] ∧ (demoMoving c).flight.accesses = []
    ∧ (p.send.find? fun x => (demoMoving c).behind .ixlet x.place) = some ⟨host, 0x200000⟩
    ∧ runs (.flitCrcError .ixlet true [] []) (demoMoving c) (fun s => s.flight.copies == [] && s.dev.brokenColls == [(0, 0)]) = true :=
  ⟨rfl, rfl, rfl, rfl, by decide +kernel, by decide +kernel⟩

/-- The mailbox with a command and its operands. -/
def demoMailbox (k : Nat) (words : List (Nat × Nat)) : State :=
  let s := demo demoTeam
  { s with dev := { s.dev with
    command := some (.ofNat 64 k), mailbox := words.foldl (fun m w => Assoc.setAll 0 m w.1 (leBytes 8 w.2)) [] } }

theorem wit_MailboxAndResets : let s := demoMailbox 1 [(8, 0x40000), (16, 4), (24, 0x41000)]
    (commanded s 1 ∧ (s.queue 0).map = some ⟨1, 4, none, 0⟩ ∧ s.ctx? 1 = some demoCtx ∧ s.ringOk demoCtx 4 0x40000 0x41000 = true
      ∧ s.ringOk demoCtx 4 0x40010 0x41000 = false)
    ∧ commanded (demoMailbox 2 []) 2 ∧ commanded (demoMailbox 3 []) 3 ∧ commanded (demoMailbox 4 []) 4 ∧ commanded (demoMailbox 5 []) 5
    ∧ (s.dev.lostDies.getLsbD 0 = false ∧ s.mem.wf = true)
    ∧ ({ (demoMailbox 4 []).dev with lostDies := 1 } : Device).lostDies.getLsbD 0 = true :=
  ⟨⟨⟨_, rfl, rfl⟩, rfl, rfl, by decide +kernel, by decide +kernel⟩, ⟨_, rfl, rfl⟩, ⟨_, rfl, rfl⟩, ⟨_, rfl, rfl⟩, ⟨_, rfl, rfl⟩,
    ⟨rfl, rfl⟩, rfl⟩

/-- What 25 R355 and R358 say of an image and of a record, their signatures apart, whose verification is a free value: the
initial ones keep to it; a record with THOT at 96 and an image of no bytes do not. -/
theorem wit_MailboxAndResets_accepted : let formed (r : Record) : Bool := r.magic == 0x47434B50#32 && r.flagsRsv == 0 && r.rsv == 0
        && 70 ≤ r.thot.toNat && r.thot.toNat ≤ 95 && r.thot.toNat + 10 ≤ r.ttrip.toNat && r.ttrip.toNat ≤ 110
        && r.bcool.toNat ≤ 4095 && r.bhot.toNat ≤ r.bcool.toNat && 600 ≤ r.plimit.toNat && r.plimit.toNat ≤ 2400
        && r.devid.toNat < 4096 && r.hsel &&& ~~~r.half == 0
    formed State.reset.dev.flash = true ∧ formed { State.reset.dev.flash with thot := 96 } = false
    ∧ firmwareFormed 0 State.reset.dev.image = true ∧ firmwareFormed 0 [] = false ∧ State.reset.dev.lostDies.getLsbD 0 = false := by
  decide +kernel

/-- SHA-384 of "abc", as FIPS 180-4 gives it. -/
theorem test_sha384 : (sha384 [0x61, 0x62, 0x63]).take 8 = [0xCB, 0x00, 0x75, 0x3F, 0x45, 0xA3, 0x5E, 0x8B] := by decide +kernel

/-- Sensors at their thresholds: THOT + 1 sets HOT, THOT − 3 clears it, TTRIP throttles. -/
def demoHeat (v : Byte) (hot : BitVec 4) (col : BitVec 7) : State :=
  let s := demo demoTeam
  { s with dev := { s.dev with
    stackTemp := (List.range 8).map fun i => (i, v), hot := hot, colTemp := [(0, col)], routes := [(3, 1)] } }

theorem wit_RequestsAndRegisters : let s := demoHeat 86 0 95
    let c := demoHeat 82 1 94
    let reads (s : State) (i : Nat) : Nat := (Assoc.get 0 s.dev.stackTemp (8 * 0 + i)).toNat
    (s.portsTo 3 ≠ 0 ∧ apertureBase + 4 ≤ apertureBase + apertureSize
      ∧ (0 < 4 ∧ 0x11000 + 4 ≤ apertureBase ∧ (2 ^ 39 + 0x11000) % 2 ^ 39 + 4 ≤ 2 ^ 39))
    ∧ (s.dev.regs.therm.toNat % 256 = 85 ∧ s.dev.hot.getLsbD 0 = false ∧ ∃ i < 8, 85 < reads s i)
    ∧ (c.dev.hot.getLsbD 0 = true ∧ ∀ i < 8, reads c i + 3 ≤ 85)
    ∧ (s.dev.throttled = false ∧ ∃ e ∈ s.dev.colTemp, s.dev.flash.ttrip.toNat ≤ e.2.toNat)
    ∧ (∀ e ∈ c.dev.colTemp, e.2.toNat < c.dev.flash.ttrip.toNat) ∧ (demo demoTeam).curTeam = some demoTeam := by decide +kernel

/-- Four levels of tables, the third's TABLE beyond 512 GiB; then a page of 64 KiB with V, W, X, U and LEAF. -/
def demoTables : State := demoMem [(0x200000, leBytes 8 0x3001), (0x3000, leBytes 8 0x8000004001), (0x4000, leBytes 8 0x5001),
  (0x5008, leBytes 8 0x200B9)] demoTeam

theorem wit_Translations_address : let s := demo demoTeam
    let paged : Context := { demoCtx with ranges := [], ptroot := 0x200000 }
    let in_ (va : Nat) : Bool := demoCtx.ranges.any fun e => e.2.holds (.ofNat 64 va)
    let answers (s : State) (c : Context) (va : Addr) (i : Intent) : Option Place := (translate s c 0 va i).toOption
    (2 ^ 56 ≤ (0x0100000000000000#64).toNat ∧ (0x0100000000000000#64).toNat < 2 ^ 64 - 2 ^ 56)
    ∧ (answers s demoCtx 0xFFFFFF00000FFFFF .read = some ⟨localLoc 1 0 0xFFFFF, .rc, .localStore⟩
      ∧ answers s demoCtx 0xFFFFFF0000100000 .read = none ∧ demoCtx.claim.getLsbD 0 = true ∧ (0#8).getLsbD 0 = false)
    ∧ (answers s demoCtx 0xFFFFFE005AFFFFFF .write = some ⟨vaultLoc 0x16B 0x3FFFFF, .rc, .vault 0x16B⟩
      ∧ answers s demoCtx 0xFFFFFE005C000000 .read = none ∧ s.dev.lostDies.getLsbD (1 + 0x16B / 128) = false)
    ∧ (demoCtx.ranges.Pairwise (·.1 < ·.1) ∧ in_ 0x10000 = true ∧ in_ 0x500000 = false)
    ∧ (answers demoTables paged 0x1FFFF .write = some ⟨0x2FFFF, .rc, .device 0⟩ ∧ answers demoTables paged 0x20000 .read = none
      ∧ deviceLeaf 16 0x200B9 = true) := by decide +kernel

/-- A bell on a page that moves to another tower. -/
theorem wit_Translations_bell : let m : PageMove := ⟨0x40000, 0x50000, 2 ^ 16, 1⟩
    let b : Armed := ⟨0x4FFF8, 8, 0, .eq, 0, 0, false⟩
    m.old ≤ b.loc ∧ b.loc < m.old + m.size ∧ b.home ≠ m.home ∧ (demo demoTeam).bellRoom m.home = some false
    ∧ (demoFull demoTeam).bellRoom 0 = none ∧ (demo demoTeam).armedBells = [] := by decide +kernel

/-- A leaf of 64 KiB before and after its page moves; an access and a copy that hold the change back; a team stopped in a
pending translation. -/
theorem wit_Translations : let t := { demoTeam with cond := .pendingTranslation 0x40000000 none }
    let h := { demoTeam with cond := .stopped false (.translation 0x40000000 none) }
    let s : State := { demo t with mem := State.reset.mem.store 0x30000 (leBytes 8 0x400B9) }
    let inOld : Place := ⟨0x40010, .rc, .device 0⟩
    (s.ctx? (1#16).toNat ≠ none ∧ s.ctx? (9#16).toNat = none ∧ s.flight.accesses = [] ∧ s.flight.copies = [])
    ∧ ((demo h).ctx? (1#16).toNat ≠ none ∧ h.cond = .stopped false (.translation 0x40000000 none))
    ∧ s.mem.wf = true ∧ deviceLeaf 16 (s.mem.nat 0x30000 8) = true ∧ deviceLeaf 16 (0x500B9#64).toNat = true
    ∧ s.mem.nat 0x30000 8 % 2 ^ 8 = (0x500B9#64).toNat % 2 ^ 8 ∧ fld 16 36 (s.mem.nat 0x30000 8) * 2 ^ 16 % 2 ^ 39 = 0x40000
    ∧ runs (.pageHomeChange 0x30000 16 0x500B9) s (fun s => s.mem.nat 0x30000 8 == 0x500B9) = true
    ∧ runs (.pageHomeChange 0x30000 16 0x500B9) { s with flight := { Flight.empty with
        accesses := [demoAccess (.store [1, 2, 3, 4]) inOld] } } (fun _ => true) = false
    ∧ runs (.pageHomeChange 0x30000 16 0x500B9) { s with flight := { Flight.empty with
        copies := [{ demoMove with pages := [4] }] } } (fun _ => true) = false := by decide +kernel

/-- A debugger attached to the context of a team that runs, that has stopped, that has an access in flight. -/
def demoDebug (on : Bool) (t : Team) (as : List Access) : State :=
  let s := demoIn { demoCtx with attached := on, watches := [(0, ⟨0x11000, false, true⟩)] } t
  { s with flight := { Flight.empty with accesses := as } }

/-- The codes of 25 R360 in their order: an item of no lane; no such context or team; no debugger; a team that runs, or
has an access in flight; then the commands on a drained team. -/
theorem wit_DebugCommands : let r : TeamRef := ⟨1, 1, 0⟩
    let h := { demoTeam with cond := .stopped false .none }
    let s := demoDebug true h []
    let busy := demoDebug true h [demoAccess (.load (.scalar 6 false 0)) demoPlace]
    let code (i : Instr) (s : State) (k : Nat) : Bool := runs i s fun s => s.dev.debugCode == k
    (itemMalformed (.special 0x0FF) = true ∧ itemMalformed (.scalar 5) = false ∧ itemExists h (.vector 1 31) = true
      ∧ itemExists h (.vector 1 32) = false ∧ s.debugTeam r = some h ∧ (s.debugTeam ⟨1, 9, 0⟩).isNone = true ∧ s.ctx? 9 = none)
    ∧ (code (.read r (.vector 1 32)) (demoDebug false h []) 1 = true ∧ code (.write r (.special 0x0FF) 0) s 1 = true
      ∧ code (.read ⟨1, 9, 0⟩ .pc) s 2 = true ∧ code (.stop ⟨9, 1, 0⟩) s 2 = true ∧ code (.stop r) (demoDebug false h []) 3 = true
      ∧ code (.resume r) (demoDebug true demoTeam []) 4 = true ∧ code (.read r .pc) busy 4 = true)
    ∧ ((s.ctx? r.ctx.toNat).map (·.attached) = some true ∧ (demoDebug true demoTeam []).debugTeam r = some demoTeam
      ∧ (demoDebug true demoTeam []).inPair demoTeam = false ∧ demoTeam.cond = .ready
      ∧ runs (.stop r) (demoDebug true demoTeam []) (ofTeam fun t => t.cond == .stopped false .none) = true)
    ∧ (code (.read r (.vector 1 31)) s 0 = true ∧ code (.write r (.scalar 5) 7) s 0 = true ∧ code (.resume r) s 0 = true
      ∧ code (.write r (.memory 0x11000) 7) s 0 = true ∧ code (.write r .pc 0x11000) s 0 = true) := by decide +kernel

/-- A debugger's write to the mailbox, through a page that maps the aperture. -/
theorem wit_DebugCommands_aperture : let c : Context := { demoCtx with
      attached := true, ranges := [(0, { codeRange with vstart := 0x1000000, vlen := 0x1000000, pbase := 0x000FFF0000000000 })] }
    let h := { demoTeam with cond := .stopped false .none }
    translate (demoIn c h) c 0 0x1800010 .write = .ok ⟨mailboxLoc + 16, .rc, .aperture⟩
    ∧ runs (.write ⟨1, 1, 0⟩ (.memory 0x1800010) 7) (demoIn c h)
      (fun s => s.dev.debugCode == 0 && Assoc.get 0 s.dev.mailbox 16 == 7) = true :=
  ⟨ok_of (by decide +kernel), by decide +kernel⟩

/-- WATCH and the attachment; then a store over a watched byte, and one beside it. -/
theorem wit_DebugCommands_watch : let h := demoAt 8 0x10FFC
    let s := demoDebug true h []
    let m : MemArg := ⟨8, false, .postInc 1⟩
    let w : Watch := ⟨0x11000, false, true⟩
    (runs (.watch 1 4 none) s (fun s => s.dev.debugCode == 1) = true ∧ runs (.watch 9 3 (some w)) s (fun s => s.dev.debugCode == 2) = true
      ∧ runs (.watch 1 3 (some w)) (demoDebug false h []) (fun s => s.dev.debugCode == 3) = true
      ∧ runs (.watch 1 3 (some w)) s (fun s => s.fe.contexts.map (·.watches.length) == [2]) = true
      ∧ runs (.debugAttach 9 true) s (fun s => s.dev.debugCode == 2) = true
      ∧ runs (.debugAttach 1 false) s (fun s => s.fe.contexts.map (·.attached) == [false]) = true)
    ∧ (Issues s h { srcs := ⟨.pair 6, false⟩ :: memUses ⟨8, false, .disp 0⟩, dsts := memDsts [] ⟨8, false, .disp 0⟩, ordered := true }
      ∧ s.sched.defer = false ∧ (s.ctxOf h).attached = true ∧ (0, w) ∈ (s.ctxOf h).watches ∧ w.writes = true
      ∧ ¬ (0x10FFC + 4 > w.base.toNat))
    ∧ (Issues (demoDebug true (demoAt 8 0x11004) []) (demoAt 8 0x11004)
        { srcs := ⟨.s 6, false⟩ :: memUses m, dsts := memDsts [] m, ordered := true }
      ∧ accessPlace (demoDebug true (demoAt 8 0x11004) []) (demoAt 8 0x11004) (memAddress m (demoAt 8 0x11004) 4) 4 4 .write =
        .ok ⟨0x11004, .rc, .device 0⟩ ∧ 0x11004 < w.base.toNat + 8 ∧ w.base.toNat < 0x11004 + 4) :=
  ⟨by decide +kernel, ⟨issues_of, by decide +kernel⟩, issues_of, ok_of (by decide +kernel), by decide⟩
/-! ### Hypotheses that can be met: clauses beside the others -/

/-- Two contexts, the running one with no team, and a GANG packet of the other that waits; a device whose record was
refused. -/
def demoGang : State :=
  let s := demoSlices false false none
  { s with teams := [] }.putQueue 5 { s.queue 5 with wait := .gang, map := some ⟨2, 4, none, 0⟩ }

theorem wit_StepRunsInstruction_waits : (∀ c ∈ [Instr.reset, .setq0, .route, .attest, .event], encode c = none)
    ∧ encode (.flitCrcError .ixlet true [] []) = none ∧ demoGang.teams = []
    ∧ (demoGang.queue 5).wait = .gang ∧ (demoGang.queue 5).map.any (fun m => m.ctx == 2) = true
    ∧ demoGang.fe.contexts.map (·.ctxid) = [1, 2] ∧ demoGang.fe.running = 1 := by decide +kernel

/-- An access that a page of 64 KiB translated, and one of 1 GiB that holds it as well; the invalidation of a page beside
it. -/
def demoPaged (g : VPage) : State :=
  let s := demoFlight (.load (.scalar 6 false 0)) demoPlace
  { s with flight := { s.flight with accesses := [{ demoAccess (.load (.scalar 6 false 0)) demoPlace with page := some g }] } }

theorem wit_Translations_page : (∀ g ∈ [⟨1, 16⟩, ⟨0, 30⟩], (0x11000#64).toNat / 2 ^ (VPage.bits g) = g.number)
    ∧ (0x21000#64).toNat / 2 ^ 16 ≠ 1 ∧ (demoPaged ⟨1, 16⟩).teams.map (fun t => (t.ctx, t.id)) = [(1, 1)]
    ∧ runs (.invalidatePage 1 0x11000) (demoPaged ⟨0, 30⟩) (fun _ => true) = false
    ∧ runs (.invalidatePage 1 0x21000) (demoPaged ⟨1, 16⟩) (fun _ => true) = true
    ∧ (translate demoTables { demoCtx with ranges := [], ptroot := 0x200000 } 0 0x1FFFF .write).isOk = true
    ∧ demoTables.pageOf { demoCtx with ranges := [], ptroot := 0x200000 } 0x1FFFF = some ⟨1, 16⟩ := by decide +kernel

theorem wit_SpecialRegisterWrites_page : let t := demoRegs [(2, 0x10001)]
    let s : State := { demoPaged ⟨0, 16⟩ with teams := [t] }
    Issues s t { srcs := useS [⟨2, false⟩] } ∧ (s.ctxOf t).priv = true ∧ fld 16 2 (t.sval 2).toNat = 1 ∧ fld 0 16 (t.sval 2).toNat = 1
    ∧ (s.ctx? 1).isSome = true ∧ s.dev.regs.xval.toNat + 2 ^ 32 * s.dev.regs.xvah.toNat = 0 :=
  ⟨issues_of, rfl, by decide +kernel, by decide +kernel, rfl, rfl⟩

/-- Lanes 0 and 1 at a poisoned word and at a clean one; lanes on a peer that no port reaches. -/
theorem wit_VectorMemory_poison : let t := demoAt 8 0x11000
    let p := demoAt 8 0x300000
    let m : MemArg := ⟨8, false, .postInc 1⟩
    let sh (z : BitVec 2) : Shape :=
      { srcs := memUses m, dsts := memDsts [laneOpnd z 6] m, vector := true, always := memSteps m, ordered := true }
    (Issues demoBad t (sh 2) ∧ demoBad.unwatched ∧ demoBad.sched.defer = false
      ∧ demoBad.mem.wordBad (placeAt demoBad t (laneAddress m t 4 0) 4 .read).loc = true
      ∧ demoBad.mem.wordBad (placeAt demoBad t (laneAddress m t 4 1) 4 .read).loc = false)
    ∧ (Issues (demo p) p (sh 3) ∧ ∀ l ∈ p.active, (accessPlace (demo p) p (laneAddress m p 8 l) 8 8 .read).isOk = true
      ∧ (demo p).reachable (placeAt (demo p) p (laneAddress m p 8 l) 8 .read) = false)
    ∧ Issues (demo p) p { srcs := ⟨laneOpnd 3 6, false⟩ :: memUses m, dsts := memDsts [] m, vector := true, always := memSteps m
                          ordered := true } :=
  ⟨⟨issues_of, demoBad_unwatched, rfl, by decide +kernel, by decide +kernel⟩, ⟨issues_of, by decide +kernel⟩, issues_of⟩

/-- The first address beyond each window, a vault of no core, and one that the record marks absent. -/
theorem wit_Barriers_windows : let absent : State := let s := demo demoTeam
      { s with dev := { s.dev with flash := { s.dev.flash with vaultAbsent := 1 } } }
    missesWindows (demo demoTeam) 0xFFFFFE0080000000 ∧ missesWindows (demo demoTeam) 0xFFFFFF0000100000
    ∧ missesWindows (demo demoTeam) 0xFFFFFE000C000000 ∧ missesWindows absent 0xFFFFFE0000000008
    ∧ ¬ missesWindows (demo demoTeam) 0xFFFFFE0000000008 ∧ ¬ missesWindows (demo demoTeam) 0xFFFFFF00000FFFF8
    ∧ (0xFFFFFE000C000000#64).toNat % 8 = 0 ∧ vaultWindow ≤ (0xFFFFFF0000000000#64).toNat
    ∧ (translate (demo demoTeam) { demoCtx with claim := 0 } 0 0xFFFFFF0000000000 .write).isOk = false
    ∧ Issues (demo (demoRegs [(8, 0x0C000000), (9, 0xFFFFFE00)])) (demoRegs [(8, 0x0C000000), (9, 0xFFFFFE00)])
      { srcs := useP [⟨8, true⟩], dsts := [.s 6], ordered := true } := by
  refine ⟨?_, ?_, ?_, ?_, ?_, ?_, by decide, by decide, by decide +kernel, issues_of⟩ <;> (unfold missesWindows; decide +kernel)

/-- CPY whose third byte does not translate, read and written; misaligned records; records that do not pair; a list that is
not legal; a list whose element, or whose dense side, is misaligned. -/
theorem wit_Copies_checks : let r := demoCopy 0x11000 0x10FFFE 4
    let w := demoCopy 0x10FFFE 0x11000 4
    let v := demoCopy 0x12020 0x12010 0
    let g (d : Word) := demoCopy d 0x12000 0
    let gs (esize : Nat) (t : Team) :=
      demoMem [(0x12000, leBytes 32 (0x13000 + 0x12100 * 2 ^ 64 + 2 * 2 ^ 128 + esize * 2 ^ 160)), (0x12104, leBytes 4 6)] t
    let sh : Shape := { srcs := [⟨.pair 8, false⟩, ⟨.pair 10, true⟩, ⟨.s 12, true⟩], alone := true }
    let gsh : Shape := { srcs := [⟨.pair 8, false⟩, ⟨.pair 10, true⟩], alone := true }
    let list (s : State) (t : Team) := (recordBytesAt s t (t.pair 10) 32).toOption.map fun x => CopyList.ofNat x.1
    (Issues (demo r) r sh ∧ (bytePlaces (demo r) r (r.pair 10) 2 .read).isOk = true
      ∧ (translate (demo r) demoCtx 0 (r.pair 10 + 2#64) .read).isOk = false)
    ∧ (Issues (demo w) w sh ∧ (bytePlaces (demo w) w (w.pair 10) 4 .read).isOk = true
      ∧ (bytePlaces (demo w) w (w.pair 8) 2 .write).isOk = true ∧ (translate (demo w) demoCtx 0 (w.pair 8 + 2#64) .write).isOk = false)
    ∧ (r.pair 10).toNat % 16 ≠ 0 ∧ (w.pair 8).toNat % 16 ≠ 0
    ∧ (Issues (demoTiles v) v sh ∧ (v.pair 8).toNat % 16 = 0
      ∧ tilesPair (.ofNat (leNat (recordOf 0x13100 8 5 0 2 4))) (.ofNat (leNat (recordOf 0x14000 16 5 1 2 3))) = false)
    ∧ (Issues (gs 3 (g 0x11000)) (g 0x11000) gsh ∧ (list (gs 3 (g 0x11000)) (g 0x11000)).all (fun l => !l.legal) = true)
    ∧ (Issues (gs 4 (g 0x11000)) (g 0x11000) gsh
      ∧ (list (gs 4 (g 0x11000)) (g 0x11000)).all (fun l => l.legal && (listElements (gs 4 (g 0x11000)) (g 0x11000) l).isOk) = true)
    ∧ Issues (gs 2 (g 0x11001)) (g 0x11001) gsh ∧ ((g 0x11001).pair 8).toNat % 2 ≠ 0 :=
  ⟨⟨issues_of, by decide +kernel, by decide +kernel⟩, ⟨issues_of, by decide +kernel, by decide +kernel, by decide +kernel⟩,
    by decide +kernel, by decide +kernel, ⟨issues_of, by decide +kernel, by decide +kernel⟩, ⟨issues_of, by decide +kernel⟩,
    ⟨issues_of, by decide +kernel⟩, issues_of, by decide +kernel⟩

/-- A copy with two bytes to move; a collective whose rank on this device's lost die had issued; both STATUS 1 and 2 fit. -/
theorem wit_CompletionsInFlight_more : let c : Copy := { demoMove with
      moves := [⟨demoPlace, 0x11000, .fixed 7 false, true⟩, ⟨⟨0x11004, .rc, .device 0⟩, 0x11004, .fixed 8 false, true⟩] }
    ((demoMoving c).copy? 5 = some c ∧ c.coll = none ∧ c.begun = true ∧ c.after = [] ∧ 1 < c.moves.length)
    ∧ runs (.copyPerform 5 [1, 0]) (demoMoving c) (fun s => s.mem.bytes 0x11000 5 == [7, 0, 0, 0, 8] && s.flight.copies == []) = true
    ∧ (demoGroup 1 1 2).rankLost 0 0 = true ∧ (demoGroup 1 1 2).groupRanks 0 = 1
    ∧ (demoGroup 1 1 2).collWrong 0 ((collParts (demoGroup 1 1 2) (demoPart 1)).map fun x => x.2.data (demoGroup 1 1 2)) = false
    ∧ (demoGroup 2 1 2).rankLost 0 0 = true
    ∧ (demoGroup 2 1 2).collWrong 0 ((collParts (demoGroup 2 1 2) (demoPart 1)).map fun x => x.2.data (demoGroup 2 1 2)) = true := by
  decide +kernel

/-- The array while its team is yielded, stopped, switched out, and while it is throttled. -/
theorem wit_ArrayStepsAndReset_withheld : let s := demoArray 0 0 0
    let t := { demoTeam with matrix := [demoOp], acl := 64 }
    (∀ u ∈ [{ t with yielded := true }, { t with cond := .stopped false .none }, { t with ctx := 2 }, { t with matrix := [] }],
      ({ s with teams := [u] } : State).team? 1 = some u
      ∧ runs (.kGroupStep 1 .passes) { s with teams := [u] } (fun _ => true) = false)
    ∧ runs (.kGroupStep 1 .passes) { s with dev := { s.dev with throttled := true } } (fun _ => true) = false := by decide +kernel

/-- A pool whose first node has no team left to place; cores 1 and 65, on towers 0 and 0 and of equal AVAIL; three contexts
of which the one before the running one is runnable. -/
theorem wit_PlacementAndCompletion_order : let s := demoPool []
    let full : Node := { Node.fresh 3 1 none 0x18000#64 loneDesc 0 with placed := 1 }
    let t : State := { s with nodes := s.nodes ++ [full], fe := { s.fe with pool := [3, 0] } }
    t.returning = none ∧ t.nextPlacement.map (fun x => (x.1.id, x.2)) = some (0, 1) ∧ full.desc.teams ≤ full.placed
    ∧ (let u := demoSlices true false none
      let v : State := { u with fe := { u.fe with running := 2, contexts := u.fe.contexts ++ [{ demoCtx with ctxid := 3 }] } }
      v.nextContext.map (·.ctxid) = some 1) := by decide +kernel

/-- A copy with bytes to read and to write behind a link that fails, over Ixlet and over a port. -/
theorem wit_StorageAndLinkErrors_copy : let host (k : Nat) : Place := ⟨hostLoc (0x10000 + k), .rc, .hostLink⟩
    let dst (k : Nat) : Place := ⟨0x11000 + k, .rc, .device 0⟩
    let c : Copy := { demoMove with moves := [⟨dst 0, 0x11000, .loc (host 0) 0x200000, true⟩, ⟨host 4, 0x200004, .fixed 7 false, true⟩,
      ⟨dst 8, 0x11008, .fixed 9 false, true⟩] }
    let s := demoMoving c
    s.flight.copies = [c] ∧ c.coll = none ∧ c.after = [] ∧ s.flight.accesses = []
    ∧ s.firstCrossing .ixlet c = some 0x200000 ∧ (c.moves.map (·.dst.loc)).Nodup
    ∧ (∀ m ∈ c.moves, m.dst.region ≠ .aperture ∧ s.reachable m.dst = true) ∧ s.reachable (host 0) = true
    ∧ runs (.flitCrcError .ixlet true [] [5]) s (fun v => v.mem.byte (hostLoc 0x10004) == 7 && v.mem.byte 0x11008 == 9
      && v.mem.wordBad 0x11000 && v.flight.copies == []) = true
    ∧ runs (.flitCrcError .ixlet true [] []) s (fun v => v.mem.byte (hostLoc 0x10004) == 0 && v.mem.byte 0x11008 == 9) = true
    ∧ s.firstCrossing (.sprinda 23) c = none ∧ s.dev.portsDown.getLsbD 23 = false := by decide +kernel


/-! ### Hypotheses that can be met: waits that end, stops, slots, emulation, lookahead -/

/-- A word at 0x1_1000 that a bell of the store's own team watches for not being 0; the store fires it. -/
def demoWatcher (x : Condition) : Team := { demoAt 8 0x11000 with
  bells := demoTeam.bells.set 2 ⟨some ⟨0x11000, 4, 0, .ne, 0, 0, false⟩, false⟩, cond := x }

theorem wit_ScalarStores_bell : let t := demoWatcher .ready
    let m : MemArg := ⟨8, false, .disp 0⟩
    let s := demo { t with sregs := scalarsAfter t [] [(6, 7)] }
    (Issues (demo t) t { srcs := ⟨.s 6, false⟩ :: memUses m, dsts := memDsts [] m, ordered := true } ∧ (demo t).canonical
      ∧ (demo t).settled)
    ∧ runs (.st 6 m) s (ofTeam fun t => t.bells[2] == ⟨none, true⟩ && t.bells[1] == ⟨none, false⟩) = true
    ∧ runs (.st 6 m) (demo t) (ofTeam fun u => u.bells == t.bells) = true :=
  ⟨⟨issues_of, rfl, demo_settled _⟩, by decide +kernel, by decide +kernel⟩

/-- A write beside the watched word, one that leaves the condition false, one that makes it true: AWAIT goes on. -/
theorem test_write_wakes_await : let s := demo (demoWatcher (.parkedAwait 6 ⟨2, true⟩ none))
    let wakes (loc : Nat) (bs : List Byte) : Bool := ofTeam (fun t => t.cond == .woken && t.bells[2].fired) (s.writeLoc loc bs)
    wakes 0x11004 [1] = false ∧ wakes 0x10FFF [1] = false ∧ wakes 0x11000 [0, 0, 0, 0] = false ∧ wakes 0x11003 [1] = true := by
  decide +kernel

/-- BWAIT for phase 1 goes on at a write that leaves another PHASE, and at no other; a switched-out context gets WAKEPEND. -/
theorem test_write_wakes_bwait : let s := demoMem [(vaultLoc 0 8, [0, 0, 1])] { demoTeam with cond := .parkedBarrier (vaultLoc 0 8) 1 }
    let away := { demo (demoWatcher (.parkedAwait 6 ⟨2, true⟩ none)) with fe := { (demo demoTeam).fe with
      contexts := [demoCtx], running := 2 } }
    ofTeam (fun t => t.cond == .woken) (s.writeLoc (vaultLoc 0 8) [5, 7]) = false
    ∧ ofTeam (fun t => t.cond == .woken) (s.writeLoc (vaultLoc 0 10) [2]) = true
    ∧ (away.writeLoc 0x11000 [1]).fe.contexts.map (·.wakePend) = [true]
    ∧ s.settled ∧ (Region.vault 0) ≠ .aperture :=
  ⟨by decide +kernel, by decide +kernel, by decide +kernel, demoMem_settled _ _, by decide⟩

/-- A store to device memory is remembered for its tower; a load at the home then drops that line's copy, and leaves the
other. -/
theorem test_served_at_home : let c (n : Nat) : LineCopy := ⟨0, n, List.replicate 128 9, List.replicate 32 false⟩
    let s : State := { demo demoTeam with flight := { Flight.empty with lines := [c 0x220, c 0x221] } }
    let w := s.teamWrite 0 demoPlace [1]
    w.flight.stored = [(0, 0x220)] ∧ w.flight.lines.map (fun c => (c.line, c.bytes.headD 0)) = [(0x220, 1), (0x221, 9)]
    ∧ (w.servedAtHome 0 [demoPlace, ⟨0x11080, .rc, .device 0⟩]).flight.lines.map (·.line) = [0x221] := by decide +kernel

/-- Queue 2 waits on a signal at 0x1_1000, or in host memory, with 5 as VALUE. -/
def demoWaiter (a : Nat) (w : QueueWait) (f : Memory → Memory) : State :=
  let p := packetOf 5 [(8, a), (16, 5)]
  let s := demoPacket p
  roundDone { s.putQueue 2 { s.queue 2 with wait := w } with mem := (f s.mem).store 0x40000 (leBytes 64 p) }

/-- Whether the others of O50 neither wait on a signal nor have a head packet that is refused. -/
def demoQuiet (s : State) : Bool := (List.range 128).all fun q => (q == 2 || (s.queue q).wait == .none) && match (s.head q).2 with
  | none => true
  | some p => !unassignedOp p && (s.queueCtx q).any fun c => packetErr c.priv p == 0

theorem wit_SignalPackets_ends : let bell : Armed := ⟨0x11000, 8, 0, .eq, 5, 0, false⟩
    let armed := demoWaiter 0x11000 (.signal (some bell) false) id
    let fired := demoWaiter 0x11000 (.signal none true) id
    let host (v : Byte) := demoWaiter 0x200000 (.signal none false) fun m => m.store (hostLoc 0x10000) [v]
    let lost := demoWaiter 0 (.signal none false) id
    let at_ : Place := ⟨hostLoc 0x10000, .rc, .hostLink⟩
    let ends (s : State) : Bool := runs .drumRound s fun s => (s.queue 2).wait == .none && (s.queue 2).consumed == 1
    (2 < 128 ∧ fired.fe.round = [] ∧ (fired.queue 2).leaving = false ∧ (fired.queue 2).wait = .signal none true
      ∧ (2#5 : BitVec 5).toNat + 32 * (fired.fe.rotation[2] + 0#2).toNat = 2 ∧ ends fired = true)
    ∧ (signalWord (host 5) 2 at_ true ∧ (host 5).reachable at_ = true ∧ demoQuiet (host 5) = true ∧ ends (host 5) = true)
    ∧ (signalWaits armed 2 ∧ ((armed.writeLoc 0x11000 [5]).queue 2).wait = .signal none true
      ∧ ((armed.writeLoc 0x11000 [6]).queue 2).wait = .signal (some bell) false)
    ∧ (signalWaits (host 4) 2 ∧ demoQuiet (host 4) = true ∧ ends (host 4) = false)
    ∧ (lost.queue 2).wait = .signal none false ∧ (∃ x, lost.feTranslate demoCtx 0 .read = .error x)
    ∧ runs .drumRound lost (fun s => (s.queue 2).halt && (s.queue 2).err == 5) = true :=
  ⟨⟨by decide, rfl, rfl, rfl, by decide +kernel, by decide +kernel⟩,
    ⟨⟨_, _, _, demoCtx, rfl, rfl, ok_of (by decide +kernel), by decide +kernel⟩, by decide +kernel, by decide +kernel, by decide +kernel⟩,
    ⟨.inl ⟨_, _, rfl⟩, by decide +kernel, by decide +kernel⟩,
    ⟨.inr ⟨rfl, ⟨hostLoc 0x10000, .rc, .hostLink⟩, false, ⟨_, _, _, demoCtx, rfl, rfl, ok_of (by decide +kernel), by decide +kernel⟩, .inl rfl⟩, by decide +kernel,
      by decide +kernel⟩, rfl, exists_error (by decide +kernel), by decide +kernel⟩

/-- A gang of one part of two teams, on pair 0, with two cores enabled, and on pair 1, which has none. -/
theorem wit_NodeAndGangPackets_slots : let s := demoPool []
    let n := { Node.fresh 0 1 none 0x18000#64 { loneDesc with teams := 2 } 0 with cores := [1] }
    s.node? 0 = some n ∧ n.placed = 0 ∧ [(n, 1)].map (·.1.id) = [0]
    ∧ (State.placeParts 2 [(n, 1)] s).map (fun s => (s.teams.map (·.core), s.nodes.map (·.placed))) = some ([1, 1], [2])
    ∧ State.placeParts 2 [(n, 2)] s = none ∧ s.eligible n (some 2) (fun c => (1 : Nat).testBit (c / 64)) = [1] := by decide +kernel

theorem wit_PlacementAndCompletion_eligible : (demoPool []).ctx? 1 = some demoFeat
    ∧ ((demoPool []).features demoFeat 0).isSome = true := by decide +kernel

/-- The record of 100 / 7 after five digits; the same with a digit of code 2, which R86 discards. -/
def divided (k : Nat) : Team := { demoRegs [(2, 100), (3, 7)] with dcrs := [divRecord 0x10000 false 2 k 100 7] }

theorem upTo {p : Nat → Prop} {n : Nat} (h : ∀ j < n + 1, 1 ≤ j → p j) : ∀ j, 1 ≤ j → j ≤ n → p j :=
  fun j h1 h2 => h j (by omega) h1

theorem wit_ScalarDivision_resumed : let t := divided 5
    let bad : Dcr := ⟨0x10000, none, (divRecord 0x10000 false 2 5 100 7).record ||| (2#256 <<< 34)⟩
    (Issues (demo t) t { srcs := useS [⟨2, true⟩, ⟨3, false⟩], dsts := [.s 4], la := 0 }
      ∧ divisionRecord 2 false t (t.sval 2) (t.sval 3) (divRecord 0x10000 false 2 5 100 7))
    ∧ discarded 2 32 0 0x0B 1 bad
    ∧ ([0, 5, 31, 32].all fun k => runs (.divu 4 ⟨2, true⟩ ⟨3, false⟩ 0) (demo (divided k))
      (ofTeam fun t => t.sval 4 == 14 && t.dcrs == [])) = true := by
  refine ⟨⟨issues_of, rfl, rfl, 5, by decide, ?_, upTo ?_, by decide +kernel⟩, ?_, by decide +kernel⟩
  · unfold headerIs; decide +kernel
  · decide +kernel
  · exact .inr (.inr (.inr (.inr (.inr ⟨0, by decide, 2, by decide, by decide, .inl (by decide +kernel)⟩))))

/-- Lane 0 of 6 / 3, two digits on, and lane 1 of 1 / 0, which R69 fixes. -/
def quotients : Team := { demoMode 0x17 with
  vregs := (demoTeam.vregs.set 1 (.live ((List.range 32).map fun l => ⟨if l = 0 then 0x40C00000 else 0x3F800000, false⟩))).set 2
    (.live ((List.range 32).map fun l => ⟨if l = 0 then 0x40400000 else 0, false⟩)) }

theorem wit_VectorIterative_resumed : let t := { quotients with dcrs := [iterRecord .div quotients [1, 2] 2 0, iterRecord .div quotients [1, 2] 2 1] }
    Issues (demo t) t { vecShape (demo t) t setF typeBits 3 [⟨1, true⟩, ⟨2, false⟩] false with la := 3 }
    ∧ laneRecord .div t [1, 2] 0 (iterRecord .div quotients [1, 2] 2 0) ∧ laneRecord .div t [1, 2] 1 (iterRecord .div quotients [1, 2] 2 1)
    ∧ runs (.vfdiv 3 ⟨1, true⟩ ⟨2, false⟩ 3) (demo t) (ofTeam fun t => lanesOf t 3 2 == [0x40000000, 0x7F800000] && t.dcrs == []) = true := by
  refine ⟨issues_of, ⟨rfl, rfl, 2, by decide, by decide +kernel, ?_, fun i hi => ?_⟩, ⟨rfl, rfl, 0, by decide, by decide +kernel, ?_,
    fun i hi => ?_⟩, by decide +kernel⟩
  · unfold headerIs; decide +kernel
  · have h0 : i = 0 := by have : i < 1 := hi; omega
    subst h0
    refine ⟨fun h => absurd h (by decide +kernel), fun _ => ⟨fun j => (dividing (3 / 2) (3 / 2) j).1, fun j => (dividing (3 / 2) (3 / 2) j).2,
      ⟨3 / 2, 2, 3 / 2, 1, ?_, ?_, fun j => rfl⟩, ?_, ?_⟩⟩
    · exact ⟨false, 12582912, -21, by decide +kernel, by norm_num⟩
    · exact ⟨false, 12582912, -22, by decide +kernel, by norm_num⟩
    · exact fun j h1 h2 => upTo (n := 56) (p := fun j => digitBits (iterRecord .div quotients [1, 2] 2 0) 0 j =
        if 2 < j ∨ (dividing (3 / 2) (3 / 2) j).2 = 0 then 0 else if (dividing (3 / 2) (3 / 2) j).2 = 1 then 1 else 3) (by decide +kernel) j h1
        (by have : 2 * j ≤ 112 := h2; omega)
    · decide +kernel
  · unfold headerIs; decide +kernel
  · have h0 : i = 0 := by have : i < 1 := hi; omega
    subst h0
    refine ⟨fun _ => ⟨?_, by decide +kernel⟩, fun h => absurd h (by decide +kernel)⟩
    exact fun j h1 h2 => upTo (n := 56) (p := fun j => digitBits (iterRecord .div quotients [1, 2] 2 1) 0 j = 0) (by decide +kernel) j h1
        (by have : 2 * j ≤ 112 := h2; omega)

/-- ADD s4, s5, s6 keeps a promise of an instruction that reads s7 and writes s8, and makes untrue those of one that writes
s5, of one that reads s4 and of one that writes s4. -/
theorem wit_StepRunsInstruction_promises : let i : Instr := .add 4 ⟨5, true⟩ ⟨6, false⟩
    let good : Promise := ⟨3, [.s 7], [.s 8]⟩
    let bad : List Promise := [⟨3, [], [.s 5]⟩, ⟨3, [.s 4], []⟩, ⟨3, [], [.s 4]⟩]
    let t := { demoTeam with promises := [good], issued := 1 }
    let u := { demoTeam with promises := good :: bad, issued := 4 }
    ((demo t).team? 1 = some t ∧ (demo t).fe.unitHolders = [] ∧ t.mayWait i = false ∧ good.keptBy t i = true)
    ∧ ((demo u).team? 1 = some u ∧ u.mayWait i = true ∧ bad.all (fun p => !p.keptBy u i) = true)
    ∧ Promise.keptBy demoTeam (.srd 9 3) good = false ∧ Promise.keptBy demoTeam (.srd 9 4) good = true := by decide +kernel

/-- A device whose image was refused, with RESET in its mailbox. -/
theorem wit_StepRunsInstruction_command : let s : State := let s := demo demoTeam; { s with dev := { s.dev with status := 3, command := some 4 } }
    s.sched.agenda = [] ∧ s.dev.status ≠ 0 ∧ s.dev.status ≠ 1 ∧ s.dev.command = some (BitVec.ofNat 64 4)
    ∧ (match step s with | .next _ => true | .fault _ => false | .refused _ => false) = true := by decide +kernel

/-- Emulation routines: bit 56 bound at 0x1_1000, and not; a stack that takes the frame, and one that does not. -/
def demoEmulated (bits : List Byte) (t : Team) : State := { demoMem [(0x16040, bits), (0x16080 + 8 * 56, [0, 0x10, 1])] t with
  fe := { (demo t).fe with contexts := [demoFeat] } }

theorem wit_TrapsRaisedAndDelivered_emulated : let s := demoEmulated (leBytes 8 (2 ^ 56)) demoTeam
    let none_ := demoEmulated [] demoTeam
    let low := demoSp 16
    boundRoutine s demoTeam 56 = some 0x11000 ∧ boundRoutine none_ demoTeam 56 = none ∧ s.frameHeld demoTeam = false
    ∧ (∃ s2, transfer (s.touchFe 1 (boundTried s demoTeam 56)) demoTeam 0x11000 (demoTeam.pc + 4#64) s.sched.iw 6 true = .ok s2)
    ∧ (let s := demoEmulated (leBytes 8 (2 ^ 56)) low
      ∃ z, transfer (s.touchFe 1 (boundTried s low 56)) low 0x11000 (low.pc + 4#64) s.sched.iw 6 true = .error z)
    ∧ (ofTeam (fun t => t.pc == 0x11000) (s.takeTrap demoTeam ⟨.featureAbsent, 56, 0, none, none⟩)
      && (s.takeTrap demoTeam ⟨.featureAbsent, 56, 0, none, none⟩).nodes.map (·.emulated) == [true]) = true :=
  ⟨by decide +kernel, by decide +kernel, by decide +kernel, exists_ok (by decide +kernel), exists_error (by decide +kernel),
    by decide +kernel⟩

/-- In a context with a debugger a TRAP whose entry is 0 and a BRK stop their team. -/
theorem wit_TrapsRaisedAndDelivered_attached : let s := demoDebug true demoTeam []
    let x : Trap := ⟨.software, 5, 0, none, none⟩
    s.curTeam = some demoTeam ∧ (s.ctxOf demoTeam).attached = true ∧ s.frameHeld demoTeam = false ∧ (5 : Nat) < 16
    ∧ readVector ((s.touchFe 1 [(s.ctxOf demoTeam).trapvec + .ofNat 64 (8 * x.code.num)]).writeRecord demoTeam x false false)
      (s.ctxOf demoTeam) .software = .ends :=
  ⟨rfl, rfl, by decide +kernel, by decide, by
    simp only [State.writeRecord, recordBytes_start (s := demoDebug true demoTeam []) rfl]; decide +kernel⟩

/-- MPLAN's writes: two positions of one mask byte make one write of it. -/
theorem wit_MatrixIssueAndControl_positions : let ps := mplanPositions (demoMma (fun _ => 0x10) 3) 0x10 3 0
    1 < ps.length ∧ (ps.map (·.1)).Nodup ∧ (ps.all fun x => x.1 < 1024) = true ∧ 0 < planeCount 0x10 := by
  decide +kernel

/-- A stop of a team in DIVU, in a context that claims records. -/
theorem wit_SlicesAndSwitches_records : let t := { demoRegs [(2, 100), (3, 7)] with pc := 0x11000 }
    let s := { demoMem [(0x11000, leBytes 4 ((encode (.divu 4 ⟨2, true⟩ ⟨3, false⟩ 0)).getD 0).toNat)] t with
      fe := { (demo t).fe with contexts := [{ demoCtx with claim := 0x1F }] } }
    (s.ctx? s.fe.running).isSome = true ∧ s.fe.gated = false ∧ (s.ctxOf t).claim.getLsbD 4 = true ∧ t.dcrs = []
    ∧ (s.nextInstr t == some (.divu 4 ⟨2, true⟩ ⟨3, false⟩ 0)) = true := by decide +kernel

/-! ### Results of single steps, from the spec's own examples and tables -/

/-- Lanes 0 to 3 active, with words in vector registers, under a MODE. -/
def demoLane (m : Word) (vs : List (Reg × List Word)) : Team := { demoTeam with
  mode := m
  exmBits := 0xF
  vregs := vectorsAfter demoTeam [] (vs.map fun v => (v.1, fun l => some (v.2.getD l 0))) }

/-- 09: the address built by ADDPC and ADDIX. -/
theorem test_addpc : runs (.addpc 4 0x12246) (demo { demoTeam with pc := 0x7F0000100040 })
    (ofTeam fun t => t.pair 4 == 0x7F0012346040) = true := by decide +kernel
theorem test_addix : runs (.addix 4 ⟨4, false⟩ 0xA7C) (demo (demoRegs [(4, 0x12346040), (5, 0x7F00)]))
    (ofTeam fun t => t.sval 4 == 0x12345ABC && t.sval 5 == 0x7F00) = true := by decide +kernel

/-- 05 R80: the edges of the divisions. -/
theorem test_division_by_zero :
    runs (.div 4 ⟨2, false⟩ ⟨3, false⟩ 0) (demo (demoRegs [(2, 0xFFFFFFF9)])) (ofTeam fun t => t.sval 4 == 1)
    && runs (.rem 4 ⟨2, false⟩ ⟨3, false⟩ 0) (demo (demoRegs [(2, 0xFFFFFFF9)])) (ofTeam fun t => t.sval 4 == 0xFFFFFFF9)
    && runs (.divu 4 ⟨2, false⟩ ⟨3, false⟩ 0) (demo (demoRegs [(2, 7)])) (ofTeam fun t => t.sval 4 == 0xFFFFFFFF)
    && runs (.remu 4 ⟨2, false⟩ ⟨3, false⟩ 0) (demo (demoRegs [(2, 7)])) (ofTeam fun t => t.sval 4 == 7) = true := by
  decide +kernel
theorem test_division_overflow :
    let s := demo (demoRegs [(2, 0x80000000), (3, 0xFFFFFFFF)])
    runs (.div 4 ⟨2, false⟩ ⟨3, false⟩ 0) s (ofTeam fun t => t.sval 4 == 0x80000000 && t.flags == 0)
    && runs (.rem 4 ⟨2, false⟩ ⟨3, false⟩ 0) s (ofTeam fun t => t.sval 4 == 0) = true := by decide +kernel

/-- 06, narrow formats at their edges: destination, RND, SAT, source in FP32, result, flags. -/
theorem test_convert_rows : ([
    (0x10, 0, false, 0x43EB0000, 0x7F, fOF ||| fNX), (0x10, 0, true, 0x43EB0000, 0x7E, fOF ||| fNX),
    (0x10, 1, false, 0x43EB0000, 0x7E, fNX), (0x1B, 0, false, 0x43EB0000, 0x7F, fNX),
    (0x1B, 0, false, 0x43FA0000, 0x7F, fOF ||| fNX), (0x0C, 0, false, 0x40A00000, 0x6, fNX),
    (0x0C, 4, false, 0x40A00000, 0x7, fNX), (0x0C, 0, false, 0x40E00000, 0x7, fOF ||| fNX),
    (0x0C, 0, false, 0xBE800000, 0x8, fUF ||| fNX), (0x13, 0, false, 0xBF800000, 0xFF, fNV),
    (0x13, 0, true, 0xBF800000, 0x00, fNV), (0x15, 0, false, 0x3F808000, 0x3F80, fNX), (0x15, 4, false, 0x3F808000, 0x3F81, fNX),
    (0x1C, 0, false, 0x3F400000, 0x7E, fNX), (0x1C, 0, false, 0xC1000000, 0x82, fNV), (0x06, 0, false, 0x43488000, 0xC8, fNV),
    (0x06, 0, true, 0x43488000, 0x7F, fNV)] : List (Nat × Nat × Bool × Nat × Nat × Nat)).all
    (fun r => convertElem 2 0x17 r.1 r.2.1 r.2.2.1 r.2.2.2.1 == ⟨r.2.2.2.2.1, r.2.2.2.2.2⟩) = true := by decide +kernel
theorem test_convert_ternary : convertElem 2 0x0A 0x02 0 false 5 = ⟨3, fNV⟩ ∧ convertElem 2 0x0A 0x02 0 true 5 = ⟨1, fNV⟩ := by
  decide +kernel

/-- 06: FP32 3.3 becomes FP8E4M3 3.25 (0x45) in field 1 of four; the other fields stay. -/
theorem test_vcvt_keeps_fields : runs (.vcvt 3 ⟨2, false⟩ 0x10 1)
    (demo (demoLane 0x17 [(2, [0x40533333]), (3, [0x7F7EC038])])) (ofTeam fun t => lanesOf t 3 1 == [0x7F7E4538] && t.flags == 1)
    = true := by decide +kernel

/-- 06: one lane of VFDIV under FP16. -/
theorem test_vfdiv_fp16 : runs (.vfdiv 2 ⟨0, false⟩ ⟨1, false⟩ 0) (demo (demoLane 0x14 [(0, [0x3C003C00]), (1, [0x3C004200, 0x3C003C00,
    0x3C003C00, 0x3C003C00])])) (ofTeam fun t => lanesOf t 2 1 == [0x3C003555] && t.flags.toNat &&& fNX != 0) = true := by
  decide +kernel

/-- 11 R164: the compare of a cancelling pair, over the producer's +infinity and 2.0. -/
theorem test_vfcmp_cancels : let t := { demoLane 0x17 [(2, [0x7F800000, 0x40000000]), (3, [0x40200000, 0x40200000])] with
      exmBits := 3, flags := 8, pc := 0x10004, producer := some ⟨0x10000, 2, false, 8⟩ }
    runs (.vfcmpK .lt 1 ⟨2, true⟩ ⟨3, false⟩) (demo t)
      (ofTeam fun t => maskWord (t.mbits 1) 0 == 2 && t.vregs[2] == .dead && t.flags == 0) = true := by decide +kernel
theorem test_vfcmp_plain : let t := { demoLane 0x17 [(2, [0x7F800000, 0x40000000]), (3, [0x40200000, 0x40200000])] with
      exmBits := 3, flags := 8, pc := 0x10004, producer := some ⟨0x10000, 2, false, 8⟩ }
    runs (.vfcmp .lt 1 ⟨2, true⟩ ⟨3, false⟩) (demo t)
      (ofTeam fun t => maskWord (t.mbits 1) 0 == 2 && t.vregs[2] == .dead && t.flags == 8) = true := by decide +kernel

/-- 05 R91, end: 1 and three times 2^-24, in four active lanes, under NVR 1 and NVR 2. -/
theorem test_vredadd_versions : let t := demoLane 0x17 [(4, [0x3F800000, 0x33800000, 0x33800000, 0x33800000])]
    runs (.vredadd 10 ⟨4, false⟩ 0) (demoIn { demoCtx with nvr := 1 } t) (ofTeam fun t => t.sval 10 == 0x3F800001)
    && runs (.vredadd 10 ⟨4, false⟩ 0) (demo t) (ofTeam fun t => t.sval 10 == 0x3F800002) = true := by decide +kernel

/-- 17: the planing of BF16 0xC030, and INT8 −83 as 06 plans it. -/
theorem test_plan_bf16 : (plan 0x15 0xC030).exp = 1 ∧ (plan 0x15 0xC030).digits = [-1, 0, -1, -1, 0, 0, 0, 0] := by decide +kernel
theorem test_plan_int8 : (plan 0x06 0xAD).digits = [-1, 0, 1, 0, 1, 1, 0, 1] := by decide +kernel

/-- 06: one K-group under NVR 2 against two groups of eight under NVR 1. -/
theorem test_group_sums : let one := FVal.fin false 1 0
    let small := FVal.fin false 1 (-12)
    (accumulate 0x17 0 false 0 (groupSum [(one, one), (small, small), (small, small)])).bits = 0x3F800001
    ∧ (accumulate 0x17 0 false (accumulate 0x17 0 false 0 (groupSum [(one, one), (small, small)])).bits
        (groupSum [(small, small)])).bits = 0x3F800000 := by decide +kernel

/-- 01: the tower of core index 0x16B; its vault; the hole at index 0x170. -/
theorem test_core_index : towerOf 0x16B = 2 ∧ pairOf 0x16B = 5 ∧ isCore 0x16B = true ∧ isCore 0x170 = false := by decide +kernel

/-- 13 R179, R182: a signed byte's extension at a displacement; a post-increment's new base. -/
theorem test_ld_signed : runs (.ldS8 6 ⟨8, false, .disp 1⟩) (demoMem [(0x11000, [0x7F, 0x80, 0x01, 0x02])] (demoRegs [(8, 0x11000)]))
    (ofTeam fun t => t.sval 6 == 0xFFFFFF80 && t.sval 8 == 0x11000) = true := by decide +kernel
theorem test_ld_increments : runs (.ldU16 6 ⟨8, false, .postInc 3⟩) (demoMem [(0x11000, [0x7F, 0x80, 0x01, 0x02])] (demoRegs [(8, 0x11000)]))
    (ofTeam fun t => t.sval 6 == 0x807F && t.sval 8 == 0x11006) = true := by decide +kernel

/-- 00 R10: a stored word lies least significant byte first. -/
theorem test_st_bytes : runs (.st 6 ⟨8, false, .disp 2⟩) (demo (demoRegs [(6, 0x11223344), (8, 0x11000)]))
    (fun s => s.mem.bytes 0x11008 4 == [0x44, 0x33, 0x22, 0x11]) = true := by decide +kernel

/-- 13 R180: a store of a word at an odd address takes trap MISALIGNED; the team begins to end, its table
out of reach. -/
theorem test_st_misaligned : runs (.st 6 ⟨8, false, .disp 0⟩) (demoIn { demoCtx with trapvec := 0xFFFFFF0000000000 } (demoRegs [(8, 0x11001)]))
    (ofTeam fun t => t.cond == .exiting && t.pc == 0x10000) = true := by decide +kernel

/-- 09 R136: MFFS gives the first lane. -/
theorem test_mffs : runs (.mffs 4 ⟨2, false⟩) (demo (demoTeam.setMWord 2 0 0x90)) (ofTeam fun t => t.sval 4 == 4) = true := by
  decide +kernel

/-- 03 R47, R49: joining a cohort that does not exist gives 1; the team leads it, alone. -/
theorem test_join : runs (.join 6 ⟨2, false⟩) (demo (demoRegs [(2, 0x142)])) (ofTeam fun t => t.sval 6 == 1 && t.cid0 == 0x142)
    = true := by decide +kernel
theorem test_srd_cid : let t := { demoTeam with cid0 := 0x142 }
    runs (.srd 6 0x013) { demo t with cohorts := [⟨1, 0, 0x142, [1]⟩] } (ofTeam fun t => t.sval 6 == 0x01010142) = true := by
  decide +kernel

/-- 13 R190, R192: a addition of −1 in memory. -/
theorem test_atom_red : let s := demoMem [(0x11000, [5, 0, 0, 0])] { demoRegs [(8, 0x11000), (6, 0xFFFFFFFF)] with mode := 0x0A }
    runs (.red .add .rlx 6 ⟨8, false⟩ 0) s (fun s => s.mem.bytes 0x11000 4 == [4, 0, 0, 0]) = true := by decide +kernel

/-- 09 R120, R121: a wide product's high word, and shifts by more than the width, which use the amount modulo 32. -/
theorem test_mulh : runs (.mulh 4 ⟨2, false⟩ ⟨3, false⟩) (demo (demoRegs [(2, 0xFFFFFFFF), (3, 2)])) (ofTeam fun t => t.sval 4 == 0xFFFFFFFF)
    && runs (.mulhu 4 ⟨2, false⟩ ⟨3, false⟩) (demo (demoRegs [(2, 0xFFFFFFFF), (3, 2)])) (ofTeam fun t => t.sval 4 == 1) = true := by
  decide +kernel

/-- 11, after R150: under INT8, four pairs of bytes; the carry of one never reaches the next. -/
theorem test_vadd_bytes : runs (.vadd 3 ⟨1, false⟩ ⟨2, false⟩) (demo (demoLane 0x06 [(1, [0x7F01FFFF]), (2, [0x01010101])]))
    (ofTeam fun t => lanesOf t 3 1 == [0x80020000]) = true := by decide +kernel

/-- 09 R126, R131: a return lands in the 4 GiB region of the RET itself. -/
theorem test_ret : runs .ret (demo { demoRegs [(63, 0x8000)] with pc := 0x7F0000100040 }) (ofTeam fun t => t.pc == 0x7F0000008000)
    = true := by decide +kernel

end
end

section
/-!
SUPPORT. Sparse tables of which entries are taken out or moved, and the memory that a page's move and a store leave.
-/
namespace Sys2Proof.Proofs
open Sys2Proof.Machine Sys2Proof.Laws

/-! ### Sparse tables: entries taken out, and entries moved -/

section Tables
variable {β : Type} {dflt : β} [DecidableEq β]

/-- Read after some keys are taken out. -/
theorem assoc_get_filter {m : List (Nat × β)} (p : Nat → Bool) (h : Assoc.wf dflt m = true) (k : Nat) :
    Assoc.get dflt (m.filter fun e => p e.1) k = if p k = true then Assoc.get dflt m k else dflt := by
  induction m with
  | nil => simp
  | cons e rest ih =>
    obtain ⟨a, v⟩ := e
    obtain ⟨-, hab, hr⟩ := assoc_wf_cons.mp h
    rw [List.filter_cons]
    by_cases hka : k = a
    · subst hka
      cases hp : p k
      · simp [ih hr, hp]
      · simp [Assoc.get]
    · by_cases hlt : k < a
      · have hb := assoc_get_of_above (dflt := dflt) hab (Nat.le_of_lt hlt)
        cases hp : p a <;> simp [Assoc.get, hka, hlt, ih hr, hb]
      · cases hp : p a <;> simp [Assoc.get, hka, hlt, ih hr]

/-- Read after the entries of one table are written to another, the key `lo + d` as `new + d`. -/
theorem assoc_get_foldl_moved {l m : List (Nat × β)} (hl : Assoc.wf dflt l = true) (hm : Assoc.wf dflt m = true) {lo : Nat}
    (new : Nat) (hlo : ∀ e ∈ l, lo ≤ e.1) (k : Nat) :
    Assoc.get dflt (l.foldl (fun m e => Assoc.set dflt m (e.1 - lo + new) e.2) m) k =
      if new ≤ k ∧ Assoc.get dflt l (k - new + lo) ≠ dflt then Assoc.get dflt l (k - new + lo) else Assoc.get dflt m k := by
  induction l generalizing m with
  | nil => simp
  | cons e rest ih =>
    obtain ⟨a, v⟩ := e
    obtain ⟨hv, hab, hr⟩ := assoc_wf_cons.mp hl
    have ha : lo ≤ a := hlo (a, v) (.head _)
    rw [List.foldl_cons, ih hr (assoc_wf_set hm _ _) fun e he => hlo e (.tail _ he), assoc_get_set hm]
    dsimp only
    by_cases hk : k = a - lo + new
    · have hka : k - new + lo = a := by omega
      have hb := assoc_get_of_above (dflt := dflt) hab (Nat.le_refl a)
      have hn : new ≤ k := by omega
      rw [hka, hb, if_neg (fun h => h.2 rfl), if_pos hk]
      simp [Assoc.get, hn, hv]
    · by_cases hn : new ≤ k
      · have hka : k - new + lo ≠ a := by omega
        by_cases hlt : k - new + lo < a
        · have hb := assoc_get_of_above (dflt := dflt) hab (Nat.le_of_lt hlt)
          simp [hk, hka, hlt, hb, Assoc.get]
        · simp [hk, hka, hlt, Assoc.get]
      · simp [hk, hn]

/-- Read after the entries from `old` on, `n` keys, take the place of those from `new` on. -/
theorem assoc_get_moved {m : List (Nat × β)} (hm : Assoc.wf dflt m = true) (p : Nat → Bool) (old new n k : Nat)
    (hp : ∀ a, p a = true ↔ old ≤ a ∧ a < old + n) :
    Assoc.get dflt ((m.filter fun e => p e.1).foldl (fun l e => Assoc.set dflt l (e.1 - old + new) e.2) (Assoc.erase new n m)) k =
      if new ≤ k ∧ k < new + n then Assoc.get dflt m (k - new + old) else Assoc.get dflt m k := by
  rw [assoc_get_foldl_moved (assoc_wf_filter _ hm) (assoc_wf_erase hm _ _) new
    (fun e he => ((hp e.1).1 (List.mem_filter.mp he).2).1), assoc_get_filter p hm, Assoc.erase,
    assoc_get_filter (fun a => !(decide (new ≤ a) && decide (a < new + n))) hm]
  by_cases hk : new ≤ k ∧ k < new + n
  · have h1 : p (k - new + old) = true := (hp _).2 ⟨by omega, by omega⟩
    by_cases hz : Assoc.get dflt m (k - new + old) = dflt <;> simp [h1, hk, hz]
  · have h1 : new ≤ k → p (k - new + old) = false := fun h => by
      rw [← Bool.not_eq_true, hp]; omega
    rw [if_neg (fun h => h.2 (if_neg (Bool.eq_false_iff.mp (h1 h.1)))), if_neg hk, if_pos (by simp; omega)]

end Tables

/-! ### The move of a page (13 R196) -/

theorem byte_movePage {m : Memory} (h : m.wf = true) (old new size a : Nat) :
    (m.movePage old new size).byte a = if new ≤ a ∧ a < new + size then m.byte (a - new + old) else m.byte a := by
  unfold Memory.movePage
  split
  next he =>
    subst he
    split
    · rw [show a - old + old = a by omega]
    · rfl
  · exact assoc_get_moved (memory_wf_iff.mp h).1 (fun e => old ≤ e && e < old + size) old new size a (by simp)

theorem wordBad_movePage {m : Memory} (h : m.wf = true) {old new size : Nat} (ho : old % 4 = 0) (hn : new % 4 = 0)
    (hs : size % 4 = 0) (a : Nat) : (m.movePage old new size).wordBad a =
      if new ≤ a ∧ a < new + size then m.wordBad (a - new + old) else m.wordBad a := by
  unfold Memory.movePage
  split
  next he =>
    subst he
    split
    · rw [show a - old + old = a by omega]
    · rfl
  · refine (assoc_get_moved (memory_wf_iff.mp h).2.1 (fun e => old ≤ 4 * e && 4 * e < old + size) (old / 4) (new / 4)
      (size / 4) (a / 4) (by simp; omega)).trans ?_
    have hin : new / 4 ≤ a / 4 ∧ a / 4 < new / 4 + size / 4 ↔ new ≤ a ∧ a < new + size := by omega
    simp only [hin]
    refine if_ctx_congr Iff.rfl (fun hc => ?_) fun _ => rfl
    rw [Memory.wordBad, show (a - new + old) / 4 = a / 4 - new / 4 + old / 4 by omega]

theorem bytes_store_same {m : Memory} (h : m.wf = true) (loc : Nat) (bs : List Byte) :
    (m.store loc bs).bytes loc bs.length = bs := by
  refine List.ext_getElem (by simp [Memory.bytes, Assoc.getAll]) fun i hi hi' => ?_
  have hb := byte_store h loc (loc + i) bs
  rw [if_pos ⟨by omega, by omega⟩, Nat.add_sub_cancel_left, List.getD_eq_getElem _ _ hi'] at hb
  simp only [Memory.bytes, Assoc.getAll, List.getElem_map, List.getElem_range]
  exact hb

theorem wordBad_foldl_setWordBad_other {a : Nat} (l : List Nat) {m : Memory} (h : m.wf = true)
    (hl : ∀ w ∈ l, a / 4 ≠ w / 4) : (l.foldl (fun m w => m.setWordBad w false) m).wordBad a = m.wordBad a := by
  induction l generalizing m with
  | nil => rfl
  | cons w l ih =>
    rw [List.foldl_cons, ih (wf_setWordBad h _ _) fun x hx => hl x (.tail _ hx), wordBad_setWordBad h,
      if_neg (hl w (.head _))]

/-- A store leaves the poison of words alone of which it writes no byte. -/
theorem wordBad_store_other {m : Memory} (h : m.wf = true) {loc a : Nat} (bs : List Byte)
    (ha : a < loc ∨ loc + bs.length ≤ a) : (m.store loc bs).wordBad a = m.wordBad a := by
  refine wordBad_foldl_setWordBad_other _ (wf_cells h (assoc_wf_setAll (memory_wf_iff.mp h).1 _ _)) fun w hw => ?_
  obtain ⟨i, -, hi⟩ := List.mem_filterMap.mp hw
  dsimp only at hi
  split at hi
  · cases hi; omega
  · cases hi

end Sys2Proof.Proofs
end

section
/-!
SUPPORT. Address translation (21 R305 to R308, R320; 01 R29, R30), and the page that translated an address (R309).
-/
namespace Sys2Proof.Proofs
open Sys2Proof.Machine Sys2Proof.Laws

/-! ### Bits and fields of an entry -/

theorem bit_eq_testBit (n x : Nat) : bit n x = x.testBit n := by
  rw [Nat.testBit_eq_decide_div_mod_eq]; rfl

/-- A field that lies below bit `k` reads no bit from `k` on. -/
theorem fld_mod_two_pow {lo len k : Nat} (h : lo + len ≤ k) (n : Nat) : fld lo len (n % 2 ^ k) = fld lo len n := by
  refine Nat.eq_of_testBit_eq fun j => ?_
  simp only [fld, Nat.testBit_mod_two_pow, Nat.testBit_div_two_pow]
  by_cases hj : j < len
  · have : j + lo < k := by omega
    simp [hj, this]
  · simp [hj]

/-! ### The place that an entry names (21 R306, R307) -/

/-- Only the low twelve bits of an entry say what its page is. -/
theorem placeOf_mod_attr (attr a : Nat) : placeOf (attr % 2 ^ 12) a = placeOf attr a := by
  have h6 : bit 6 (attr % 2 ^ 12) = bit 6 attr := by
    rw [bit_eq_testBit, bit_eq_testBit, Nat.testBit_mod_two_pow]; rfl
  simp only [placeOf, h6, fld_mod_two_pow (show 1 + 2 ≤ 12 by decide), fld_mod_two_pow (show 8 + 2 ≤ 12 by decide),
    fld_mod_two_pow (show 10 + 2 ≤ 12 by decide)]

/-- Bits 11..0 that R307 gives no meaning: a reserved kind or memory, or a coherent page of memory other than the
host's. -/
def MalformedAttr (attr : Nat) : Prop :=
  attr / 2 % 4 = 3 ∨ attr / 2 ^ 8 % 4 = 3 ∨ (attr.testBit 6 = true ∧ attr / 2 ^ 8 % 4 ≠ 1)

/-- The physical address lies in the control aperture of the device. -/
def NamesAperture (attr phys : Nat) : Prop :=
  attr / 2 ^ 8 % 4 = 0 ∧ 0xFFF0000000000 ≤ phys % 2 ^ 52 ∧ phys % 2 ^ 52 < 0xFFF0001000000

/-- The kind of a page that a well-formed entry names. -/
def kindOf (n : Nat) : PageKind := if n = 0 then .rc else if n = 1 then .so else .uo

/-- The place `p` has the kind and the memory that bits 11..0 name, at the physical address. -/
structure Names (attr phys : Nat) (p : Place) : Prop where
  kind : p.kind = kindOf (attr / 2 % 4)
  aperture : NamesAperture attr phys → p.region = .aperture ∧ p.loc = phys % 2 ^ 52
  device : attr / 2 ^ 8 % 4 = 0 → ¬ NamesAperture attr phys →
    p.region = .device (attr / 2 ^ 10 % 4) ∧ p.loc = phys % 2 ^ 52 % 2 ^ 39
  host : attr / 2 ^ 8 % 4 = 1 →
    p.region = (if attr.testBit 6 = true then .hostCoherent else .hostLink) ∧ p.loc = 2 ^ 52 + phys % 2 ^ 52
  peer : attr / 2 ^ 8 % 4 = 2 → p.region = .peer ∧ p.loc = 2 * 2 ^ 52 + phys % 2 ^ 52

/-- The place of a page of kind `k` at address `a` of the memory that bits 11..0 name. -/
def memoryPlace (k : PageKind) (attr a : Nat) : Option Place :=
  if fld 8 2 attr = 1 then some ⟨hostLoc a, k, if bit 6 attr then .hostCoherent else .hostLink⟩
  else if fld 8 2 attr = 3 ∨ bit 6 attr = true then none
  else if fld 8 2 attr = 2 then some ⟨peerLoc a, k, .peer⟩
  else if inAperture a then some ⟨a, k, .aperture⟩
  else some ⟨physical a, k, .device (fld 10 2 attr)⟩

/-- A field of two bits has four values. -/
theorem fld_two_cases (lo n : Nat) : fld lo 2 n = 0 ∨ fld lo 2 n = 1 ∨ fld lo 2 n = 2 ∨ fld lo 2 n = 3 := by
  have : fld lo 2 n < 4 := Nat.mod_lt _ (by decide)
  omega

/-- `placeOf`, with its two matches as conditions on the fields. -/
theorem placeOf_eq (attr phys : Nat) : placeOf attr phys =
    if fld 1 2 attr = 3 then none else memoryPlace (kindOf (fld 1 2 attr)) attr (phys % spaceSize) := by
  rcases fld_two_cases 1 attr with hk | hk | hk | hk <;> rcases fld_two_cases 8 attr with hm | hm | hm | hm <;>
    cases h6 : bit 6 attr <;> simp [placeOf, memoryPlace, kindOf, hk, hm, h6]

theorem inAperture_iff (a : Nat) : inAperture a = true ↔ 0xFFF0000000000 ≤ a ∧ a < 0xFFF0001000000 := by
  rw [inAperture, Bool.and_eq_true, decide_eq_true_iff, decide_eq_true_iff]; rfl

theorem namesAperture_iff {attr phys : Nat} (hm : fld 8 2 attr = 0) :
    NamesAperture attr phys ↔ inAperture (phys % spaceSize) = true := by
  rw [inAperture_iff]
  exact ⟨fun h => h.2, fun h => ⟨hm, h⟩⟩

theorem placeOf_malformed {attr : Nat} (h : MalformedAttr attr) (phys : Nat) : placeOf attr phys = none := by
  rw [placeOf_eq]
  by_cases hk : fld 1 2 attr = 3
  · rw [if_pos hk]
  · have hm : fld 8 2 attr ≠ 1 ∧ (fld 8 2 attr = 3 ∨ bit 6 attr = true) := by
      rw [bit_eq_testBit]
      rcases h with h | h | ⟨h6, h⟩
      · exact absurd h hk
      · exact ⟨fun h1 => absurd (h.symm.trans h1) (by decide), .inl h⟩
      · exact ⟨h, .inr h6⟩
    rw [if_neg hk, memoryPlace, if_neg hm.1, if_pos hm.2]

/-- A well-formed entry names one place. -/
theorem placeOf_wellFormed {attr : Nat} (h : ¬ MalformedAttr attr) (phys : Nat) :
    ∃ p, placeOf attr phys = some p ∧ Names attr phys p := by
  have hk : fld 1 2 attr ≠ 3 := fun e => h (.inl e)
  have hm3 : fld 8 2 attr ≠ 3 := fun e => h (.inr (.inl e))
  have h6 : fld 8 2 attr ≠ 1 → bit 6 attr = false := fun e => by
    rw [bit_eq_testBit, ← Bool.not_eq_true]; exact fun e6 => h (.inr (.inr ⟨e6, e⟩))
  rw [placeOf_eq, if_neg hk, memoryPlace]
  have other {n : Nat} (hm : fld 8 2 attr = n) (n' : Nat) (hn : n ≠ n') : ¬ attr / 2 ^ 8 % 4 = n' :=
    fun e => hn (hm.symm.trans e)
  rcases fld_two_cases 8 attr with hm | hm | hm | hm
  · rw [if_neg (by omega), if_neg (by simp [hm, h6]), if_neg (by omega)]
    by_cases ha : inAperture (phys % spaceSize) = true
    · rw [if_pos ha]
      exact ⟨_, rfl, rfl, fun _ => ⟨rfl, rfl⟩, fun _ hn => absurd ((namesAperture_iff hm).2 ha) hn,
        fun e => absurd e (other hm 1 (by decide)), fun e => absurd e (other hm 2 (by decide))⟩
    · rw [if_neg ha]
      exact ⟨_, rfl, rfl, fun hn => absurd ((namesAperture_iff hm).1 hn) ha, fun _ _ => ⟨rfl, rfl⟩,
        fun e => absurd e (other hm 1 (by decide)), fun e => absurd e (other hm 2 (by decide))⟩
  · rw [if_pos hm]
    exact ⟨_, rfl, rfl, fun hn => absurd hn.1 (other hm 0 (by decide)), fun e => absurd e (other hm 0 (by decide)),
      fun _ => ⟨by rw [bit_eq_testBit], rfl⟩, fun e => absurd e (other hm 2 (by decide))⟩
  · rw [if_neg (by omega), if_neg (by simp [hm, h6]), if_pos hm]
    exact ⟨_, rfl, rfl, fun hn => absurd hn.1 (other hm 0 (by decide)), fun e => absurd e (other hm 0 (by decide)),
      fun e => absurd e (other hm 1 (by decide)), fun _ => ⟨rfl, rfl⟩⟩
  · exact absurd hm hm3

/-- A place of device memory comes of an entry of device memory, and lies at the home that its HOME names. -/
theorem Names.device_of_region {attr phys : Nat} {p : Place} (h : Names attr phys p) (hw : ¬ MalformedAttr attr) {tower : Nat}
    (hr : p.region = .device tower) :
    attr / 2 ^ 8 % 4 = 0 ∧ ¬ NamesAperture attr phys ∧ attr / 2 ^ 10 % 4 = tower := by
  have hm : attr / 2 ^ 8 % 4 ≠ 3 := fun e => hw (.inr (.inl e))
  rcases fld_two_cases 8 attr with h0 | h1 | h2 | h3
  · by_cases ha : NamesAperture attr phys
    · exact absurd ((h.aperture ha).1.symm.trans hr) (by simp)
    · exact ⟨h0, ha, Region.device.inj ((h.device h0 ha).1.symm.trans hr)⟩
  · refine absurd ((h.host h1).1.symm.trans hr) ?_
    split <;> simp
  · exact absurd ((h.peer h2).1.symm.trans hr) (by simp)
  · exact absurd h3 hm

/-! ### The checks of an access (21 R308, R320) -/

/-- The checks of U, W and X are passed. -/
structure Permitted (c : Context) (i : Intent) (attr : Nat) : Prop where
  user : attr.testBit 5 = true ∨ c.priv = true
  write : i = .write → attr.testBit 3 = true
  fetch : i = .fetch → attr.testBit 4 = true

section Permit
variable {s : State} {c : Context} {i : Intent} {attr : Nat} (va : Addr) (p : Place)

/-- The check of U passes. -/
theorem userCheck_passed (hu : attr.testBit 5 = true ∨ c.priv = true) : (!attr.testBit 5 && !c.priv) = false := by
  rcases hu with hu | hu <;> simp [hu]

theorem permit_denies_user (h : ¬ (attr.testBit 5 = true ∨ c.priv = true)) :
    permit s c va i attr p = .error (.at .permission va 2) := by
  rw [not_or, Bool.not_eq_true, Bool.not_eq_true] at h
  simp [permit, bit_eq_testBit, h]

theorem permit_denies_write (hu : attr.testBit 5 = true ∨ c.priv = true) (hi : i = .write) (h : attr.testBit 3 = false) :
    permit s c va i attr p = .error (.at .permission va 0) := by
  simp [permit, bit_eq_testBit, userCheck_passed hu, hi, h]

theorem permit_denies_fetch (hu : attr.testBit 5 = true ∨ c.priv = true) (hi : i = .fetch) (h : attr.testBit 4 = false) :
    permit s c va i attr p = .error (.at .permission va 1) := by
  simp [permit, bit_eq_testBit, userCheck_passed hu, hi, h]

/-- The check of the home's die, which follows those of U, W and X. -/
def dieChecked (s : State) (p : Place) : Except Trap Place :=
  match p.region with
  | .device tower => if s.homeLost tower then .error (.at .dieLost (.ofNat 64 (1 + tower)) 0) else .ok p
  | .hostCoherent | .hostLink | .peer | .vault _ | .localStore | .aperture => .ok p

theorem permit_of_permitted (h : Permitted c i attr) : permit s c va i attr p = dieChecked s p := by
  unfold permit
  rw [bit_eq_testBit, bit_eq_testBit, bit_eq_testBit, userCheck_passed h.user, if_neg (by decide), if_neg, if_neg]
  · rfl
  · simpa using h.fetch
  · simpa using h.write

theorem permit_lost (h : Permitted c i attr) {tower : Nat} (hr : p.region = .device tower) (hl : s.homeLost tower = true) :
    permit s c va i attr p = .error (.at .dieLost (.ofNat 64 (1 + tower)) 0) := by
  rw [permit_of_permitted va p h, dieChecked, hr]
  exact if_pos hl

theorem permit_ok (h : Permitted c i attr) (hl : ∀ tower, p.region = .device tower → s.homeLost tower = false) :
    permit s c va i attr p = .ok p := by
  rw [permit_of_permitted va p h, dieChecked]
  split
  next tower hr => exact if_neg (Bool.eq_false_iff.mp (hl tower hr))
  all_goals rfl

end Permit

/-! ### What an entry or a range answers -/

section Granted
variable {s : State} {c : Context} {va : Addr} {i : Intent} {attr phys : Nat}

theorem granted_malformed (h : MalformedAttr attr) : granted s c va i attr phys (.error (.at .translation va 1)) :=
  ⟨fun _ => rfl, fun hw => absurd h hw, fun hw => absurd h hw, fun hw => absurd h hw, fun hw => absurd h hw⟩

theorem granted_permit (hw : ¬ MalformedAttr attr) {p : Place} (hp : Names attr phys p) :
    granted s c va i attr phys (permit s c va i attr p) := by
  refine ⟨fun h => absurd h hw, fun _ hu => permit_denies_user va p hu, fun _ hu hi h => permit_denies_write va p hu hi h,
    fun _ hu hi h => permit_denies_fetch va p hu hi h, fun _ hu hwr hf => ⟨?_, fun hl => ?_⟩⟩
  · rintro ⟨hm, ha, hl⟩
    exact permit_lost va p ⟨hu, hwr, hf⟩ (hp.device hm ha).1 hl
  · refine ⟨p, permit_ok va p ⟨hu, hwr, hf⟩ fun t ht => ?_, ?_, ?_, ?_, hp.aperture, hp.device, hp.host, hp.peer⟩
    · obtain ⟨hm, ha, rfl⟩ := hp.device_of_region hw ht
      exact Bool.eq_false_iff.mpr fun e => hl ⟨hm, ha, e⟩
    all_goals
      intro hk
      rw [hp.kind, hk]
      rfl

theorem granted_of_placeOf_none (h : placeOf (attr % 2 ^ 12) phys = none) :
    granted s c va i attr phys (.error (.at .translation va 1)) := by
  rw [placeOf_mod_attr] at h
  refine granted_malformed (Classical.byContradiction fun hw => ?_)
  obtain ⟨p, hp, -⟩ := placeOf_wellFormed hw phys
  rw [hp] at h; cases h

theorem granted_of_placeOf_some {p : Place} (h : placeOf (attr % 2 ^ 12) phys = some p) :
    granted s c va i attr phys (permit s c va i attr p) := by
  rw [placeOf_mod_attr] at h
  have hw : ¬ MalformedAttr attr := fun hm => by rw [placeOf_malformed hm] at h; cases h
  obtain ⟨q, hq, hn⟩ := placeOf_wellFormed hw phys
  rw [h] at hq
  cases hq
  exact granted_permit hw hn

end Granted

/-! ### The walk (21 R306) -/

/-- A leaf entry without reserved bits, whose page of `2 ^ bits` bytes is aligned. -/
def LeafFormed (bits pte : Nat) : Prop := fld 12 4 pte = 0 ∧ fld 52 8 pte = 0 ∧ leafBase pte % 2 ^ bits = 0

theorem not_leafFormed_iff (bits pte : Nat) :
    ¬ LeafFormed bits pte ↔ (fld 12 4 pte != 0 || fld 52 8 pte != 0 || fld 16 36 pte * 2 ^ 16 % 2 ^ bits != 0) = true := by
  simp only [LeafFormed, leafBase, Bool.or_eq_true, bne_iff_ne, not_and_or, or_assoc, ne_eq]

section Walk
variable (s : State) (c : Context) (va : Addr) (i : Intent)

theorem leafPlace_granted {pte bits : Nat} (h : LeafFormed bits pte) :
    granted s c va i pte (leafBase pte + va.toNat % 2 ^ bits) (leafPlace s c va i pte bits) := by
  unfold leafPlace
  rw [if_neg fun h' => (not_leafFormed_iff bits pte).2 h' h]
  split
  next hp => exact granted_of_placeOf_none hp
  next hp => exact granted_of_placeOf_some hp

theorem leafPlace_malformed {pte bits : Nat} (h : ¬ LeafFormed bits pte) :
    leafPlace s c va i pte bits = .error (.at .translation va 1) := by
  unfold leafPlace
  rw [if_pos ((not_leafFormed_iff bits pte).1 h)]

theorem not_bnot {b : Bool} (h : b = true) : ¬ (!b) = true := by rw [h]; decide

/-- The entry of a level that a walk reads for an address. -/
def walkEntry (s : State) (table lo width : Nat) (va : Addr) : Nat :=
  s.mem.nat (physical (table + 8 * fld lo width va.toNat)) 8

variable {s va} {table lo width : Nat} {leaves pointers : Bool} {rest : List (Nat × Nat × Bool × Bool)}

theorem walk_absent (h0 : (walkEntry s table lo width va).testBit 0 = false) :
    walk s c va i table ((lo, width, leaves, pointers) :: rest) = .error (.at .translation va 0) := by
  rw [walk, bit_eq_testBit]
  exact if_pos (congrArg (!·) h0)

theorem walk_leaf (h0 : (walkEntry s table lo width va).testBit 0 = true)
    (h7 : (walkEntry s table lo width va).testBit 7 = true) :
    walk s c va i table ((lo, width, leaves, pointers) :: rest) =
      if leaves = true then leafPlace s c va i (walkEntry s table lo width va) lo else .error (.at .translation va 1) := by
  rw [walk, bit_eq_testBit, bit_eq_testBit]
  exact (if_neg (not_bnot h0)).trans (if_pos h7)

theorem walk_pointer (h0 : (walkEntry s table lo width va).testBit 0 = true)
    (h7 : (walkEntry s table lo width va).testBit 7 = false) :
    walk s c va i table ((lo, width, leaves, pointers) :: rest) =
      if pointers = false ∨ fld 52 8 (walkEntry s table lo width va) ≠ 0 then .error (.at .translation va 1)
      else walk s c va i (fld 12 40 (walkEntry s table lo width va) * 2 ^ 12) rest := by
  rw [walk, bit_eq_testBit, bit_eq_testBit]
  refine (if_neg (not_bnot h0)).trans ((if_neg (Bool.eq_false_iff.mp h7)).trans (if_congr ?_ rfl rfl))
  rw [Bool.or_eq_true, bne_iff_ne, Bool.not_eq_true']
  rfl

/-- One level of the walk answers as `walked` says, the next level being the rest of the walk. -/
theorem walked_walk {next : Nat → Except Trap Place} (hn : pointers = true → ∀ t, next t = walk s c va i t rest) :
    walked s c va i table lo width leaves pointers next (walk s c va i table ((lo, width, leaves, pointers) :: rest)) := by
  refine ⟨walk_absent c i, fun h0 h7 => ?_, fun h0 h7 => ?_⟩
  · rw [walk_leaf c i h0 h7]
    refine ⟨?_, fun hl hw => ?_⟩
    · rintro (hl | hw)
      · exact if_neg (by simp [hl])
      · split
        · exact leafPlace_malformed s c va i hw
        · rfl
    · rw [if_pos hl]
      exact leafPlace_granted s c va i hw
  · rw [walk_pointer c i h0 h7]
    exact ⟨fun h => if_pos h, fun hp h8 => (if_neg (not_or.mpr ⟨by simp [hp], not_not.mpr h8⟩)).trans (hn hp _).symm⟩

theorem leafBits_leaf (h0 : (walkEntry s table lo width va).testBit 0 = true)
    (h7 : (walkEntry s table lo width va).testBit 7 = true) :
    leafBits s.mem va table ((lo, width, leaves, pointers) :: rest) = some lo := by
  rw [leafBits, bit_eq_testBit, bit_eq_testBit]
  exact (if_neg (not_bnot h0)).trans (if_pos h7)

theorem leafBits_pointer (h0 : (walkEntry s table lo width va).testBit 0 = true)
    (h7 : (walkEntry s table lo width va).testBit 7 = false) :
    leafBits s.mem va table ((lo, width, leaves, pointers) :: rest) =
      leafBits s.mem va (fld 12 40 (walkEntry s table lo width va) * 2 ^ 12) rest := by
  rw [leafBits, bit_eq_testBit, bit_eq_testBit]
  exact (if_neg (not_bnot h0)).trans (if_neg (Bool.eq_false_iff.mp h7))

/-- A walk that answers a place has found a leaf at a level that may hold one. -/
theorem leafBits_of_walk {p : Place} (ls : List (Nat × Nat × Bool × Bool)) (table : Nat)
    (h : walk s c va i table ls = .ok p) : ∃ l ∈ ls, l.2.2.1 = true ∧ leafBits s.mem va table ls = some l.1 := by
  induction ls generalizing table with
  | nil => cases h
  | cons l rest ih =>
    obtain ⟨lo, width, leaves, pointers⟩ := l
    cases h0 : (walkEntry s table lo width va).testBit 0
    · rw [walk_absent c i h0] at h; cases h
    cases h7 : (walkEntry s table lo width va).testBit 7
    · rw [walk_pointer c i h0 h7] at h
      rw [leafBits_pointer h0 h7]
      split at h
      · cases h
      · obtain ⟨l, hl, hlb⟩ := ih _ h
        exact ⟨l, .tail _ hl, hlb⟩
    · rw [walk_leaf c i h0 h7] at h
      rw [leafBits_leaf h0 h7]
      split at h
      next hleaf => exact ⟨_, .head _, hleaf, rfl⟩
      · cases h

end Walk

/-! ### Ranges (21 R305, R310) -/

/-- In a list by rising numbers, the lowest-numbered entry with a property is the first that has it. -/
theorem find?_lowest {β : Type} {p : Nat × β → Bool} {l : List (Nat × β)} {e : Nat × β} (hs : l.Pairwise (·.1 < ·.1))
    (he : e ∈ l) (hp : p e = true) (hlow : ∀ x ∈ l, p x = true → e.1 ≤ x.1) : l.find? p = some e := by
  induction l with
  | nil => cases he
  | cons x rest ih =>
    obtain ⟨hx, hrest⟩ := List.pairwise_cons.mp hs
    rcases List.mem_cons.mp he with rfl | hin
    · exact List.find?_cons_of_pos hp
    · have hxe : x.1 < e.1 := hx e hin
      have hnot : ¬ p x = true := fun h => absurd (hlow x (.head _) h) (by omega)
      rw [List.find?_cons_of_neg hnot]
      exact ih hrest hin fun y hy => hlow y (.tail _ hy)

theorem range_holds_iff (g : Range) (va : Addr) :
    g.holds va = true ↔ g.vlen ≠ 0 ∧ g.vstart ≤ va ∧ va.toNat < g.vstart.toNat + g.vlen.toNat := by
  simp only [Range.holds, Bool.and_eq_true, bne_iff_ne, decide_eq_true_eq, BitVec.le_def, and_assoc]

/-! ### Translation (21 R305) -/

section Translate
variable {s : State} {c : Context} {core : Nat} {va : Addr} {i : Intent}

theorem canonical_iff (va : Addr) : canonical va = true ↔ va.toNat < 2 ^ 56 ∨ 2 ^ 64 - 2 ^ 56 ≤ va.toNat := by
  have := va.isLt
  rw [canonical, Bool.or_eq_true, beq_iff_eq, beq_iff_eq]
  omega

theorem translate_not_canonical (h : canonical va = false) : translate s c core va i = .error (.at .translation va 1) := by
  simp [Machine.translate, h]

theorem translate_window (h : vaultWindow ≤ va.toNat) : translate s c core va i = windowPlace s c core va i := by
  have hc : canonical va = true := (canonical_iff va).2 (.inr (le_trans (by decide) h))
  simp [Machine.translate, hc, h]

theorem translate_range (hc : canonical va = true) (hv : va.toNat < vaultWindow) {n : Nat} {g : Range}
    (hg : c.ranges.find? (fun r => r.2.holds va) = some (n, g)) :
    granted s c va i g.attr.toNat (g.pbase.toNat + (va.toNat - g.vstart.toNat)) (translate s c core va i) := by
  unfold Machine.translate
  rw [if_neg (by simp [hc]), if_neg (by omega), hg]
  dsimp only
  split
  next hp => exact granted_of_placeOf_none hp
  next hp => exact granted_of_placeOf_some hp

theorem translate_walk (hc : canonical va = true) (hv : va.toNat < vaultWindow) (hg : ∀ e ∈ c.ranges, e.2.holds va = false) :
    translate s c core va i = walk s c va i c.ptroot.toNat levels := by
  have hn : c.ranges.find? (fun r => r.2.holds va) = none := List.find?_eq_none.mpr fun e he => by simp [hg e he]
  unfold Machine.translate
  rw [if_neg (by simp [hc]), if_neg (by omega), hn]

/-- The four levels of the walk (21 R306). -/
theorem translate_walked (hc : canonical va = true) (hv : va.toNat < vaultWindow) (hg : ∀ e ∈ c.ranges, e.2.holds va = false) :
    ∃ l1 l2 l3 : Nat → Except Trap Place,
      walked s c va i c.ptroot.toNat 39 18 false true l1 (translate s c core va i)
      ∧ (∀ table, walked s c va i table 30 9 true true l2 (l1 table))
      ∧ (∀ table, walked s c va i table 21 9 true true l3 (l2 table))
      ∧ ∀ table, walked s c va i table 16 5 true false l3 (l3 table) := by
  refine ⟨fun t => walk s c va i t (levels.drop 1), fun t => walk s c va i t (levels.drop 2),
    fun t => walk s c va i t (levels.drop 3), ?_, fun t => walked_walk c i fun _ _ => rfl,
    fun t => walked_walk c i fun _ _ => rfl, fun t => walked_walk c i fun h => nomatch h⟩
  rw [translate_walk hc hv hg]
  exact walked_walk c i fun _ _ => rfl

/-! ### The windows (01 R29, R30; 19 R291) -/

theorem translate_localWindow (h : localWindow ≤ va.toNat) :
    let o := va.toNat - localWindow
    let r := translate s c core va i
    (2 ^ 20 ≤ o → r = .error (.at .translation va 2))
    ∧ (o < 2 ^ 20 → i = .fetch → r = .error (.at .permission va 1))
    ∧ (o < 2 ^ 20 → i ≠ .fetch → c.claim.getLsbD 0 = false → r = .error (.at .permission va 3))
    ∧ (o < 2 ^ 20 → i ≠ .fetch → c.claim.getLsbD 0 = true → r = .ok ⟨localLoc c.ctxid core o, .rc, .localStore⟩) := by
  intro o r
  have hr : r = if 2 ^ 20 ≤ o then .error (.at .translation va 2)
      else if i = .fetch then .error (.at .permission va 1)
      else if (!c.claim.getLsbD 0) = true then .error (.at .permission va 3)
      else .ok ⟨localLoc c.ctxid core o, .rc, .localStore⟩ := by
    have hv : vaultWindow ≤ va.toNat := le_trans (by decide) h
    exact (translate_window hv).trans (if_pos h)
  refine ⟨fun ho => ?_, fun ho hi => ?_, fun ho hi hc => ?_, fun ho hi hc => ?_⟩
  · rw [hr, if_pos ho]
  · rw [hr, if_neg (Nat.not_le.mpr ho), if_pos hi]
  · rw [hr, if_neg (Nat.not_le.mpr ho), if_neg hi, hc, if_pos (by decide)]
  · rw [hr, if_neg (Nat.not_le.mpr ho), if_neg hi, hc, if_neg (by decide)]

/-- A vault of the device: its index names a core, and the record does not say that it is absent. -/
def VaultThere (s : State) (k : Nat) : Prop :=
  k < 512 ∧ k / 8 % 8 < 6 ∧ s.dev.flash.vaultAbsent.getLsbD (recordBit k) = false

theorem isCore_iff (k : Nat) : isCore k = true ↔ k < 512 ∧ k / 8 % 8 < 6 := by
  rw [isCore, Bool.and_eq_true, decide_eq_true_iff, decide_eq_true_iff]

theorem translate_vaultWindow_absent (hv : vaultWindow ≤ va.toNat) (hl : va.toNat < localWindow)
    (h : ¬ VaultThere s ((va.toNat - vaultWindow) / 2 ^ 22)) : translate s c core va i = .error (.at .translation va 2) := by
  rw [translate_window hv, windowPlace, if_neg (by omega)]
  change (if (!isCore ((va.toNat - vaultWindow) / 2 ^ 22)) = true then _ else if _ then _ else _) = _
  by_cases hk : isCore ((va.toNat - vaultWindow) / 2 ^ 22) = true
  · obtain ⟨h1, h2⟩ := (isCore_iff _).1 hk
    rw [if_neg (not_bnot hk), if_pos]
    rw [← Bool.not_eq_false]
    exact fun h3 => h ⟨h1, h2, h3⟩
  · rw [if_pos (by rw [Bool.eq_false_iff.mpr hk]; rfl)]

theorem translate_vaultWindow_there (hv : vaultWindow ≤ va.toNat) (hl : va.toNat < localWindow) {k : Nat}
    (hk : (va.toNat - vaultWindow) / 2 ^ 22 = k) (h : VaultThere s k) :
    translate s c core va i = if i = .fetch then .error (.at .permission va 1)
      else if s.homeLost (towerOf k) = true then .error (.at .dieLost (.ofNat 64 (1 + towerOf k)) 0)
      else .ok ⟨vaultLoc k ((va.toNat - vaultWindow) % 2 ^ 22), .rc, .vault k⟩ := by
  subst hk
  obtain ⟨hk, hc, ha⟩ := h
  refine (translate_window hv).trans ((if_neg (Nat.not_le.mpr hl)).trans ((if_neg ?_).trans (if_neg ?_)))
  · exact not_bnot ((isCore_iff _).2 ⟨hk, hc⟩)
  · exact Bool.eq_false_iff.mp ha

theorem translate_vaultWindow (hv : vaultWindow ≤ va.toNat) (hl : va.toNat < localWindow) :
    let o := va.toNat - vaultWindow
    let k := o / 2 ^ 22
    let r := translate s c core va i
    (¬ VaultThere s k → r = .error (.at .translation va 2))
    ∧ (VaultThere s k → i = .fetch → r = .error (.at .permission va 1))
    ∧ (VaultThere s k → i ≠ .fetch → s.homeLost (towerOf k) = true → r = .error (.at .dieLost (.ofNat 64 (1 + towerOf k)) 0))
    ∧ (VaultThere s k → i ≠ .fetch → s.homeLost (towerOf k) = false →
      r = .ok ⟨vaultLoc k (o % 2 ^ 22), .rc, .vault k⟩) := by
  intro o k r
  have hr (h : VaultThere s k) := translate_vaultWindow_there (c := c) (core := core) (i := i) hv hl rfl h
  refine ⟨translate_vaultWindow_absent hv hl, fun h hi => ?_, fun h hi hd => ?_, fun h hi hd => ?_⟩
  · exact (hr h).trans (if_pos hi)
  · exact (hr h).trans ((if_neg hi).trans (if_pos hd))
  · exact (hr h).trans ((if_neg hi).trans (if_neg (Bool.eq_false_iff.mp hd)))

end Translate

/-! ### The page that translated an address (21 R309) -/

section PageOf
variable {s : State} {c : Context} {va : Addr}

theorem pageOf_untranslated (h : vaultWindow ≤ va.toNat ∨ ∃ e ∈ c.ranges, e.2.holds va = true) : s.pageOf c va = none := by
  unfold State.pageOf
  rw [if_pos]
  simpa [List.any_eq_true] using h

/-- An address that a walk translates lies in a page of 64 KiB, 2 MiB or 1 GiB. -/
theorem pageOf_of_translate {core : Nat} {i : Intent} {p : Place} (h : translate s c core va i = .ok p)
    (hv : va.toNat < vaultWindow) (hr : ∀ e ∈ c.ranges, e.2.holds va = false) :
    ∃ b ∈ [16, 21, 30], s.pageOf c va = some ⟨va.toNat / 2 ^ b, b⟩ := by
  have hc : canonical va = true := by
    by_contra hn
    rw [translate_not_canonical (Bool.eq_false_iff.mpr hn)] at h
    cases h
  rw [translate_walk hc hv hr] at h
  obtain ⟨l, hl, hleaf, hbits⟩ := leafBits_of_walk c i _ _ h
  refine ⟨l.1, ?_, ?_⟩
  · clear hbits h
    revert l
    decide
  · have hn : ¬ (decide (vaultWindow ≤ va.toNat) || c.ranges.any fun r => r.2.holds va) = true := by
      simpa [hv] using hr
    rw [State.pageOf, if_neg hn, hbits]
    rfl

end PageOf

end Sys2Proof.Proofs
end

section
/-!
SUPPORT. Invalidations (21 R309), bells on a page that moves (15 R235) and the change of a page's home (13 R196, R208; 15 R232).
-/
namespace Sys2Proof.Proofs
open Sys2Proof.Machine Sys2Proof.Laws

theorem exec_invalidateContext (ctx : BitVec 16) (s : State) :
    exec (.invalidateContext ctx) s = execInvalidateContext ctx s := rfl
theorem exec_invalidatePage (ctx : BitVec 16) (va : Addr) (s : State) :
    exec (.invalidatePage ctx va) s = execInvalidatePage ctx va s := rfl
theorem exec_pageHomeChange (pte bits : Nat) (entry : BitVec 64) (s : State) :
    exec (.pageHomeChange pte bits entry) s = execPageHomeChange pte bits entry s := rfl

theorem notEnabled_ne_next (s : State) : notEnabled ≠ .next s := by simp [notEnabled]

/-! ### Invalidations (21 R309) -/

section Invalidate
variable {s : State} {ctx : BitVec 16}

theorem inCtx_iff (s : State) (ctx k : Nat) : s.inCtx ctx k = true ↔ ∃ t ∈ s.teams, t.ctx = ctx ∧ t.id = k := by
  simp [State.inCtx, and_comm]

theorem contextBusy_iff (s : State) (ctx : Nat) : s.contextBusy ctx = true ↔
    (∃ a ∈ s.flight.accesses, ∃ t ∈ s.teams, t.ctx = ctx ∧ t.id = a.team)
      ∨ ∃ c ∈ s.flight.copies, ∃ t ∈ s.teams, t.ctx = ctx ∧ t.id = c.team := by
  simp only [State.contextBusy, Bool.or_eq_true, List.any_eq_true, inCtx_iff]

theorem vpage_holds_iff (g : VPage) (va : Addr) : g.holds va = true ↔ va.toNat / 2 ^ g.bits = g.number := by
  rw [VPage.holds, beq_iff_eq]

theorem pageBusy_iff (s : State) (ctx : Nat) (va : Addr) : s.pageBusy ctx va = true ↔
    (∃ a ∈ s.flight.accesses, (∃ t ∈ s.teams, t.ctx = ctx ∧ t.id = a.team)
        ∧ ∃ g, a.page = some g ∧ va.toNat / 2 ^ g.bits = g.number)
      ∨ ∃ c ∈ s.flight.copies, (∃ t ∈ s.teams, t.ctx = ctx ∧ t.id = c.team)
        ∧ ∃ g ∈ c.mapped, va.toNat / 2 ^ g.bits = g.number := by
  simp only [State.pageBusy, Bool.or_eq_true, Bool.and_eq_true, List.any_eq_true, Option.any_eq_true, inCtx_iff,
    vpage_holds_iff]

/-- Team `u` is `t` with its pending translation, if its address has the property, tried again. -/
def TriedAgain (p : Addr → Prop) (t u : Team) : Prop :=
  (∀ a l, t.cond = .pendingTranslation a l → (p a → u = { t with cond := .ready, retried := true }) ∧ (¬ p a → u = t))
    ∧ (∀ b a l, t.cond = .stopped b (.translation a l) → (p a → u = { t with retried := true }) ∧ (¬ p a → u = t))
    ∧ ((∀ a l, t.cond ≠ .pendingTranslation a l) → (∀ b a l, t.cond ≠ .stopped b (.translation a l)) → u = t)

theorem triedAgain_retry {p : Addr → Prop} {t : Team} (h : ∀ a, t.pendingAddr = some a → p a) : TriedAgain p t t.retry := by
  refine ⟨fun a l hc => ⟨fun _ => ?_, fun hn => ?_⟩, fun b a l hc => ⟨fun _ => ?_, fun hn => ?_⟩, fun h1 h2 => ?_⟩
  · simp [Team.retry, hc]
  · exact absurd (h a (by simp [Team.pendingAddr, hc])) hn
  · simp [Team.retry, hc]
  · exact absurd (h a (by simp [Team.pendingAddr, hc])) hn
  · unfold Team.retry
    split
    next hc => exact absurd hc (h1 _ _)
    next hc => exact absurd hc (h2 _ _ _)
    all_goals rfl

theorem triedAgain_self {p : Addr → Prop} {t : Team} (h : ∀ a, t.pendingAddr = some a → ¬ p a) : TriedAgain p t t := by
  refine ⟨fun a l hc => ⟨fun hp => ?_, fun _ => rfl⟩, fun b a l hc => ⟨fun hp => ?_, fun _ => rfl⟩, fun _ _ => rfl⟩
  all_goals exact absurd hp (h a (by simp [Team.pendingAddr, hc]))

/-- `s'` is `s` with the pending translations of a context whose address has the property tried again. -/
def RetriedIn (s : State) (ctx : Nat) (p : Addr → Prop) (s' : State) : Prop :=
  ∃ f : Team → Team, s' = { s with teams := s.teams.map f }
    ∧ ∀ t ∈ s.teams, (t.ctx = ctx → TriedAgain p t (f t)) ∧ (t.ctx ≠ ctx → f t = t)

theorem retryContext_retriedIn (s : State) (ctx : Nat) : RetriedIn s ctx (fun _ => True) (s.retryContext ctx) := by
  refine ⟨_, rfl, fun t _ => ⟨fun h => ?_, fun h => if_neg h⟩⟩
  rw [if_pos h]
  exact triedAgain_retry fun _ _ => trivial

theorem retryRegion_retriedIn (s : State) (ctx : Nat) (va : Addr) :
    RetriedIn s ctx (fun a => a.toNat / 2 ^ 30 = va.toNat / 2 ^ 30) (s.retryRegion ctx va) := by
  refine ⟨_, rfl, fun t _ => ⟨fun h => ?_, fun h => if_neg fun h' => h h'.1⟩⟩
  dsimp only
  split
  next hc =>
    refine triedAgain_retry fun a ha => ?_
    rw [ha] at hc
    exact beq_iff_eq.mp hc.2
  next hc =>
    refine triedAgain_self fun a ha hp => hc ⟨h, ?_⟩
    rw [ha]
    exact beq_iff_eq.mpr hp

theorem exec_invalidate_no_context (h : s.ctx? ctx.toNat = none) (va : Addr) :
    exec (.invalidateContext ctx) s = .next s ∧ exec (.invalidatePage ctx va) s = .next s := by
  simp [exec_invalidateContext, exec_invalidatePage, execInvalidateContext, execInvalidatePage, h]

theorem exec_invalidateContext_of_context (h : s.ctx? ctx.toNat ≠ none) : exec (.invalidateContext ctx) s =
    if s.contextBusy ctx.toNat = true then notEnabled else .next (s.retryContext ctx.toNat) := by
  rw [exec_invalidateContext, execInvalidateContext, if_neg (by rwa [Option.isNone_iff_eq_none])]

theorem exec_invalidatePage_of_context (h : s.ctx? ctx.toNat ≠ none) (va : Addr) : exec (.invalidatePage ctx va) s =
    if s.pageBusy ctx.toNat va = true then notEnabled else .next (s.retryRegion ctx.toNat va) := by
  rw [exec_invalidatePage, execInvalidatePage, if_neg (by rwa [Option.isNone_iff_eq_none])]

end Invalidate

/-! ### Bells on a page that moves (15 R235) -/

section Bells
variable {m : PageMove}

theorem pageMove_holds_iff (m : PageMove) (a : Nat) : m.holds a = true ↔ m.old ≤ a ∧ a < m.old + m.size := by
  rw [PageMove.holds, Bool.and_eq_true, decide_eq_true_iff, decide_eq_true_iff]

/-- The bell, at the place that its page moves to. -/
def movedBell (m : PageMove) (b : Armed) : Armed := { b with loc := b.loc - m.old + m.new, home := m.home }

theorem moveBell_same_home (s : State) {b : Armed} (owner slot : Nat) (h : m.holds b.loc = true) (hh : b.home = m.home) :
    s.moveBell m b owner slot = some (s, movedBell m b) := by
  rw [State.moveBell, if_neg (by rw [h]; decide)]
  exact if_pos hh

theorem moveBell_new_home (s : State) {b : Armed} (owner slot : Nat) (h : m.holds b.loc = true) (hh : b.home ≠ m.home) :
    s.moveBell m b owner slot = (s.bellRoom m.home).map fun listed =>
      (s.listBell { movedBell m b with listed := listed } owner slot, { movedBell m b with listed := listed }) := by
  rw [State.moveBell, if_neg (by rw [h]; decide)]
  exact if_neg hh

theorem moveBell_elsewhere (s : State) {b : Armed} (owner slot : Nat) (h : m.holds b.loc = false) :
    s.moveBell m b owner slot = some (s, b) := by
  rw [State.moveBell, if_pos (by rw [h]; decide)]

/-- A bell on the page is at the home that the page moves to. -/
def AtHome (m : PageMove) (b : Armed) : Prop := m.holds b.loc = true → b.home = m.home

/-- Such a bell moves without a further place. -/
theorem moveBell_atHome (s : State) {b : Armed} (owner slot : Nat) (h : AtHome m b) :
    ∃ b', s.moveBell m b owner slot = some (s, b') ∧ AtHome m b' := by
  cases hb : m.holds b.loc
  · exact ⟨b, moveBell_elsewhere s owner slot hb, h⟩
  · exact ⟨_, moveBell_same_home s owner slot hb (h hb), fun _ => rfl⟩

theorem mem_armedBells (s : State) (b : Armed) : b ∈ s.armedBells ↔
    (∃ t ∈ s.teams, ∃ x ∈ t.bells, x.armed = some b) ∨ ∃ q ∈ s.fe.queues, ∃ f, q.wait = .signal (some b) f := by
  rw [State.armedBells, List.mem_append, List.mem_flatMap, List.mem_filterMap]
  refine or_congr (exists_congr fun t => and_congr_right fun _ => ?_) (exists_congr fun q => and_congr ?_ ?_)
  · simp [List.mem_filterMap]
  · exact Vector.mem_toList_iff
  · cases q.wait <;> simp

/-- Memory and the accesses in flight are as in `s`, and every bell on the page is at the new home. -/
def BellsSettled (m : PageMove) (s s' : State) : Prop :=
  s'.mem = s.mem ∧ s'.flight = s.flight ∧ ∀ b ∈ s'.armedBells, AtHome m b

theorem bellsSettled_modTeam {s s' : State} (h : BellsSettled m s s') (id : Nat) (k : BitVec 2) (x : BellSlot)
    (hx : ∀ b, x.armed = some b → AtHome m b) : BellsSettled m s (s'.modTeam id fun t => t.setSlot k x) := by
  obtain ⟨hmem, hfl, hb⟩ := h
  refine ⟨hmem, hfl, fun b hin => ?_⟩
  rcases (mem_armedBells _ b).1 hin with ⟨t, ht, y, hy, hyb⟩ | hq
  · obtain ⟨u, hu, rfl⟩ := List.mem_map.mp ht
    split at hy
    · rcases Vector.mem_or_eq_of_mem_set (hi := k.isLt) hy with hy | rfl
      · exact hb b ((mem_armedBells _ b).2 (.inl ⟨u, hu, y, hy, hyb⟩))
      · exact hx b hyb
    · exact hb b ((mem_armedBells _ b).2 (.inl ⟨u, hu, y, hy, hyb⟩))
  · exact hb b ((mem_armedBells _ b).2 (.inr hq))

theorem bellsSettled_putQueue {s s' : State} (h : BellsSettled m s s') (q : Nat) {x : Queue}
    (hx : ∀ b f, x.wait = .signal (some b) f → AtHome m b) : BellsSettled m s (s'.putQueue q x) := by
  obtain ⟨hmem, hfl, hb⟩ := h
  refine ⟨by rw [putQueue_mem, hmem], by rw [putQueue_flight, hfl], fun b hin => ?_⟩
  rcases (mem_armedBells _ b).1 hin with ht | ⟨y, hy, f, hyb⟩
  · exact hb b ((mem_armedBells _ b).2 (.inl (by rwa [putQueue_teams] at ht)))
  · unfold State.putQueue at hy
    split at hy
    next hlt =>
      rcases Vector.mem_or_eq_of_mem_set (hi := hlt) hy with hy | rfl
      · exact hb b ((mem_armedBells _ b).2 (.inr ⟨y, hy, f, hyb⟩))
      · exact hx b f hyb
    · exact hb b ((mem_armedBells _ b).2 (.inr ⟨y, hy, f, hyb⟩))

theorem moveSlot_settled {s s' : State} (h : BellsSettled m s s') (x : Nat × BitVec 2) :
    ∃ u, State.moveSlot m s' x = some u ∧ BellsSettled m s u := by
  unfold State.moveSlot
  split
  · exact ⟨s', rfl, h⟩
  next t ht =>
    dsimp only
    split
    · exact ⟨s', rfl, h⟩
    next a ha =>
      have hin : a ∈ s'.armedBells :=
        (mem_armedBells s' a).2 (.inl ⟨t, List.mem_of_find?_eq_some ht, _, Vector.getElem_mem _, ha⟩)
      obtain ⟨b, hb, hh⟩ := moveBell_atHome s' t.id x.2.toNat (h.2.2 a hin)
      rw [hb]
      exact ⟨_, rfl, bellsSettled_modTeam h _ _ _ fun y hy => by cases hy; exact hh⟩

theorem queue_mem_or (s : State) (q : Nat) : s.queue q ∈ s.fe.queues ∨ s.queue q = Queue.unmapped := by
  unfold State.queue
  split
  · exact .inl (Vector.getElem_mem _)
  · exact .inr rfl

theorem moveWait_settled {s s' : State} (h : BellsSettled m s s') (q : Nat) :
    ∃ u, State.moveWait m s' q = some u ∧ BellsSettled m s u := by
  unfold State.moveWait
  split
  next a f hw =>
    have hin : a ∈ s'.armedBells := by
      rcases queue_mem_or s' q with hq | hq
      · exact (mem_armedBells s' a).2 (.inr ⟨_, hq, f, hw⟩)
      · rw [hq] at hw; cases hw
    obtain ⟨b, hb, hh⟩ := moveBell_atHome s' q 4 (h.2.2 a hin)
    rw [hb]
    exact ⟨_, rfl, bellsSettled_putQueue h q fun y g hy => by cases hy; exact hh⟩
  all_goals exact ⟨s', rfl, h⟩

/-- A fold of operations that answer, and keep a property, answers and keeps it. -/
theorem foldlM_some_of_keeps {σ α : Type} {P : σ → Prop} {f : σ → α → Option σ}
    (hf : ∀ s a, P s → ∃ s', f s a = some s' ∧ P s') (l : List α) {s : σ} (h : P s) :
    ∃ s', l.foldlM f s = some s' ∧ P s' := by
  induction l generalizing s with
  | nil => exact ⟨s, rfl, h⟩
  | cons a l ih =>
    obtain ⟨u, hu, hP⟩ := hf s a h
    obtain ⟨v, hv, hP'⟩ := ih hP
    exact ⟨v, by rw [List.foldlM_cons, hu]; exact hv, hP'⟩

/-- Where every bell on the page is at the new home, all of them move, and only bells change. -/
theorem moveBells_settled {s : State} (h : ∀ b ∈ s.armedBells, AtHome m b) :
    ∃ u, s.moveBells m = some u ∧ u.mem = s.mem ∧ u.flight = s.flight := by
  obtain ⟨u, hu, hs⟩ := foldlM_some_of_keeps (P := BellsSettled m s) (fun _ x h => moveSlot_settled h x)
    (s.teams.flatMap fun t => [0#2, 1#2, 2#2, 3#2].map fun k => (t.id, k)) ⟨rfl, rfl, h⟩
  obtain ⟨v, hv, hmem, hfl, -⟩ := foldlM_some_of_keeps (P := BellsSettled m s) (fun _ q h => moveWait_settled h q)
    (List.range 128) hs
  refine ⟨v, ?_, hmem, hfl⟩
  rw [State.moveBells, hu]
  exact hv

end Bells

/-! ### A page whose home changes (13 R196, R208; 15 R232) -/

section PageHome
variable {pte bits : Nat} {entry : BitVec 64} {s : State}

/-- The move that the entry at `pte` makes of its page when it becomes `entry`. -/
def moveOf (s : State) (pte bits : Nat) (entry : BitVec 64) : PageMove :=
  ⟨physical (leafBase (s.mem.nat pte 8)), physical (leafBase entry.toNat), 2 ^ bits, fld 10 2 entry.toNat⟩

/-- The page's contents at their new place, with no copy of a line of either page. -/
def pageMoved (s : State) (m : PageMove) : State :=
  { s with
    mem := s.mem.movePage m.old m.new m.size
    flight := { s.flight with
      lines := s.flight.lines.filter fun c =>
        !m.holds (128 * c.line) && !(decide (m.new ≤ 128 * c.line) && decide (128 * c.line < m.new + m.size))
      stored := (s.flight.stored ++ (s.flight.stored.filter fun e => m.holds (128 * e.2)).map fun e =>
        (e.1, e.2 - m.old / 128 + m.new / 128)).eraseDups } }

theorem exec_pageHomeChange_held (h : s.pageHeld (moveOf s pte bits entry).holds = true) (s' : State) :
    exec (.pageHomeChange pte bits entry) s ≠ .next s' := by
  rw [exec_pageHomeChange, execPageHomeChange]
  refine ne_of_eq_of_ne (if_pos ?_) (notEnabled_ne_next s')
  exact .inr (.inr (.inr (.inr (.inr h))))

/-- A copy that has checked the page holds it. -/
theorem pageHeld_of_copy {inPage : Nat → Bool} (h : ∃ c ∈ s.flight.copies, ∃ g ∈ c.pages, inPage (2 ^ 16 * g) = true) :
    s.pageHeld inPage = true := by
  obtain ⟨c, hc, g, hg, hin⟩ := h
  exact Bool.or_eq_true_iff.mpr (.inl (List.any_eq_true.mpr ⟨c, hc, List.any_eq_true.mpr ⟨g, hg, hin⟩⟩))

/-- An access to the page that has not performed holds it, atomics apart. -/
theorem pageHeld_of_access {inPage : Nat → Bool}
    (h : ∃ a ∈ s.flight.accesses, inPage a.place.loc = true ∧ a.kind.isReply = false ∧ a.kind.isAtomic = false) :
    s.pageHeld inPage = true := by
  obtain ⟨a, ha, hin, hr, hat⟩ := h
  refine Bool.or_eq_true_iff.mpr (.inr (List.any_eq_true.mpr ⟨a, List.mem_filter.mpr ⟨ha, ?_⟩, ?_⟩))
  · rw [hin, hr]; rfl
  · rw [hat]; rfl

/-- Nothing in flight names the page but replies, whose accesses have performed. -/
def PageQuiet (s : State) (m : PageMove) : Prop :=
  (∀ c ∈ s.flight.copies, ∀ g ∈ c.pages, m.holds (2 ^ 16 * g) = false)
    ∧ ∀ a ∈ s.flight.accesses, m.holds a.place.loc = true → a.kind.isReply = true

theorem PageQuiet.no_access {m : PageMove} (h : PageQuiet s m) :
    (s.flight.accesses.filter fun a => m.holds a.place.loc && !a.kind.isReply) = [] := by
  refine List.filter_eq_nil_iff.mpr fun a ha hin => ?_
  obtain ⟨h1, h2⟩ := Bool.and_eq_true_iff.mp hin
  rw [h.2 a ha h1] at h2
  cases h2

theorem PageQuiet.not_held {m : PageMove} (h : PageQuiet s m) : s.pageHeld m.holds = false := by
  rw [State.pageHeld, h.no_access]
  simpa using h.1

theorem exec_pageHomeChange_moves (hb : bits ∈ [16, 21, 30]) (hp : pte + 8 ≤ 2 ^ 39)
    (hold : deviceLeaf bits (s.mem.nat pte 8) = true) (hnew : deviceLeaf bits entry.toNat = true)
    (hattr : s.mem.nat pte 8 % 2 ^ 8 = entry.toNat % 2 ^ 8) (hq : PageQuiet s (moveOf s pte bits entry))
    {u : State} (hu : (pageMoved s (moveOf s pte bits entry)).moveBells (moveOf s pte bits entry) = some u) :
    exec (.pageHomeChange pte bits entry) s = .next (u.writeLoc pte (leBytes 8 entry.toNat)) := by
  rw [exec_pageHomeChange, execPageHomeChange]
  refine (if_neg ?_).trans ?_
  · rintro (h | h | h | h | h | h)
    · have hsizes : ∀ b ∈ [16, 21, 30], (!(b == 16 || b == 21 || b == 30)) = false := by decide
      rw [hsizes bits hb] at h
      cases h
    · exact absurd hp (Nat.not_le.mpr h)
    · rw [hold] at h; cases h
    · rw [hnew] at h; cases h
    · exact h hattr
    · exact Bool.eq_false_iff.mp hq.not_held h
  · generalize hl : List.filter _ s.flight.accesses = l
    obtain rfl : l = [] := hl.symm.trans hq.no_access
    dsimp only
    split
    next h => exact nomatch h.symm.trans hu
    next v h => rw [Option.some.inj (h.symm.trans hu)]

/-- The change of home, where nothing holds it back: memory with the page moved and the entry stored, and the lines kept. -/
theorem exec_pageHomeChange_done (hb : bits ∈ [16, 21, 30]) (hp : pte + 8 ≤ 2 ^ 39)
    (hold : deviceLeaf bits (s.mem.nat pte 8) = true) (hnew : deviceLeaf bits entry.toNat = true)
    (hattr : s.mem.nat pte 8 % 2 ^ 8 = entry.toNat % 2 ^ 8) (hq : PageQuiet s (moveOf s pte bits entry))
    (hbells : ∀ b ∈ s.armedBells, AtHome (moveOf s pte bits entry) b) :
    ∃ s', exec (.pageHomeChange pte bits entry) s = .next s'
      ∧ s'.mem = (pageMoved s (moveOf s pte bits entry)).mem.store pte (leBytes 8 entry.toNat)
      ∧ s'.flight = (pageMoved s (moveOf s pte bits entry)).flight := by
  obtain ⟨u, hu, hmem, hfl⟩ := moveBells_settled (s := pageMoved s (moveOf s pte bits entry)) hbells
  exact ⟨_, exec_pageHomeChange_moves hb hp hold hnew hattr hq hu, by rw [writeLoc_mem, hmem], by rw [writeLoc_flight, hfl]⟩

section Moved
variable {m : PageMove} (h : s.mem.wf = true) (bs : List Byte)
include h

/-- The page's bytes read at its new place as they did at its old one. -/
theorem byte_pageMoved {k : Nat} (hk : k < m.size) (hpte : m.new + k < pte ∨ pte + bs.length ≤ m.new + k) :
    ((pageMoved s m).mem.store pte bs).byte (m.new + k) = s.mem.byte (m.old + k) := by
  refine (byte_store_other (wf_movePage h _ _ _) bs hpte).trans ((byte_movePage h _ _ _ _).trans ?_)
  rw [if_pos (by omega), show m.new + k - m.new + m.old = m.old + k by omega]

theorem wordBad_pageMoved (ho : m.old % 4 = 0) (hn : m.new % 4 = 0) (hs : m.size % 4 = 0) {k : Nat} (hk : k < m.size)
    (hpte : m.new + k < pte ∨ pte + bs.length ≤ m.new + k) :
    ((pageMoved s m).mem.store pte bs).wordBad (m.new + k) = s.mem.wordBad (m.old + k) := by
  refine (wordBad_store_other (wf_movePage h _ _ _) bs hpte).trans ((wordBad_movePage h ho hn hs _).trans ?_)
  rw [if_pos (by omega), show m.new + k - m.new + m.old = m.old + k by omega]

theorem byte_pageMoved_other {a : Nat} (ha : ¬ (m.new ≤ a ∧ a < m.new + m.size)) (hpte : a < pte ∨ pte + bs.length ≤ a) :
    ((pageMoved s m).mem.store pte bs).byte a = s.mem.byte a :=
  (byte_store_other (wf_movePage h _ _ _) bs hpte).trans ((byte_movePage h _ _ _ _).trans (if_neg ha))

end Moved

theorem mem_lines_pageMoved (m : PageMove) (c : LineCopy) : c ∈ (pageMoved s m).flight.lines ↔ c ∈ s.flight.lines
    ∧ ¬ (m.old ≤ 128 * c.line ∧ 128 * c.line < m.old + m.size) ∧ ¬ (m.new ≤ 128 * c.line ∧ 128 * c.line < m.new + m.size) := by
  rw [← pageMove_holds_iff]
  simp only [pageMoved, List.mem_filter, Bool.and_eq_true, Bool.not_eq_true', Bool.and_eq_false_iff, decide_eq_false_iff_not,
    Bool.not_eq_true, not_and_or]

/-- A page begins at a multiple of 64 KiB. -/
theorem physical_leafBase_mod_four (pte : Nat) : physical (leafBase pte) % 4 = 0 := by
  simp only [physical, leafBase, hbmSize]; omega

end PageHome

end Sys2Proof.Proofs
end

section
/-!
The obligation on address translation, invalidations and a page whose home changes.
-/
namespace Sys2Proof.Proofs
open Sys2Proof.Machine Sys2Proof.Laws

/-- Settles O59: translation clause by clause (`translate_localWindow`, `translate_range`, `translate_walked` and their like),
the bell that moves (`moveBell_same_home`, `moveBell_new_home`), invalidations by what keeps them waiting (`contextBusy_iff`,
`pageBusy_iff`) and the page that an access carries (`pageOf_of_translate`), and the page's change of home by the memory that
it leaves (`exec_pageHomeChange_done`). -/
theorem translations : Obligations.Translations := by
  unfold Obligations.Translations
  refine ⟨fun s c core va i => ⟨fun h1 h2 => ?_, translate_localWindow, translate_vaultWindow, fun h => ?_⟩,
    fun s m b owner slot h1 h2 => ?_, fun ctx va s => ⟨fun h => exec_invalidate_no_context h va, fun h => ?_⟩,
    fun s c core va i p h => ⟨pageOf_untranslated, pageOf_of_translate h⟩,
    fun pte bits entry s hcan hb hp _ hold hnew hattr => ⟨fun h => ?_, fun hcopies hacc hbells => ?_⟩⟩
  · exact translate_not_canonical (Bool.eq_false_iff.mpr ((canonical_iff va).not.mpr (by omega)))
  · have hv : va.toNat < vaultWindow := by unfold vaultWindow; omega
    have hc : canonical va = true := (canonical_iff va).2 (by omega)
    refine ⟨fun n g hs hg hh hlow => ?_, fun hno => ?_⟩
    · exact translate_range hc hv (find?_lowest hs hg ((range_holds_iff g va).2 hh)
        fun e he hp => hlow e he ((range_holds_iff e.2 va).1 hp))
    · exact translate_walked hc hv fun e he => Bool.eq_false_iff.mpr fun hh => hno e he ((range_holds_iff e.2 va).1 hh)
  · have hin : m.holds b.loc = true := (pageMove_holds_iff m b.loc).2 ⟨h1, h2⟩
    refine ⟨moveBell_same_home s owner slot hin, fun hh hr => ?_, fun listed hh hr => ?_⟩
    all_goals
      rw [moveBell_new_home s owner slot hin hh, hr]
      rfl
  · have hc := exec_invalidateContext_of_context h
    have hp := exec_invalidatePage_of_context h va
    refine ⟨fun hb s1 => ?_, fun hb => ?_, fun hb s1 => ?_, fun hb => ?_⟩
    · rw [hc, if_pos ((contextBusy_iff s _).2 hb)]
      exact notEnabled_ne_next s1
    · exact ⟨_, hc.trans (if_neg fun h => hb ((contextBusy_iff s _).1 h)), retryContext_retriedIn s _⟩
    · rw [hp, if_pos ((pageBusy_iff s _ va).2 hb)]
      exact notEnabled_ne_next s1
    · exact ⟨_, hp.trans (if_neg fun h => hb ((pageBusy_iff s _ va).1 h)), retryRegion_retriedIn s _ va⟩
  · let m := moveOf s pte bits entry
    rcases h with ⟨c, hc, g, hg, hloc⟩ | ⟨a, ha, hloc, hkind⟩
    · exact exec_pageHomeChange_held (pageHeld_of_copy ⟨c, hc, g, hg, (pageMove_holds_iff m _).2 hloc⟩)
    · exact exec_pageHomeChange_held (pageHeld_of_access ⟨a, ha, (pageMove_holds_iff m _).2 hloc, hkind⟩)
  · let m := moveOf s pte bits entry
    have hquiet : PageQuiet s m :=
      ⟨fun c hc g hg => Bool.eq_false_iff.mpr fun h => hcopies c hc g hg ((pageMove_holds_iff m _).1 h),
        fun a ha h => hacc a ha ((pageMove_holds_iff m _).1 h)⟩
    obtain ⟨s', hexec, hmem, hfl⟩ := exec_pageHomeChange_done hb hp hold hnew hattr hquiet
      fun b hbb h => hbells b hbb ((pageMove_holds_iff m _).1 h)
    have hsize : m.size % 4 = 0 := (by decide : ∀ b ∈ [16, 21, 30], 2 ^ b % 4 = 0) bits hb
    have ho : m.old % 4 = 0 := physical_leafBase_mod_four _
    have hn : m.new % 4 = 0 := physical_leafBase_mod_four _
    refine ⟨s', hexec, ?_⟩
    rw [hmem, hfl]
    refine ⟨fun k hk hpte => ⟨?_, ?_⟩, fun a ha hpte => ?_, ?_, mem_lines_pageMoved m⟩
    · exact byte_pageMoved (m := m) hcan _ hk hpte
    · exact wordBad_pageMoved (m := m) hcan _ ho hn hsize hk hpte
    · exact byte_pageMoved_other (m := m) hcan _ ha hpte
    · exact bytes_store_same (wf_movePage hcan _ _ _) pte (leBytes 8 entry.toNat)

end Sys2Proof.Proofs
end

section
/-!
SUPPORT. Sets of lane bits: the bits of `lanesBelow`, of a mask word, of the summary word (03 R36, R37).
-/
namespace Sys2Proof.Proofs
open Sys2Proof.Machine Sys2Proof.Laws

theorem testBit_foldr_bits (l : List Bool) (i : Nat) :
    (l.foldr (fun (b : Bool) acc => 2 * acc + b.toNat) 0).testBit i = l.getD i false := by
  induction l generalizing i with
  | nil => simp
  | cons b l ih =>
    rw [List.foldr_cons]
    cases i with
    | zero => cases b <;> simp [Nat.testBit_zero]
    | succ i =>
      have hdiv : (2 * l.foldr (fun (b : Bool) acc => 2 * acc + b.toNat) 0 + b.toNat) / 2
          = l.foldr (fun (b : Bool) acc => 2 * acc + b.toNat) 0 := by
        have := b.toNat_lt
        omega
      rw [Nat.testBit_succ, hdiv, ih, List.getD_cons_succ]

theorem lanesBelow_getLsbD (n l : Nat) : (lanesBelow n).getLsbD l = (decide (l < 1024) && decide (l < n)) := by
  rw [lanesBelow, BitVec.getLsbD_ofNat, Nat.testBit_two_pow_sub_one]

theorem maskWord_getLsbD (b : LaneBits) (w j : Nat) :
    (maskWord b w).getLsbD j = (decide (j < 32) && b.getLsbD (32 * w + j)) := by
  simp [maskWord]

theorem maskWord_ne_zero_iff (b : LaneBits) (w : Nat) :
    maskWord b w ≠ 0 ↔ ∃ j < 32, b.getLsbD (32 * w + j) = true := by
  constructor
  · intro h
    by_contra hno
    refine h (BitVec.eq_of_getLsbD_eq fun j hj => ?_)
    rw [maskWord_getLsbD]
    simpa [hj] using fun hb => hno ⟨j, hj, hb⟩
  · rintro ⟨j, hj, hb⟩ h
    have := maskWord_getLsbD b w j
    simp [h, hj, hb] at this

/-- The summary word tells of each mask word whether it has a bit set (03 R36). -/
theorem summaryWord_getLsbD_iff (b : LaneBits) (w : Nat) :
    (summaryWord b).getLsbD w = true ↔ w < 32 ∧ ∃ j < 32, b.getLsbD (32 * w + j) = true := by
  have hfold : (List.range 32).foldr (fun w acc => 2 * acc + (maskWord b w != 0).toNat) 0
      = ((List.range 32).map fun w => maskWord b w != 0).foldr (fun (c : Bool) acc => 2 * acc + c.toNat) 0 := by
    rw [List.foldr_map]
  rw [summaryWord, BitVec.getLsbD_ofNat, hfold, testBit_foldr_bits, Bool.and_eq_true, decide_eq_true_iff]
  refine and_congr_right fun hw => ?_
  rw [List.getD_eq_getElem _ _ (by simpa using hw), List.getElem_map, List.getElem_range, bne_iff_ne, maskWord_ne_zero_iff]

/-- m0 has the lanes below TW set (03 R37). -/
theorem mbits_zero_getLsbD_iff {t : Team} (ht : t.passes ≤ 32) (l : Nat) : (t.mbits 0#4).getLsbD l = true ↔ l < t.tw := by
  rw [Team.mbits, if_pos rfl, lanesBelow_getLsbD, Bool.and_eq_true, decide_eq_true_iff, decide_eq_true_iff]
  unfold Team.tw
  omega

theorem summaryWord_mbits_zero_iff {t : Team} (ht : t.passes ≤ 32) (w : Nat) :
    (summaryWord (t.mbits 0#4)).getLsbD w = true ↔ w < t.passes := by
  simp only [summaryWord_getLsbD_iff, mbits_zero_getLsbD_iff ht, Team.tw]
  constructor
  · rintro ⟨-, j, -, hj⟩
    omega
  · intro hw
    exact ⟨by omega, 0, by omega, by omega⟩

theorem setMWord_zero (t : Team) (w : Nat) (v : Word) : t.setMWord 0#4 w v = t := if_pos (by simp)

/-- At team start every mask register but m0 holds zeros. -/
theorem mbits_fresh (id : Nat) (n : Node) (core : Nat) {m : MReg} (h : m ≠ 0#4) : (Team.fresh id n core).mbits m = 0 := by
  rw [Team.mbits, if_neg h, Team.fresh, Vector.getElem_replicate]
  rfl

end Sys2Proof.Proofs
end

section
/-!
The obligation on m0.
-/
namespace Sys2Proof.Proofs
open Sys2Proof.Machine Sys2Proof.Laws

/-- Settles O12: m0 and its summary word bit by bit, the writes that it discards, and the masks of a fresh team. -/
theorem maskZero : Obligations.MaskZero :=
  ⟨fun _ l ht => mbits_zero_getLsbD_iff ht l, fun _ w ht => summaryWord_mbits_zero_iff ht w,
    fun t _ w v => ⟨if_pos rfl, setMWord_zero t w v⟩, fun id n core _ h => mbits_fresh id n core h⟩

end Sys2Proof.Proofs
end

section
/-!
SUPPORT. How an instruction ends: the stop that its checks or its effect answer, and the team that its completion leaves,
in the terms of Safety (07 R100, R101, R113; 21 R299).
-/
namespace Sys2Proof.Proofs
open Sys2Proof.Machine Sys2Proof.Laws

/-! ### Stops -/

section Stops
variable {s : State} {t : Team} {x : Trap}

theorem finish_trap (s : State) (t : Team) (x : Trap) : finish s t (.error (.trap x)) = .next (s.trapped t x) := by
  simp only [finish, Stop.finish, State.trapped]
  split <;> rfl

theorem finish_seen (s : State) (t : Team) (ps : List Place) (e : Stop) :
    finish s t (.error (.seen ps e)) = finish (s.touch t.ctx ps) t (.error e) := rfl

theorem trapped_of_ne (h : x.code ≠ .acquireFailed) : s.trapped t x = s.takeTrap t x := if_neg h

theorem check_early {sh : Shape} (h : sh.early = some x) : sh.check t s = some (.trap x) := by
  simp only [Shape.check, h]

/-- The first check of 07 R113 fails. -/
theorem runRegs_early {sh : Team → Shape} {effect : Team → Except Stop Team} (hc : s.curTeam = some t)
    (he : (sh t).early = some x) : runRegs sh effect s = .next (s.trapped t x) := by
  rw [runRegs_checked hc (check_early he), finish_trap]

end Stops

/-! ### Teams in the state -/

section Teams
variable {t u : Team}

theorem putTeam_putTeam (s : State) (h : u.id = t.id) : (s.putTeam t).putTeam u = s.putTeam u := by
  simp only [State.putTeam, List.map_map]
  congr 2
  funext v
  simp only [Function.comp]
  split <;> simp_all

theorem modTeam_putTeam (s : State) {f : Team → Team} (h : (f u).id = u.id) :
    (s.putTeam u).modTeam u.id f = s.putTeam (f u) := by
  simp only [State.putTeam, State.modTeam, List.map_map]
  congr 2
  funext v
  simp only [Function.comp]
  split <;> simp_all

/-- The team that an instruction has begun with and then changed completes. -/
theorem putTeam_modTeam_of (s : State) {t v u : Team} {f : Team → Team} (hv : v.id = t.id) (hu : u.id = t.id)
    (hf : (f u).id = u.id) : ((s.putTeam v).putTeam u).modTeam t.id f = s.putTeam (f u) := by
  rw [putTeam_putTeam s (hu.trans hv.symm), ← hu, modTeam_putTeam s hf]

end Teams

/-! ### Retirement -/

section Retire
variable {sh : Shape}

@[simp] theorem retire_id (t : Team) : (sh.retire t).id = t.id := by rw [retire_eq]; simp only [killed]

theorem retire_of_la_zero (hla : sh.la = 0) (t : Team) : sh.retire t = { killed (usedUpS sh) (usedUpV sh) (usedUpM sh) t with
    promises := promisesAged t, issued := t.issued + 1 } := by
  rw [retire_eq, Shape.promise, if_pos hla, List.append_nil]
  rfl

/-- An instruction of no last use: its registers stay. -/
theorem retire_of_no_last (hla : sh.la = 0) (h : ∀ u ∈ sh.srcs ++ sh.unread, u.last = false) (t : Team) :
    sh.retire t = { t with promises := promisesAged t, issued := t.issued + 1 } := by
  have hnil : (sh.srcs ++ sh.unread).filter (·.last) = [] := List.filter_eq_nil_iff.mpr fun u hu => by simp [h u hu]
  have hk : killed (usedUpS sh) (usedUpV sh) (usedUpM sh) t = t := by
    simp only [usedUpS, usedUpV, usedUpM, hnil, List.flatMap_nil]
    exact killed_nil t
  rw [retire_of_la_zero hla, hk]

/-- The shape names no vector or mask register as a source, and opens no promise. -/
def ScalarSources (sh : Shape) : Prop := sh.la = 0 ∧ ∀ u ∈ sh.srcs ++ sh.unread, u.o.vectors = [] ∧ u.o.maskRegs = []

theorem retire_of_scalarSources (h : ScalarSources sh) (t : Team) : sh.retire t =
    { t with sregs := killedS (usedUpS sh) t.sregs, promises := promisesAged t, issued := t.issued + 1 } := by
  obtain ⟨hla, hsrc⟩ := h
  have hmem {u : Use} (hu : u ∈ (sh.srcs ++ sh.unread).filter (·.last)) := hsrc u (List.mem_of_mem_filter hu)
  have hV : usedUpV sh = [] := List.flatMap_eq_nil_iff.mpr fun u hu => by rw [(hmem hu).1, List.filter_nil]
  have hM : usedUpM sh = [] := List.flatMap_eq_nil_iff.mpr fun u hu => by rw [(hmem hu).2, List.filter_nil]
  rw [retire_of_la_zero hla, hV, hM, killed, List.map_nil, killedV_nil, killedM_nil]

/-- The scalar registers that sources of the two scalar classes use up, but for those that `p` keeps. -/
theorem flatMap_scalars_useS (p : Reg → Bool) (as : List Src) :
    ((useS as).filter (·.last)).flatMap (fun u => u.o.scalars.filter p) = (lastOf as).filter p := by
  rw [useS, lastOf, List.filter_map, List.flatMap_map, List.map_eq_flatMap, List.filter_flatMap]
  rfl

theorem flatMap_scalars_useP (p : Reg → Bool) (as : List Src) :
    ((useP as).filter (·.last)).flatMap (fun u => u.o.scalars.filter p) = (lastPairs as).filter p := by
  rw [useP, lastPairs, List.filter_map, List.flatMap_map, List.filter_flatMap]
  rfl

end Retire

/-! ### Scalar registers in closed form -/

/-- One scalar register written, those used up dead but for it (07 R101). -/
theorem killedS_written (used : List Reg) (d : Reg) (v : Word) (p : Bool) (regs : Vector SReg 64) :
    killedS (used.filter fun r => r != d) (if d = 0#6 then regs else regs.set d.toNat (.live v p) d.isLt) =
      .ofFn fun i : Fin 64 => if i = 0 then regs[i] else if d.toNat = i.val then .live v p
        else if used.any fun r => r.toNat == i.val then .dead else regs[i] := by
  ext i hi
  simp only [killedS, Vector.getElem_ofFn, Fin.getElem_fin, Fin.ext_iff, Fin.val_zero]
  by_cases h0 : i = 0
  · subst h0
    by_cases hd : d = 0#6
    · simp [hd]
    · have hn : d.toNat ≠ 0 := fun e => hd (BitVec.eq_of_toNat_eq e)
      simp [hd, hn]
  · have hany : ((used.filter fun r => r != d).any fun r => r.toNat == i)
        = ((used.any fun r => r.toNat == i) && decide (d.toNat ≠ i)) := by
      rw [Bool.eq_iff_iff]
      simp only [List.any_eq_true, List.mem_filter, Bool.and_eq_true, bne_iff_ne, beq_iff_eq, decide_eq_true_iff]
      constructor
      · rintro ⟨r, ⟨hr, hrd⟩, hri⟩
        exact ⟨⟨r, hr, hri⟩, fun e => hrd (BitVec.eq_of_toNat_eq (hri.trans e.symm))⟩
      · rintro ⟨⟨r, hr, hri⟩, hdi⟩
        exact ⟨r, ⟨hr, fun e => hdi (e ▸ hri)⟩, hri⟩
    rw [if_neg h0, if_neg h0, hany]
    by_cases hd : d.toNat = i
    · have hd0 : d ≠ 0#6 := fun e => h0 (by rw [← hd, e]; rfl)
      simp [hd, hd0]
    · by_cases hd0 : d = 0#6
      · have h0' : ¬ 0 = i := fun e => h0 e.symm
        simp [hd0, h0']
      · simp [hd, hd0]

theorem killedS_written_clean (used : List Reg) (d : Reg) (v : Word) (t : Team) :
    killedS (used.filter fun r => r != d) (if d = 0#6 then t.sregs else t.sregs.set d.toNat (.live v false) d.isLt) =
      scalarsAfter t used [(d, v)] := by
  rw [killedS_written]
  ext i hi
  by_cases hd : d.toNat = i <;> simp [scalarsAfter, hd]

/-- The same, the word written with poison (21 R315). -/
theorem killedS_written_poisoned (used : List Reg) (d : Reg) (v : Word) (t : Team) :
    killedS (used.filter fun r => r != d) (if d = 0#6 then t.sregs else t.sregs.set d.toNat (.live v true) d.isLt) =
      withPoison (scalarsAfter t used [(d, v)]) [(d, true)] := by
  rw [killedS_written]
  ext i hi
  simp only [scalarsAfter, withPoison, Vector.getElem_ofFn, Fin.getElem_fin]
  by_cases h0 : (⟨i, hi⟩ : Fin 64) = 0
  · simp [h0]
  · by_cases hd : d.toNat = i <;> simp [hd, h0]

end Sys2Proof.Proofs
end

section
/-!
SUPPORT. The structured opcodes and the nesting counters (03 R40 to R42; 09 R135).
-/
namespace Sys2Proof.Proofs
open Sys2Proof.Machine Sys2Proof.Laws

/-- The operands and the style check of a structured opcode. -/
def nestShape (us : List Use) (t : Team) : Shape := { srcs := us, early := structuredOnly t }

/-- New counters, where all of them fit. -/
def nestEffect (counters : Team → List Nat) (t : Team) : Except Stop Team :=
  if countersFit (counters t) then .ok (t.setCounters (counters t)).advance else raiseAt .nestOverflow

theorem nestWith_eq (m : MReg) (f : Bool → Nat → Nat) : nestWith m f = runRegs (nestShape (useM [⟨m, false⟩]))
    (nestEffect fun t => t.counters.mapIdx fun l c => f ((t.mbits m).getLsbD l) c) := rfl

theorem nestAll_eq (f : Nat → Nat) : nestAll f = runRegs (nestShape (useM [])) (nestEffect fun t => t.counters.map f) := rfl

section Nest
variable {s : State} {t : Team}

theorem nestShape_check {us : List Use} (hi : Issues s t { srcs := us }) (hst : t.structured = true) :
    (nestShape us t).check t s = none := by
  rw [nestShape, structuredOnly, if_pos hst]
  exact hi.2

theorem nestShape_retire {us : List Use} (h : ∀ u ∈ us, u.last = false) (t u : Team) :
    (nestShape us u).retire t = { t with promises := promisesAged t, issued := t.issued + 1 } :=
  retire_of_no_last rfl (by simpa [nestShape] using h) t

/-- ILLEGAL_MODE in mask style, before anything else (03 R41). -/
theorem runRegs_nestShape_maskStyle (hc : s.curTeam = some t) (hst : t.structured = false) (us : List Use)
    (effect : Team → Except Stop Team) :
    runRegs (nestShape us) effect s = .next (s.takeTrap t ⟨.illegalMode, 0, 0, none, none⟩) := by
  have he : (nestShape us t).early = some (.at .illegalMode 0 0) := by
    simp only [nestShape, structuredOnly, hst]
    rfl
  rw [runRegs_early hc he, trapped_of_ne (by decide)]
  rfl

theorem countersFit_iff (cs : List Nat) : countersFit cs = true ↔ ∀ c ∈ cs, c ≤ 255 := by simp [countersFit]

/-- The answer of a structured opcode whose new counters are `new`: they are taken together or not at all. -/
def NestsAs (s : State) (t : Team) (new : List Nat) (r : Result) : Prop :=
  ((∀ c ∈ new, c ≤ 255) → r = .next (s.putTeam { t.past with nest := new.map (.ofNat 8) }))
    ∧ ((∃ c ∈ new, 255 < c) → r = .next (s.takeTrap t ⟨.nestOverflow, 0, 0, none, none⟩))

theorem runRegs_nestsAs {us : List Use} {counters : Team → List Nat} {new : List Nat} (hi : Issues s t { srcs := us })
    (hst : t.structured = true) (hus : ∀ u ∈ us, u.last = false) (hnew : counters t.begin = new) :
    NestsAs s t new (runRegs (nestShape us) (nestEffect counters) s) := by
  have hk := nestShape_check hi hst
  constructor
  · intro hfit
    have he : nestEffect counters t.begin = .ok (t.begin.setCounters new).advance := by
      rw [nestEffect, hnew, if_pos ((countersFit_iff new).2 hfit)]
    rw [runRegs_next hi.1 hk he, nestShape_retire hus]
    rfl
  · rintro ⟨c, hc, hover⟩
    have hno : ¬ countersFit new = true := fun h => absurd ((countersFit_iff new).1 h c hc) (by omega)
    have he : nestEffect counters t.begin = .error (.trap (.at .nestOverflow 0 0)) := by
      rw [nestEffect, hnew, if_neg hno]
      rfl
    rw [runRegs_stopped hi.1 hk he, finish_trap, trapped_of_ne (by decide)]
    rfl

/-- The counters, lane by lane, under a condition mask. -/
theorem counters_mapIdx (t : Team) (m : MReg) (f : Bool → Nat → Nat) :
    t.counters.mapIdx (fun l c => f ((t.mbits m).getLsbD l) c)
      = (List.range t.tw).map fun l => f ((t.mbits m).getLsbD l) (t.nestAt l).toNat := by
  refine List.ext_getElem (by simp [Team.counters]) fun l _ _ => ?_
  simp [Team.counters]

end Nest

/-! ### The opcodes without a branch -/

section Opcodes
variable (m : MReg) (d : BitVec 8) (s : State)

theorem exec_sif : exec (.sif m) s = nestWith m (fun cond c => if c ≠ 0 then c + 1 else if cond then 0 else 1) s := rfl
theorem exec_selse : exec .selse s = nestAll (fun c => if c = 0 then 1 else if c = 1 then 0 else c) s := rfl
theorem exec_sendif : exec .sendif s = nestAll (fun c => c - 1) s := rfl
theorem exec_sloop : exec .sloop s = nestAll (fun c => if c ≠ 0 then c + 2 else 0) s := rfl
theorem exec_sbrk : exec (.sbrk m d) s = nestWith m (fun cond c => if c = 0 ∧ cond then d.toNat + 2 else c) s := rfl
theorem exec_scont : exec (.scont m d) s = nestWith m (fun cond c => if c = 0 ∧ cond then d.toNat + 1 else c) s := rfl
theorem exec_sendlp (i : BitVec 19) : exec (.sendlp m i) s = execSendlp m i s := rfl

end Opcodes

/-- Opcode `i` replaces every lane's counter by `g` of the lane's bit of `m` and the counter. -/
def CountsAs (m : MReg) (i : Instr) (as : List MSrc) (g : Bool → Nat → Nat) : Prop :=
  ∀ (s : State) (t : Team), Issues s t { srcs := useM as } → t.structured = true →
    NestsAs s t ((List.range t.tw).map fun l => g ((t.mbits m).getLsbD l) (t.nestAt l).toNat) (exec i s)

theorem countsAs_of_nestWith {m : MReg} {i : Instr} {f g : Bool → Nat → Nat} (he : ∀ s, exec i s = nestWith m f s)
    (hfg : ∀ cond c, f cond c = g cond c) : CountsAs m i [⟨m, false⟩] g := by
  obtain rfl : f = g := funext fun cond => funext fun c => hfg cond c
  intro s t hi hst
  rw [he, nestWith_eq]
  exact runRegs_nestsAs hi hst (by simp [useM]) (counters_mapIdx t.begin m f)

theorem countsAs_of_nestAll {m : MReg} {i : Instr} {f : Nat → Nat} {g : Bool → Nat → Nat} (he : ∀ s, exec i s = nestAll f s)
    (hfg : ∀ cond c, f c = g cond c) : CountsAs m i [] g := by
  intro s t hi hst
  rw [he, nestAll_eq]
  refine runRegs_nestsAs hi hst (by simp [useM]) ?_
  rw [Team.counters, List.map_map]
  exact List.map_congr_left fun l _ => hfg _ _

section CountsAs
variable (m : MReg) (d : BitVec 8)

theorem countsAs_sif : CountsAs m (.sif m) [⟨m, false⟩]
    (fun cond c => if c ≠ 0 then c + 1 else if cond = false then 1 else c) :=
  countsAs_of_nestWith (exec_sif m) fun cond c => by cases cond <;> simp +contextual

theorem countsAs_selse : CountsAs m .selse [] (fun _ c => if c = 0 then 1 else if c = 1 then 0 else c) :=
  countsAs_of_nestAll exec_selse fun _ _ => rfl

theorem countsAs_sendif : CountsAs m .sendif [] (fun _ c => if c ≠ 0 then c - 1 else c) :=
  countsAs_of_nestAll exec_sendif fun _ c => by split <;> omega

theorem countsAs_sloop : CountsAs m .sloop [] (fun _ c => if c ≠ 0 then c + 2 else c) :=
  countsAs_of_nestAll exec_sloop fun _ c => by split <;> omega

theorem countsAs_scont : CountsAs m (.scont m d) [⟨m, false⟩]
    (fun cond c => if c = 0 ∧ cond = true then d.toNat + 1 else c) :=
  countsAs_of_nestWith (exec_scont m d) fun _ _ => rfl

theorem countsAs_sbrk : CountsAs m (.sbrk m d) [⟨m, false⟩]
    (fun cond c => if c = 0 ∧ cond = true then d.toNat + 2 else c) :=
  countsAs_of_nestWith (exec_sbrk m d) fun _ _ => rfl

end CountsAs

/-! ### SENDLP -/

/-- A branch's target in the statements' terms (07 R107). -/
theorem branchTarget_eq {n : Nat} (t : Team) (i : BitVec n) : branchTarget t i = targetOf t i.toInt := by
  have hshift : i.signExtend 64 <<< 2 = BitVec.ofInt 64 (4 * i.toInt) := by
    rw [BitVec.shiftLeft_eq_mul_twoPow, BitVec.ofInt_mul, BitVec.mul_comm]
    rfl
  rw [branchTarget, targetOf, BitVec.ofInt_add, hshift, BitVec.ofInt_natCast, BitVec.ofNat_toNat, BitVec.setWidth_eq]

/-- The pass of SENDLP that ends the lanes' turn of the loop, over all lanes. -/
def sendlpFirst (t : Team) (m : MReg) : List Nat :=
  (List.range t.tw).map fun l => sendlpLane ((t.mbits m).getLsbD l) (t.nestAt l).toNat

/-- The two passes of SENDLP: back to the loop top, or past it. -/
def sendlpEffect (m : MReg) (i : BitVec 19) (t : Team) : Except Stop Team :=
  let cs := t.counters.mapIdx fun l c => sendlpLane ((t.mbits m).getLsbD l) c
  if cs.any (fun c => c == 0) then .ok ((t.setCounters cs).goto (branchTarget t i))
  else .ok (t.setCounters (cs.map sendlpLeave)).advance

theorem execSendlp_runs (m : MReg) (i : BitVec 19) :
    execSendlp m i = runRegs (nestShape (useM [⟨m, false⟩])) (sendlpEffect m i) := rfl

theorem execSendlp_eq {s : State} {t : Team} (m : MReg) (i : BitVec 19) (hi : Issues s t { srcs := useM [⟨m, false⟩] })
    (hst : t.structured = true) : execSendlp m i s = .next (s.putTeam (if 0 ∈ sendlpFirst t m
      then { t.arrived (targetOf t i.toInt) with nest := (sendlpFirst t m).map (.ofNat 8) }
      else { t.past with nest := ((sendlpFirst t m).map sendlpLeave).map (.ofNat 8) })) := by
  have hcs : t.begin.counters.mapIdx (fun l c => sendlpLane ((t.begin.mbits m).getLsbD l) c) = sendlpFirst t m :=
    counters_mapIdx t.begin m sendlpLane
  have he : sendlpEffect m i t.begin = .ok (if 0 ∈ sendlpFirst t m
      then (t.begin.setCounters (sendlpFirst t m)).goto (branchTarget t.begin i)
      else (t.begin.setCounters ((sendlpFirst t m).map sendlpLeave)).advance) := by
    rw [sendlpEffect, hcs, apply_ite Except.ok]
    exact if_congr (by simp) rfl rfl
  rw [execSendlp_runs, runRegs_next hi.1 (nestShape_check hi hst) he, nestShape_retire (us := useM [⟨m, false⟩]) (by simp [useM]),
    branchTarget_eq]
  split <;> rfl

end Sys2Proof.Proofs
end

section
/-!
The obligation on the structured opcodes.
-/
namespace Sys2Proof.Proofs
open Sys2Proof.Machine Sys2Proof.Laws

/-- Settles O23: each opcode's counters by its `countsAs_` lemma, SENDLP by `execSendlp_eq`, and mask style, where every one
of them stops at its first check, by `runRegs_nestShape_maskStyle`. -/
theorem structuredOpcodes : Obligations.StructuredOpcodes := by
  unfold Obligations.StructuredOpcodes
  refine ⟨fun m d => ?_, fun m i s t hi hst => ?_, fun m d i s t hc hst => ?_⟩
  · simp only [List.forall_mem_cons, List.not_mem_nil, false_imp_iff, implies_true, and_true]
    exact ⟨countsAs_sif m, countsAs_selse m, countsAs_sendif m, countsAs_sloop m, countsAs_scont m d, countsAs_sbrk m d⟩
  · exact execSendlp_eq m i hi hst
  · simp only [List.forall_mem_cons, List.not_mem_nil, false_imp_iff, implies_true, exec_sif, exec_selse, exec_sendif,
      exec_sloop, exec_sbrk, exec_scont, exec_sendlp, nestWith_eq, nestAll_eq, execSendlp_runs,
      runRegs_nestShape_maskStyle hc hst, and_self]

end Sys2Proof.Proofs
end

section
/-!
SUPPORT. Instructions that write one scalar register and act outside their team without an access.
-/
namespace Sys2Proof.Proofs
open Sys2Proof.Machine Sys2Proof.Laws

/-- With no access there is no watch to hit. -/
theorem watchTrap_nil (s : State) (t : Team) : s.watchTrap t [] = none := by
  simp [State.watchTrap]

theorem runState_next_untouched {sh : Team → State → Shape} {effect : Team → State → Except Stop (State × List Touch)}
    {s s' : State} {t : Team} (hc : s.curTeam = some t) (hk : (sh t s).check t s = none)
    (he : effect t.begin (s.putTeam t.begin) = .ok (s', [])) :
    runState sh effect s = .next (s'.modTeam t.id (sh t s).retire) :=
  runState_next hc hk he (watchTrap_nil _ _)

/-- A register that is a destination is not used up. -/
theorem keeps_dst (d : Reg) : (fun r : Reg => !(([Opnd.s d].flatMap Opnd.scalars).contains r)) = fun r => r != d := by
  funext r
  simp only [List.flatMap_cons, List.flatMap_nil, Opnd.scalars, List.append_nil, List.contains_cons, List.contains_nil,
    Bool.or_false]
  rfl

theorem scalarSources_useS (as : List Src) (dsts : List Opnd) : ScalarSources { srcs := useS as, dsts := dsts } :=
  ⟨rfl, by simp [useS, Opnd.vectors, Opnd.maskRegs]⟩

theorem usedUpS_useS (as : List Src) (d : Reg) :
    usedUpS { srcs := useS as, dsts := [.s d] } = (lastOf as).filter fun r => r != d := by
  simp only [usedUpS, List.append_nil, keeps_dst, flatMap_scalars_useS]

/-- One clean scalar word written, and the instruction past. -/
theorem retire_setS_advance {sh : Shape} (hsh : ScalarSources sh) {used : List Reg} {d : Reg}
    (hu : usedUpS sh = used.filter fun r => r != d) (u : Team) (v : Word) : sh.retire (u.setS d v).advance =
      { u with pc := u.pc + 4#64, sregs := scalarsAfter u used [(d, v)], promises := promisesAged u, issued := u.issued + 1 } := by
  rw [retire_of_scalarSources hsh, hu, ← killedS_written_clean, setS_eq]
  rfl

end Sys2Proof.Proofs
end

section
/-!
SUPPORT. Cohorts: JOIN, LEAVE and CLEAD case by case (03 R45 to R49; 13 R205).
-/
namespace Sys2Proof.Proofs
open Sys2Proof.Machine Sys2Proof.Laws

/-- The cohort that a handle names in the team's context and tower. -/
def isCohortOf (t : Team) (h : BitVec 16) (c : Cohort) : Bool :=
  c.ctx == t.ctx && c.tower == towerOf t.core && c.handle == h

theorem cohort?_eq (s : State) (t : Team) (h : BitVec 16) : s.cohort? t h = s.cohorts.find? (isCohortOf t h) := rfl

theorem isCohortOf_iff (t : Team) (h : BitVec 16) (c : Cohort) :
    isCohortOf t h c = true ↔ c.ctx = t.ctx ∧ c.tower = towerOf t.core ∧ c.handle = h := by
  simp [isCohortOf, and_assoc]

theorem memberOf_iff (t : Team) (h : BitVec 16) : t.memberOf h = true ↔ h ≠ 0 ∧ (t.cid0 = h ∨ t.cid1 = h) := by
  simp [Team.memberOf]

theorem leaveCohort_eq (cs : List Cohort) (t : Team) (h : BitVec 16) : leaveCohort cs t.ctx (towerOf t.core) h t.id =
    (cs.map fun c => if isCohortOf t h c then { c with members := c.members.erase t.id } else c).filter
      fun c => c.members ≠ [] := by
  simp only [leaveCohort, isCohortOf_iff]
  congr 1
  funext c
  cases c.members <;> simp

/-- The handle that an instruction's source names. -/
def handleOf (t : Team) (a : Src) : BitVec 16 := (t.sval a.reg).setWidth 16

/-- The team past its instruction, with `v` in sd and these CID registers. -/
def answering (t : Team) (d : Reg) (a : Src) (v : Nat) (cid0 cid1 : BitVec 16) : Team :=
  { t.past with sregs := scalarsAfter t (lastOf [a]) [(d, .ofNat 32 v)], cid0 := cid0, cid1 := cid1 }

/-- The team with these CID registers. -/
def withCids (t : Team) (cid0 cid1 : BitVec 16) : Team := { t with cid0 := cid0, cid1 := cid1 }

/-! ### JOIN's cases (03 R47) -/

/-- The team with a handle in its lowest free CID register. -/
def withHandle (t : Team) (h : BitVec 16) : Team :=
  withCids t (if t.cid0 = 0 then h else t.cid0) (if t.cid0 = 0 then t.cid1 else h)

theorem withHandle_eq (t : Team) (h : BitVec 16) :
    withHandle t h = if t.cid0 = 0 then { t with cid0 := h } else { t with cid1 := h } := by
  by_cases h0 : t.cid0 = 0 <;> simp only [withHandle, withCids, h0, if_true, if_false]

/-- A team becomes a member of the cohort that a handle names. -/
def enrol (t : Team) (h : BitVec 16) (c : Cohort) : Cohort :=
  if isCohortOf t h c then { c with members := c.members ++ [t.id] } else c

theorem join_member {s : State} {t : Team} {h : BitVec 16} (hm : t.memberOf h = true) : s.join t h = (4, s, t) := if_pos hm

section Join
variable {s : State} {t : Team} {h : BitVec 16} (hm : ¬ t.memberOf h = true)
include hm

theorem join_no_register (hf : t.cid0 ≠ 0 ∧ t.cid1 ≠ 0) : s.join t h = (3, s, t) :=
  (if_neg hm).trans (if_pos (by simpa using hf))

variable (hf : ¬ (t.cid0 ≠ 0 ∧ t.cid1 ≠ 0))
include hf

theorem join_found {c : Cohort} (hc : s.cohorts.find? (isCohortOf t h) = some c) : s.join t h =
    if 64 ≤ c.members.length then (2, s, t) else (0, { s with cohorts := s.cohorts.map (enrol t h) }, withHandle t h) := by
  have hfree : ¬ (t.cid0 != 0 && t.cid1 != 0) = true := by simpa using hf
  have hput : enrol t h = fun x => if x.ctx = t.ctx ∧ x.tower = towerOf t.core ∧ x.handle = h
      then { x with members := x.members ++ [t.id] } else x := by
    funext x
    simp only [enrol, isCohortOf_iff]
  rw [State.join, if_neg hm, if_neg hfree, cohort?_eq, hc, hput, withHandle_eq]

theorem join_new (hc : s.cohorts.find? (isCohortOf t h) = none) : s.join t h =
    if 1024 ≤ (s.cohorts.filter fun c => c.tower = towerOf t.core).length then (5, s, t)
    else (1, { s with cohorts := s.cohorts ++ [⟨t.ctx, towerOf t.core, h, [t.id]⟩] }, withHandle t h) := by
  have hfree : ¬ (t.cid0 != 0 && t.cid1 != 0) = true := by simpa using hf
  rw [State.join, if_neg hm, if_neg hfree, cohort?_eq, hc, withHandle_eq]
  simp only [Bool.beq_eq_decide_eq]

end Join

/-! ### The effects of the three instructions -/

/-- What JOIN does once its checks pass. -/
def joinEffect (d : Reg) (a : Src) (t : Team) (s : State) : Except Stop (State × List Touch) :=
  if handleOf t a = 0 then raiseAt .illegalMode
  else
    let (status, s1, t1) := s.join t (handleOf t a)
    .ok (s1.putTeam (t1.setS d (.ofNat 32 status)).advance, [])

theorem exec_join (d : Reg) (a : Src) (s : State) :
    exec (.join d a) s = runState (fun _ _ => { srcs := useS [a], dsts := [.s d] }) (joinEffect d a) s := rfl

/-- What LEAVE does once its checks pass. -/
def leaveEffect (d : Reg) (a : Src) (t : Team) (s : State) : Except Stop (State × List Touch) :=
  let h := handleOf t a
  if t.memberOf h then
    .ok ({ s with cohorts := leaveCohort s.cohorts t.ctx (towerOf t.core) h t.id }.putTeam
      ((withCids t (if t.cid0 = h then 0 else t.cid0) (if t.cid1 = h then 0 else t.cid1)).setS d 0).advance, [])
  else .ok (s.putTeam (t.setS d 1).advance, [])

theorem exec_leave (d : Reg) (a : Src) (s : State) :
    exec (.leave d a) s = runState (fun _ _ => { srcs := useS [a], dsts := [.s d] }) (leaveEffect d a) s := rfl

/-- CLEAD's answer (13 R205). -/
def cleadWord (t : Team) (a : Src) (s : State) : Nat :=
  if t.memberOf (handleOf t a) then
    match s.cohort? t (handleOf t a) with
    | some c => c.members.idxOf t.id + c.members.length * 2 ^ 8
    | none => 2 ^ 31
  else 2 ^ 31

def cleadEffect (d : Reg) (a : Src) (s : State) (t : Team) : Except Stop Team :=
  .ok (t.setS d (.ofNat 32 (cleadWord t a s))).advance

theorem exec_clead (d : Reg) (a : Src) (s : State) :
    exec (.clead d a) s = runRegs (fun _ => { srcs := useS [a], dsts := [.s d] }) (cleadEffect d a s) s := rfl

section Cohorts
variable {s : State} {t : Team} {d : Reg} {a : Src} (hi : Issues s t { srcs := useS [a], dsts := [.s d] })
include hi

/-- What JOIN and LEAVE leave: cohorts, CID registers and a status. -/
theorem runState_answers {effect : Team → State → Except Stop (State × List Touch)} {cs : List Cohort} {v : Nat}
    {c0 c1 : BitVec 16} (he : effect t.begin (s.putTeam t.begin) = .ok (({ s with cohorts := cs }.putTeam t.begin).putTeam
      ((withCids t.begin c0 c1).setS d (.ofNat 32 v)).advance, [])) :
    runState (fun _ _ => { srcs := useS [a], dsts := [.s d] }) effect s =
      .next ({ s with cohorts := cs }.putTeam (answering t d a v c0 c1)) := by
  have hid : ((withCids t.begin c0 c1).setS d (.ofNat 32 v)).advance.id = t.id := by simp [withCids]
  rw [runState_next_untouched hi.1 hi.2 he, putTeam_modTeam_of _ (begin_id t) hid (retire_id _),
    retire_setS_advance (scalarSources_useS [a] _) (usedUpS_useS [a] d)]
  rfl

/-! ### What JOIN answers -/

theorem exec_join_zero (h0 : handleOf t a = 0) :
    exec (.join d a) s = .next (s.takeTrap t ⟨.illegalMode, 0, 0, none, none⟩) := by
  have he : joinEffect d a t.begin (s.putTeam t.begin) = .error (.trap (.at .illegalMode 0 0)) := if_pos h0
  rw [exec_join, runState_stopped hi.1 hi.2 he, finish_trap, trapped_of_ne (by decide)]
  rfl

/-- JOIN is its status and effect on the state. -/
theorem exec_join_of {cs : List Cohort} {v : Nat} {c0 c1 : BitVec 16} (h0 : handleOf t a ≠ 0)
    (hj : (s.putTeam t.begin).join t.begin (handleOf t a) =
      (v, { s with cohorts := cs }.putTeam t.begin, withCids t.begin c0 c1)) :
    exec (.join d a) s = .next ({ s with cohorts := cs }.putTeam (answering t d a v c0 c1)) := by
  have he : joinEffect d a t.begin (s.putTeam t.begin) = .ok (({ s with cohorts := cs }.putTeam t.begin).putTeam
      ((withCids t.begin c0 c1).setS d (.ofNat 32 v)).advance, []) := by
    have hh : handleOf t.begin a = handleOf t a := rfl
    rw [joinEffect, hh, if_neg h0, hj]
  rw [exec_join, runState_answers hi he]

/-! ### LEAVE and CLEAD -/

/-- LEAVE by a member: the cohort is without the team, the handle out of both CID registers. -/
theorem exec_leave_member (hm : t.memberOf (handleOf t a) = true) : exec (.leave d a) s = .next ({ s with
    cohorts := leaveCohort s.cohorts t.ctx (towerOf t.core) (handleOf t a) t.id }.putTeam (answering t d a 0
      (if t.cid0 = handleOf t a then 0 else t.cid0) (if t.cid1 = handleOf t a then 0 else t.cid1))) := by
  have he : leaveEffect d a t.begin (s.putTeam t.begin) = .ok (_, []) := if_pos hm
  rw [exec_leave]
  exact runState_answers hi he

theorem exec_leave_stranger (hm : ¬ t.memberOf (handleOf t a) = true) :
    exec (.leave d a) s = .next (s.putTeam (answering t d a 1 t.cid0 t.cid1)) := by
  have he : leaveEffect d a t.begin (s.putTeam t.begin) = .ok (_, []) := if_neg hm
  rw [exec_leave]
  exact runState_answers hi he

/-- CLEAD writes a word and changes nothing else. -/
theorem exec_clead_of {v : Nat} (hv : cleadWord t.begin a s = v) :
    exec (.clead d a) s = .next (s.putTeam (answering t d a v t.cid0 t.cid1)) := by
  have he : cleadEffect d a s t.begin = .ok (t.begin.setS d (.ofNat 32 v)).advance := by rw [cleadEffect, hv]
  rw [exec_clead, runRegs_next hi.1 hi.2 he, retire_setS_advance (scalarSources_useS [a] _) (usedUpS_useS [a] d)]
  rfl

theorem exec_clead_member (hm : t.memberOf (handleOf t a) = true) {c : Cohort}
    (hc : s.cohorts.find? (isCohortOf t (handleOf t a)) = some c) : exec (.clead d a) s =
      .next (s.putTeam (answering t d a (c.members.idxOf t.id + c.members.length * 2 ^ 8) t.cid0 t.cid1)) := by
  refine exec_clead_of hi ((if_pos hm).trans ?_)
  have hc' : s.cohort? t.begin (handleOf t.begin a) = some c := hc
  rw [hc']
  rfl

theorem exec_clead_stranger (hm : ¬ t.memberOf (handleOf t a) = true) :
    exec (.clead d a) s = .next (s.putTeam (answering t d a (2 ^ 31) t.cid0 t.cid1)) :=
  exec_clead_of hi (if_neg hm)

end Cohorts

end Sys2Proof.Proofs
end

section
/-!
The obligation on cohorts.
-/
namespace Sys2Proof.Proofs
open Sys2Proof.Machine Sys2Proof.Laws

/-- Settles O39: JOIN through its outcomes `join_no_register`, `join_found` and `join_new`, LEAVE and CLEAD by whether the
team is a member. -/
theorem cohorts : Obligations.Cohorts := by
  unfold Obligations.Cohorts
  intro d a s t hi h tower mine inTower member answer named full
  have hmem (hm : member) : t.memberOf (handleOf t a) = true := (memberOf_iff t _).2 hm
  have hstr (hm : ¬ member) : ¬ t.memberOf (handleOf t a) = true := (memberOf_iff t _).not.2 hm
  have hnamed (v : Nat) : answering t d a v (if t.cid0 = 0 then h else t.cid0) (if t.cid0 = 0 then t.cid1 else h) = named v := by
    by_cases h0 : t.cid0 = 0 <;> simp only [answering, named, answer, h0, if_true, if_false] <;> rfl
  have hfound (hm : ¬ member) (hf : ¬ full) {c : Cohort} (hc : s.cohorts.find? mine = some c) :=
    join_found (s := s.putTeam t.begin) (t := t.begin) (hstr hm) hf hc
  have hnew (hm : ¬ member) (hf : ¬ full) (hc : s.cohorts.find? mine = none) :=
    join_new (s := s.putTeam t.begin) (t := t.begin) (hstr hm) hf hc
  refine ⟨exec_join_zero hi, fun _ hm => ?_, fun h0 hm hf => ?_, fun h0 hm hf c hc => ⟨fun hn => ?_, fun hn => ?_⟩,
    fun h0 hm hf hc => ⟨fun hn => ?_, fun hn => ?_⟩, fun hm => ?_, fun hm => ⟨?_, ?_⟩, fun hm c hc => ?_⟩
  · exact exec_join_of hi hm.1 (join_member (hmem hm))
  · exact exec_join_of hi h0 (join_no_register (hstr hm) hf)
  · exact exec_join_of hi h0 ((hfound hm hf hc).trans (if_pos hn))
  · rw [← hnamed]
    exact exec_join_of hi h0 ((hfound hm hf hc).trans (if_neg (Nat.not_le.mpr hn)))
  · exact exec_join_of hi h0 ((hnew hm hf hc).trans (if_pos hn))
  · rw [← hnamed]
    exact exec_join_of hi h0 ((hnew hm hf hc).trans (if_neg (Nat.not_le.mpr hn)))
  · rw [exec_leave_member hi (hmem hm), leaveCohort_eq]
    rfl
  · exact exec_leave_stranger hi (hstr hm)
  · exact exec_clead_stranger hi (hstr hm)
  · exact exec_clead_member hi (hmem hm) hc

end Sys2Proof.Proofs
end

section
/-!
SUPPORT. Barrier words (03 R50, R51): the word after an arrival, and the places that a barrier's address can name.
-/
namespace Sys2Proof.Proofs
open Sys2Proof.Machine Sys2Proof.Laws

/-! ### The fields of the word -/

theorem toNat_extractLsb'_ofNat {lo len : Nat} (h : lo + len ≤ 64) (n : Nat) :
    ((BitVec.ofNat 64 n).extractLsb' lo len).toNat = fld lo len n := by
  rw [BitVec.extractLsb'_toNat, BitVec.toNat_ofNat, Nat.shiftRight_eq_div_pow, ← fld_mod_two_pow h]
  rfl

theorem toNat_append_eq_add {m n : Nat} (x : BitVec m) (y : BitVec n) : (x ++ y).toNat = x.toNat * 2 ^ n + y.toNat := by
  rw [BitVec.toNat_append, ← Nat.shiftLeft_add_eq_or_of_lt y.isLt, Nat.shiftLeft_eq]

/-- ARRIVED, EXPECT and PHASE after an arrival, as numbers. -/
def arrivedAfter (w : Nat) : Nat := if expect w = 0 ∨ expect w ≤ arrived w + 1 then 0 else arrived w + 1
def expectAfter (drop : Bool) (w : Nat) : Nat := if drop ∧ 0 < expect w then expect w - 1 else expect w
def phaseAfter (w : Nat) : Nat :=
  if expect w = 0 ∨ expect w ≤ arrived w + 1 then (phase w + 1) % 2 ^ 32 else phase w

theorem arrival_eq_sum (drop : Bool) (w : Nat) : arrival drop w = arrivedAfter w + fld 7 1 w * 2 ^ 7
    + expectAfter drop w * 2 ^ 8 + fld 15 1 w * 2 ^ 15 + phaseAfter w * 2 ^ 16 + fld 48 16 w * 2 ^ 48 := rfl

/-- The number of a word that is put together from its fields. -/
theorem toNat_barrierWord (high : BitVec 16) (p : BitVec 32) (x : BitVec 1) (e : BitVec 7) (y : BitVec 1) (a : BitVec 7) :
    (high ++ p ++ x ++ e ++ y ++ a).toNat = a.toNat + y.toNat * 2 ^ 7 + e.toNat * 2 ^ 8 + x.toNat * 2 ^ 15
      + p.toNat * 2 ^ 16 + high.toNat * 2 ^ 48 := by
  simp only [toNat_append_eq_add]
  omega

/-- The model's word after an arrival is the one that the statements give. -/
theorem arrival_eq (drop : Bool) (n : Nat) : arrival drop n = (wordAfterArrival drop (.ofNat 64 n)).toNat := by
  unfold wordAfterArrival
  extract_lets A E P full A' P' E'
  have hA : A.toNat = arrived n := toNat_extractLsb'_ofNat (by decide) n
  have hE : E.toNat = expect n := toNat_extractLsb'_ofNat (by decide) n
  have hP : P.toNat = phase n := toNat_extractLsb'_ofNat (by decide) n
  have hzero : E = 0 ↔ expect n = 0 := by
    rw [← hE, ← BitVec.toNat_inj]
    rfl
  have hfull : full ↔ expect n = 0 ∨ expect n ≤ arrived n + 1 := by
    rw [← hzero, ← hE, ← hA]
  have hlt : expect n < 2 ^ 7 := hE ▸ E.isLt
  have hA' : A'.toNat = arrivedAfter n := by
    by_cases h : full
    · rw [arrivedAfter, if_pos (hfull.1 h), show A' = 0 from if_pos h]
      rfl
    · have := mt hfull.2 h
      rw [arrivedAfter, if_neg this, show A' = A + 1 from if_neg h, BitVec.toNat_add, hA]
      exact Nat.mod_eq_of_lt (by change arrived n + 1 < 2 ^ 7; omega)
  have hP' : P'.toNat = phaseAfter n := by
    by_cases h : full
    · rw [phaseAfter, if_pos (hfull.1 h), show P' = P + 1 from if_pos h, BitVec.toNat_add, hP]
      rfl
    · rw [phaseAfter, if_neg (mt hfull.2 h), show P' = P from if_neg h, hP]
  have hE' : E'.toNat = expectAfter drop n := by
    have hdrop : drop = true ∧ E ≠ 0 ↔ drop = true ∧ 0 < expect n := by
      rw [Ne, hzero, Nat.pos_iff_ne_zero]
    by_cases h : drop = true ∧ E ≠ 0
    · have hpos := (hdrop.1 h).2
      rw [expectAfter, if_pos (hdrop.1 h), show E' = E - 1 from if_pos h, BitVec.toNat_sub, hE]
      change (2 ^ 7 - 1 + expect n) % 2 ^ 7 = _
      omega
    · rw [expectAfter, if_neg (mt hdrop.2 h), show E' = E from if_neg h, hE]
  refine Eq.trans ?_ (toNat_barrierWord _ _ _ _ _ _).symm
  rw [arrival_eq_sum, hA', hP', hE', toNat_extractLsb'_ofNat (by decide), toNat_extractLsb'_ofNat (by decide),
    toNat_extractLsb'_ofNat (by decide)]

theorem ofNat_phase (n : Nat) : BitVec.ofNat 32 (phase n) = (BitVec.ofNat 64 n).extractLsb' 16 32 := by
  rw [phase, ← toNat_extractLsb'_ofNat (by decide), BitVec.ofNat_toNat, BitVec.setWidth_eq]

theorem phase_eq_iff (n : Nat) (v : Word) : phase n = v.toNat ↔ (BitVec.ofNat 64 n).extractLsb' 16 32 = v := by
  rw [phase, ← toNat_extractLsb'_ofNat (by decide), BitVec.toNat_inj]

end Sys2Proof.Proofs
end

section
/-!
SUPPORT. What a write brings about in a state in which a team's registers change with it (15 R236, R237; 03 R51), and states
in which no debugger is attached.
-/
namespace Sys2Proof.Proofs
open Sys2Proof.Machine Sys2Proof.Laws

/-! ### A change of a team's registers commutes with a write -/

/-- The team with other bells and in another condition: what a write changes of it. -/
def withWait (t : Team) (bells : Vector BellSlot 4) (cond : Condition) : Team := { t with bells := bells, cond := cond }

@[simp] theorem withWait_id (t : Team) (bells : Vector BellSlot 4) (cond : Condition) : (withWait t bells cond).id = t.id := rfl

theorem afterWrite_of_same_wait {t u : Team} (hb : u.bells = t.bells) (hc : u.cond = t.cond) (s : State) (loc n : Nat) :
    u.afterWrite s loc n = withWait u (t.afterWrite s loc n).bells (t.afterWrite s loc n).cond := by
  unfold Team.afterWrite withWait
  rw [hb, hc]

/-- `f` neither reads nor changes the bells and the condition of a team, nor who it is. -/
def KeepsWait (f : Team → Team) : Prop :=
  (∀ t bells cond, f (withWait t bells cond) = withWait (f t) bells cond) ∧ ∀ t : Team, (f t).id = t.id ∧ (f t).ctx = t.ctx

section KeepsWait
variable {f : Team → Team} (hf : KeepsWait f)
include hf

theorem KeepsWait.bells (t : Team) : (f t).bells = t.bells := by
  have h : f t = withWait (f t) t.bells t.cond := hf.1 t t.bells t.cond
  exact (congrArg Team.bells h).trans rfl

theorem KeepsWait.cond (t : Team) : (f t).cond = t.cond := by
  have h : f t = withWait (f t) t.bells t.cond := hf.1 t t.bells t.cond
  exact (congrArg Team.cond h).trans rfl

theorem KeepsWait.afterWrite (s : State) (loc n : Nat) (t : Team) :
    (f t).afterWrite s loc n = f (t.afterWrite s loc n) := by
  rw [afterWrite_of_same_wait (hf.bells t) (hf.cond t), ← hf.1, ← afterWrite_of_same_wait rfl rfl]

theorem KeepsWait.at (id : Nat) : KeepsWait fun t => if t.id = id then f t else t := by
  refine ⟨fun t bells cond => ?_, fun t => ?_⟩
  · change (if t.id = id then f (withWait t bells cond) else withWait t bells cond) =
      withWait (if t.id = id then f t else t) bells cond
    by_cases h : t.id = id
    · rw [if_pos h, if_pos h, hf.1]
    · rw [if_neg h, if_neg h]
  · by_cases h : t.id = id
    · simp only [if_pos h, hf.2, and_self]
    · simp only [if_neg h, and_self]

variable (s : State) (loc n id : Nat)

theorem KeepsWait.wakeContexts (cs : List Context) :
    wakeContexts { s with teams := s.teams.map f } loc n cs = wakeContexts s loc n cs := by
  unfold Machine.wakeContexts
  refine List.map_congr_left fun c _ => ?_
  have hfired : (s.teams.map f).filter (fun t => t.ctx == c.ctxid && t.firedBy { s with teams := s.teams.map f } loc n)
      = (s.teams.filter fun t => t.ctx == c.ctxid && t.firedBy s loc n).map f := by
    rw [List.filter_map]
    congr 1
    refine List.filter_congr fun t _ => ?_
    simp only [Function.comp, Team.firedBy, hf.bells, (hf.2 t).2]
    rfl
  have hids (l : List Team) : ((l.map f).filter Team.inAwait).map (·.id) = (l.filter Team.inAwait).map (·.id) := by
    rw [List.filter_map, List.map_map]
    have hp : Team.inAwait ∘ f = Team.inAwait := funext fun t => by simp only [Function.comp, Team.inAwait, hf.cond]
    rw [hp]
    exact List.map_congr_left fun t _ => (hf.2 t).1
  simp only [hfired, hids, bne_iff_ne, Bool.and_eq_true, ne_eq, List.map_eq_nil_iff]

theorem KeepsWait.state_afterWrite : ({ s with teams := s.teams.map f } : State).afterWrite loc n =
    { s.afterWrite loc n with teams := (s.afterWrite loc n).teams.map f } := by
  have hteams : (s.teams.map f).map (Team.afterWrite { s with teams := s.teams.map f } loc n)
      = (s.teams.map (Team.afterWrite s loc n)).map f := by
    rw [List.map_map, List.map_map]
    exact List.map_congr_left fun t _ => hf.afterWrite s loc n t
  unfold State.afterWrite
  rw [hteams, hf.wakeContexts]
  rfl

/-- A write to memory, and a change of one team, in either order. -/
theorem KeepsWait.writeLoc_modTeam (bs : List Byte) : (s.modTeam id f).writeLoc loc bs = (s.writeLoc loc bs).modTeam id f :=
  (hf.at id).state_afterWrite { s with mem := s.mem.store loc bs } loc bs.length

end KeepsWait

/-- Retirement is such a change where every source is scalar. -/
theorem keepsWait_retire {sh : Shape} (h : ScalarSources sh) : KeepsWait sh.retire := by
  refine ⟨fun t bells cond => ?_, fun t => ?_⟩
  · rw [retire_of_scalarSources h, retire_of_scalarSources h]
    rfl
  · rw [retire_of_scalarSources h]
    exact ⟨rfl, rfl⟩

/-- A place in one of the two windows (01 R29, R30). -/
def InWindow (p : Place) : Prop := p.region = .localStore ∨ ∃ k, p.region = .vault k

section Window
variable {s : State} {p : Place} (hp : InWindow p)
include hp

theorem writePlace_window (bs : List Byte) : s.writePlace p bs = s.writeLoc p.loc bs := by
  rcases hp with h | ⟨k, h⟩ <;> simp only [State.writePlace, h]

theorem teamWrite_modTeam {f : Team → Team} (hf : KeepsWait f) (tower id : Nat) (bs : List Byte) :
    (s.modTeam id f).teamWrite tower p bs = (s.teamWrite tower p bs).modTeam id f := by
  unfold State.teamWrite
  rw [writePlace_window hp, writePlace_window hp, hf.writeLoc_modTeam]
  rfl

end Window

/-! ### No debugger attached -/

section Unwatched
variable {s : State}

theorem ctxOf_unattached (h : s.unwatched) (t : Team) : (s.ctxOf t).attached = false := by
  unfold State.ctxOf State.ctx?
  cases hc : s.fe.contexts.find? fun c => c.ctxid == t.ctx with
  | none => rfl
  | some c => exact h c (List.mem_of_find?_eq_some hc)

theorem completed_unwatched {s' : State} (h : s'.unwatched) (t : Team) (xs : List Touch) : s.completed t s' xs = .next s' :=
  completed_next (watchTrap_unattached (ctxOf_unattached h t) xs)

/-- An instruction that acts outside its team, where no watch can end it. -/
theorem runState_next_unwatched {sh : Team → State → Shape} {effect : Team → State → Except Stop (State × List Touch)}
    {s' : State} {t : Team} {xs : List Touch} (hc : s.curTeam = some t) (hk : (sh t s).check t s = none)
    (he : effect t.begin (s.putTeam t.begin) = .ok (s', xs)) (hu : s'.unwatched) :
    runState sh effect s = .next (s'.modTeam t.id (sh t s).retire) := by
  have hu' : (s'.modTeam t.id (sh t s).retire).unwatched := hu
  exact runState_next hc hk he (watchTrap_unattached (ctxOf_unattached hu' t) xs)

theorem unwatched_map {s' : State} (h : s.unwatched) {g : Context → Context} (hg : ∀ c, (g c).attached = c.attached)
    (hs : s'.fe.contexts = s.fe.contexts.map g) : s'.unwatched := by
  intro d hd
  rw [hs] at hd
  obtain ⟨c, hc, rfl⟩ := List.mem_map.mp hd
  exact (hg c).trans (h c hc)

theorem unwatched_touch (h : s.unwatched) (ctx : Nat) (ps : List Place) : (s.touch ctx ps).unwatched := by
  refine unwatched_map h (fun c => ?_) rfl
  split <;> rfl

theorem unwatched_putTeam (h : s.unwatched) (t : Team) : (s.putTeam t).unwatched := h

theorem unwatched_writeLoc (h : s.unwatched) (loc : Nat) (bs : List Byte) : (s.writeLoc loc bs).unwatched := by
  refine unwatched_map h (fun c => ?_) rfl
  dsimp only
  split <;> rfl

theorem unwatched_teamWrite (h : s.unwatched) {p : Place} (hp : InWindow p) (tower : Nat) (bs : List Byte) :
    (s.teamWrite tower p bs).unwatched := by
  have := unwatched_writeLoc h p.loc bs
  rw [← writePlace_window hp] at this
  exact this

end Unwatched

end Sys2Proof.Proofs
end

section
/-!
SUPPORT. ARRIVE and its kinds, and BWAIT: where they stop, and what they leave (03 R50, R51; 13 R203, R204).
-/
namespace Sys2Proof.Proofs
open Sys2Proof.Machine Sys2Proof.Laws

/-! ### The place of a barrier word -/

section BarrierPlace
variable {s : State} {t : Team} {va : Addr} {i : Intent}

theorem barrierPlace_misaligned (h : va.toNat % 8 ≠ 0) : barrierPlace s t va i = .error (.trap (.at .misaligned va 0)) :=
  if_pos h

theorem barrierPlace_below (h8 : va.toNat % 8 = 0) (h : va.toNat < vaultWindow) :
    barrierPlace s t va i = .error (.trap (.at .permission va 3)) :=
  (if_neg (not_not.mpr h8)).trans (if_pos h)

theorem barrierPlace_window (h8 : va.toNat % 8 = 0) (h : vaultWindow ≤ va.toNat) :
    barrierPlace s t va i = checkPlace s t va i :=
  (if_neg (not_not.mpr h8)).trans (if_neg (Nat.not_lt.mpr h))

theorem checkPlace_error {x : Trap} (h : translate s (s.ctxOf t) t.core va i = .error x) :
    checkPlace s t va i = .error (.seen (s.placesAt t [va]) (.trap x)) := by
  rw [checkPlace, h]

theorem checkPlace_ok {p : Place} (h : checkPlace s t va i = .ok p) : translate s (s.ctxOf t) t.core va i = .ok p := by
  unfold checkPlace at h
  split at h
  · cases h
  · next hp => rw [hp, Except.ok.inj h]

theorem windowPlace_inWindow {c : Context} {core : Nat} {p : Place} (h : windowPlace s c core va i = .ok p) : InWindow p := by
  unfold windowPlace at h
  dsimp only at h
  split_ifs at h <;> rw [Except.ok.injEq] at h <;> subst h
  · exact .inl rfl
  · exact .inr ⟨_, rfl⟩

theorem barrierPlace_inWindow {p : Place} (h : barrierPlace s t va i = .ok p) : InWindow p := by
  unfold barrierPlace raiseAt at h
  split_ifs at h with _ hv
  have ht := checkPlace_ok h
  rw [translate_window (Nat.not_lt.mp hv)] at ht
  exact windowPlace_inWindow ht

/-- An address at or above the windows that lies in neither does not translate, whatever the access. -/
theorem translate_of_missesWindows (h : missesWindows s va) (c : Context) (core : Nat) (i : Intent) :
    translate s c core va i = .error (.at .translation va 2) := by
  rcases h with ⟨hv, hl⟩ | ⟨hv, hl, hc⟩
  · have hl' : localWindow ≤ va.toNat := by unfold localWindow; omega
    exact (translate_localWindow hl').1 (by unfold localWindow; omega)
  · refine translate_vaultWindow_absent hv hl fun hthere => ?_
    obtain ⟨h1, h2, h3⟩ := hthere
    rcases hc with hc | hc | hc
    · exact absurd h1 (Nat.not_lt.mpr hc)
    · exact absurd h2 (Nat.not_lt.mpr hc)
    · exact absurd (hc.symm.trans h3) (by decide)

theorem placesAt_of_missesWindows (h : missesWindows s va) : s.placesAt t [va] = [] := by
  let open_ : State := { s with dev := { s.dev with lostDies := 0 } }
  have hmiss : missesWindows open_ va := h
  have hnamed : s.named (s.ctxOf t) t.core va = [] := by
    unfold State.named
    dsimp only
    rw [translate_of_missesWindows hmiss]
  rw [State.placesAt, List.flatMap_cons, List.flatMap_nil, hnamed, List.append_nil]

/-- What an instruction that stops wherever its barrier word has no place answers, check by check. -/
def StopsAtPlace (s : State) (t : Team) (va : Addr) (i : Intent) (r : Result) : Prop :=
  (va.toNat % 8 ≠ 0 → r = .next (s.takeTrap t ⟨.misaligned, va, 0, none, none⟩))
  ∧ (va.toNat % 8 = 0 → va.toNat < vaultWindow → r = .next (s.trapped t ⟨.permission, va, 3, none, none⟩))
  ∧ (va.toNat % 8 = 0 → missesWindows s va → r = .next (s.trapped t ⟨.translation, va, 2, none, none⟩))
  ∧ (va.toNat % 8 = 0 → vaultWindow ≤ va.toNat →
    ∀ x, translate s (s.ctxOf t) t.core va i = .error x → r = .next (s.refusedAt t va x))

theorem stopsAtPlace_of_error {r : Result} (h : ∀ e, barrierPlace s t va i = .error e → r = finish s t (.error e)) :
    StopsAtPlace s t va i r := by
  refine ⟨fun h8 => ?_, fun h8 hv => ?_, fun h8 hm => ?_, fun h8 hv x hx => ?_⟩
  · rw [h _ (barrierPlace_misaligned h8), finish_trap]
    rfl
  · rw [h _ (barrierPlace_below h8 hv), finish_trap]
    rfl
  · have hv : vaultWindow ≤ va.toNat := hm.elim (·.1) (·.1)
    rw [h _ ((barrierPlace_window h8 hv).trans (checkPlace_error (translate_of_missesWindows hm _ _ _))),
      placesAt_of_missesWindows hm, finish_seen, touch_nil, finish_trap]
    rfl
  · rw [h _ ((barrierPlace_window h8 hv).trans (checkPlace_error hx)), finish_seen, finish_trap]
    rfl

end BarrierPlace

/-! ### Accesses in flight -/

section Busy
variable {s : State} {t : Team} (h : s.busy t = false)
include h

theorem team_ne_of_not_busy {a : Access} (ha : a ∈ s.flight.accesses) : a.team ≠ t.id := by
  have := List.any_eq_false.mp h a ha
  simpa using this

theorem heldBack_of_not_busy {b : Access} (hb : b.team = t.id) : s.heldBack b = false := by
  refine List.any_eq_false.mpr fun a ha => ?_
  simp [hb, team_ne_of_not_busy h ha]

theorem own_accesses_of_not_busy (p : Access → Bool) : (s.flight.accesses.filter fun a => a.team == t.id && p a) = [] := by
  refine List.filter_eq_nil_iff.mpr fun a ha => ?_
  simp [team_ne_of_not_busy h ha]

end Busy

/-! ### ARRIVE and its kinds -/

/-- The operands of ARRIVE's kinds, and of BWAIT below. -/
def arriveShape (d : Reg) (a : Src) : Shape := { srcs := useP [a], dsts := [.s d], ordered := true }

theorem scalarSources_arriveShape (d : Reg) (a : Src) : ScalarSources (arriveShape d a) :=
  ⟨rfl, by simp [arriveShape, useP, Opnd.vectors, Opnd.maskRegs]⟩

theorem usedUpS_arriveShape (d : Reg) (a : Src) :
    usedUpS (arriveShape d a) = (lastPairs [a]).filter fun r => r != d := by
  simp only [usedUpS, arriveShape, List.append_nil, keeps_dst, flatMap_scalars_useP]

theorem setS_advance (t : Team) (d : Reg) (v : Word) : t.advance.setS d v = (t.setS d v).advance := by
  rw [setS_eq, setS_eq]
  rfl

/-- The team past an arrival that answers `v`. -/
def arrivedWith (t : Team) (d : Reg) (a : Src) (v : Word) : Team :=
  { t.past with sregs := scalarsAfter t (lastPairs [a]) [(d, v)] }

theorem retire_arrive (t : Team) (d : Reg) (a : Src) (v : Word) :
    (arriveShape d a).retire (t.begin.advance.setS d v) = arrivedWith t d a v := by
  rw [setS_advance, retire_setS_advance (scalarSources_arriveShape d a) (usedUpS_arriveShape d a)]
  rfl

theorem retire_arrive_poisoned (t : Team) (d : Reg) (a : Src) (v : Word) (x : Trap) :
    (arriveShape d a).retire ((t.begin.advance.setSP d v true).pend x) = { arrivedWith t d a v with
      sregs := withPoison (arrivedWith t d a v).sregs [(d, true)], traps := t.traps ++ [x] } := by
  have hregs := killedS_written_poisoned (lastPairs [a]) d v t
  rw [retire_of_scalarSources (scalarSources_arriveShape d a), usedUpS_arriveShape, setSP_eq]
  change _ = { arrivedWith t d a v with
      sregs := withPoison (scalarsAfter t (lastPairs [a]) [(d, v)]) [(d, true)], traps := t.traps ++ [x] }
  rw [← hregs]
  rfl

/-- The state that an arrival on the word at `p` makes before it completes: a poisoned word is not written. -/
def arrivalState (drop : Bool) (d : Reg) (a : Src) (s : State) (t : Team) (p : Place) : State :=
  if s.mem.anyBad p.loc 8 then ((s.touch t.ctx [p]).putTeam t.begin).putTeam
    ((t.begin.advance.setSP d (t.sval d) true).pend (poisonTrap t (t.pair a.reg)))
  else (((s.touch t.ctx [p]).putTeam t.begin).putTeam
      (t.begin.advance.setS d (.ofNat 32 (phase (leNat (s.readPlace p 8)))))).teamWrite (towerOf t.core) p
    (leBytes 8 (arrival drop (leNat (s.readPlace p 8))))

/-- The four kinds: DROP lowers EXPECT, PUB only waits for more of what came before. -/
theorem exec_arrive_kinds : ∀ kind ∈ ([(.arrive, false), (.arrivePub, false), (.arriveDrop, true), (.arriveDropPub, true)] :
    List ((Reg → Src → Instr) × Bool)), ∃ pub, ∀ d a s, exec (kind.1 d a) s = arrive kind.2 pub d a s := by
  simp only [List.forall_mem_cons, List.not_mem_nil, false_imp_iff, implies_true, and_true]
  exact ⟨⟨false, fun _ _ _ => rfl⟩, ⟨true, fun _ _ _ => rfl⟩, ⟨false, fun _ _ _ => rfl⟩, ⟨true, fun _ _ _ => rfl⟩⟩

section Arrive
variable {s : State} {t : Team} {d : Reg} {a : Src} {drop pub : Bool} (hi : Issues s t (arriveShape d a))
include hi

theorem arrive_stopped {e : Stop} (hp : barrierPlace s t (t.pair a.reg) .write = .error e) :
    arrive drop pub d a s = finish s t (.error e) := by
  have hp' : barrierPlace (s.putTeam t.begin) t.begin (t.begin.pair a.reg) .write = .error e := hp
  unfold arrive
  refine runState_stopped hi.1 hi.2 ?_
  dsimp only
  rw [hp']

variable (hb : s.busy t = false) (hu : s.unwatched) {p : Place} (hp : barrierPlace s t (t.pair a.reg) .write = .ok p)
include hb hu hp

/-- Nothing in flight holds the arrival back: it is made, and the instruction completes. -/
theorem arrive_placed :
    arrive drop pub d a s = .next ((arrivalState drop d a s t p).modTeam t.id (arriveShape d a).retire) := by
  have hp' : barrierPlace (s.putTeam t.begin) t.begin (t.begin.pair a.reg) .write = .ok p := hp
  have hheld (b : Access) (h : b.team = t.id) : (s.putTeam t.begin).heldBack b = false := heldBack_of_not_busy hb h
  have hown : ((s.putTeam t.begin).flight.accesses.filter fun x => x.team == t.begin.id && !x.kind.isReply) = [] :=
    own_accesses_of_not_busy hb _
  have hu' : (arrivalState drop d a s t p).unwatched := by
    have ht := unwatched_putTeam (unwatched_touch hu t.ctx [p]) t.begin
    unfold arrivalState
    split
    · exact unwatched_putTeam ht _
    · exact unwatched_teamWrite (unwatched_putTeam ht _) (barrierPlace_inWindow hp) _ _
  unfold arrive
  refine runState_next_unwatched hi.1 hi.2 (xs := [⟨t.pair a.reg, 8, false, none⟩, ⟨t.pair a.reg, 8, true, none⟩]) ?_ hu'
  dsimp only
  rw [hp']
  dsimp only
  rw [hheld _ rfl, hown]
  have hgo : ¬ (false || pub && ([] : List Access) != []) = true := by simp
  refine (if_neg hgo).trans ?_
  by_cases hbad : s.mem.anyBad p.loc 8 = true
  · rw [arrivalState, if_pos hbad]
    exact if_pos hbad
  · rw [arrivalState, if_neg hbad]
    exact if_neg hbad

/-- The arrival on a clean word. -/
theorem arrive_clean (hbad : s.mem.anyBad p.loc 8 = false) : arrive drop pub d a s =
    .next (((s.touch t.ctx [p]).putTeam (arrivedWith t d a (.ofNat 32 (phase (leNat (s.readPlace p 8)))))).teamWrite
      (towerOf t.core) p (leBytes 8 (arrival drop (leNat (s.readPlace p 8))))) := by
  have hid (v : Word) : (t.begin.advance.setS d v).id = t.id := by simp
  rw [arrive_placed hi hb hu hp, arrivalState, hbad, if_neg Bool.false_ne_true,
    ← teamWrite_modTeam (barrierPlace_inWindow hp) (keepsWait_retire (scalarSources_arriveShape d a)),
    putTeam_modTeam_of _ (begin_id t) (hid _) (retire_id _), retire_arrive]

theorem arrive_poisoned (hbad : s.mem.anyBad p.loc 8 = true) : arrive drop pub d a s =
    .next ((s.touch t.ctx [p]).putTeam { arrivedWith t d a (t.sval d) with
      sregs := withPoison (arrivedWith t d a (t.sval d)).sregs [(d, true)]
      traps := t.traps ++ [poisonTrap t (t.pair a.reg)] }) := by
  have hid (x : Trap) : ((t.begin.advance.setSP d (t.sval d) true).pend x).id = t.id := by simp [Team.pend]
  rw [arrive_placed hi hb hu hp, arrivalState, if_pos hbad, putTeam_modTeam_of _ (begin_id t) (hid _) (retire_id _),
    retire_arrive_poisoned]

end Arrive

/-! ### BWAIT -/

def bwaitShape (a b : Src) : Shape := { srcs := useP [a] ++ useS [b], ordered := true }

theorem scalarSources_bwaitShape (a b : Src) : ScalarSources (bwaitShape a b) :=
  ⟨rfl, by simp [bwaitShape, useP, useS, Opnd.vectors, Opnd.maskRegs]⟩

theorem usedUpS_bwaitShape (a b : Src) : usedUpS (bwaitShape a b) = lastPairs [a] ++ lastOf [b] := by
  simp only [usedUpS, bwaitShape, List.append_nil, List.filter_append, List.flatMap_append, flatMap_scalars_useP,
    flatMap_scalars_useS]
  simp

/-- The team past a BWAIT. -/
def waited (t : Team) (a b : Src) : Team := { t.past with sregs := scalarsAfter t (lastPairs [a] ++ lastOf [b]) [] }

theorem retire_bwait (t : Team) (a b : Src) : (bwaitShape a b).retire t.begin.advance = waited t a b := by
  rw [retire_of_scalarSources (scalarSources_bwaitShape a b), usedUpS_bwaitShape]
  rfl

section Bwait
variable {s : State} {t : Team} {a b : Src}

/-- A team that has waited completes without a second look. -/
theorem exec_bwait_woken (hc : s.curTeam = some t) (hw : t.cond = .woken) (hu : s.unwatched) :
    exec (.bwait a b) s = .next (s.putTeam (waited t a b)) := by
  change execBwait a b s = _
  unfold execBwait
  rw [hc]
  refine (if_pos hw).trans ?_
  rw [← retire_bwait]
  exact completed_unwatched (unwatched_putTeam hu _) t _

variable (hi : Issues s t (bwaitShape a b)) (hw : t.cond ≠ .woken)
include hi hw

theorem exec_bwait_stopped {e : Stop} (hp : barrierPlace s t (t.pair a.reg) .read = .error e) :
    exec (.bwait a b) s = finish s t (.error e) := by
  have hk : Shape.check { srcs := [⟨.pair a.reg, a.last⟩, ⟨.s b.reg, b.last⟩], ordered := true } t s = none := hi.2
  change execBwait a b s = _
  unfold execBwait
  rw [hi.1]
  refine (if_neg hw).trans ?_
  dsimp only
  rw [hk, hp]

variable (hb : s.busy t = false) {p : Place} (hp : barrierPlace s t (t.pair a.reg) .read = .ok p)
include hb hp

/-- With a place, what BWAIT does turns on the word. -/
theorem exec_bwait_placed : exec (.bwait a b) s =
    if s.mem.anyBad p.loc 8 then finish s t (.error (.seen [p] (.trap (.at .poison (t.pair a.reg) 1))))
    else if phase (leNat (s.readPlace p 8)) = (t.sval b.reg).toNat then
      .next ((s.touch t.ctx [p]).putTeam (parked s t (.parkedBarrier p.loc (t.sval b.reg))))
    else s.completed t ((s.touch t.ctx [p]).putTeam (waited t a b)) [⟨t.pair a.reg, 8, false, none⟩] := by
  have hk : Shape.check { srcs := [⟨.pair a.reg, a.last⟩, ⟨.s b.reg, b.last⟩], ordered := true } t s = none := hi.2
  have hheld : s.heldBack (t.access (.absolute (t.pair a.reg)) p 8 (.strongLoad (.scalar 0 true 0)) (some .co) none false)
      = false := heldBack_of_not_busy hb rfl
  rw [← retire_bwait]
  change execBwait a b s = _
  unfold execBwait
  rw [hi.1]
  refine (if_neg hw).trans ?_
  dsimp only
  rw [hk, hp]
  dsimp only
  rw [hheld]
  rfl

theorem exec_bwait_poisoned (hbad : s.mem.anyBad p.loc 8 = true) :
    exec (.bwait a b) s = .next ((s.touch t.ctx [p]).takeTrap t ⟨.poison, t.pair a.reg, 1, none, none⟩) := by
  rw [exec_bwait_placed hi hw hb hp, if_pos hbad, finish_seen, finish_trap]
  rfl

variable (hbad : s.mem.anyBad p.loc 8 = false)
include hbad

theorem exec_bwait_passes (hu : s.unwatched) (hne : phase (leNat (s.readPlace p 8)) ≠ (t.sval b.reg).toNat) :
    exec (.bwait a b) s = .next ((s.touch t.ctx [p]).putTeam (waited t a b)) := by
  rw [exec_bwait_placed hi hw hb hp, if_neg (Bool.eq_false_iff.mp hbad), if_neg hne]
  exact completed_unwatched (unwatched_putTeam (unwatched_touch hu _ _) _) t _

theorem exec_bwait_parks (he : phase (leNat (s.readPlace p 8)) = (t.sval b.reg).toNat) : exec (.bwait a b) s =
    .next ((s.touch t.ctx [p]).putTeam (parked s t (.parkedBarrier p.loc (t.sval b.reg)))) := by
  rw [exec_bwait_placed hi hw hb hp, if_neg (Bool.eq_false_iff.mp hbad), if_pos he]

end Bwait

end Sys2Proof.Proofs
end

section
/-!
The obligation on barriers.
-/
namespace Sys2Proof.Proofs
open Sys2Proof.Machine Sys2Proof.Laws

/-- Settles O38: ARRIVE's kinds by `arrive_clean` and `arrive_poisoned`, with the word of `arrival_eq`, BWAIT by its cases, and
the stops of both by `stopsAtPlace_of_error`. -/
theorem barriers : Obligations.Barriers := by
  unfold Obligations.Barriers
  refine ⟨?_, fun a b s t hc hw hu => exec_bwait_woken hc hw hu, fun a b s t hi hw hb hu => ?_⟩
  · intro kind hkind d a s t hi hb hu va
    obtain ⟨pub, hrun⟩ := exec_arrive_kinds kind hkind
    obtain ⟨h1, h2, h3, h4⟩ := stopsAtPlace_of_error fun e he => (hrun d a s).trans (arrive_stopped hi he)
    refine ⟨h1, h2, h3, h4, ?_⟩
    intro p hp w u
    refine ⟨fun hbad => ?_, fun hbad => ?_⟩
    · rw [hrun, arrive_clean hi hb hu hp hbad, ofNat_phase, arrival_eq]
      rfl
    · rw [hrun, arrive_poisoned hi hb hu hp hbad]
      rfl
  · obtain ⟨h1, h2, h3, h4⟩ := stopsAtPlace_of_error fun e he => exec_bwait_stopped hi hw he
    refine ⟨h1, h2, h3, h4, fun p hp => ⟨fun hbad => ?_, fun hbad hne => ?_, fun hbad he => ?_⟩⟩
    · exact exec_bwait_poisoned hi hw hb hp hbad
    · exact exec_bwait_passes hi hw hb hp hbad hu (mt (phase_eq_iff _ _).1 hne)
    · exact exec_bwait_parks hi hw hb hp hbad ((phase_eq_iff _ _).2 he)

end Sys2Proof.Proofs
end

section
/-!
SUPPORT. The restoring recurrence: what its remainders and digits are after any number of steps, that the model's loop runs
it, and the quotient and remainder that it ends with (05 R80).
-/
namespace Sys2Proof.Proofs
open Sys2Proof.Machine Sys2Proof.Laws

/-- The weighted sum of the first `j` digits of the recurrence. -/
def quotientDigits (N D : Nat) : Nat → Nat
  | 0 => 0
  | j + 1 => 2 * quotientDigits N D j + (restoring N D (j + 1)).2

theorem restoring_succ (N D j : Nat) : restoring N D (j + 1) =
    if D * 2 ^ 32 ≤ 2 * (restoring N D j).1 then (2 * (restoring N D j).1 - D * 2 ^ 32, 1)
    else (2 * (restoring N D j).1, 0) := rfl

theorem restoring_digit (N D j : Nat) : (restoring N D j).2 = 0 ∨ (restoring N D j).2 = 1 := by
  cases j with
  | zero => exact .inl rfl
  | succ j => rw [restoring_succ]; split <;> simp

/-! ### The invariants of the recurrence -/

/-- Remainder and digits together are the dividend, shifted. -/
theorem restoring_sum (N D j : Nat) : (restoring N D j).1 + quotientDigits N D j * (D * 2 ^ 32) = N * 2 ^ j := by
  induction j with
  | zero => simp [restoring, quotientDigits]
  | succ j ih =>
    rw [quotientDigits, restoring_succ, pow_succ 2 j, ← mul_assoc N, ← ih]
    split
    next h => rw [add_mul, one_mul, mul_assoc 2]; omega
    next => rw [add_zero, mul_assoc 2]; omega

/-- Each remainder lies below the shifted divisor, if the dividend does. -/
theorem restoring_lt {N D : Nat} (h : N < D * 2 ^ 32) (j : Nat) : (restoring N D j).1 < D * 2 ^ 32 := by
  induction j with
  | zero => exact h
  | succ j ih => rw [restoring_succ]; split <;> dsimp only <;> omega

/-- After 32 digits the remainder is that of the division, shifted, and the digits are the quotient. -/
theorem restoring_end {N D : Nat} (hN : N < 2 ^ 32) (hD : D ≠ 0) :
    quotientDigits N D 32 = N / D ∧ (restoring N D 32).1 / 2 ^ 32 = N % D := by
  have hlt := restoring_lt (N := N) (D := D) (hN.trans_le (Nat.le_mul_of_pos_left _ (Nat.pos_of_ne_zero hD))) 32
  have hsum := restoring_sum N D 32
  rw [← mul_assoc] at hsum
  have hr : (restoring N D 32).1 / 2 ^ 32 < D := Nat.div_lt_of_lt_mul (by rwa [mul_comm])
  have hN' : (restoring N D 32).1 / 2 ^ 32 + D * quotientDigits N D 32 = N := by
    rw [mul_comm D]; omega
  obtain ⟨hq, hm⟩ := (Nat.div_mod_unique (Nat.pos_of_ne_zero hD)).2 ⟨hN', hr⟩
  exact ⟨hq.symm, hm.symm⟩

/-- By 0, every digit is 1 and nothing is taken off. -/
theorem restoring_by_zero (N j : Nat) : quotientDigits N 0 j = 2 ^ j - 1 ∧ (restoring N 0 j).1 = N * 2 ^ j := by
  refine ⟨?_, by simpa using restoring_sum N 0 j⟩
  induction j with
  | zero => rfl
  | succ j ih =>
    have hpos := Nat.two_pow_pos j
    rw [quotientDigits, ih, restoring_succ, if_pos (by simp)]
    dsimp only
    omega

/-! ### The model's loop -/

theorem intDigit_restoring (N D j : Nat) :
    intDigit D (restoring N D j).1 = (((restoring N D (j + 1)).2 : Int), (restoring N D (j + 1)).1) := by
  rw [intDigit, restoring_succ]
  split <;> rfl

/-- One step of the loop, on functions and for a digit of any name: with a state of the recurrence in it, the kernel would
compare the two sides by computing with `2 ^ 32` in unary. -/
theorem intLoop_succ {D w w' : Nat} {c : Int} (h : intDigit D w = (c, w')) (n : Nat) (q : Int) :
    intLoop D (n + 1) q w = intLoop D n (2 * q + c) w' := by
  have hstep : intLoop D (n + 1) = fun q w => intLoop D n (2 * q + (intDigit D w).1) (intDigit D w).2 := rfl
  rw [hstep]
  dsimp only
  rw [h]

/-- From the state after `j` digits, the loop goes on to the state after `n` more. -/
theorem intLoop_restoring (N D n j : Nat) : intLoop D n (quotientDigits N D j) (restoring N D j).1 =
    ((quotientDigits N D (j + n) : Int), (restoring N D (j + n)).1) := by
  induction n generalizing j with
  | zero => rw [Nat.add_zero]; rfl
  | succ n ih =>
    have hq : 2 * (quotientDigits N D j : Int) + ((restoring N D (j + 1)).2 : Int) = quotientDigits N D (j + 1) := by
      rw [quotientDigits]; exact (Nat.cast_add _ _).symm
    rw [intLoop_succ (intDigit_restoring N D j), hq, ih, Nat.add_assoc, Nat.add_comm 1 n]

end Sys2Proof.Proofs
end

section
/-!
SUPPORT. The digit continuation record of an integer division: what the model reads of it, and that it starts from the
state that the record holds or afresh (05 R84 to R86).
-/
namespace Sys2Proof.Proofs
open Sys2Proof.Machine Sys2Proof.Laws

/-! ### Fields and the digit field -/

/-- A field of a field. -/
theorem fld_fld {lo len base width : Nat} (h : lo + len ≤ width) (n : Nat) :
    fld lo len (fld base width n) = fld (base + lo) len n := by
  rw [fld.eq_1 base, fld_mod_two_pow h, fld, fld, Nat.div_div_eq_div_mul, ← pow_add]

/-- Digit `j` of the first element, in the digit field. -/
theorem digitBits_eq (r : Dcr) {j : Nat} (hj : j < 56) : digitBits r 0 (j + 1) = fld (2 * j) 2 r.digits := by
  rw [Dcr.digits, fld_fld (by omega)]
  rfl

theorem digits_lt (r : Dcr) : r.digits < 2 ^ 112 := Nat.mod_lt _ (by decide)

/-- Digit `j` lies in the part of the field from digit `k` on. -/
theorem fld_eq_zero_of_div {x k j : Nat} (h : x / 2 ^ (2 * k) = 0) (hk : k ≤ j) : fld (2 * j) 2 x = 0 := by
  have hlt : x < 2 ^ (2 * k) := (Nat.div_eq_zero_iff_lt (Nat.two_pow_pos _)).1 h
  have hle : 2 ^ (2 * k) ≤ 2 ^ (2 * j) := Nat.pow_le_pow_right (by decide) (by omega)
  rw [fld, Nat.div_eq_of_lt (hlt.trans_le hle), Nat.zero_mod]

/-- A field of `k + n` digits whose last `n` are zero holds `k` digits. -/
theorem div_eq_zero_of_fld {x k n : Nat} (hx : x < 2 ^ (2 * (k + n))) (h : ∀ j, k ≤ j → j < k + n → fld (2 * j) 2 x = 0) :
    x / 2 ^ (2 * k) = 0 := by
  induction n with
  | zero => exact Nat.div_eq_of_lt hx
  | succ n ih =>
    refine ih ?_ fun j hk hj => h j hk (by omega)
    have h4 : x / 2 ^ (2 * (k + n)) < 2 ^ 2 :=
      Nat.div_lt_of_lt_mul (by rwa [← pow_add])
    have h0 := h (k + n) (by omega) (by omega)
    rw [fld, Nat.mod_eq_of_lt h4] at h0
    exact (Nat.div_eq_zero_iff_lt (Nat.two_pow_pos _)).1 h0

/-! ### The digits as the model reads them -/

theorem digitsOf_succ {field k : Nat} {ds : List Int} {d : Int} (hds : digitsOf field k = some ds)
    (hd : digitOf (fld (2 * k) 2 field) = some d) : digitsOf field (k + 1) = some (ds ++ [d]) := by
  simp only [digitsOf, hds, hd]

/-- An invalid digit leaves no list of digits. -/
theorem digitsOf_invalid {field j k : Nat} (hj : j < k) (h : fld (2 * j) 2 field = 2) : digitsOf field k = none := by
  induction k with
  | zero => omega
  | succ k ih =>
    rcases Nat.lt_succ_iff_lt_or_eq.1 hj with hlt | rfl
    · simp only [digitsOf, ih hlt]
    · cases hd : digitsOf field j <;> simp only [digitsOf, hd, h, digitOf]

/-- The digits of the recurrence are read back, and their weighted sum is the quotient so far. -/
theorem digitsOf_restoring {N D field k : Nat} (h : ∀ j < k, fld (2 * j) 2 field = (restoring N D (j + 1)).2) :
    ∃ ds, digitsOf field k = some ds ∧ ds.foldl (fun q d => 2 * q + d) 0 = (quotientDigits N D k : Int) := by
  induction k with
  | zero => exact ⟨[], rfl, rfl⟩
  | succ k ih =>
    obtain ⟨ds, hds, hq⟩ := ih fun j hj => h j (by omega)
    have hd : digitOf (fld (2 * k) 2 field) = some ((restoring N D (k + 1)).2 : Int) := by
      rw [h k (by omega)]
      rcases restoring_digit N D (k + 1) with h0 | h1
      · rw [h0]; rfl
      · rw [h1]; rfl
    refine ⟨_, digitsOf_succ hds hd, ?_⟩
    rw [List.foldl_append, hq, quotientDigits]
    push_cast
    rfl

/-! ### Where a division starts (05 R86) -/

section Start
variable {t : Team} {op type N : Nat} {r : Dcr}

theorem usable_iff (r : Dcr) (op type rnd n : Nat) : r.usable op type rnd n = true ↔
    r.op = op ∧ r.type = type ∧ r.rnd = rnd ∧ r.count ≤ n ∧ r.spec = 0 := by
  simp [Dcr.usable, and_assoc]

theorem divStart_no_record (h : t.dcr? none = none) : divStart t op type N = (32, 0, N) := by
  simp only [divStart, h]

theorem divStart_record (h : t.dcr? none = some r) (hu : r.usable op type 0 32 = true) {ds : List Int}
    (hd : digitsOf r.digits r.count = some ds) (hz : r.digits / 2 ^ (2 * r.count) = 0) :
    divStart t op type N = (32 - r.count, ds.foldl (fun q d => 2 * q + d) 0, r.residual) := by
  simp only [divStart, h, hu, hd, hz, if_true]

/-- A record that fails a test of R86 is as none. -/
theorem divStart_discarded (h : t.dcr? none = some r) (hd : discarded op 32 0 type 1 r) : divStart t op type N = (32, 0, N) := by
  by_cases hu : r.usable op type 0 32 = true
  · obtain ⟨hop, htype, hrnd, hcount, hspec⟩ := (usable_iff ..).1 hu
    rcases hd with h1 | h1 | h1 | h1 | h1 | ⟨i, hi, j, hj, hj', hdigit⟩
    · exact absurd hop h1
    · exact absurd htype h1
    · exact absurd hrnd h1
    · exact absurd hcount (Nat.not_le.2 h1)
    · exact absurd hspec h1
    · obtain rfl : i = 0 := by omega
      obtain ⟨j, rfl⟩ : ∃ k, j = k + 1 := ⟨j - 1, by omega⟩
      rw [digitBits_eq r (by omega)] at hdigit
      change (j + 1 ≤ r.count ∧ _) ∨ (r.count < j + 1 ∧ _) at hdigit
      rcases hdigit with ⟨hk, h2⟩ | ⟨hk, h0⟩
      · simp only [divStart, h, hu, if_true, digitsOf_invalid hk h2]
      · have hz : ¬ r.digits / 2 ^ (2 * r.count) = 0 := fun e => h0 (fld_eq_zero_of_div e (by omega))
        simp only [divStart, h, hu, if_true, if_neg hz]
        split <;> rfl
  · simp only [divStart, h, hu, Bool.false_eq_true, if_false]

/-- A start that is the state of the recurrence after some number of digits. -/
def OnRecurrence (N D : Nat) (start : Nat × Int × Nat) : Prop :=
  ∃ k ≤ 32, start = (32 - k, (quotientDigits N D k : Int), (restoring N D k).1)

theorem onRecurrence_fresh (N D : Nat) : OnRecurrence N D (32, 0, N) := ⟨0, by decide, rfl⟩

/-- The record of a stop, in the model's terms: usable, and with the recurrence's digits up to its count and no bit beyond. -/
theorem fields_of_divisionRecord {signed : Bool} {a b : Word} (hr : divisionRecord op signed t a b r) :
    let w := restoring (divMagnitude signed a) (divMagnitude signed b)
    r.count ≤ 32 ∧ r.usable op (if signed then 0x0A else 0x0B) 0 32 = true
      ∧ (∀ j < 56, fld (2 * j) 2 r.digits = if j < r.count then (w (j + 1)).2 else 0) ∧ r.residual = (w r.count).1 := by
  obtain ⟨-, -, k, hk, ⟨hop, hcount, hrnd, htype, -, hspec⟩, hdigits, hres⟩ := hr
  obtain rfl : r.count = k := hcount
  exact ⟨hk, (usable_iff ..).2 ⟨hop, htype, hrnd, hk, hspec⟩,
    fun j hj => (digitBits_eq r hj).symm.trans (hdigits (j + 1) (by omega) (by omega)), hres⟩

/-- The record of a stop gives the state of the recurrence at the stop. -/
theorem divStart_divisionRecord {signed : Bool} {a b : Word} (h : t.dcr? none = some r) (hr : divisionRecord op signed t a b r) :
    OnRecurrence (divMagnitude signed a) (divMagnitude signed b) (divStart t op (if signed then 0x0A else 0x0B) N) := by
  obtain ⟨hk, hu, hfld, hres⟩ := fields_of_divisionRecord hr
  obtain ⟨ds, hds, hq⟩ := digitsOf_restoring fun j hj => (hfld j (by omega)).trans (if_pos hj)
  have hz : r.digits / 2 ^ (2 * r.count) = 0 := div_eq_zero_of_fld (n := 56 - r.count)
    (by rw [Nat.add_sub_cancel' (by omega)]; exact digits_lt r)
    fun j hkj hj => (hfld j (by omega)).trans (if_neg (by omega))
  refine ⟨r.count, hk, ?_⟩
  rw [divStart_record h hu hds hz, hq, hres]

/-- Every record that a scalar division of `a` by `b` may find is that of a stop of this division, or fails a test of R86. -/
def RecordsOf (op : Nat) (signed : Bool) (a b : Word) (t : Team) : Prop :=
  ∀ r ∈ t.dcrs, r.pc = t.pc → r.lane = none →
    divisionRecord op signed t a b r ∨ discarded op 32 0 (if signed then 0x0A else 0x0B) 1 r

/-- A division starts from a state of its own recurrence, the first one where no record serves. -/
theorem divStart_onRecurrence {signed : Bool} {a b : Word} (h : RecordsOf op signed a b t) :
    OnRecurrence (divMagnitude signed a) (divMagnitude signed b)
      (divStart t op (if signed then 0x0A else 0x0B) (divMagnitude signed a)) := by
  cases hr : t.dcr? none with
  | none =>
    rw [divStart_no_record hr]
    exact onRecurrence_fresh ..
  | some r =>
    have hp := List.find?_some hr
    simp only [Bool.and_eq_true, beq_iff_eq] at hp
    obtain ⟨hlane, hpc⟩ := hp
    rcases h r (List.mem_of_find?_eq_some hr) hpc hlane with hd | hd
    · exact divStart_divisionRecord hr hd
    · rw [divStart_discarded hr hd]
      exact onRecurrence_fresh ..

end Start

end Sys2Proof.Proofs
end

section
/-!
SUPPORT. The quotient and the remainder of a scalar division with their signs (05 R80), and the team past it.
-/
namespace Sys2Proof.Proofs
open Sys2Proof.Machine Sys2Proof.Laws

/-! ### Signs -/

/-- The truncated quotient is that of the magnitudes, negative where the signs differ. -/
theorem tdiv_eq_magnitudes (x y : Int) : x.tdiv y =
    if decide (x < 0) != decide (y < 0) then -((x.natAbs / y.natAbs : Nat) : Int) else (x.natAbs / y.natAbs : Nat) := by
  have hq : ((x.natAbs / y.natAbs : Nat) : Int) = (x.natAbs : Int).tdiv y.natAbs := Int.ofNat_tdiv _ _
  rw [hq]
  rcases Int.lt_or_le x 0 with hx | hx <;> rcases Int.lt_or_le y 0 with hy' | hy'
  · rw [Int.ofNat_natAbs_of_nonpos hx.le, Int.ofNat_natAbs_of_nonpos hy'.le, Int.neg_tdiv_neg]
    simp [hx, hy']
  · rw [Int.ofNat_natAbs_of_nonpos hx.le, Int.natAbs_of_nonneg hy', Int.neg_tdiv, neg_neg]
    simp [hx, Int.not_lt.2 hy']
  · rw [Int.natAbs_of_nonneg hx, Int.ofNat_natAbs_of_nonpos hy'.le, Int.tdiv_neg, neg_neg]
    simp [hy', Int.not_lt.2 hx]
  · rw [Int.natAbs_of_nonneg hx, Int.natAbs_of_nonneg hy']
    simp [Int.not_lt.2 hx, Int.not_lt.2 hy']

theorem tmod_natAbs (x y : Int) : x.tmod y.natAbs = x.tmod y := by
  obtain h | h := y.natAbs_eq
  · rw [← h]
  · rw [h, Int.tmod_neg, Int.natAbs_neg, Int.natAbs_natCast]

/-- The remainder is that of the magnitudes, negative where the dividend is. -/
theorem tmod_eq_magnitudes (x y : Int) : x.tmod y =
    if x < 0 then -((x.natAbs % y.natAbs : Nat) : Int) else (x.natAbs % y.natAbs : Nat) := by
  have hr : ((x.natAbs % y.natAbs : Nat) : Int) = (x.natAbs : Int).tmod y.natAbs := Int.ofNat_tmod _ _
  rw [hr]
  split
  next h => rw [Int.ofNat_natAbs_of_nonpos h.le, Int.neg_tmod, neg_neg, tmod_natAbs]
  next h => rw [Int.natAbs_of_nonneg (Int.not_lt.1 h), tmod_natAbs]

theorem divMagnitude_lt (signed : Bool) (x : Word) : divMagnitude signed x < 2 ^ 32 := by
  cases signed with
  | false => exact x.isLt
  | true =>
    have h1 := x.toInt_lt
    have h2 := x.le_toInt
    rw [divMagnitude, if_pos rfl]
    omega

theorem divMagnitude_eq_zero_iff (signed : Bool) (x : Word) : divMagnitude signed x = 0 ↔ x = 0 := by
  cases signed with
  | false => exact BitVec.toNat_inj (y := 0#32)
  | true => rw [divMagnitude, if_pos rfl, Int.natAbs_eq_zero]; exact BitVec.toInt_inj (y := 0#32)

/-! ### Quotient and remainder -/

/-- What the recurrence ends with: the quotient and the remainder of the magnitudes or, by 0, 32 digits 1 and the dividend. -/
theorem restoring_end_magnitudes (signed : Bool) (a b : Word) :
    let N := divMagnitude signed a
    let D := divMagnitude signed b
    quotientDigits N D 32 = (if b = 0 then 2 ^ 32 - 1 else N / D) ∧ (restoring N D 32).1 / 2 ^ 32 = N % D := by
  intro N D
  by_cases hb : b = 0
  · have hD : D = 0 := (divMagnitude_eq_zero_iff signed b).2 hb
    obtain ⟨hq, hr⟩ := restoring_by_zero N 32
    rw [hD, hq, hr, if_pos hb, Nat.mod_zero]
    exact ⟨rfl, Nat.mul_div_cancel _ (Nat.two_pow_pos 32)⟩
  · rw [if_neg hb]
    exact restoring_end (divMagnitude_lt signed a) (mt (divMagnitude_eq_zero_iff signed b).1 hb)

/-- A word of a sign and a magnitude (the sign step of 05 R80). -/
def signedWord (negative : Bool) (n : Nat) : Word := .ofInt 32 (if negative then -(n : Int) else n)

theorem signedWord_false (n : Nat) : signedWord false n = .ofNat 32 n := BitVec.ofInt_natCast ..

theorem quotient_sign (signed : Bool) (a b : Word) :
    signedWord ((signed && decide (a.toInt < 0)) != (signed && decide (b.toInt < 0)))
      (if b = 0 then 2 ^ 32 - 1 else divMagnitude signed a / divMagnitude signed b) = quotientOf signed a b := by
  by_cases hb : b = 0
  · subst hb
    rw [if_pos rfl, quotientOf, if_pos rfl]
    by_cases h : signed = true ∧ a.toInt < 0
    · obtain ⟨rfl, ha⟩ := h
      simp [signedWord, ha]
    · have h' : (signed && decide (a.toInt < 0)) = false := by simpa using h
      simp [h, h', signedWord]
  · rw [if_neg hb, quotientOf, if_neg hb]
    cases signed with
    | false => exact signedWord_false _
    | true => simp only [signedWord, Bool.true_and, if_true, tdiv_eq_magnitudes, divMagnitude]

/-- The remainder by 0 is the dividend, as `tmod` and `%` have it. -/
theorem remainderOf_eq (signed : Bool) (a b : Word) : remainderOf signed a b =
    if signed then .ofInt 32 (a.toInt.tmod b.toInt) else .ofNat 32 (a.toNat % b.toNat) := by
  unfold remainderOf
  split
  next hb => subst hb; cases signed <;> simp
  next => rfl

theorem remainder_sign (signed : Bool) (a b : Word) :
    signedWord (signed && decide (a.toInt < 0)) (divMagnitude signed a % divMagnitude signed b) = remainderOf signed a b := by
  rw [remainderOf_eq]
  cases signed with
  | false => exact signedWord_false _
  | true => simp only [signedWord, Bool.true_and, if_true, tmod_eq_magnitudes, divMagnitude, decide_eq_true_eq]

/-- The model's division, by the state that its loop ends in. -/
theorem divide_of_loop {t : Team} {op : Nat} {signed : Bool} {a b : Word} {n w0 quo w : Nat} {q0 : Int}
    (hstart : divStart t op (if signed then 0x0A else 0x0B) (divMagnitude signed a) = (n, q0, w0))
    (hloop : intLoop (divMagnitude signed b) n q0 w0 = ((quo : Int), w)) : divide t signed op a b =
      (signedWord ((signed && decide (a.toInt < 0)) != (signed && decide (b.toInt < 0))) quo,
        signedWord (signed && decide (a.toInt < 0)) (w / 2 ^ 32)) := by
  simp only [divide, hstart, hloop, signedWord]

/-- A division gives the truncated quotient and remainder, whatever record it goes on from. -/
theorem divide_eq {t : Team} {op : Nat} {signed : Bool} {a b : Word} (h : RecordsOf op signed a b t) :
    divide t signed op a b = (quotientOf signed a b, remainderOf signed a b) := by
  obtain ⟨k, hk, hstart⟩ := divStart_onRecurrence h
  obtain ⟨hq, hr⟩ := restoring_end_magnitudes signed a b
  have hloop := intLoop_restoring (divMagnitude signed a) (divMagnitude signed b) (32 - k) k
  rw [Nat.add_sub_cancel' hk] at hloop
  rw [divide_of_loop hstart hloop, hq, hr, quotient_sign, remainder_sign]

/-! ### The team past a division -/

/-- The operands of the scalar forms with a lookahead field. -/
def lookaheadShape (as : List Src) (d : Reg) (la : BitVec 4) : Shape := { srcs := useS as, dsts := [.s d], la := la.toNat }

theorem promise_lookaheadShape (as : List Src) (d : Reg) (la : BitVec 4) (t : Team) :
    promisesAged t ++ (lookaheadShape as d la).promise t = promisesAfter t la (as.map fun a => .s a.reg) [.s d] := by
  have hla : la.toNat = 0 ↔ la = 0#4 := BitVec.toNat_inj (y := 0#4)
  simp only [promisesAfter, Shape.promise, lookaheadShape, hla, useS, List.append_nil, List.map_map, Bool.false_eq_true,
    if_false, List.nil_append, Function.comp_def]

/-- One clean scalar word written, the instruction past, and its promise open. -/
theorem retire_lookaheadShape (as : List Src) (d : Reg) (la : BitVec 4) (u : Team) (v : Word) :
    (lookaheadShape as d la).retire (u.setS d v).advance = { u with
      pc := u.pc + 4#64, sregs := scalarsAfter u (lastOf as) [(d, v)]
      promises := promisesAfter u la (as.map fun a => .s a.reg) [.s d], issued := u.issued + 1 } := by
  have hS : usedUpS (lookaheadShape as d la) = (lastOf as).filter fun r => r != d := usedUpS_useS as d
  have hV : usedUpV (lookaheadShape as d la) = [] := by simp [usedUpV, lookaheadShape, useS, Opnd.vectors]
  have hM : usedUpM (lookaheadShape as d la) = [] := by simp [usedUpM, lookaheadShape, useS, Opnd.maskRegs]
  rw [retire_eq, hS, hV, hM, killed, List.map_nil, killedV_nil, killedM_nil, ← promise_lookaheadShape,
    ← killedS_written_clean, setS_eq]
  rfl

/-- The same where the instruction also uses up its records. -/
theorem retire_division (as : List Src) (d : Reg) (la : BitVec 4) (t : Team) (v : Word) :
    (lookaheadShape as d la).retire { (t.begin.setS d v).advance with dcrs := [] } = { t.past with
      sregs := scalarsAfter t (lastOf as) [(d, v)]
      promises := promisesAfter t la (as.map fun a => .s a.reg) [.s d], dcrs := [] } := by
  have hset : { (t.begin.setS d v).advance with dcrs := [] } = ({ t.begin with dcrs := [] }.setS d v).advance := by
    rw [setS_eq, setS_eq]
    rfl
  rw [hset, retire_lookaheadShape]
  rfl

/-- The shared form of the four instructions: the result of the division, and the records used up. -/
theorem scalarDiv_next {signed : Bool} {op : Nat} (pick : Word × Word → Word) {d : Reg} {a b : Src} {la : BitVec 4} {s : State}
    {t : Team} (hi : Issues s t (lookaheadShape [a, b] d la)) (h : RecordsOf op signed (t.sval a.reg) (t.sval b.reg) t) :
    scalarDiv signed op pick d a b la s = .next (s.putTeam { t.past with
      sregs := scalarsAfter t (lastOf [a, b])
        [(d, pick (quotientOf signed (t.sval a.reg) (t.sval b.reg), remainderOf signed (t.sval a.reg) (t.sval b.reg)))]
      promises := promisesAfter t la [.s a.reg, .s b.reg] [.s d], dcrs := [] }) := by
  have hrun : scalarDiv signed op pick d a b la s = .next (s.putTeam ((lookaheadShape [a, b] d la).retire
      { (t.begin.setS d (pick (divide t signed op (t.sval a.reg) (t.sval b.reg)))).advance with dcrs := [] })) :=
    runRegs_next hi.1 hi.2 rfl
  rw [hrun, retire_division, divide_eq h]
  rfl

end Sys2Proof.Proofs
end

section
/-!
The obligation on scalar division.
-/
namespace Sys2Proof.Proofs
open Sys2Proof.Machine Sys2Proof.Laws

/-- Settles O11: each of the four instructions is `scalarDiv`, which gives quotient and remainder whatever record it goes on
from (`divStart_onRecurrence`, `divide_eq`). -/
theorem scalarDivision : Obligations.ScalarDivision := by
  unfold Obligations.ScalarDivision
  intro p hp d a b la s t hi hrec
  simp only [divisions, List.mem_cons, List.not_mem_nil, or_false] at hp
  rcases hp with rfl | rfl | rfl | rfl
  · exact scalarDiv_next Prod.fst hi hrec
  · exact scalarDiv_next Prod.fst hi hrec
  · exact scalarDiv_next Prod.snd hi hrec
  · exact scalarDiv_next Prod.snd hi hrec

end Sys2Proof.Proofs
end

section
/-!
The fields of an encoded word, read back format by format (07 R106), as the parser reads them.
-/
namespace Sys2Proof.Proofs
open Sys2Proof.Laws

/-! ### Operand codes fit their fields -/

@[simp] theorem toNat_lt_64 (r : Reg) : r.toNat < 64 := r.isLt
@[simp] theorem toNat_lt_16 (m : MReg) : m.toNat < 16 := m.isLt
@[simp] theorem mreg_toNat_lt_64 (m : MReg) : m.toNat < 64 := Nat.lt_trans m.isLt (by decide)
@[simp] theorem srcBits_lt_128 (a : Src) : a.bits < 128 := src_bits_lt a
@[simp] theorem msrcBits_lt_128 (a : MSrc) : a.bits < 128 := Nat.lt_trans (msrc_bits_lt a) (by decide)

/-- A number of at most six bits fits in the register bits of a source field. -/
@[simp] theorem two_mul_toNat_lt_128 {w : Nat} (n : BitVec w) (hw : w ≤ 6) : 2 * n.toNat < 128 := by
  have := Nat.pow_le_pow_right (n := 2) (by decide) hw
  omega

@[simp] theorem two_mul_bool_lt_128 (b : Bool) : 2 * b.toNat < 128 := by cases b <;> decide

/-- A lookahead count or a mask register below a kind of two bits: the code fits a minor field, and splits again. -/
@[simp] theorem kinded_code (la : BitVec 4) :
    16 + la.toNat < 64 ∧ 32 + la.toNat < 64 ∧ 48 + la.toNat < 64 ∧ la.toNat / 16 = 0 ∧ (16 + la.toNat) / 16 = 1
      ∧ (32 + la.toNat) / 16 = 2 ∧ (48 + la.toNat) / 16 = 3 := by omega

/-! ### Format RR -/

@[simp] theorem major_fmtRR {m d a b x : Nat} (hd : d < 64) (ha : a < 128) (hb : b < 128) (hx : x < 64) (hm : m < 64) :
    fld 26 6 (fmtRR m d a b x) = m := (fmtRR_fields hm hd ha hb hx).1

@[simp] theorem minor_fmtRR {m d a b x : Nat} (hx : x < 64) : fld 0 6 (fmtRR m d a b x) = x
    ∧ fld 4 2 (fmtRR m d a b x) = x / 16 ∧ fld 5 1 (fmtRR m d a b x) = x / 32 := by unfold fmtRR fld; omega

@[simp] theorem regAt20_fmtRR {m a b x : Nat} (d : Reg) (ha : a < 128) (hb : b < 128) (hx : x < 64) (hm : m < 64) :
    regAt 20 (fmtRR m d.toNat a b x) = d := regAt_of d (fmtRR_fields hm d.isLt ha hb hx).2.1

@[simp] theorem mregAt20_fmtRR {m a b x : Nat} (d : MReg) (ha : a < 128) (hb : b < 128) (hx : x < 64) :
    mregAt 20 (fmtRR m d.toNat a b x) = d := mregAt_of d (by have := d.isLt; unfold fmtRR fld; omega)

@[simp] theorem srcAt13_fmtRR {m d b x : Nat} (a : Src) (hd : d < 64) (hb : b < 128) (hx : x < 64) (hm : m < 64) :
    srcAt 13 (fmtRR m d a.bits b x) = a := srcAt_of a (fmtRR_fields hm hd (src_bits_lt a) hb hx).2.2.1

@[simp] theorem msrcAt13_fmtRR {m d b x : Nat} (a : MSrc) (hd : d < 64) (hb : b < 128) (hx : x < 64) (hm : m < 64) :
    msrcAt 13 (fmtRR m d a.bits b x) = a := msrcAt_of a (fmtRR_fields hm hd (msrcBits_lt_128 a) hb hx).2.2.1

@[simp] theorem srcAt6_fmtRR {m d a x : Nat} (b : Src) (hd : d < 64) (ha : a < 128) (hx : x < 64) (hm : m < 64) :
    srcAt 6 (fmtRR m d a b.bits x) = b := srcAt_of b (fmtRR_fields hm hd ha (src_bits_lt b) hx).2.2.2.1

@[simp] theorem msrcAt6_fmtRR {m d a x : Nat} (b : MSrc) (hd : d < 64) (ha : a < 128) (hx : x < 64) (hm : m < 64) :
    msrcAt 6 (fmtRR m d a b.bits x) = b := msrcAt_of b (fmtRR_fields hm hd ha (msrcBits_lt_128 b) hx).2.2.2.1

/-- A number in the register bits of the second source field. -/
@[simp] theorem number7_fmtRR {m d a x w : Nat} (n : BitVec w) (hw : w ≤ 6) (hx : x < 64) :
    BitVec.ofNat w (fld 7 w (fmtRR m d a (2 * n.toNat) x)) = n := by
  have h7 : fmtRR m d a (2 * n.toNat) x / 2 ^ 7 % 2 ^ 6 = n.toNat := by
    have := two_mul_toNat_lt_128 n hw
    unfold fmtRR; omega
  have hn : fld 7 w (fmtRR m d a (2 * n.toNat) x) = n.toNat := by
    rw [fld, ← Nat.mod_mod_of_dvd _ (Nat.pow_dvd_pow 2 hw), h7, Nat.mod_eq_of_lt n.isLt]
  exact ofNat_of_toNat n hn

@[simp] theorem flagAt7_fmtRR {m d a x : Nat} (c : Bool) (hx : x < 64) :
    flagAt 7 (fmtRR m d a (2 * c.toNat) x) = c := flagAt_of c (by have := Bool.toNat_le c; unfold fmtRR fld; omega)

/-- The four low bits below each kind. -/
@[simp] theorem low4_fmtRR {m d a b : Nat} (la : BitVec 4) : BitVec.ofNat 4 (fld 0 4 (fmtRR m d a b la.toNat)) = la
    ∧ BitVec.ofNat 4 (fld 0 4 (fmtRR m d a b (16 + la.toNat))) = la
    ∧ BitVec.ofNat 4 (fld 0 4 (fmtRR m d a b (32 + la.toNat))) = la
    ∧ BitVec.ofNat 4 (fld 0 4 (fmtRR m d a b (48 + la.toNat))) = la := by
  refine ⟨ofNat_of_toNat la ?_, ofNat_of_toNat la ?_, ofNat_of_toNat la ?_, ofNat_of_toNat la ?_⟩ <;>
    (unfold fmtRR fld; omega)

@[simp] theorem mregAt0_fmtRR {m d a b : Nat} (k : MReg) : mregAt 0 (fmtRR m d a b (16 + k.toNat)) = k :=
  mregAt_of k (by unfold fmtRR fld; omega)

/-- The five low bits of the minors of major 0x30. -/
@[simp] theorem low5_fmtRR {m d a b : Nat} (f : BitVec 5) : BitVec.ofNat 5 (fld 0 5 (fmtRR m d a b f.toNat)) = f
    ∧ BitVec.ofNat 5 (fld 0 5 (fmtRR m d a b (32 + f.toNat))) = f :=
  ⟨ofNat_of_toNat f (by unfold fmtRR fld; omega), ofNat_of_toNat f (by unfold fmtRR fld; omega)⟩

@[simp] theorem fiveBit_code (f : BitVec 5) : f.toNat < 64 ∧ 32 + f.toNat < 64 ∧ f.toNat < 4096 ∧ 32 + f.toNat < 4096
    ∧ f.toNat / 32 = 0 ∧ (32 + f.toNat) / 32 = 1 ∧ f.toNat % 32 = f.toNat := by omega

@[simp] theorem immediate_lt_4096 (i : BitVec 12) : i.toNat < 4096 := i.isLt

/-- The condition codes of VCMP, VFCMP and VFCMP.K in their minors (11 R154, R160). -/
@[simp] theorem intCond_code_lt_64 (c : IntCond) : c.code < 64 := Nat.lt_trans (intCond_code_lt c) (by decide)
@[simp] theorem fpCond_code_lt_64 (c : FpCond) : c.code < 64 ∧ 8 + c.code < 64 := by
  have := fpCond_code_lt c
  omega

/-- The condition and the slot of BELL in its minor (13 R199). -/
@[simp] theorem bell_code (c : BellCond) (slot : BitVec 2) :
    32 + 4 * c.code + slot.toNat < 64 ∧ (32 + 4 * c.code + slot.toNat) / 32 = 1 := by
  have := bellCond_code_lt c
  omega

@[simp] theorem fmtRR_bell {m d a b : Nat} (c : BellCond) (slot : BitVec 2) :
    fld 2 3 (fmtRR m d a b (32 + 4 * c.code + slot.toNat)) = c.code
      ∧ BitVec.ofNat 2 (fld 0 2 (fmtRR m d a b (32 + 4 * c.code + slot.toNat))) = slot := by
  have := bellCond_code_lt c
  refine ⟨?_, ofNat_of_toNat slot ?_⟩ <;> (unfold fmtRR fld; omega)

/-! ### The other formats -/

@[simp] theorem fmtN12_reads {m d x : Nat} (k : BitVec 12) (hd : d < 64) (hx : x < 64) (hm : m < 64) :
    fld 26 6 (fmtN12 m d k.toNat x) = m ∧ fld 0 6 (fmtN12 m d k.toNat x) = x ∧ n12At (fmtN12 m d k.toNat x) = k := by
  refine ⟨?_, ?_, n12At_of k ?_ ?_⟩ <;> (unfold fmtN12 fld; omega)

@[simp] theorem regAt20_fmtN12 {m x : Nat} (d : Reg) (k : BitVec 12) (hx : x < 64) :
    regAt 20 (fmtN12 m d.toNat k.toNat x) = d := regAt_of d (by have := d.isLt; unfold fmtN12 fld; omega)

@[simp] theorem fmtRI_reads {m i x : Nat} (d : Reg) (a : Src) (hi : i < 4096) (hx : x < 2) (hm : m < 64) :
    fld 26 6 (fmtRI m d.toNat a.bits i x) = m ∧ fld 0 1 (fmtRI m d.toNat a.bits i x) = x
    ∧ fld 1 12 (fmtRI m d.toNat a.bits i x) = i ∧ fld 1 5 (fmtRI m d.toNat a.bits i x) = i % 32
    ∧ fld 6 1 (fmtRI m d.toNat a.bits i x) = i / 32 % 2
    ∧ regAt 20 (fmtRI m d.toNat a.bits i x) = d ∧ srcAt 13 (fmtRI m d.toNat a.bits i x) = a := by
  have ha := src_bits_lt a
  obtain ⟨h26, h20, h13, h1, h0⟩ := fmtRI_fields hm d.isLt ha hi hx
  refine ⟨h26, h0, h1, ?_, ?_, regAt_of d h20, srcAt_of a h13⟩ <;> (have := d.isLt; unfold fmtRI fld; omega)

@[simp] theorem fmtI20_reads {m d : Nat} (i : BitVec 20) (hd : d < 64) (hm : m < 64) :
    fld 26 6 (fmtI20 m d i.toNat) = m ∧ BitVec.ofNat 20 (fld 0 20 (fmtI20 m d i.toNat)) = i := by
  refine ⟨?_, ofNat_of_toNat i ?_⟩ <;> (unfold fmtI20 fld; omega)

@[simp] theorem regAt20_fmtI20 {m : Nat} (d : Reg) (i : BitVec 20) : regAt 20 (fmtI20 m d.toNat i.toNat) = d :=
  regAt_of d (by have := d.isLt; unfold fmtI20 fld; omega)

@[simp] theorem fmtSY_reads {m x : Nat} (hx : x < 2 ^ 26) (hm : m < 64) :
    fld 26 6 (fmtSY m x) = m ∧ fld 0 26 (fmtSY m x) = x ∧ fld 22 4 (fmtSY m x) = x / 2 ^ 22 := by
  refine ⟨?_, ?_, ?_⟩ <;> (unfold fmtSY fld; omega)

@[simp] theorem displacement26_lt (i : BitVec 26) : i.toNat < 67108864 := i.isLt
@[simp] theorem displacement19_lt (i : BitVec 19) : i.toNat < 524288 := i.isLt

/-- The source of CALLR and JMPR below their opcode (09 R131). -/
@[simp] theorem jump_code (a : Src) : a.bits * 32768 < 67108864 ∧ 4194304 + a.bits * 32768 < 67108864
    ∧ a.bits * 32768 / 4194304 = 0 ∧ (4194304 + a.bits * 32768) / 4194304 = 1 := by
  have := src_bits_lt a
  omega

@[simp] theorem srcAt15_fmtSY {m : Nat} (a : Src) :
    srcAt 15 (fmtSY m (a.bits * 32768)) = a ∧ srcAt 15 (fmtSY m (4194304 + a.bits * 32768)) = a := by
  have := src_bits_lt a
  exact ⟨srcAt_of a (by unfold fmtSY; omega), srcAt_of a (by unfold fmtSY; omega)⟩

/-- The depth operand above its must-be-zero bits (09 R135). -/
@[simp] theorem depth_code_lt (k : BitVec 8) : k.toNat * 2048 < 524288 := by omega

@[simp] theorem fmtBS_reads {m k : Nat} (r : Reg) (i : BitVec 19) (hk : k < 2) (hm : m < 64) :
    fld 26 6 (fmtBS m r.toNat k i.toNat) = m ∧ fld 19 1 (fmtBS m r.toNat k i.toNat) = k
      ∧ regAt 20 (fmtBS m r.toNat k i.toNat) = r ∧ BitVec.ofNat 19 (fld 0 19 (fmtBS m r.toNat k i.toNat)) = i := by
  refine ⟨?_, ?_, regAt_of r ?_, ofNat_of_toNat i ?_⟩ <;> (have := r.isLt; unfold fmtBS fld; omega)

@[simp] theorem fmtBM_reads {m k : Nat} (r : MReg) (i : BitVec 20) (hk : k < 4) (hm : m < 64) :
    fld 26 6 (fmtBM m r.toNat k i.toNat) = m ∧ fld 20 2 (fmtBM m r.toNat k i.toNat) = k
      ∧ mregAt 22 (fmtBM m r.toNat k i.toNat) = r ∧ BitVec.ofNat 20 (fld 0 20 (fmtBM m r.toNat k i.toNat)) = i := by
  refine ⟨?_, ?_, mregAt_of r ?_, ofNat_of_toNat i ?_⟩ <;> (have := r.isLt; unfold fmtBM fld; omega)

@[simp] theorem fmtST_reads {o m low : Nat} (ho : o < 8) (hm : m < 16) (hl : low < 2 ^ 19) :
    fld 26 6 (fmtST o m low) = 24 ∧ fld 23 3 (fmtST o m low) = o ∧ fld 0 19 (fmtST o m low) = low
      ∧ fld 11 8 (fmtST o m low) = low / 2048 := by
  refine ⟨?_, ?_, ?_, ?_⟩ <;> (unfold fmtST fld; omega)

@[simp] theorem mregAt19_fmtST {o low : Nat} (r : MReg) (hl : low < 2 ^ 19) : mregAt 19 (fmtST o r.toNat low) = r :=
  mregAt_of r (by have := r.isLt; unfold fmtST fld; omega)

@[simp] theorem fmtMEM_reads {m d o : Nat} (a : MemArg) (hd : d < 64) (ho : o < 16) (hm : m < 64) :
    fld 26 6 (fmtMEM m d a o) = m ∧ fld 0 4 (fmtMEM m d a o) = o
    ∧ fld 2 2 (fmtMEM m d a o) = o / 4 ∧ fld 0 2 (fmtMEM m d a o) = o % 4 ∧ memAt (fmtMEM m d a o) = a := by
  obtain ⟨h26, -, h4, h0⟩ := fmtMEM_fields a hm hd ho
  refine ⟨h26, h0, ?_, ?_, memAt_of a h4⟩ <;> (unfold fmtMEM fld; omega)

@[simp] theorem regAt20_fmtMEM {m o : Nat} (d : Reg) (a : MemArg) (ho : o < 16) (hm : m < 64) :
    regAt 20 (fmtMEM m d.toNat a o) = d := regAt_of d (fmtMEM_fields a hm d.isLt ho).2.1

/-- The size code of a vector access below the opcode of two bits. -/
@[simp] theorem sized_code (z : BitVec 2) : z.toNat < 16 ∧ 4 + z.toNat < 16 ∧ 8 + z.toNat < 16 ∧ 12 + z.toNat < 16
    ∧ z.toNat / 4 = 0 ∧ (4 + z.toNat) / 4 = 1 ∧ (8 + z.toNat) / 4 = 2 ∧ (12 + z.toNat) / 4 = 3
    ∧ z.toNat % 4 = z.toNat ∧ (4 + z.toNat) % 4 = z.toNat ∧ (8 + z.toNat) % 4 = z.toNat
    ∧ (12 + z.toNat) % 4 = z.toNat := by omega

@[simp] theorem atomOp_code_lt_8 (o : AtomOp) : o.code < 8 := Nat.lt_trans (atomOp_code_lt o) (by decide)
@[simp] theorem memOrd_code_lt_16 (r : MemOrd) : r.code < 16 := memOrd_code_lt r

@[simp] theorem fmtAT_reads {k o r : Nat} (d : Reg) (b : Src) (la : BitVec 4) (hk : k < 4) (ho : o < 8) (hr : r < 16) :
    fld 26 6 (fmtAT k o r d.toNat b.bits la.toNat) = 58 ∧ fld 11 2 (fmtAT k o r d.toNat b.bits la.toNat) = k
      ∧ fld 8 3 (fmtAT k o r d.toNat b.bits la.toNat) = o ∧ fld 4 4 (fmtAT k o r d.toNat b.bits la.toNat) = r
      ∧ regAt 20 (fmtAT k o r d.toNat b.bits la.toNat) = d ∧ srcAt 13 (fmtAT k o r d.toNat b.bits la.toNat) = b
      ∧ BitVec.ofNat 4 (fld 0 4 (fmtAT k o r d.toNat b.bits la.toNat)) = la := by
  have := d.isLt
  have := src_bits_lt b
  refine ⟨?_, ?_, ?_, ?_, regAt_of d ?_, srcAt_of b ?_, ofNat_of_toNat la ?_⟩ <;> (unfold fmtAT; try unfold fld) <;> omega

@[simp] theorem fenceCode_lt_8 (c : Scope) : c.fenceCode < 8 := Nat.lt_trans (fenceCode_lt c) (by decide)
@[simp] theorem fenceKind_code_lt_4 (k : FenceKind) : k.code < 4 := fenceKind_code_lt k

@[simp] theorem fmtFence_reads {c k : Nat} (d : Reg) (u p : Bool) (hc : c < 8) (hk : k < 4) :
    fld 26 6 (fmtFence d.toNat c u.toNat p.toNat k) = 59 ∧ fld 0 6 (fmtFence d.toNat c u.toNat p.toNat k) = k
      ∧ fld 0 2 (fmtFence d.toNat c u.toNat p.toNat k) = k ∧ fld 17 3 (fmtFence d.toNat c u.toNat p.toNat k) = c
      ∧ regAt 20 (fmtFence d.toNat c u.toNat p.toNat k) = d ∧ flagAt 16 (fmtFence d.toNat c u.toNat p.toNat k) = u
      ∧ flagAt 15 (fmtFence d.toNat c u.toNat p.toNat k) = p := by
  have := d.isLt
  have := Bool.toNat_le u
  have := Bool.toNat_le p
  refine ⟨?_, ?_, ?_, ?_, regAt_of d ?_, flagAt_of u ?_, flagAt_of p ?_⟩ <;> (unfold fmtFence fld; omega)

@[simp] theorem fmtMX_reads {c o : Nat} (a b : Reg) (la : BitVec 4) (hc : c < 64) (ho : o < 16) :
    fld 26 6 (fmtMX a.toNat b.toNat c o la.toNat) = 61 ∧ fld 4 4 (fmtMX a.toNat b.toNat c o la.toNat) = o
      ∧ regAt 20 (fmtMX a.toNat b.toNat c o la.toNat) = a ∧ regAt 14 (fmtMX a.toNat b.toNat c o la.toNat) = b
      ∧ BitVec.ofNat 4 (fld 0 4 (fmtMX a.toNat b.toNat c o la.toNat)) = la := by
  have := a.isLt
  have := b.isLt
  refine ⟨?_, ?_, regAt_of a ?_, regAt_of b ?_, ofNat_of_toNat la ?_⟩ <;> (unfold fmtMX fld; omega)

@[simp] theorem regAt8_fmtMX {o : Nat} (a b c : Reg) (la : BitVec 4) (ho : o < 16) :
    regAt 8 (fmtMX a.toNat b.toNat c.toNat o la.toNat) = c :=
  regAt_of c (by have := a.isLt; have := b.isLt; have := c.isLt; unfold fmtMX fld; omega)

end Sys2Proof.Proofs
end

section
/-!
The parser reads back the word that the encoder gives.
-/
namespace Sys2Proof.Proofs
open Sys2Proof.Laws

/-- The parser of each assigned major (07 R110). -/
def parserOf : Nat → Option (Nat → Except DecodeError Instr)
  | 1 => some parse01
  | 2 => some parse02
  | 3 => some parse03
  | 4 => some parse04
  | 5 => some parse05
  | 6 => some parse06
  | 8 => some parse08
  | 9 => some parse09
  | 10 => some parse0A
  | 11 => some parse0B
  | 12 => some parse0C
  | 13 => some parse0D
  | 14 => some parse0E
  | 16 => some parse10
  | 17 => some parse11
  | 18 => some parse12
  | 19 => some parse13
  | 20 => some parse14
  | 21 => some parse15
  | 22 => some parse16
  | 23 => some parse17
  | 24 => some parse18
  | 32 => some parse20
  | 33 => some parse21
  | 34 => some parse22
  | 35 => some parse23
  | 36 => some parse24
  | 40 => some parse28
  | 41 => some parse29
  | 42 => some parse2A
  | 43 => some parse2B
  | 44 => some parse2C
  | 45 => some parse2D
  | 48 => some parse30
  | 49 => some parse31
  | 50 => some parse32
  | 51 => some parse33
  | 56 => some parse38
  | 57 => some parse39
  | 58 => some parse3A
  | 59 => some parse3B
  | 60 => some parse3C
  | 61 => some parse3D
  | _ => none

theorem parse_of_major {n : Nat} (m : Nat) (f : Nat → Except DecodeError Instr) (hf : parserOf m = some f)
    (h : fld 26 6 n = m) : parse n = f n := by
  subst h
  unfold parserOf at hf
  unfold parse
  split at hf <;> simp_all

/-! ### Minors that carry an operand -/

theorem parse22_vsel {n : Nat} (h : fld 0 6 n / 16 = 1) :
    parse22 n = .ok (.vsel (regAt 20 n) (srcAt 13 n) (srcAt 6 n) (mregAt 0 n)) := by
  unfold parse22
  split <;> simp_all

theorem parse3B_bell {n : Nat} {c : BellCond} (h : fld 0 6 n / 32 = 1) (hc : BellCond.ofCode? (fld 2 3 n) = some c) :
    parse3B n = .ok (.bell c (regAt 20 n) (.ofNat 2 (fld 0 2 n)) (srcAt 13 n) (srcAt 6 n)) := by
  have h4 : ¬ fld 0 6 n < 4 := by omega
  unfold parse3B
  split <;> simp_all

theorem parse3B_fence {n : Nat} {c : Scope} (h : fld 0 6 n < 4) (hc : Scope.ofFenceCode? (fld 17 3 n) = some c) :
    parse3B n = .ok (.fence (FenceKind.ofCode (fld 0 2 n)) c (flagAt 16 n) (flagAt 15 n) (regAt 20 n)) := by
  unfold parse3B
  split <;> simp_all

/-- The atomic that kind and OP name (13 R188). -/
def atomicOf (kind : Nat) (o : AtomOp) (r : MemOrd) (d : Reg) (b : Src) (la : BitVec 4) : Instr :=
  match kind with
  | 0 => .atom o r d b la
  | 1 => .red o r d b la
  | 2 => .vatom o r d b la
  | _ => .vred o r d b la

/-- OP is an operation's code, but 6 of the silent kinds is a strong store. -/
theorem parse_fmtAT_atomic {kind : Nat} {o : AtomOp} {r : MemOrd} (d : Reg) (b : Src) (la : BitVec 4) (hk : kind < 4)
    (hr : r.scopeOk = true) (hs : o = .swap → kind = 0 ∨ kind = 2) :
    parse (fmtAT kind o.code r.code d.toNat b.bits la.toNat) = .ok (atomicOf kind o r d b la) := by
  obtain ⟨h26, h11, h8, h4, hd, hb, hl⟩ := fmtAT_reads d b la hk (atomOp_code_lt_8 o) (memOrd_code_lt r)
  rw [parse_of_major 58 parse3A rfl h26, parse3A, h4, memOrd_ofCode r hr, h11, h8, hd, hb, hl]
  interval_cases kind
  · cases o <;> rfl
  · cases o with
    | swap => simp at hs
    | _ => rfl
  · cases o <;> rfl
  · cases o with
    | swap => simp at hs
    | _ => rfl

/-- The instruction of the codes that no operation has (13 R188). -/
def strongOf (kind op : Nat) (r : MemOrd) (d : Reg) (b : Src) (la : BitVec 4) : Option Instr :=
  match kind, op with
  | 0, 7 => some (.cas r d b la)
  | 1, 6 => some (.stStrong r d b la)
  | 1, 7 => some (.ldStrong r d b la)
  | 2, 7 => some (.vcas r d b la)
  | 3, 6 => some (.vstStrong r d b la)
  | 3, 7 => some (.vldStrong r d b la)
  | _, _ => none

theorem parse_fmtAT_strong {kind op : Nat} {r : MemOrd} {i : Instr} (d : Reg) (b : Src) (la : BitVec 4) (hk : kind < 4)
    (ho : op < 8) (hr : r.scopeOk = true) (hi : strongOf kind op r d b la = some i) :
    parse (fmtAT kind op r.code d.toNat b.bits la.toNat) = .ok i := by
  obtain ⟨h26, h11, h8, h4, hd, hb, hl⟩ := fmtAT_reads d b la hk ho (memOrd_code_lt r)
  rw [parse_of_major 58 parse3A rfl h26, parse3A, h4, memOrd_ofCode r hr, h11, h8, hd, hb, hl]
  unfold strongOf at hi
  split at hi <;> cases hi <;> rfl

theorem scopeOk_of_returningOk {r : MemOrd} {o : AtomOp} (h : r.returningOk o = true) : r.scopeOk = true :=
  ((Bool.and_eq_true _ _).mp h).1

theorem scopeOk_of_silentOk {r : MemOrd} {o : AtomOp} (h : r.silentOk o = true) : r.scopeOk = true :=
  ((Bool.and_eq_true _ _).mp ((Bool.and_eq_true _ _).mp h).1).2

/-! ### Every instruction -/

theorem parse_encodeNat {i : Instr} {n : Nat} (hw : i.wf = true) (h : encodeNat i = some n) : parse n = .ok i := by
  cases i with
  | add d a b | sub d a b | mul d a b | mulh d a b | mulhu d a b | and d a b | or d a b | xor d a b | andn d a b
    | shl d a b | shr d a b | sra d a b =>
    obtain rfl := Option.some.inj h
    exact (parse_of_major 1 parse01 rfl (by simp)).trans (by simp [parse01])
  | min d a b | max d a b | minu d a b | maxu d a b | seq d a b | sne d a b | slt d a b | sltu d a b | sel d a b
    | clz d a | popc d a | sext d a n | zext d a n | mov d a =>
    obtain rfl := Option.some.inj h
    exact (parse_of_major 2 parse02 rfl (by simp)).trans (by simp [parse02])
  | div d a b la | divu d a b la | rem d a b la | remu d a b la =>
    obtain rfl := Option.some.inj h
    exact (parse_of_major 3 parse03 rfl (by simp)).trans (by simp [parse03])
  | addx d a b | subx d a b | shlix d a n | shrix d a n | sltux d a b =>
    obtain rfl := Option.some.inj h
    exact (parse_of_major 4 parse04 rfl (by simp)).trans (by simp [parse04])
  | mand d a b | mor d a b | mxor d a b | mandn d a b | mnot d a | mmov d a | mall d | mclr d | mpopc d a | mffs d a
    | msetw d a b | mgetw d a b | msumw d a | exmset a | exmget d =>
    obtain rfl := Option.some.inj h
    exact (parse_of_major 5 parse05 rfl (by simp)).trans (by simp [parse05])
  | modew a | srd d n | swr n s | stamp d | trap n | brk n | regacq k | regacqNb d k | regrel k | node d a b =>
    obtain rfl := Option.some.inj h
    exact (parse_of_major 6 parse06 rfl (by simp)).trans (by simp [parse06])
  | addi d a i =>
    obtain rfl := Option.some.inj h
    exact (parse_of_major 8 parse08 rfl (by simp)).trans (by simp [parse08])
  | andi d a i =>
    obtain rfl := Option.some.inj h
    exact (parse_of_major 9 parse09 rfl (by simp)).trans (by simp [parse09])
  | ori d a i =>
    obtain rfl := Option.some.inj h
    exact (parse_of_major 10 parse0A rfl (by simp)).trans (by simp [parse0A])
  | xori d a i =>
    obtain rfl := Option.some.inj h
    exact (parse_of_major 11 parse0B rfl (by simp)).trans (by simp [parse0B])
  | shli d a n | shri d a n | srai d a n =>
    obtain rfl := Option.some.inj h
    exact (parse_of_major 12 parse0C rfl (by simp)).trans (by simp [parse0C])
  | slti d a i | sltiu d a i =>
    obtain rfl := Option.some.inj h
    exact (parse_of_major 13 parse0D rfl (by simp)).trans (by simp [parse0D])
  | addix d a i =>
    obtain rfl := Option.some.inj h
    exact (parse_of_major 14 parse0E rfl (by simp)).trans (by simp [parse0E])
  | lui d i =>
    obtain rfl := Option.some.inj h
    exact (parse_of_major 16 parse10 rfl (by simp)).trans (by simp [parse10])
  | addpc d i =>
    obtain rfl := Option.some.inj h
    exact (parse_of_major 17 parse11 rfl (by simp)).trans (by simp [parse11])
  | setmode i =>
    obtain rfl := Option.some.inj h
    exact (parse_of_major 18 parse12 rfl (by simp)).trans (by simp [parse12])
  | vli d i =>
    obtain rfl := Option.some.inj h
    exact (parse_of_major 19 parse13 rfl (by simp)).trans (by simp [parse13])
  | br i =>
    obtain rfl := Option.some.inj h
    exact (parse_of_major 20 parse14 rfl (by simp)).trans (by simp [parse14])
  | bz s i | bnz s i =>
    obtain rfl := Option.some.inj h
    exact (parse_of_major 21 parse15 rfl (by simp)).trans (by simp [parse15])
  | bany m i | ball m i | bnone m i =>
    obtain rfl := Option.some.inj h
    exact (parse_of_major 22 parse16 rfl (by simp)).trans (by simp [parse16])
  | callr a | jmpr a | ret | eret | entry | exit | nop | yield =>
    obtain rfl := Option.some.inj h
    exact (parse_of_major 23 parse17 rfl (by simp)).trans (by simp [parse17])
  | sif m | selse | sendif | sloop | sbrk m d | scont m d | sendlp m i =>
    obtain rfl := Option.some.inj h
    exact (parse_of_major 24 parse18 rfl (by simp)).trans (by simp [parse18])
  | vadd d a b | vsub d a b | vmul d a b | vmulh d a b | vmad d a b | vmin d a b | vmax d a b =>
    obtain rfl := Option.some.inj h
    exact (parse_of_major 32 parse20 rfl (by simp)).trans (by simp [parse20])
  | vand d a b | vor d a b | vxor d a b | vandn d a b | vshl d a b | vshr d a b | vsra d a b =>
    obtain rfl := Option.some.inj h
    exact (parse_of_major 33 parse21 rfl (by simp)).trans (by simp [parse21])
  | vabs d a | vneg d a | vmov d a | vlane d =>
    obtain rfl := Option.some.inj h
    exact (parse_of_major 34 parse22 rfl (by simp)).trans (by simp [parse22])
  | vaddi d a i =>
    obtain rfl := Option.some.inj h
    exact (parse_of_major 35 parse23 rfl (by simp)).trans (by simp [parse23])
  | vshli d a n | vshri d a n =>
    obtain rfl := Option.some.inj h
    exact (parse_of_major 36 parse24 rfl (by simp)).trans (by simp [parse24])
  | vfadd d a b | vfsub d a b | vfmul d a b =>
    obtain rfl := Option.some.inj h
    exact (parse_of_major 40 parse28 rfl (by simp)).trans (by simp [parse28])
  | vfma d a b | vfms d a b | vfnma d a b =>
    obtain rfl := Option.some.inj h
    exact (parse_of_major 41 parse29 rfl (by simp)).trans (by simp [parse29])
  | vfmin d a b | vfmax d a b | vfminm d a b | vfmaxm d a b | vfabs d a | vfneg d a | vfsgn d a | vfsgnK d a =>
    obtain rfl := Option.some.inj h
    exact (parse_of_major 42 parse2A rfl (by simp)).trans (by simp [parse2A])
  | vfclass d a =>
    obtain rfl := Option.some.inj h
    exact (parse_of_major 43 parse2B rfl (by simp)).trans (by simp [parse2B])
  | vfdiv d a b la | vfsqrt d a la | vfrsq d a la | vfrcp d a la =>
    obtain rfl := Option.some.inj h
    exact (parse_of_major 44 parse2C rfl (by simp)).trans (by simp [parse2C])
  | vfexp2 d a la | vflog2 d a la =>
    obtain rfl := Option.some.inj h
    exact (parse_of_major 45 parse2D rfl (by simp)).trans (by simp [parse2D])
  | vcvt d a f sel | vqnt d a b f =>
    obtain rfl := Option.some.inj h
    exact (parse_of_major 48 parse30 rfl (by simp)).trans (by simp [parse30])
  | vpack d a b | vunpk d a sel | vdot2 d a b | vdot4 d a b | vdot8 d a b =>
    obtain rfl := Option.some.inj h
    exact (parse_of_major 49 parse31 rfl (by simp)).trans (by simp [parse31])
  | vshfl d a b la | vbcast d a la | vext d a b la | vins d a b la =>
    obtain rfl := Option.some.inj h
    exact (parse_of_major 50 parse32 rfl (by simp)).trans (by simp [parse32])
  | vredadd d a la | vredmax d a la | vredmin d a la | vscan d a la =>
    obtain rfl := Option.some.inj h
    exact (parse_of_major 51 parse33 rfl (by simp)).trans (by simp [parse33])
  | ldU8 d mem | ldS8 d mem | ldU16 d mem | ldS16 d mem | ld d mem | ldD d mem | stB s mem | stH s mem | st s mem
    | stD s mem | pref mem | cwb mem | cinv mem | discard mem =>
    obtain rfl := Option.some.inj h
    exact (parse_of_major 56 parse38 rfl (by simp)).trans (by simp [parse38])
  | vld d mem z | vst s mem z | vlds d mem z | vsts s mem z =>
    obtain rfl := Option.some.inj h
    exact (parse_of_major 57 parse39 rfl (by simp)).trans (by simp [parse39])
  | fwait a | await d a | bellclr slot | bwait a b | arrive d a | arrivePub d a | arriveDrop d a | arriveDropPub d a
    | join d a | leave d a | clead d a =>
    obtain rfl := Option.some.inj h
    exact (parse_of_major 59 parse3B rfl (by simp)).trans (by simp [parse3B])
  | cpy d a b | cpyt d a b | gath d a | scat d a | cseal t | cwany d a | cwall a | cffr d a | ctclr a | coll a =>
    obtain rfl := Option.some.inj h
    exact (parse_of_major 60 parse3C rfl (by simp)).trans (by simp [parse3C])
  | mtile a b c la | mma a b c la | mzero a b la | maccrd a b la | maccwr a b la | maccld a b c la | maccst a b c la
    | acwin a b c la | mplan a b c la | mchk a b la =>
    obtain rfl := Option.some.inj h
    exact (parse_of_major 61 parse3D rfl (by simp)).trans (by simp [parse3D])
  | vcmp c d a b =>
    obtain rfl := Option.some.inj h
    cases c <;> exact (parse_of_major 34 parse22 rfl (by simp [IntCond.code])).trans (by simp [parse22, IntCond.code])
  | vsel d a b k =>
    obtain rfl := Option.some.inj h
    exact (parse_of_major 34 parse22 rfl (by simp)).trans (by rw [parse22_vsel] <;> simp)
  | vfcmp c d a b | vfcmpK c d a b =>
    obtain rfl := Option.some.inj h
    cases c <;> exact (parse_of_major 43 parse2B rfl (by simp [FpCond.code])).trans (by simp [parse2B, FpCond.code])
  | fence k c uo cp d =>
    obtain rfl := Option.some.inj h
    obtain ⟨h26, h0, h2, h17, hd, hu, hp⟩ := fmtFence_reads d uo cp (fenceCode_lt_8 c) (fenceKind_code_lt_4 k)
    rw [parse_of_major 59 parse3B rfl h26, parse3B_fence (by simp) (by rw [h17, scope_ofFenceCode]), h2, hd, hu, hp,
      fenceKind_ofCode]
  | bell c d slot a b =>
    obtain rfl := Option.some.inj h
    exact (parse_of_major 59 parse3B rfl (by simp)).trans
      ((parse3B_bell (by simp) (by rw [(fmtRR_bell c slot).1, bellCond_ofCode])).trans (by simp))
  | atom o r d b la | vatom o r d b la =>
    obtain rfl := Option.some.inj h
    have hr := scopeOk_of_returningOk ((Bool.and_eq_true _ _).mp hw).2
    exact parse_fmtAT_atomic d b la (by decide) hr (by simp)
  | red o r d b la | vred o r d b la =>
    obtain rfl := Option.some.inj h
    have hs := ((Bool.and_eq_true _ _).mp hw).2
    have hn : o ≠ .swap := fun e => by rw [e] at hs; cases hs
    exact parse_fmtAT_atomic d b la (by decide) (scopeOk_of_silentOk hs) fun e => absurd e hn
  | cas r d b la | stStrong r d b la | ldStrong r d b la | vcas r d b la | vstStrong r d b la | vldStrong r d b la =>
    obtain rfl := Option.some.inj h
    have hr := ((Bool.and_eq_true _ _).mp ((Bool.and_eq_true _ _).mp hw).2).1
    exact parse_fmtAT_strong d b la (by decide) (by decide) hr rfl
  | _ => cases h

/-! ### The word of an instruction -/

theorem wordFits (i : Instr) : WordFits.Statement i := by
  cases i with
  | add d a b | sub d a b | mul d a b | mulh d a b | mulhu d a b | and d a b | or d a b | xor d a b | andn d a b
    | shl d a b | shr d a b | sra d a b | min d a b | max d a b | minu d a b | maxu d a b | seq d a b | sne d a b
    | slt d a b | sltu d a b | sel d a b | clz d a | popc d a | sext d a n | zext d a n | mov d a | div d a b la
    | divu d a b la | rem d a b la | remu d a b la | addx d a b | subx d a b | shlix d a n | shrix d a n | sltux d a b
    | mand d a b | mor d a b | mxor d a b | mandn d a b | mnot d a | mmov d a | mall d | mclr d | mpopc d a | mffs d a
    | msetw d a b | mgetw d a b | msumw d a | exmset a | exmget d | modew a | stamp d | regacq k | regacqNb d k
    | regrel k | node d a b | vadd d a b | vsub d a b | vmul d a b | vmulh d a b | vmad d a b | vmin d a b
    | vmax d a b | vand d a b | vor d a b | vxor d a b | vandn d a b | vshl d a b | vshr d a b | vsra d a b
    | vcmp c d a b | vabs d a | vneg d a | vmov d a | vlane d | vsel d a b k | vfadd d a b | vfsub d a b | vfmul d a b
    | vfma d a b | vfms d a b | vfnma d a b | vfmin d a b | vfmax d a b | vfminm d a b | vfmaxm d a b | vfabs d a
    | vfneg d a | vfsgn d a | vfsgnK d a | vfcmp c d a b | vfcmpK c d a b | vfclass d a | vfdiv d a b la
    | vfsqrt d a la | vfrsq d a la | vfrcp d a la | vfexp2 d a la | vflog2 d a la | vcvt d a f sel | vqnt d a b f
    | vpack d a b | vunpk d a sel | vdot2 d a b | vdot4 d a b | vdot8 d a b | vshfl d a b la | vbcast d a la
    | vext d a b la | vins d a b la | vredadd d a la | vredmax d a la | vredmin d a la | vscan d a la | fwait a
    | await d a | bellclr slot | bwait a b | arrive d a | arrivePub d a | arriveDrop d a | arriveDropPub d a
    | join d a | leave d a | clead d a | bell c d slot a b | cpy d a b | cpyt d a b | gath d a | scat d a | cseal t
    | cwany d a | cwall a | cffr d a | ctclr a | coll a =>
    exact fits_of_some rfl (fmtRR_lt (by decide) (by simp) (by simp) (by simp) (by simp))
  | srd d n | swr n s | trap n | brk n =>
    exact fits_of_some rfl (fmtN12_lt (by decide) (by simp) (by exact n.isLt) (by decide))
  | addi d a i | andi d a i | ori d a i | xori d a i | shli d a n | shri d a n | srai d a n | slti d a i | sltiu d a i
    | addix d a i | vaddi d a i | vshli d a n | vshri d a n =>
    exact fits_of_some rfl (fmtRI_lt (by decide) (by simp) (by simp) (by simp) (by simp))
  | lui d i | addpc d i | setmode i | vli d i =>
    exact fits_of_some rfl (fmtI20_lt (by decide) (by simp) (by exact i.isLt))
  | br i | callr a | jmpr a | ret | eret | entry | exit | nop | yield =>
    exact fits_of_some rfl (fmtSY_lt (by decide) (by simp))
  | bz s i | bnz s i =>
    exact fits_of_some rfl (fmtBS_lt (by decide) (by simp) (by decide) (by simp))
  | bany m i | ball m i | bnone m i =>
    exact fits_of_some rfl (fmtBM_lt (by decide) (by simp) (by decide) (by exact i.isLt))
  | sif m | selse | sendif | sloop | sbrk m d | scont m d | sendlp m i =>
    exact fits_of_some rfl (fmtST_lt (by decide) (by simp) (by simp))
  | ldU8 d mem | ldS8 d mem | ldU16 d mem | ldS16 d mem | ld d mem | ldD d mem | stB s mem | stH s mem | st s mem
    | stD s mem | pref mem | cwb mem | cinv mem | discard mem | vld d mem z | vst s mem z | vlds d mem z
    | vsts s mem z =>
    exact fits_of_some rfl (fmtMEM_lt mem (by decide) (by simp) (by simp))
  | atom o r d b la | cas r d b la | red o r d b la | stStrong r d b la | ldStrong r d b la | vatom o r d b la
    | vcas r d b la | vred o r d b la | vstStrong r d b la | vldStrong r d b la =>
    exact fits_of_some rfl (fmtAT_lt (by decide) (by simp) (by simp) (by simp) (by simp) (by simp))
  | fence k c uo cp d =>
    exact fits_of_some rfl (fmtFence_lt (by simp) (by simp) (by exact Bool.toNat_lt uo) (by exact Bool.toNat_lt cp)
      (by exact Nat.lt_trans (fenceKind_code_lt k) (by decide)))
  | mtile a b c la | mma a b c la | mzero a b la | maccrd a b la | maccwr a b la | maccld a b c la | maccst a b c la
    | acwin a b c la | mplan a b c la | mchk a b la =>
    exact fits_of_some rfl (fmtMX_lt (by simp) (by simp) (by simp) (by simp) (by simp))
  | _ => exact fits_of_none rfl

theorem encodeNat_of_encode {i : Instr} {w : Word} (h : encode i = some w) : encodeNat i = some w.toNat := by
  obtain ⟨n, hn, rfl⟩ := Option.map_eq_some_iff.mp h
  rw [hn, ofNat_toNat_of_lt (wordFits i n hn)]

theorem encode_of_encodeNat {i : Instr} {w : Word} (h : encodeNat i = some w.toNat) : encode i = some w := by
  simp [encode, h]

/-- Settles O1: a word decodes to what the parser names exactly where that is well formed and has this word (`decode_eq_ok`),
and the parser names the instruction that the word was made of (`parse_encodeNat`). -/
theorem decodeAndEncodeAgree : Obligations.DecodeAndEncodeAgree := by
  unfold Obligations.DecodeAndEncodeAgree
  constructor
  · intro i w hw he
    have hn := encodeNat_of_encode he
    exact decode_eq_ok.mpr ⟨parse_encodeNat hw hn, hw, hn⟩
  · intro w i h
    obtain ⟨-, hw, hn⟩ := decode_eq_ok.mp h
    exact ⟨hw, encode_of_encodeNat hn⟩

end Sys2Proof.Proofs
end

section
/-!
The obligation on worked words and on words that decode to nothing.
-/
namespace Sys2Proof.Proofs
open Sys2Proof.Machine Sys2Proof.Laws

theorem decode_of_encode {i : Instr} {w : Word} (hw : i.wf = true) (he : encode i = some w) : decode w = .ok i :=
  decodeAndEncodeAgree.1 i w hw he

theorem decode_isOk_false_of_parse {w : Word} {e : DecodeError} (h : parse w.toNat = .error e) :
    (decode w).isOk = false := by
  unfold decode
  rw [h]
  rfl

theorem parse_reserved_major {n : Nat} (h : parserOf (fld 26 6 n) = none) : parse n = .error .reservedMajor := by
  unfold parserOf at h
  unfold parse
  split at h <;> simp_all

theorem exec_illegalOpcodeWord (w : Word) (s : State) : exec (.illegalOpcodeWord w) s = execIllegalOpcodeWord w s := rfl

/-- Settles O3: the worked words are the encodings of their instructions (`decodeAndEncodeAgree`), no parser stands at a reserved
or unassigned major (`parserOf`). -/
theorem decodingOfWords : Obligations.DecodingOfWords := by
  unfold Obligations.DecodingOfWords
  refine ⟨⟨decode_of_encode rfl rfl, decode_of_encode rfl rfl, decode_of_encode rfl rfl, decode_of_encode rfl rfl,
    decode_of_encode rfl rfl, decode_of_encode rfl rfl, decode_of_encode rfl rfl, decode_of_encode rfl rfl,
    decode_of_encode rfl rfl, decode_of_encode rfl rfl, decode_of_encode rfl rfl, decode_of_encode rfl rfl,
    decode_of_encode rfl rfl⟩, ?_, ?_⟩
  · intro w hw
    have hm : fld 26 6 w.toNat = w.toNat / 2 ^ 26 := Nat.mod_eq_of_lt (by have := w.isLt; omega)
    refine decode_isOk_false_of_parse (parse_reserved_major ?_)
    rw [hm]
    generalize w.toNat / 2 ^ 26 = m at hw
    revert m
    decide
  · intro s t w hc hd
    rw [exec_illegalOpcodeWord, execIllegalOpcodeWord, hc]
    cases he : decode w with
    | error e => rfl
    | ok i => rw [he] at hd; cases hd

end Sys2Proof.Proofs
end

section
/-!
What tellers leave behind: no teller stands between its halves once the tellers have finished (13 R195).
-/
namespace Sys2Proof.Proofs
open Sys2Proof.Machine Sys2Proof.Laws

/-- The access is no teller's second half. -/
def NoUpdate (a : Access) : Prop := ∀ old bytes dst, a.kind ≠ .update old bytes dst

/-- What stays in flight when one teller finishes: what was there beside it, and its reply. -/
theorem mem_settleOne {s : State} {a x : Access} (h : x ∈ (s.settleOne a).flight.accesses) :
    NoUpdate x ∨ x ∈ s.flight.accesses ∧ (x = a → NoUpdate a) := by
  by_cases hu : NoUpdate a
  · rw [settleOne_eq hu] at h
    exact .inr ⟨h, fun _ => hu⟩
  · simp only [NoUpdate, not_forall, not_not] at hu
    obtain ⟨old, bs, dst, hk⟩ := hu
    simp only [State.settleOne, hk, State.replied] at h
    cases dst with
    | none =>
      simp only [Option.map_none, writeLoc_flight, List.mem_filter, bne_iff_ne] at h
      exact .inr ⟨h.1, fun e => absurd (congrArg Access.id e) h.2⟩
    | some d =>
      simp only [Option.map_some, writeLoc_flight, List.mem_append, List.mem_filter, bne_iff_ne, List.mem_singleton] at h
      rcases h with h | rfl
      · exact .inr ⟨h.1, fun e => absurd (congrArg Access.id e) h.2⟩
      · exact .inl fun _ _ _ => by simp

theorem settled_foldl_settleOne {l : List Access} {s : State} (h : ∀ x ∈ s.flight.accesses, x ∈ l ∨ NoUpdate x) :
    (l.foldl State.settleOne s).settled := by
  induction l generalizing s with
  | nil => exact fun x hx => (h x hx).resolve_left (by simp)
  | cons a l ih =>
    refine ih fun x hx => ?_
    rcases mem_settleOne hx with hn | ⟨hs, ha⟩
    · exact .inr hn
    · rcases h x hs with hl | hn
      · rcases List.mem_cons.mp hl with rfl | hl
        · exact .inr (ha rfl)
        · exact .inl hl
      · exact .inr hn

theorem settled_tellersDone (s : State) : s.tellersDone.settled := settled_foldl_settleOne fun _ hx => .inl hx

end Sys2Proof.Proofs
end

section
/-!
What stands in the state when a team's instruction begins: its open promises, LAVC, and all else as it was.
-/
namespace Sys2Proof.Proofs
open Sys2Proof.Machine Sys2Proof.Laws

variable {s : State} {t : Team}

/-- No unit of the team's core that its context claims holds another context's contents (19 R295). -/
def NoUnitMoves (s : State) (t : Team) : Prop :=
  ∀ h ∈ s.fe.unitHolders, h.kind < 5 → (s.ctxOf t).claim.getLsbD h.kind = true → h.core = t.core → h.ctx = t.ctx

theorem claimUnits_of_noUnitMoves (h : NoUnitMoves s t) :
    ∃ holders, s.claimUnits t = { s with fe := { s.fe with unitHolders := holders } } := by
  have hout : (s.fe.unitHolders.filter fun h => h.core == t.core
      && ((List.range 5).filter (s.ctxOf t).claim.getLsbD).contains h.kind && h.ctx != t.ctx) = [] := by
    refine List.filter_eq_nil_iff.mpr fun x hx => ?_
    simp only [Bool.and_eq_true, beq_iff_eq, List.contains_iff_mem, List.mem_filter, List.mem_range, bne_iff_ne, not_and]
    intro ⟨hc, hk, hb⟩ hne
    exact hne (h x hx hk hb hc)
  unfold State.claimUnits
  simp only [hout]
  exact ⟨_, rfl⟩

theorem team?_of_teams {s' : State} (h : s'.teams = s.teams) (id : Nat) : s'.team? id = s.team? id := by
  rw [State.team?, State.team?, h]

theorem team?_modTeam {id : Nat} {f : Team → Team} (h : s.team? id = some t) (hf : ∀ u, (f u).id = u.id) :
    (s.modTeam id f).team? id = some (f t) := by
  have hp : ((fun u : Team => u.id == id) ∘ fun u => if u.id = id then f u else u) = fun u => u.id == id := by
    funext u
    simp only [Function.comp]
    split <;> simp [hf]
  have ht : t.id = id := by simpa using List.find?_some h
  rw [State.team?, modTeam_teams, List.find?_map, hp]
  rw [State.team?] at h
  simp [h, ht]

theorem keptBy_iff (t : Team) (i : Instr) (p : Promise) : p.keptBy t i = true ↔
    (∀ r ∈ (fieldsOf t i).srcs.flatMap Opnd.names, r ∉ p.dsts) ∧ (fieldsOf t i).status = false
      ∧ ∀ r ∈ (fieldsOf t i).dsts.flatMap Opnd.names, r ∉ p.srcs ∧ r ∉ p.dsts := by
  unfold Promise.keptBy
  generalize (fieldsOf t i).srcs.flatMap Opnd.names = reads
  generalize (fieldsOf t i).dsts.flatMap Opnd.names = writes
  simp only [Bool.and_eq_true, Bool.not_eq_true', List.any_eq_false, List.contains_iff_mem, forall_and, and_assoc]

theorem mayWait_iff (t : Team) (i : Instr) : t.mayWait i = true ↔
    t.promises.length < t.issued ∨ ∃ p ∈ t.promises, ¬ p.keptBy t i = true := by
  simp [Team.mayWait]

/-- The team as the lookahead of instruction `i` leaves it (07 R105). -/
theorem curTeam_lookAhead {id : Nat} {defer : Bool} {i : Instr} {w : Word} (ht : s.team? id = some t) (h : NoUnitMoves s t) :
    ((((s.beginIssue t defer).touchFetch t).lookAhead s t i).withWord w).curTeam =
      some (t.lookAhead i (Config.promiseBroken s.sched.freeCount)) := by
  obtain ⟨holders, hc⟩ := claimUnits_of_noUnitMoves h
  have hid : t.id = id := by simpa using List.find?_some ht
  subst hid
  have hteams : ((s.beginIssue t defer).touchFetch t).teams = s.teams := by
    unfold State.touchFetch State.beginIssue
    rw [touch_teams, hc]
  have hcur : ((((s.beginIssue t defer).touchFetch t).lookAhead s t i).withWord w).curTeam =
      (((s.beginIssue t defer).touchFetch t).lookAhead s t i).team? t.id := rfl
  rw [hcur, State.lookAhead]
  exact team?_modTeam ((team?_of_teams hteams t.id).trans ht) fun _ => rfl

theorem lookAhead_counts {i : Instr} {free : Bool} (hw : t.mayWait i = true) (hr : t.retried = false) (hc : t.cond = .ready)
    (hf : free = true) (hl : t.lavc ≠ 0xFFFFFF#32) :
    t.lookAhead i free = { t with promises := t.promises.filter fun p => p.keptBy t i, lavc := t.lavc + 1 } := by
  simp [Team.lookAhead, countLookahead, Team.firstTry, hw, hr, hc, hf, hl]

theorem lookAhead_not_counts {i : Instr} {free : Bool}
    (h : ¬ (t.mayWait i = true ∧ t.retried = false ∧ t.cond = .ready ∧ free = true ∧ t.lavc ≠ 0xFFFFFF#32)) :
    t.lookAhead i free = { t with promises := t.promises.filter fun p => p.keptBy t i } := by
  have hc : countLookahead t.lavc (t.firstTry && t.mayWait i && free) = t.lavc := by
    refine if_neg fun hx => h ?_
    simp only [Team.firstTry, Bool.and_eq_true, Bool.not_eq_true', beq_iff_eq, bne_iff_ne] at hx
    tauto
  rw [Team.lookAhead, hc]

/-- What the beginning of a turn leaves as it was. -/
theorem lookAhead_frame {defer : Bool} {i : Instr} {w : Word} (h : NoUnitMoves s t) :
    let u := (((s.beginIssue t defer).touchFetch t).lookAhead s t i).withWord w
    u.mem = s.mem ∧ u.nodes = s.nodes ∧ u.flight = s.flight ∧ u.cohorts = s.cohorts ∧ u.dev = s.dev
      ∧ u.sched.iw = w ∧ u.sched.defer = defer := by
  obtain ⟨holders, hc⟩ := claimUnits_of_noUnitMoves h
  unfold State.beginIssue
  rw [hc]
  exact ⟨rfl, rfl, rfl, rfl, rfl, rfl, rfl⟩

end Sys2Proof.Proofs
end

section
/-!
Turns: which turn a step takes, and in what state it runs (19 R292; 25 R349, R359).
-/
namespace Sys2Proof.Proofs
open Sys2Proof.Machine Sys2Proof.Laws

variable {s : State}

/-- The state with a turn before those of its agenda. -/
def withTurn (s : State) (u : Turn) : State := { s with sched := { s.sched with agenda := u :: s.sched.agenda } }

theorem step_withTurn {u : Turn} (h : s.dev.status = 1 ∨ runsStopped s.dev.status u = true) :
    step (withTurn s u) = runTurn u s := by
  unfold step
  exact if_pos h

theorem step_withTurn_stopped {u : Turn} (h : ¬ (s.dev.status = 1 ∨ runsStopped s.dev.status u = true)) :
    step (withTurn s u) = .fault .deviceStopped := by
  unfold step
  exact if_neg h

theorem issueTurn_runs {id : Nat} {defer : Bool} {t : Team} {w : Word} {i : Instr} (ht : s.tellersDone.team? id = some t)
    (hm : s.tellersDone.mayIssue t = true) (hx : t.traps = []) (hw : (s.tellersDone.beginIssue t defer).issueWord t = .ok w)
    (hd : decode w = .ok i) : issueTurn s id defer =
      exec i ((((s.tellersDone.beginIssue t defer).touchFetch t).lookAhead s.tellersDone t i).withWord w) := by
  unfold issueTurn
  simp [ht, hm, hx, hw, hd]

/-! ### Events -/

/-- The state in which an event starts: no team holds the turn, and `between` lands between the halves of its writes. -/
def started (s : State) (between : List (List OwnWrite)) : State :=
  { s with sched := { s.sched with cur := none, during := between } }

theorem isEvent_iff (i : Instr) : isEvent i = true ↔ encode i = none := by
  simp [isEvent, encode]

theorem eventTurn_eq {i : Instr} (h : encode i = none) (between : List (List OwnWrite)) (s : State) :
    eventTurn i between s = afterEvent (exec i ((started s between).readyFor i)) := by
  unfold eventTurn
  rw [if_pos ((isEvent_iff i).mpr h)]
  rfl

theorem settlesItself_iff (i : Instr) : settlesItself i = true ↔ (∃ a keep, i = .loadPerform a keep)
    ∨ (∃ a, i = .writePerform a ∨ i = .atomicPerform a ∨ i = .atomicReply a)
    ∨ ∃ link second lost done, i = .flitCrcError link second lost done := by
  cases i <;> simp [settlesItself]

theorem readyFor_settles {i : Instr} (h : settlesItself i = true ∨ s.dev.status ≠ 1) : s.readyFor i = s := by
  unfold State.readyFor
  exact if_pos (by simpa using h)

theorem readyFor_tellersDone {i : Instr} (h : ¬ settlesItself i = true) (hs : s.dev.status = 1) :
    s.readyFor i = s.tellersDone := by
  unfold State.readyFor
  exact if_neg (by simp [h, hs])

theorem eventTurn_of_settles {i : Instr} (hi : encode i = none) (between : List (List OwnWrite))
    (h : settlesItself i = true ∨ s.dev.status ≠ 1) : eventTurn i between s = afterEvent (exec i (started s between)) := by
  rw [eventTurn_eq hi, readyFor_settles (s := started s between) h]

theorem eventTurn_of_not_settles {i : Instr} (hi : encode i = none) (between : List (List OwnWrite))
    (h : ¬ settlesItself i = true) (h1 : s.dev.status = 1) :
    eventTurn i between s = afterEvent (exec i (started s between).tellersDone) := by
  rw [eventTurn_eq hi, readyFor_tellersDone (s := started s between) h h1]

theorem readsAperture_iff (r : BusReq) : readsAperture r = true ↔ ∃ a n tag, r = .read a n tag
    ∧ 0x000FFF0000000000 ≤ a.toNat ∧ a.toNat + n ≤ 0x000FFF0001000000 := by
  cases r with
  | read a n tag =>
    have h : readsAperture (.read a n tag) = true ↔ apertureBase ≤ a.toNat ∧ a.toNat + n ≤ apertureBase + apertureSize := by
      simp [readsAperture]
    exact h.trans ⟨fun h => ⟨a, n, tag, rfl, h⟩, by rintro ⟨_, _, _, ⟨rfl, rfl, rfl⟩, h⟩; exact h⟩
  | write a bs tag => simp [readsAperture]

theorem writesMailbox_iff (r : BusReq) : writesMailbox r = true ↔ ∃ a bs tag, r = .write a bs tag
    ∧ 0x000FFF0000800000 ≤ a.toNat ∧ a.toNat + bs.length ≤ 0x000FFF0000810000 := by
  cases r with
  | read a n tag => simp [writesMailbox]
  | write a bs tag =>
    have h : writesMailbox (.write a bs tag) = true ↔ mailboxLoc ≤ a.toNat ∧ a.toNat + bs.length ≤ mailboxLoc + 0x10000 := by
      simp [writesMailbox]
    exact h.trans ⟨fun h => ⟨a, bs, tag, rfl, h⟩, by rintro ⟨_, _, _, ⟨rfl, rfl, rfl⟩, h⟩; exact h⟩

theorem mailboxAnswers_iff (k : Byte) : mailboxAnswers k = true ↔ k = 2 ∨ k = 3 := by simp [mailboxAnswers]

/-- The resets and the host's reads in the control aperture (25 R349). -/
def RunsAlways (i : Instr) : Prop :=
  i = .coldReset ∨ i = .ixletReset ∨ ∃ a n tag, i = .hostRequest (.read a n tag)
    ∧ 0x000FFF0000000000 ≤ a.toNat ∧ a.toNat + n ≤ 0x000FFF0001000000

/-- The mailbox's commands and the host's writes to it. -/
def RunsByMailbox (i : Instr) : Prop :=
  i ∈ [.setq0, .route, .attest, .reset, .event] ∨ ∃ a bs tag, i = .hostRequest (.write a bs tag)
    ∧ 0x000FFF0000800000 ≤ a.toNat ∧ a.toNat + bs.length ≤ 0x000FFF0000810000

theorem runsStopped_event_iff (k : Byte) (i : Instr) : runsStopped k (.event i) = true ↔
    RunsAlways i ∨ (k = 2 ∨ k = 3) ∧ RunsByMailbox i := by
  cases i with
  | hostRequest r =>
    have h : runsStopped k (.event (.hostRequest r)) = true ↔
        readsAperture r = true ∨ mailboxAnswers k = true ∧ writesMailbox r = true := by simp [runsStopped]
    rw [h, readsAperture_iff, writesMailbox_iff, mailboxAnswers_iff]
    simp [RunsAlways, RunsByMailbox]
  | setq0 | route | attest | reset | event =>
    simp [runsStopped, RunsAlways, RunsByMailbox, mailboxAnswers_iff]
  | _ => simp [runsStopped, RunsAlways, RunsByMailbox]

/-! ### Commands of a device that has stopped -/

theorem stoppedTurn_none (h : s.dev.command = none ∨ (s.dev.status ≠ 2 ∧ s.dev.status ≠ 3)) :
    stoppedTurn s = .fault .deviceStopped := by
  rcases h with h | h
  · simp [stoppedTurn, commandTurns, h]
  · exact if_neg fun hm => ((mailboxAnswers_iff _).mp hm).elim h.1 h.2

theorem stoppedTurn_command (hs : s.dev.status = 2 ∨ s.dev.status = 3) {u : State → Result} {us : List (State → Result)}
    (h : commandTurns s = u :: us) : stoppedTurn s = afterEvent (u s) := by
  unfold stoppedTurn
  rw [if_pos ((mailboxAnswers_iff _).mpr hs), h]

theorem step_stopped (ha : s.sched.agenda = []) (h0 : s.dev.status ≠ 0) (h1 : s.dev.status ≠ 1) :
    step s = stoppedTurn s := by
  unfold step
  rw [ha]
  exact (if_neg h1).trans (if_neg h0)

/-! ### After an event -/

theorem foldl_ownWrite_sched (ws : List OwnWrite) (s : State) (x : Sched) :
    ws.foldl State.ownWrite { s with sched := x } = { ws.foldl State.ownWrite s with sched := x } := by
  induction ws generalizing s with
  | nil => rfl
  | cons w ws ih => exact ih (s.ownWrite w)

theorem foldl_ownWrite_keeps_sched (ws : List OwnWrite) (s : State) : (ws.foldl State.ownWrite s).sched = s.sched := by
  induction ws generalizing s with
  | nil => rfl
  | cons w ws ih => exact (ih (s.ownWrite w)).trans rfl

theorem afterEvent_during {ws : List OwnWrite} {rest : List (List OwnWrite)} (h : s.sched.during = ws :: rest) :
    afterEvent (.next s) = afterEvent (.next (ws.foldl State.ownWrite { s with sched := { s.sched with during := rest } })) := by
  simp only [afterEvent, h, foldl_ownWrite_keeps_sched, List.flatten_cons, List.foldl_append, ← foldl_ownWrite_sched]

theorem afterEvent_quiet (h : s.sched.during = []) : afterEvent (.next s) = .next s.idlePreempt := by
  have hs : ({ s with sched := { s.sched with during := [] } } : State) = s := by rw [← h]
  simp only [afterEvent, h, List.flatten_nil, List.foldl_nil, hs]

/-! ### An idle running context -/

theorem hasNode_iff (s : State) (ctx : Nat) : s.hasNode ctx = true ↔ ∃ id ∈ s.fe.pool, ∃ n, s.node? id = some n ∧ n.ctx = ctx := by
  unfold State.hasNode
  simp only [List.any_eq_true]
  refine exists_congr fun id => and_congr_right fun _ => ?_
  cases s.node? id <;> simp

theorem gangQueues_ne_nil_iff (s : State) (ctx : Nat) : s.gangQueues ctx ≠ [] ↔ ∃ q ∈ List.range 128,
    (s.queue q).wait = .gang ∧ (s.queue q).map.any (fun m => m.ctx == ctx) = true := by
  unfold State.gangQueues
  rw [ne_eq, List.filter_eq_nil_iff]
  simp [State.queueOf]

/-- A context that has something ready, not counting what fires brought since the slice began (19 R287, R292). -/
def ReadyNow (s : State) (c : Context) : Prop :=
  (∃ id ∈ s.fe.pool, ∃ n, s.node? id = some n ∧ n.ctx = c.ctxid)
    ∨ (∃ q ∈ List.range 128, (s.queue q).wait = .gang ∧ (s.queue q).map.any (fun m => m.ctx == c.ctxid) = true)
    ∨ (∃ t ∈ s.teams, t.ctx = c.ctxid ∧ t.wantsIssue = true ∧ ¬(t.id ∈ c.lateTeams ∧ t.cond = .woken))
    ∨ (c.wakePend = true ∧ c.wakeLate = false)

theorem runnableNow_iff (s : State) (c : Context) : s.runnableNow c = true ↔ ReadyNow s c := by
  unfold State.runnableNow State.readyNode ReadyNow
  simp only [Bool.or_eq_true, Bool.and_eq_true, bne_iff_ne, hasNode_iff, gangQueues_ne_nil_iff, List.any_eq_true, beq_iff_eq,
    Bool.not_eq_true', Bool.and_eq_false_iff, List.contains_eq_mem, decide_eq_false_iff_not, beq_eq_false_iff_ne, or_assoc,
    and_assoc, not_and_or]

/-- The running context has neither team nor node. -/
def RunningIdle (s : State) : Prop :=
  (∀ t ∈ s.teams, t.ctx ≠ s.fe.running) ∧ ∀ id ∈ s.fe.pool, ∀ n, s.node? id = some n → n.ctx ≠ s.fe.running

theorem idle_iff (s : State) : s.idle = true ↔ RunningIdle s := by
  unfold State.idle RunningIdle
  rw [Bool.and_eq_true, Bool.not_eq_true', Bool.not_eq_true', ← Bool.not_eq_true (s.hasNode _), hasNode_iff]
  simp

theorem idlePreempt_eq (s : State) [Decidable (RunningIdle s ∧ ∃ c ∈ s.fe.contexts, c.ctxid ≠ s.fe.running ∧ ReadyNow s c)] :
    s.idlePreempt = if RunningIdle s ∧ ∃ c ∈ s.fe.contexts, c.ctxid ≠ s.fe.running ∧ ReadyNow s c then s.gate else s := by
  unfold State.idlePreempt
  congr 1
  simp [idle_iff, runnableNow_iff]

end Sys2Proof.Proofs
end

section
/-!
The obligation on what a step runs.
-/
namespace Sys2Proof.Proofs
open Sys2Proof.Machine Sys2Proof.Laws

/-- Settles O4: a turn of the agenda is `runTurn` (`step_withTurn`), for a team `issueTurn`, whose lookahead
(`curTeam_lookAhead`) leaves the rest alone (`lookAhead_frame`), for an event `eventTurn`. -/
theorem stepRunsInstruction : Obligations.StepRunsInstruction := by
  unfold Obligations.StepRunsInstruction
  refine ⟨?_, fun s h => tellersDone_eq h, settled_tellersDone, ?_, ?_, ?_, ?_, ?_, ?_⟩
  · intro s id defer t w i u h1 ht hm hx hw hd
    exact (step_withTurn (.inl h1)).trans (issueTurn_runs ht hm hx hw hd)
  · intro s id defer t w i ht hu u reads writes kept mayWait counts open_
    have hmay : t.mayWait i = true ↔ mayWait := by
      simp only [mayWait_iff, keptBy_iff]; exact Iff.rfl
    have hcur : u.curTeam = some (t.lookAhead i (Config.promiseBroken s.sched.freeCount)) := curTeam_lookAhead ht hu
    refine ⟨keptBy_iff t i, ?_, ?_, lookAhead_frame hu⟩
    · rintro ⟨hw, hr, hc, hf, hl⟩
      rw [hcur, lookAhead_counts (hmay.mpr hw) hr hc hf hl]
    · intro hn
      rw [hcur, lookAhead_not_counts fun h => hn ⟨hmay.mp h.1, h.2⟩]
  · intro s i hi u started_ always mailbox apart
    have hev : ∀ between, s.dev.status = 1 → (apart → eventTurn i between s = afterEvent (exec i (started s between)))
        ∧ (¬ apart → eventTurn i between s = afterEvent (exec i (started s between).tellersDone)) := fun between h1 =>
      ⟨fun ha => eventTurn_of_settles hi between (.inl ((settlesItself_iff i).mpr ha)),
        fun ha => eventTurn_of_not_settles hi between (fun h => ha ((settlesItself_iff i).mp h)) h1⟩
    refine ⟨fun h1 => ?_, fun h1 => ⟨fun h => ?_, fun ha hm => ?_⟩, fun between h1 hfit => ?_⟩
    · have hs : step u = eventTurn i [] s := step_withTurn (.inl h1)
      rw [hs]
      exact hev [] h1
    · have hr : runsStopped s.dev.status (.event i) = true :=
        (runsStopped_event_iff _ i).mpr (h.imp id id)
      have hs : step u = eventTurn i [] s := step_withTurn (.inr hr)
      exact hs.trans (eventTurn_of_settles hi [] (.inr h1))
    · exact step_withTurn_stopped fun h => (h.resolve_left h1 |> (runsStopped_event_iff _ i).mp).elim ha hm
    · intro during v
      have hb : (between.all fun ws => ws.all OwnWrite.fits) = true := by simpa using hfit
      have hs : step v = eventTurn i between s := (step_withTurn (.inl h1)).trans (if_pos hb)
      rw [hs]
      exact hev between h1
  · intro s h0 ha
    unfold step
    rw [ha, h0]
    rfl
  · intro s ha h0 h1
    rw [step_stopped ha h0 h1]
    refine ⟨stoppedTurn_none, ?_⟩
    intro e he h2 hc
    simp only [List.mem_cons, List.not_mem_nil, or_false] at he
    rcases he with rfl | rfl | rfl | rfl | rfl
    all_goals exact stoppedTurn_command (us := []) h2 (by rw [commandTurns, hc]; rfl)
  · intro s hd other idle
    classical
    rw [afterEvent_quiet hd, idlePreempt_eq]
    exact ⟨fun hi ho => congrArg _ (if_pos ⟨hi, ho⟩), fun h => congrArg _ (if_neg h)⟩
  · exact fun s ws rest h => afterEvent_during h

end Sys2Proof.Proofs
end

section
/-!
SUPPORT. Which special register numbers stop SRD and SWR, and what SRD leaves (07 R94, R95; 25 R350).
-/
namespace Sys2Proof.Proofs
open Sys2Proof.Machine Sys2Proof.Laws

variable {s : State} {t : Team}

theorem exec_srd (d : Reg) (n : BitVec 12) (s : State) : exec (.srd d n) s = execSrd d n s := rfl
theorem exec_swr (n : BitVec 12) (r : Reg) (s : State) : exec (.swr n r) s = execSwr n r s := rfl

/-! ### The traps of numbers -/

theorem specialTrap_unlisted {n : Nat} (h : n < 0x100) (hu : userSpecial n = false) :
    specialTrap s t n = some (.at .illegalOpcode 0 0) := by
  simp [specialTrap, h, hu]

theorem specialTrap_unprivileged {n : Nat} (h : 0x100 ≤ n) (hp : (s.ctxOf t).priv = false) :
    specialTrap s t n = some (.at .privilege (.ofNat 64 n) 0) := by
  have h' : ¬ n < 0x100 := by omega
  simp [specialTrap, h', hp]

theorem specialTrap_no_register {n : Nat} (h : 0x100 ≤ n) (hp : (s.ctxOf t).priv = true) (hn : privSpecial n = false) :
    specialTrap s t n = some (.at .illegalOpcode 0 0) := by
  have h' : ¬ n < 0x100 := by omega
  simp [specialTrap, h', hp, hn]

theorem lt_of_userSpecial {n : Nat} (h : userSpecial n = true) : n < 0x100 := by
  simp only [userSpecial, Bool.or_eq_true, Bool.and_eq_true, decide_eq_true_eq] at h
  omega

theorem le_of_privSpecial {n : Nat} (h : privSpecial n = true) : 0x100 ≤ n := by
  simp only [privSpecial, Bool.or_eq_true, beq_iff_eq] at h
  omega

theorem specialTrap_user {n : Nat} (h : userSpecial n = true) : specialTrap s t n = none := by
  simp [specialTrap, lt_of_userSpecial h, h]

theorem specialTrap_privileged {n : Nat} (hp : (s.ctxOf t).priv = true) (h : privSpecial n = true) :
    specialTrap s t n = none := by
  have h' : ¬ n < 0x100 := by have := le_of_privSpecial h; omega
  simp [specialTrap, h', hp, h]

theorem runState_early {sh : Team → State → Shape} {effect : Team → State → Except Stop (State × List Touch)} {x : Trap}
    (hc : s.curTeam = some t) (he : (sh t s).early = some x) : runState sh effect s = .next (s.trapped t x) := by
  rw [runState_checked hc (check_early he), finish_trap]

/-- A number that traps stops SRD and SWR before any effect. -/
theorem special_trapped {n : BitVec 12} {x : Trap} (hc : s.curTeam = some t) (h : specialTrap s t n.toNat = some x)
    (hx : x.code ≠ .acquireFailed) (d : Reg) :
    exec (.srd d n) s = .next (s.takeTrap t x) ∧ exec (.swr n d) s = .next (s.takeTrap t x) := by
  rw [← trapped_of_ne hx, exec_srd, exec_swr]
  exact ⟨runRegs_early hc h, runState_early hc h⟩

/-! ### SRD -/

/-- The value does not depend on how the instruction began. -/
theorem specialValue_begin (s : State) (t : Team) (n : Nat) : specialValue s t.begin n = specialValue s t n := rfl

/-- SRD of 0x100 captures the time base for 0x101 (25 R351). -/
def captured (s : State) (t : Team) (n : BitVec 12) : Team :=
  { t with tbCapture := if n = 0x100#12 then s.coreTime t.core else t.tbCapture }

theorem exec_srd_listed {n : BitVec 12} {d : Reg} (hi : Issues s t { dsts := [.s d], exm := n == 1#12 })
    (hn : specialTrap s t n.toNat = none) (hm : n = 3#12 → t.matrixPending = false) :
    exec (.srd d n) s = .next (s.putTeam { t.past with
      sregs := scalarsAfter t [] [(d, specialValue s t n.toNat)]
      tbCapture := if n = 0x100#12 then s.coreTime t.core else t.tbCapture }) := by
  have hw : ¬ (n = 3#12 ∧ t.begin.matrixPending) := fun h => by
    have hf := hm h.1
    have ht : t.matrixPending = true := h.2
    rw [hf] at ht
    cases ht
  have hcap : (if n = 0x100#12 then { t.begin with tbCapture := s.coreTime t.begin.core } else t.begin)
      = captured s t.begin n := by
    unfold captured
    split <;> rfl
  have hsh : ScalarSources { dsts := [.s d], exm := n == 1#12, early := specialTrap s t n.toNat } := ⟨rfl, by simp⟩
  rw [exec_srd, execSrd, runRegs_next (t := t) (t' := ((captured s t.begin n).setS d (specialValue s t n.toNat)).advance) hi.1
    (by rw [hn]; exact hi.2) (by rw [if_neg hw, hcap, specialValue_begin]), retire_setS_advance (used := []) hsh rfl]
  rfl

end Sys2Proof.Proofs
end

section
/-!
SUPPORT. Words made of fields: the values of special registers field by field, and bit by bit.
-/
namespace Sys2Proof.Proofs
open Sys2Proof.Machine Sys2Proof.Laws

variable (s : State) (t : Team)

/-- The number that fields make, lowest first. -/
def fieldsNat : List (Nat × Nat) → Nat
  | [] => 0
  | (n, v) :: rest => v + 2 ^ n * fieldsNat rest

theorem fieldsOf_of_toNat {w : Word} {l : List (Nat × Nat)} (hv : ∀ p ∈ l, p.2 < 2 ^ p.1) (h : w.toNat = fieldsNat l) :
    fieldsOf w l := by
  induction l generalizing w with
  | nil => exact BitVec.eq_of_toNat_eq h
  | cons p rest ih =>
    obtain ⟨n, v⟩ := p
    have hlt : v < 2 ^ n := hv (n, v) (by simp)
    have hw : w.toNat = v + 2 ^ n * fieldsNat rest := h
    refine ⟨hlt, ?_, ih (fun p hp => hv p (by simp [hp])) ?_⟩
    · rw [fld, hw, Nat.pow_zero, Nat.div_one, Nat.add_mul_mod_self_left, Nat.mod_eq_of_lt hlt]
    · rw [BitVec.toNat_ushiftRight, Nat.shiftRight_eq_div_pow, hw, Nat.add_mul_div_left _ _ (Nat.two_pow_pos n),
        Nat.div_eq_of_lt hlt, Nat.zero_add]

theorem toNat_le_one (b : Bool) : b.toNat ≤ 1 := Bool.toNat_le b

/-! ### CID0 and CID1 (03 R49) -/

theorem cidWord_fields {h : BitVec 16} {c : Cohort} (h0 : h ≠ 0) (hc : s.cohort? t h = some c) (hl : c.members.length ≤ 64) :
    fieldsOf (cidWord s t h) [(16, h.toNat), (1, if c.members.head? = some t.id then 1 else 0), (7, 0),
      (7, c.members.length), (1, 0)] := by
  have hh := h.isLt
  have hlead : (c.members.head? == some t.id).toNat = if c.members.head? = some t.id then 1 else 0 := by
    by_cases hm : c.members.head? = some t.id <;> simp [hm]
  have hle : (if c.members.head? = some t.id then 1 else 0) ≤ 1 := by split <;> omega
  rw [cidWord, if_neg h0, hc]
  dsimp only
  rw [hlead]
  generalize (if c.members.head? = some t.id then 1 else 0) = lead at hle
  refine fieldsOf_of_toNat ?_ ?_
  · simp only [List.forall_mem_cons, List.not_mem_nil, false_imp_iff, implies_true, and_true]
    omega
  · simp only [fieldsNat, BitVec.toNat_ofNat]
    omega

/-! ### DPCAP and TAR (01 R21; 19 R284) -/

theorem dpcapWord_fields : let half := s.cores.half.getLsbD t.core
    let profN := s.dev.flash.profile.getLsbD (pairOf t.core)
    fieldsOf (dpcapWord s t.core) [(1, profN.toNat), (1, half.toNat), (1, if half then (s.cores.hsel.getLsbD t.core).toNat else 0),
      (1, (!profN).toNat), (12, 0), (6, if half then 16 else 32), (2, 0), (7, if half then 32 else 64), (1, 0)] := by
  intro half profN
  have hd : dpcapWord s t.core = .ofNat 32 (profN.toNat + half.toNat * 2 + (half && s.cores.hsel.getLsbD t.core).toNat * 4
    + (!profN).toNat * 8 + (if half then 16 else 32) * 2 ^ 16 + (if half then 32 else 64) * 2 ^ 24) := rfl
  rw [hd]
  cases half <;> cases profN <;> cases s.cores.hsel.getLsbD t.core <;> exact fieldsOf_of_toNat (by decide) (by decide)

theorem budget_lt : s.budget t.core < 2 ^ 12 := by
  unfold State.budget
  split <;> exact Nat.mod_lt _ (by decide)

theorem tarWord_fields : fieldsOf (tarWord s t.core) [(12, s.avail t.core), (12, s.budget t.core),
    (7, (Assoc.get 0 s.dev.colTemp t.core).toNat), (1, (s.dev.hot.getLsbD (towerOf t.core)).toNat)] := by
  have hb := budget_lt s t
  have ha : s.avail t.core ≤ s.budget t.core := (Nat.sub_le _ _).trans (Nat.sub_le _ _)
  have ht := (Assoc.get 0 s.dev.colTemp t.core).isLt
  have hh := toNat_le_one (s.dev.hot.getLsbD (towerOf t.core))
  refine fieldsOf_of_toNat ?_ ?_
  · simp only [List.forall_mem_cons, List.not_mem_nil, false_imp_iff, implies_true, and_true]
    omega
  · simp only [fieldsNat, tarWord, BitVec.toNat_ofNat]
    omega

/-! ### Numbers made of bits -/

theorem testBit_foldr_range (f : Nat → Bool) (n k : Nat) :
    ((List.range n).foldr (fun b acc => 2 * acc + (f b).toNat) 0).testBit k = (decide (k < n) && f k) := by
  have hm : (List.range n).foldr (fun b acc => 2 * acc + (f b).toNat) 0
      = ((List.range n).map f).foldr (fun (c : Bool) acc => 2 * acc + c.toNat) 0 := by rw [List.foldr_map]
  rw [hm, testBit_foldr_bits]
  by_cases hk : k < n <;> simp [List.getD_eq_getElem?_getD, hk]

/-! ### CTB (07 R99) -/

theorem ctb_getLsbD (ctx core : Nat) {k : Nat} (hk : k < 64) : (s.ctb ctx core).getLsbD k = s.tagSet ctx core k := by
  have hf : (fun k acc => (s.tagSet ctx core k).toNat + 2 * acc) = fun k acc => 2 * acc + (s.tagSet ctx core k).toNat := by
    funext k acc
    exact Nat.add_comm _ _
  rw [State.ctb, BitVec.getLsbD_ofNat, hf, testBit_foldr_range]
  simp [hk]

theorem lowWord_getLsbD (x : Addr) {j : Nat} (hj : j < 32) : (lowWord x).getLsbD j = x.getLsbD j := by
  simp [lowWord, hj]

theorem highWord_getLsbD (x : Addr) {j : Nat} (hj : j < 32) : (highWord x).getLsbD j = x.getLsbD (32 + j) := by
  simp [highWord, hj]

theorem specialValue_ctb {k : Nat} (hk : k < 64) :
    (specialValue s t (0x030 + k / 32)).getLsbD (k % 32) = s.tagSet t.ctx t.core k := by
  rw [← ctb_getLsbD s t.ctx t.core hk]
  by_cases h : k < 32
  · have hd : k / 32 = 0 := by omega
    have hm : k % 32 = k := by omega
    rw [hd, hm]
    exact lowWord_getLsbD _ h
  · have hd : k / 32 = 1 := by omega
    have hm : k = 32 + k % 32 := by omega
    have hv : specialValue s t (0x030 + k / 32) = highWord (s.ctb t.ctx t.core) := by rw [hd]; rfl
    rw [hv, highWord_getLsbD _ (Nat.mod_lt _ (by decide)), ← hm]

theorem performed_iff (b : Batch) : s.performed b = true ↔ ∀ x ∈ s.flight.copies, x.id ∉ b.copies := by
  simp only [State.performed, List.all_eq_true, Bool.not_eq_true', List.any_eq_false, beq_iff_eq]
  exact ⟨fun h x hx hb => h x.id hb x hx rfl, fun h c hc x hx e => h x hx (e ▸ hc)⟩

theorem tagSet_iff (ctx core k : Nat) : s.tagSet ctx core k = true ↔
    (∃ b ∈ s.flight.batches, b.ctx = ctx ∧ b.core = core ∧ b.tag = k)
      ∧ ∀ b ∈ s.flight.batches, b.ctx = ctx → b.core = core → b.tag = k → ∀ x ∈ s.flight.copies, x.id ∉ b.copies := by
  have hb : ∀ b, b ∈ s.bound ctx core k ↔ b ∈ s.flight.batches ∧ b.ctx = ctx ∧ b.core = core ∧ b.tag = k := fun b => by
    simp [State.bound, and_assoc]
  simp only [State.tagSet, Bool.and_eq_true, bne_iff_ne, List.all_eq_true, performed_iff, hb, and_imp]
  refine and_congr_left fun _ => ?_
  rw [ne_eq, List.eq_nil_iff_forall_not_mem]
  simp only [not_forall, not_not, hb]

/-! ### DFM (01 R23 to R25) -/

theorem specialValue_dfm {i : Nat} (hi : i < 16) : specialValue s t (0x050 + i) = dfmWord s t.core i := by
  interval_cases i <;> rfl

theorem dfmWord_getLsbD (core n : Nat) : (dfmWord s core (n / 32)).getLsbD (n % 32) = dfmBit s core n := by
  have hn : 32 * (n / 32) + n % 32 = n := Nat.div_add_mod n 32
  have hm : n % 32 < 32 := Nat.mod_lt _ (by decide)
  rw [dfmWord, BitVec.getLsbD_ofNat, testBit_foldr_range (fun b => dfmBit s core (32 * (n / 32) + b)), hn]
  simp [hm]

theorem dfmBit_iff {core n : Nat} : dfmBit s core n = true ↔
    let profN := s.dev.flash.profile.getLsbD (pairOf core) = true
    (n < 32 ∧ (profN → n ∉ [0x0A, 0x0B, 0x16, 0x17, 0x18, 0x1E]))
      ∨ n ∈ [0x06, 0x07, 0x08, 0x09, 0x0A, 0x0B, 0x14, 0x15, 0x17, 0x1D, 0x1E].map (32 + ·)
      ∨ ((n = 32 + 0x18 ∨ n = 64) ∧ ¬ profN) ∨ (n = 65 ∧ Config.recordsDigits = true)
      ∨ (n = 66 ∧ s.dev.flash.nativeAtomics = true) ∨ (96 ≤ n ∧ n ≤ 113) := by
  unfold dfmBit profileN
  cases s.dev.flash.profile.getLsbD (pairOf core) <;> cases Config.recordsDigits <;> cases s.dev.flash.nativeAtomics <;>
    (dsimp only; split_ifs <;> simp <;> omega)

/-! ### The time base (25 R351) -/

theorem dieReading_bounds (die now : Nat) : now - 2 ≤ dieReading die now ∧ dieReading die now ≤ now := by
  unfold dieReading
  omega

theorem dieReading_le_succ (die now : Nat) : dieReading die now ≤ dieReading die (now + 1) := by
  have h := (Config.dieLag die now).isLt
  unfold dieReading
  simp only [Nat.add_sub_cancel]
  omega

theorem coreTime_toNat (core : Nat) : (s.coreTime core).toNat = dieReading (8 + core / 64) s.dev.time.toNat := by
  have h := (dieReading_bounds (8 + core / 64) s.dev.time.toNat).2
  have ht := s.dev.time.isLt
  rw [State.coreTime, State.timeOn, BitVec.toNat_ofNat]
  exact Nat.mod_eq_of_lt (by omega)

/-! ### IMPL (00 R6) -/

/-- The word of a level, a builder, a step and a timing model. -/
theorem implWord_fields (builder : Fin 127) (step : BitVec 8) (matching : Bool) :
    fieldsOf (0#4 ++ (if matching then 1#4 else 0#4) ++ step ++ BitVec.ofNat 8 (builder.val + 1) ++ 0x08#8)
      [(8, 0x08), (8, builder.val + 1), (8, step.toNat), (4, matching.toNat), (4, 0)] := by
  have hb := builder.isLt
  have hs := step.isLt
  have ht : (if matching then 1#4 else 0#4).toNat = matching.toNat := by cases matching <;> rfl
  have ht1 := Bool.toNat_le matching
  refine fieldsOf_of_toNat ?_ ?_
  · simp only [List.forall_mem_cons, List.not_mem_nil, false_imp_iff, implies_true, and_true]
    omega
  · simp only [fieldsNat, toNat_append_eq_add, ht, BitVec.toNat_ofNat]
    omega

end Sys2Proof.Proofs
end

section
/-!
The obligation on SRD and on the traps of special register numbers.
-/
namespace Sys2Proof.Proofs
open Sys2Proof.Machine Sys2Proof.Laws

/-- What the special registers read, register by register. -/
theorem specialValue_values (s : State) (t : Team) (p : BitVec 16 × Nat) (hp : p ∈ [(t.cid0, 0x013), (t.cid1, 0x014)]) :
    specialValue s t p.2 = cidWord s t p.1 := by
  simp only [List.mem_cons, List.not_mem_nil, or_false] at hp
  rcases hp with rfl | rfl <;> rfl

/-- Settles O15: SRD writes `specialValue` (`exec_srd_listed`), whose words are taken apart into fields (`fieldsOf_of_toNat`) and
bits (`specialValue_ctb`, `dfmBit_iff`); numbers that trap stop both instructions (`special_trapped`). -/
theorem specialRegisterReads : Obligations.SpecialRegisterReads := by
  unfold Obligations.SpecialRegisterReads
  refine ⟨⟨?_, ?_⟩, ?_⟩
  · intro d n s t hi hn hm
    have ht : specialTrap s t n.toNat = none := hn.elim specialTrap_user fun h => specialTrap_privileged h.1 h.2
    exact exec_srd_listed hi ht hm
  · intro s t
    refine ⟨rfl, rfl, rfl, rfl, rfl, rfl, rfl, rfl, rfl, rfl, rfl, rfl, rfl, rfl, ?_, rfl, rfl, ?_, ?_, dieReading_le_succ, ?_,
      ?_, dpcapWord_fields s t, tarWord_fields s t, ?_, ?_, rfl⟩
    · intro i
      fin_cases i <;> exact ⟨rfl, rfl⟩
    · rw [coreTime_toNat]
      exact (dieReading_bounds _ _).1
    · rw [coreTime_toNat]
      exact (dieReading_bounds _ _).2
    · intro p hp
      rw [specialValue_values s t p hp]
      exact ⟨fun h0 => if_pos h0, fun c h0 hc hl => cidWord_fields s t h0 hc hl⟩
    · intro k hk
      rw [specialValue_ctb s t hk, tagSet_iff]
    · intro n hn
      rw [specialValue_dfm s t (by omega), dfmWord_getLsbD, dfmBit_iff]
    · exact ⟨_, _, _, by omega, by have := Config.builder.isLt; omega, Bool.toNat_le _,
        fun s t => implWord_fields Config.builder Config.stepping Config.timingMatches⟩
  · intro n d s t hc
    refine ⟨fun h hu => ?_, fun h hp => ?_, fun h hp hn => ?_⟩
    · exact special_trapped hc (specialTrap_unlisted h hu) (by simp [Trap.at]) d
    · have hx : (Trap.at .privilege (.ofNat 64 n.toNat) 0 : Trap) = ⟨.privilege, n.setWidth 64, 0, none, none⟩ := by
        simp [Trap.at]
      rw [← hx]
      exact special_trapped hc (specialTrap_unprivileged h hp) (by simp [Trap.at]) d
    · exact special_trapped hc (specialTrap_no_register h hp hn) (by simp [Trap.at]) d

end Sys2Proof.Proofs
end

section
/-!
SUPPORT. MODE values, and what SETMODE, MODEW and SWR leave (07 R95, R96, R98; 09 R138, R139; 25 R350; 21 R309).
-/
namespace Sys2Proof.Proofs
open Sys2Proof.Machine Sys2Proof.Laws

variable {s : State} {t : Team}

theorem exec_modew (a : Src) (s : State) : exec (.modew a) s = execModew a s := rfl
theorem exec_setmode (k : BitVec 20) (s : State) : exec (.setmode k) s = execSetmode k s := rfl

/-! ### The checks of a MODE value -/

theorem rndOk_iff (nvr rnd : Nat) : rndOk nvr rnd = true ↔ rnd ≤ 4 ∧ (nvr = 1 → rnd = 0) := by
  simp [rndOk, imp_iff_not_or]

theorem modeOk_iff (nvr : Nat) (v : Word) : modeOk nvr v = true ↔ modeAccepted nvr v := by
  rw [modeOk, Bool.and_eq_true, rndOk_iff, beq_iff_eq, Nat.div_eq_zero_iff_lt (Nat.two_pow_pos 13)]
  rfl

theorem setMode_accepted {u : Team} {v : Word} (h : modeAccepted (s.ctxOf u).nvr v) :
    setMode s u v = .ok { u with mode := v } := if_pos ((modeOk_iff _ v).mpr h)

theorem setMode_refused {u : Team} {v : Word} (h : ¬ modeAccepted (s.ctxOf u).nvr v) :
    setMode s u v = .error (.trap (.at .illegalMode 0 0)) := if_neg fun hm => h ((modeOk_iff _ v).mp hm)

/-- A refused value raises ILLEGAL_MODE. -/
theorem finish_illegalMode (s : State) (t : Team) :
    finish s t (.error (.trap (.at .illegalMode 0 0))) = .next (s.takeTrap t ⟨.illegalMode, 0, 0, none, none⟩) := by
  rw [finish_trap, trapped_of_ne (by simp [Trap.at])]
  rfl

/-! ### MODEW and SETMODE -/

section Mode
variable {a : Src} {k : BitVec 20}

theorem exec_modew_accepted (hi : Issues s t { srcs := useS [a] }) (h : modeAccepted (s.ctxOf t).nvr (t.sval a.reg)) :
    exec (.modew a) s = .next (s.putTeam { t.past with mode := t.sval a.reg, sregs := scalarsAfter t (lastOf [a]) [] }) := by
  have hset : setMode s t.begin (t.begin.sval a.reg) = .ok { t.begin with mode := t.sval a.reg } := setMode_accepted h
  have hused : usedUpS { srcs := useS [a] } = lastOf [a] := by
    simp only [usedUpS, List.append_nil, flatMap_scalars_useS]
    simp
  have hret (u : Team) : ({ srcs := useS [a] } : Shape).retire u = { u with
      sregs := killedS (lastOf [a]) u.sregs, promises := promisesAged u, issued := u.issued + 1 } := by
    rw [retire_of_scalarSources (scalarSources_useS [a] []), hused]
  rw [exec_modew, execModew, runRegs_next (t' := ({ t.begin with mode := t.sval a.reg } : Team).advance) hi.1 hi.2
    (by rw [hset])]
  exact congrArg (fun u => Host.Outcome.next (s.putTeam u)) (hret _)

theorem exec_modew_refused (hi : Issues s t { srcs := useS [a] }) (h : ¬ modeAccepted (s.ctxOf t).nvr (t.sval a.reg)) :
    exec (.modew a) s = .next (s.takeTrap t ⟨.illegalMode, 0, 0, none, none⟩) := by
  have hset : setMode s t.begin (t.begin.sval a.reg) = .error (.trap (.at .illegalMode 0 0)) := setMode_refused h
  rw [exec_modew, execModew, runRegs_stopped hi.1 hi.2 (by rw [hset]), finish_illegalMode]

theorem inFlight_no_operands (t : Team) (s : State) : ({} : Shape).inFlight t s = false :=
  Bool.or_eq_false_iff.mpr ⟨List.any_eq_false.mpr fun _ _ => by simp [Shape.opnds], List.any_eq_false.mpr fun _ _ => by
    simp [Shape.opnds]⟩

/-- An instruction of no operand waits for nothing and is refused nothing. -/
theorem check_no_operands (t : Team) (s : State) : ({} : Shape).check t s = none := by
  simp [Shape.check, Shape.regBound, Shape.opnds, Shape.waits, inFlight_no_operands, Shape.poisoned, List.min?]

theorem exec_setmode_accepted (hc : s.curTeam = some t) (h : modeAccepted (s.ctxOf t).nvr (k.setWidth 32)) :
    exec (.setmode k) s = .next (s.putTeam { t.past with mode := k.setWidth 32 }) := by
  have hset : setMode s t.begin (k.setWidth 32) = .ok { t.begin with mode := k.setWidth 32 } := setMode_accepted h
  rw [exec_setmode, execSetmode, runRegs_next (t' := ({ t.begin with mode := k.setWidth 32 } : Team).advance) hc
    (check_no_operands t s) (by rw [hset]), retire_of_no_last rfl (by simp)]
  rfl

theorem exec_setmode_refused (hc : s.curTeam = some t) (h : ¬ modeAccepted (s.ctxOf t).nvr (k.setWidth 32)) :
    exec (.setmode k) s = .next (s.takeTrap t ⟨.illegalMode, 0, 0, none, none⟩) := by
  have hset : setMode s t.begin (k.setWidth 32) = .error (.trap (.at .illegalMode 0 0)) := setMode_refused h
  rw [exec_setmode, execSetmode, runRegs_stopped hc (check_no_operands t s) (by rw [hset]), finish_illegalMode]

end Mode

/-! ### SWR -/

section Swr
variable {n : BitVec 12} {r : Reg}

/-- What SWR does once its checks pass. -/
def swrEffect (n : BitVec 12) (r : Reg) (t : Team) (s : State) : Except Stop (State × List Touch) :=
  if n = 0#12 then
    match setMode s t (t.sval r) with
    | .error e => .error e
    | .ok t1 => .ok (s.putTeam t1.advance, [])
  else if n = 3#12 ∧ t.matrixPending then .error .stall
  else if n = 0x112#12 then
    match invalidate s (t.sval r) with
    | .error e => .error e
    | .ok s1 => .ok (s1.putTeam t.advance, [])
  else .ok ((s.writeDevice n.toNat (t.sval r)).putTeam (t.writeSpecial n.toNat (t.sval r)).advance, [])

theorem execSwr_eq (n : BitVec 12) (r : Reg) (s : State) : execSwr n r s =
    runState (fun t s => { srcs := useS [⟨r, false⟩], early := specialTrap s t n.toNat }) (swrEffect n r) s := rfl

/-- Where the number is no trap, SWR passes its checks as a reader of its register does. -/
theorem check_swr (hi : Issues s t { srcs := useS [⟨r, false⟩] }) (hn : specialTrap s t n.toNat = none) :
    ({ srcs := useS [⟨r, false⟩], early := specialTrap s t n.toNat } : Shape).check t s = none := by
  rw [hn]
  exact hi.2

/-- The team past an instruction that ended with it changed to `u`. -/
def pastAs (u : Team) : Team := { u.advance with promises := promisesAged u, issued := u.issued + 1 }

theorem exec_swr_completes (hi : Issues s t { srcs := useS [⟨r, false⟩] }) (hn : specialTrap s t n.toNat = none) {s1 : State}
    {u : Team} (hu : u.id = t.id) (he : swrEffect n r t.begin (s.putTeam t.begin) = .ok (s1.putTeam u.advance, [])) :
    exec (.swr n r) s = .next (s1.putTeam (pastAs u)) := by
  have hu' : u.advance.id = t.id := hu
  rw [exec_swr, execSwr_eq, runState_next_untouched hi.1 (check_swr hi hn) he, ← hu', modTeam_putTeam _ (retire_id _),
    retire_of_no_last rfl (by simp [useS])]
  rfl

theorem exec_swr_stops (hi : Issues s t { srcs := useS [⟨r, false⟩] }) (hn : specialTrap s t n.toNat = none) {e : Stop}
    (he : swrEffect n r t.begin (s.putTeam t.begin) = .error e) : exec (.swr n r) s = finish s t (.error e) := by
  rw [exec_swr, execSwr_eq, runState_stopped hi.1 (check_swr hi hn) he]

/-- 0x000 is MODE. -/
theorem exec_swr_mode_accepted (hi : Issues s t { srcs := useS [⟨r, false⟩] })
    (h : modeAccepted (s.ctxOf t).nvr (t.sval r)) :
    exec (.swr 0 r) s = .next (s.putTeam { t.past with mode := t.sval r }) := by
  have hset : setMode (s.putTeam t.begin) t.begin (t.begin.sval r) = .ok { t.begin with mode := t.sval r } :=
    setMode_accepted h
  rw [exec_swr_completes (s1 := s.putTeam t.begin) (u := { t.begin with mode := t.sval r }) hi (specialTrap_user rfl) rfl
    (by rw [swrEffect, if_pos (by rfl), hset]), putTeam_putTeam]
  · rfl
  · rfl

theorem exec_swr_mode_refused (hi : Issues s t { srcs := useS [⟨r, false⟩] })
    (h : ¬ modeAccepted (s.ctxOf t).nvr (t.sval r)) :
    exec (.swr 0 r) s = .next (s.takeTrap t ⟨.illegalMode, 0, 0, none, none⟩) := by
  have hset : setMode (s.putTeam t.begin) t.begin (t.begin.sval r) = .error (.trap (.at .illegalMode 0 0)) :=
    setMode_refused h
  rw [exec_swr_stops hi (specialTrap_user rfl) (by rw [swrEffect, if_pos (by rfl), hset]), finish_illegalMode]

/-- Any other register but 0x112 takes the word, once no matrix instruction is pending for FLAGS. -/
theorem swrEffect_writes (h0 : n ≠ 0#12) (hx : n ≠ 0x112#12) (hm : n = 3#12 → t.matrixPending = false) : swrEffect n r t s =
    .ok ((s.writeDevice n.toNat (t.sval r)).putTeam (t.writeSpecial n.toNat (t.sval r)).advance, []) := by
  have hw : ¬ (n = 3#12 ∧ t.matrixPending = true) := fun h => by simp [hm h.1] at h
  rw [swrEffect, if_neg h0, if_neg hw, if_neg hx]

/-- No device-wide register has a number below 0x100. -/
theorem write_user (g : Privileged) (locked : Bool) (plimit : Nat) {n : Nat} (h : n < 0x100) (v : Word) :
    g.write locked plimit n v = g := by
  unfold Privileged.write
  split
  case h_12 => rfl
  all_goals omega

/-- No register of a team has a number from 0x100 on. -/
theorem writeSpecial_privileged (t : Team) {n : Nat} (h : 0x100 ≤ n) (v : Word) : t.writeSpecial n v = t := by
  unfold Team.writeSpecial
  split
  case h_4 => exact if_neg fun h' => by omega
  all_goals omega

theorem writeSpecial_id (t : Team) (n : Nat) (v : Word) : (t.writeSpecial n v).id = t.id := by
  unfold Team.writeSpecial
  split
  case h_4 =>
    dsimp only
    split_ifs
    all_goals rfl
  all_goals rfl

theorem writeDevice_user (s : State) {n : Nat} (h : n < 0x100) (v : Word) : s.writeDevice n v = s := by
  rw [State.writeDevice]
  dsimp only
  rw [write_user _ _ _ h]

/-- A register of the team takes the word. -/
theorem exec_swr_user (hi : Issues s t { srcs := useS [⟨r, false⟩] }) (hn : userSpecial n.toNat = true) (h0 : n ≠ 0#12)
    (hm : n = 3#12 → t.matrixPending = false) :
    exec (.swr n r) s = .next (s.putTeam (pastAs (t.begin.writeSpecial n.toNat (t.sval r)))) := by
  have hlt := lt_of_userSpecial hn
  have hx : n ≠ 0x112#12 := fun h => by rw [h] at hlt; exact absurd hlt (by decide)
  have hid : (t.begin.writeSpecial n.toNat (t.begin.sval r)).id = t.id := writeSpecial_id ..
  have he : swrEffect n r t.begin (s.putTeam t.begin) =
      .ok ((s.putTeam t.begin).putTeam (t.begin.writeSpecial n.toNat (t.begin.sval r)).advance, []) := by
    rw [swrEffect_writes (t := t.begin) h0 hx hm, writeDevice_user _ hlt]
  rw [exec_swr_completes hi (specialTrap_user hn) hid he, putTeam_putTeam]
  · rfl
  · exact hid

/-- The armed bells are those of the teams' entries, whatever else of a team changes. -/
theorem armedBells_putTeam (s : State) {u v : Team} (hid : u.id = v.id) (hb : u.bells = v.bells) :
    (s.putTeam u).armedBells = (s.putTeam v).armedBells := by
  simp only [State.armedBells, putTeam_teams, List.flatMap_map, putTeam_fe, hid]
  congr 2
  funext w
  split_ifs
  · rw [hb]
  · rfl

/-- A device-wide register but 0x112 takes the word. -/
theorem exec_swr_privileged (hi : Issues s t { srcs := useS [⟨r, false⟩] }) (hp : (s.ctxOf t).priv = true)
    (hn : privSpecial n.toNat = true) (hx : n ≠ 0x112#12) : exec (.swr n r) s =
      .next { s.putTeam t.past with dev := { s.dev with
        regs := s.dev.regs.write ((s.putTeam t.past).armedBells.any (·.listed)) s.dev.flash.plimit.toNat n.toNat (t.sval r) } } := by
  have hle := le_of_privSpecial hn
  have h0 : n ≠ 0#12 := fun h => by rw [h] at hle; exact absurd hle (by decide)
  have h3 : n = 3#12 → t.matrixPending = false := fun h => by rw [h] at hle; exact absurd hle (by decide)
  have he : swrEffect n r t.begin (s.putTeam t.begin) =
      .ok (((s.putTeam t.begin).writeDevice n.toNat (t.sval r)).putTeam t.begin.advance, []) := by
    rw [swrEffect_writes (t := t.begin) h0 hx h3, writeSpecial_privileged _ hle]
    rfl
  rw [exec_swr_completes (u := t.begin) hi (specialTrap_privileged hp hn) rfl he, State.writeDevice]
  dsimp only
  rw [armedBells_putTeam s (u := t.begin) (v := t.past) rfl rfl]
  exact congrArg (fun s' : State => Host.Outcome.next { s' with dev := { s.dev with
    regs := s.dev.regs.write ((s.putTeam t.past).armedBells.any (·.listed)) s.dev.flash.plimit.toNat n.toNat (t.sval r) } })
    (putTeam_putTeam s (u := t.past) (t := t.begin) rfl)

/-! ### The words that registers of a team take -/

theorem flags_word (v : Word) : v &&& 0x1F#32 = .ofNat 32 (fld 0 5 v.toNat) := by
  apply BitVec.eq_of_toNat_eq
  have h : v.toNat &&& 0x1F = v.toNat % 2 ^ 5 := Nat.and_two_pow_sub_one_eq_mod v.toNat 5
  rw [BitVec.toNat_and, BitVec.toNat_ofNat, fld, Nat.pow_zero, Nat.div_one, ← h, BitVec.toNat_ofNat]
  exact (Nat.mod_eq_of_lt (lt_of_le_of_lt Nat.and_le_left v.isLt)).symm

theorem lavc_word (v : Word) : v &&& 0xFFFFFF#32 = .ofNat 32 (fld 0 24 v.toNat) := by
  apply BitVec.eq_of_toNat_eq
  have h : v.toNat &&& 0xFFFFFF = v.toNat % 2 ^ 24 := Nat.and_two_pow_sub_one_eq_mod v.toNat 24
  rw [BitVec.toNat_and, BitVec.toNat_ofNat, fld, Nat.pow_zero, Nat.div_one, ← h, BitVec.toNat_ofNat]
  exact (Nat.mod_eq_of_lt (lt_of_le_of_lt Nat.and_le_left v.isLt)).symm

theorem slim_word (v : Word) : v &&& 0xFFFFFFF0#32 = .ofNat 32 (v.toNat / 16 * 16) := by
  have hs : v &&& 0xFFFFFFF0#32 = (v >>> 4) <<< 4 := by
    ext i hi
    simp [BitVec.getElem_shiftLeft]
    interval_cases i <;> simp
  apply BitVec.eq_of_toNat_eq
  rw [hs, BitVec.toNat_shiftLeft, BitVec.toNat_ushiftRight, Nat.shiftLeft_eq, Nat.shiftRight_eq_div_pow, BitVec.toNat_ofNat]

end Swr

/-! ### Invalidation -/

section Invalidate
variable {r : Reg} {v : Word}

theorem exec_swr_invalidate_completes (hi : Issues s t { srcs := useS [⟨r, false⟩] }) (hp : (s.ctxOf t).priv = true)
    {s1 : State} (h : invalidate (s.putTeam t.begin) (t.sval r) = .ok s1) :
    exec (.swr 0x112 r) s = .next (s1.putTeam t.past) := by
  have he : swrEffect 0x112 r t.begin (s.putTeam t.begin) = .ok (s1.putTeam t.begin.advance, []) := by
    have hr : t.begin.sval r = t.sval r := rfl
    rw [swrEffect, if_neg (by decide), if_neg (fun h' => absurd h'.1 (by decide)), if_pos (by rfl), hr, h]
  exact exec_swr_completes (u := t.begin) hi (specialTrap_privileged hp rfl) rfl he

theorem exec_swr_invalidate_stalls (hi : Issues s t { srcs := useS [⟨r, false⟩] }) (hp : (s.ctxOf t).priv = true)
    (h : invalidate (s.putTeam t.begin) (t.sval r) = .error .stall) : exec (.swr 0x112 r) s = .next (s.stall t) := by
  have he : swrEffect 0x112 r t.begin (s.putTeam t.begin) = .error .stall := by
    have hr : t.begin.sval r = t.sval r := rfl
    rw [swrEffect, if_neg (by decide), if_neg (fun h' => absurd h'.1 (by decide)), if_pos (by rfl), hr, h]
  rw [exec_swr_stops hi (specialTrap_privileged hp rfl) he]
  rfl

/-- No context of the run list, or no command: nothing happens. -/
theorem invalidate_none (h : (s.ctx? (fld 0 16 v.toNat)).isNone = true ∨ 2 ≤ fld 16 2 v.toNat) : invalidate s v = .ok s :=
  if_pos h

section Command
variable (hc : (s.ctx? (fld 0 16 v.toNat)).isSome = true)
include hc

theorem invalidate_context (hop : fld 16 2 v.toNat = 0) : invalidate s v =
    if s.contextBusy (fld 0 16 v.toNat) then .error .stall else .ok (s.retryContext (fld 0 16 v.toNat)) := by
  unfold invalidate
  simp only [hop, Option.isNone_iff_eq_none, Option.isSome_iff_ne_none.mp hc]
  simp

theorem invalidate_page (hop : fld 16 2 v.toNat = 1) : invalidate s v =
    if s.pageBusy (fld 0 16 v.toNat) (joinPair s.dev.regs.xval s.dev.regs.xvah) then .error .stall
    else .ok (s.retryRegion (fld 0 16 v.toNat) (joinPair s.dev.regs.xval s.dev.regs.xvah)) := by
  unfold invalidate
  simp only [hop, Option.isNone_iff_eq_none, Option.isSome_iff_ne_none.mp hc]
  simp

end Command

theorem joinPair_toNat (lo hi : Word) : (joinPair lo hi).toNat = lo.toNat + 2 ^ 32 * hi.toNat := by
  rw [joinPair, toNat_append_eq_add]
  omega

theorem inCtx_putTeam (s : State) {u w : Team} (hid : u.id = w.id) (hctx : u.ctx = w.ctx) (ctx k : Nat) :
    (s.putTeam u).inCtx ctx k = (s.putTeam w).inCtx ctx k := by
  simp only [State.inCtx, putTeam_teams, List.any_map, hid]
  congr 1
  funext x
  simp only [Function.comp]
  split_ifs
  · rw [hid, hctx]
  · rfl

theorem contextBusy_begin (s : State) (t : Team) (ctx : Nat) :
    (s.putTeam t.begin).contextBusy ctx = (s.putTeam t.past).contextBusy ctx := by
  have h := fun k => inCtx_putTeam s (u := t.begin) (w := t.past) rfl rfl ctx k
  simp only [State.contextBusy, h, putTeam_flight]

theorem pageBusy_begin (s : State) (t : Team) (ctx : Nat) (va : Addr) :
    (s.putTeam t.begin).pageBusy ctx va = (s.putTeam t.past).pageBusy ctx va := by
  have h := fun k => inCtx_putTeam s (u := t.begin) (w := t.past) rfl rfl ctx k
  simp only [State.pageBusy, h, putTeam_flight]

/-- The pending translations of a context that `covers` names are tried again. -/
def retryWhere (s : State) (ctx : Nat) (covers : Team → Bool) : State :=
  { s with teams := s.teams.map fun u => if u.ctx = ctx ∧ covers u then u.retry else u }

/-- What an invalidation by team `t` leaves: the team past its instruction, the covered translations of the others tried
again. -/
def invalidated (s : State) (t : Team) (ctx : Nat) (covers : Team → Bool) : State :=
  { s.putTeam t.past with teams := (s.putTeam t.past).teams.map fun u =>
    if u.id ≠ t.id ∧ u.ctx = ctx ∧ covers u then u.retry else u }

theorem retryContext_eq (s : State) (ctx : Nat) : s.retryContext ctx = retryWhere s ctx fun _ => true := by
  simp [State.retryContext, retryWhere]

@[simp] theorem retry_id (u : Team) : u.retry.id = u.id := by
  unfold Team.retry
  split
  all_goals rfl

theorem retryWhere_putTeam (s : State) (t : Team) (ctx : Nat) (covers : Team → Bool) :
    (retryWhere (s.putTeam t.begin) ctx covers).putTeam t.past = invalidated s t ctx covers := by
  simp only [retryWhere, invalidated, State.putTeam, List.map_map]
  congr 1
  refine List.map_congr_left fun u _ => ?_
  have hp : t.past.id = t.id := rfl
  simp only [Function.comp, hp]
  by_cases h : u.id = t.id
  · simp [h, hp, apply_ite Team.id]
  · simp [h, apply_ite Team.id]

/-- The four outcomes of a write of 0x112. -/
theorem exec_swr_invalidate (hi : Issues s t { srcs := useS [⟨r, false⟩] }) (hp : (s.ctxOf t).priv = true) :
    let ctx := fld 0 16 (t.sval r).toNat
    let op := fld 16 2 (t.sval r).toNat
    let va := joinPair s.dev.regs.xval s.dev.regs.xvah
    ((s.ctx? ctx).isNone = true ∨ 2 ≤ op → exec (.swr 0x112 r) s = .next (s.putTeam t.past))
      ∧ ((s.ctx? ctx).isSome = true →
        op = 0 ∧ (s.putTeam t.past).contextBusy ctx = true ∨ op = 1 ∧ (s.putTeam t.past).pageBusy ctx va = true →
        exec (.swr 0x112 r) s = .next (s.stall t))
      ∧ ((s.ctx? ctx).isSome = true → op = 0 → (s.putTeam t.past).contextBusy ctx = false →
        exec (.swr 0x112 r) s = .next (invalidated s t ctx fun _ => true))
      ∧ ((s.ctx? ctx).isSome = true → op = 1 → (s.putTeam t.past).pageBusy ctx va = false →
        exec (.swr 0x112 r) s = .next (invalidated s t ctx fun u =>
          u.pendingAddr.any fun a => a.toNat / 2 ^ 30 == va.toNat / 2 ^ 30)) := by
  intro ctx op va
  refine ⟨fun h => ?_, fun hc h => ?_, fun hc hop h => ?_, fun hc hop h => ?_⟩
  · rw [exec_swr_invalidate_completes hi hp (invalidate_none h), putTeam_putTeam s (t := t.begin) (u := t.past) rfl]
  · refine exec_swr_invalidate_stalls hi hp ?_
    rcases h with ⟨hop, hb⟩ | ⟨hop, hb⟩
    · rw [invalidate_context (s := s.putTeam t.begin) hc hop, contextBusy_begin, if_pos hb]
    · rw [invalidate_page (s := s.putTeam t.begin) hc hop, pageBusy_begin]
      exact if_pos hb
  · have hinv : invalidate (s.putTeam t.begin) (t.sval r) = .ok ((s.putTeam t.begin).retryContext ctx) := by
      rw [invalidate_context (s := s.putTeam t.begin) hc hop, contextBusy_begin, if_neg (Bool.eq_false_iff.mp h)]
    rw [exec_swr_invalidate_completes hi hp hinv, retryContext_eq, retryWhere_putTeam]
  · have hinv : invalidate (s.putTeam t.begin) (t.sval r) = .ok ((s.putTeam t.begin).retryRegion ctx va) := by
      rw [invalidate_page (s := s.putTeam t.begin) hc hop, pageBusy_begin]
      exact if_neg (Bool.eq_false_iff.mp h)
    rw [exec_swr_invalidate_completes hi hp hinv]
    exact congrArg Host.Outcome.next (retryWhere_putTeam s t ctx _)

end Invalidate
end Sys2Proof.Proofs
end

section
/-!
The obligation on MODE and on the writes of special registers.
-/
namespace Sys2Proof.Proofs
open Sys2Proof.Machine Sys2Proof.Laws

section User
variable {s : State} {t : Team} {r : Reg}

/-- The registers of a team that SWR writes. -/
theorem swr_team_registers (hi : Issues s t { srcs := useS [⟨r, false⟩] }) :
    (t.matrixPending = false →
      exec (.swr 0x003 r) s = .next (s.putTeam { t.past with flags := .ofNat 32 (fld 0 5 (t.sval r).toNat) }))
    ∧ exec (.swr 0x004 r) s = .next (s.putTeam { t.past with lavc := .ofNat 32 (fld 0 24 (t.sval r).toNat) })
    ∧ exec (.swr 0x01C r) s = .next (s.putTeam { t.past with slim := .ofNat 32 ((t.sval r).toNat / 16 * 16) }) := by
  rw [← flags_word, ← lavc_word, ← slim_word]
  exact ⟨fun hm => exec_swr_user hi rfl (by decide) fun _ => hm,
    exec_swr_user hi rfl (by decide) fun h => absurd h (by decide),
    exec_swr_user hi rfl (by decide) fun h => absurd h (by decide)⟩

/-- The modulo registers. -/
theorem swr_modulo_registers (hi : Issues s t { srcs := useS [⟨r, false⟩] }) (i : Fin 8) :
    exec (.swr (.ofNat 12 (0x020 + 2 * i.val)) r) s = .next (s.putTeam { t.past with qStart := t.qStart.set i.val (t.sval r) })
      ∧ exec (.swr (.ofNat 12 (0x021 + 2 * i.val)) r) s =
        .next (s.putTeam { t.past with qLen := t.qLen.set i.val (t.sval r) }) := by
  fin_cases i <;> exact ⟨exec_swr_user hi rfl (by decide) fun h => absurd h (by decide),
    exec_swr_user hi rfl (by decide) fun h => absurd h (by decide)⟩

/-- The registers of a team that it only reads. -/
def readOnlyNumbers : List Nat :=
  [0x001, 0x002, 0x010, 0x011, 0x012, 0x013, 0x014, 0x018, 0x019, 0x01A, 0x01B, 0x030, 0x031, 0x040,
    0x041, 0x042, 0x050, 0x051, 0x05F, 0x060]

theorem swr_read_only (hi : Issues s t { srcs := useS [⟨r, false⟩] }) {n : Nat} (hn : n ∈ readOnlyNumbers) :
    exec (.swr (.ofNat 12 n) r) s = .next (s.putTeam t.past) := by
  have hu : ∀ m ∈ readOnlyNumbers, userSpecial (BitVec.ofNat 12 m).toNat = true ∧ BitVec.ofNat 12 m ≠ 0#12
      ∧ BitVec.ofNat 12 m ≠ 3#12 ∧ (BitVec.ofNat 12 m).toNat ≠ 3 ∧ (BitVec.ofNat 12 m).toNat ≠ 4
      ∧ (BitVec.ofNat 12 m).toNat ≠ 0x1C ∧ ¬ (0x20 ≤ (BitVec.ofNat 12 m).toNat ∧ (BitVec.ofNat 12 m).toNat < 0x30) := by decide
  obtain ⟨husr, h0, h3, hf, hl, hs, hq⟩ := hu n hn
  have hw (v : Word) : t.begin.writeSpecial (BitVec.ofNat 12 n).toNat v = t.begin := by
    unfold Team.writeSpecial
    split
    case h_4 => exact if_neg hq
    all_goals omega
  rw [exec_swr_user hi husr h0 fun h => absurd h h3, hw]
  rfl

end User

/-- What SWR writes of a device-wide register. -/
theorem write_device_registers (g : Privileged) {locked : Bool} (plimit : Nat) {n : BitVec 12} (v : Word) :
    let w := g.write locked plimit n.toNat v
    (n = 0x102#12 → w = { g with hanglim := v })
      ∧ (n = 0x104#12 → locked = false → w = { g with ovflo := v &&& 0xFFFF0000#32 })
      ∧ (n = 0x105#12 → locked = false → w = { g with ovfhi := v &&& 0xFFFFF#32 })
      ∧ (n = 0x106#12 → locked = false → w = { g with ovfcap := v &&& 0xFFFF#32 })
      ∧ (n ∈ [0x104#12, 0x105#12, 0x106#12] → locked = true → w = g)
      ∧ (n = 0x108#12 → w = { g with grplo := v })
      ∧ (n = 0x109#12 → w = { g with grphi := v &&& 0xFFFFF#32 })
      ∧ (n = 0x10A#12 → w = { g with grpcnt := v &&& 0x1FFF#32 })
      ∧ (n = 0x10C#12 → w = { g with devid := v &&& 0xFFF#32 })
      ∧ (n = 0x110#12 → w = { g with xval := v })
      ∧ (n = 0x111#12 → w = { g with xvah := v })
      ∧ (n = 0x121#12 → w = { g with pcap := .ofNat 32 (min (fld 0 12 v.toNat) plimit) })
      ∧ (n ∈ [0x100#12, 0x101#12, 0x120#12, 0x122#12] → w = g) := by
  intro w
  refine ⟨?_, ?_, ?_, ?_, ?_, ?_, ?_, ?_, ?_, ?_, ?_, ?_, ?_⟩
  case refine_5 =>
    intro hn hl
    subst hl
    simp only [List.mem_cons, List.not_mem_nil, or_false] at hn
    rcases hn with rfl | rfl | rfl <;> rfl
  case refine_13 =>
    intro hn
    simp only [List.mem_cons, List.not_mem_nil, or_false] at hn
    rcases hn with rfl | rfl | rfl | rfl <;> rfl
  case refine_2 | refine_3 | refine_4 =>
    rintro rfl rfl
    rfl
  all_goals
    rintro rfl
    rfl

/-- Settles O14: a MODE value is checked by `modeOk_iff`; what a register takes is `writeSpecial` or `Privileged.write`, case
by case; a write of 0x112 has the outcomes of `exec_swr_invalidate`. -/
theorem specialRegisterWrites : Obligations.SpecialRegisterWrites := by
  unfold Obligations.SpecialRegisterWrites
  refine ⟨⟨?_, ?_, ?_⟩, ?_, ?_, ?_⟩
  · exact fun a s t hi => ⟨exec_modew_accepted hi, exec_modew_refused hi⟩
  · exact fun k s t hc => ⟨exec_setmode_accepted hc, exec_setmode_refused hc⟩
  · exact fun r s t hi => ⟨exec_swr_mode_accepted hi, exec_swr_mode_refused hi⟩
  · intro r s t hi
    obtain ⟨hf, hl, hs⟩ := swr_team_registers hi
    exact ⟨hf, hl, hs, swr_modulo_registers hi, fun n hn => swr_read_only hi hn⟩
  · intro n r s t hi hp hn hx
    have hnot : (s.putTeam t.past).armedBells.all (fun b => !b.listed) = true →
        (s.putTeam t.past).armedBells.any (·.listed) = false := fun h => by simpa using h
    obtain ⟨h102, h104, h105, h106, hlock, hrest⟩ := write_device_registers s.dev.regs
      (locked := (s.putTeam t.past).armedBells.any (·.listed)) s.dev.flash.plimit.toNat (n := n) (t.sval r)
    exact ⟨_, exec_swr_privileged hi hp hn hx, h102, fun h a => h104 h (hnot a), fun h a => h105 h (hnot a),
      fun h a => h106 h (hnot a), hlock, hrest⟩
  · intro r s t hi hp
    dsimp only
    rw [← joinPair_toNat]
    exact exec_swr_invalidate hi hp

end Sys2Proof.Proofs
end

section
/-!
SUPPORT. What every operation of an instruction keeps: the device-wide registers, and the reserved bits of the teams' MODE,
LAVC and SLIM (07 R95, R96, R98). `Within g P s` says both of a state; `P` is the condition under which the teams are
asked anything, so that the registers alone can be followed too.
-/
namespace Sys2Proof.Proofs
open Sys2Proof.Machine Sys2Proof.Laws

/-- If `P`, the reserved bits of the team are clear and its MODE holds a rounding mode. -/
def Fine (P : Prop) (t : Team) : Prop := P → t.reservedClear = true

/-- The device-wide registers are `g`, and every team is fine. -/
def Within (g : Privileged) (P : Prop) (s : State) : Prop := s.dev.regs = g ∧ ∀ t ∈ s.teams, Fine P t

/-- MODE, LAVC and SLIM of two teams are the same. -/
@[simp] abbrev SameMode (u t : Team) : Prop := u.mode = t.mode ∧ u.lavc = t.lavc ∧ u.slim = t.slim

theorem sameMode_refl (t : Team) : SameMode t t := ⟨rfl, rfl, rfl⟩

theorem SameMode.trans {a b c : Team} (h : SameMode a b) (h' : SameMode b c) : SameMode a c :=
  ⟨h.1.trans h'.1, h.2.1.trans h'.2.1, h.2.2.trans h'.2.2⟩

theorem reservedClear_congr {u t : Team} (h : SameMode u t) : u.reservedClear = t.reservedClear := by
  obtain ⟨hm, hl, hs⟩ := h
  rw [Team.reservedClear, Team.reservedClear, hm, hl, hs]

theorem Fine.of_same {P : Prop} {u t : Team} (ht : Fine P t) (h : SameMode u t) : Fine P u := fun hp => by
  rw [reservedClear_congr h]
  exact ht hp

/-! ### Operations on a team -/

section TeamOps
variable (t : Team)

/-- A fold of updates that keep the three registers keeps them. -/
theorem foldl_sameMode {α : Type} {f : Team → α → Team} (hf : ∀ t a, SameMode (f t a) t) (l : List α) (t : Team) :
    SameMode (l.foldl f t) t := by
  induction l generalizing t with
  | nil => exact sameMode_refl t
  | cons a l ih => exact (ih (f t a)).trans (hf t a)

theorem ite_sameMode {c : Prop} [Decidable c] {a b t : Team} (ha : SameMode a t) (hb : SameMode b t) :
    SameMode (if c then a else b) t := by
  split
  · exact ha
  · exact hb

@[simp] theorem setSP_sameMode (r : Reg) (v : Word) (p : Bool) : SameMode (t.setSP r v p) t := by rw [setSP_eq]; exact sameMode_refl t
@[simp] theorem setS_sameMode (r : Reg) (v : Word) : SameMode (t.setS r v) t := by rw [setS_eq]; exact sameMode_refl t
@[simp] theorem setPairP_sameMode (r : Reg) (x : Addr) (p : Bool) : SameMode (t.setPairP r x p) t := by simp [Team.setPairP]
@[simp] theorem setPair_sameMode (r : Reg) (x : Addr) : SameMode (t.setPair r x) t := by simp [Team.setPair]
@[simp] theorem killS_sameMode (r : Reg) : SameMode (t.killS r) t := by rw [killS_eq]; exact sameMode_refl t
@[simp] theorem killV_sameMode (r : Reg) : SameMode (t.killV r) t := sameMode_refl t
@[simp] theorem killM_sameMode (m : MReg) : SameMode (t.killM m) t := by rw [killM_eq]; exact sameMode_refl t
@[simp] theorem setM_sameMode (m : MReg) (b : LaneBits) : SameMode (t.setM m b) t := by rw [setM_eq]; exact sameMode_refl t
@[simp] theorem setLanes_sameMode (r : Reg) (f : Nat → Option Lane) : SameMode (t.setLanes r f) t := by
  rw [setLanes_eq]; exact sameMode_refl t
@[simp] theorem setLane_sameMode (r : Reg) (l : Nat) (v : Word) (p : Bool) : SameMode (t.setLane r l v p) t := by
  simp [Team.setLane]
@[simp] theorem setActive_sameMode (r : Reg) (f : Nat → Word) : SameMode (t.setActive r f) t := by simp [Team.setActive]
@[simp] theorem setActivePair_sameMode (r : Reg) (f : Nat → Addr) : SameMode (t.setActivePair r f) t := by
  simp [Team.setActivePair]
@[simp] theorem setMWord_sameMode (m : MReg) (w : Nat) (v : Word) : SameMode (t.setMWord m w v) t := by
  unfold Team.setMWord; split <;> exact sameMode_refl t
@[simp] theorem setMaskActive_sameMode (m : MReg) (f : Nat → Bool) : SameMode (t.setMaskActive m f) t := by
  simp [Team.setMaskActive]
@[simp] theorem advance_sameMode : SameMode t.advance t := sameMode_refl t
@[simp] theorem goto_sameMode (a : Addr) : SameMode (t.goto a) t := sameMode_refl t
@[simp] theorem orFlags_sameMode (f : Word) : SameMode (t.orFlags f) t := sameMode_refl t
@[simp] theorem begin_sameMode : SameMode t.begin t := sameMode_refl t
@[simp] theorem pend_sameMode (x : Trap) : SameMode (t.pend x) t := sameMode_refl t
@[simp] theorem raiseFlags_sameMode (f : Nat) : SameMode (t.raiseFlags f) t := sameMode_refl t
@[simp] theorem raiseLate_sameMode (f : Word) : SameMode (t.raiseLate f) t := sameMode_refl t
@[simp] theorem openProducer_sameMode (d : Reg) (w : Bool) (f : Nat) : SameMode (t.openProducer d w f) t := sameMode_refl t
@[simp] theorem linkTo_sameMode : SameMode t.linkTo t := by simp [Team.linkTo]
@[simp] theorem setCounters_sameMode (cs : List Nat) : SameMode (t.setCounters cs) t := sameMode_refl t
@[simp] theorem cancel_sameMode (p : Producer) : SameMode (t.cancel p) t := by
  unfold Team.cancel; exact ite_sameMode (sameMode_refl t) (sameMode_refl t)
@[simp] theorem afterCancel_sameMode (p : Option Producer) : SameMode (t.afterCancel p) t := by
  cases p <;> simp [Team.afterCancel]
@[simp] theorem setElems_sameMode (T : Nat) (r : Reg) (outs : List (Option (List Nat))) : SameMode (t.setElems T r outs) t := by
  unfold Team.setElems; exact ite_sameMode (by simp) (by simp)
@[simp] theorem setOuts_sameMode (T : Nat) (r : Reg) (outs : List (Option (List Out))) : SameMode (t.setOuts T r outs) t := by
  simp [Team.setOuts]
@[simp] theorem setReduced_sameMode (d : Reg) (b : Nat) : SameMode (t.setReduced d b) t := by
  unfold Team.setReduced; exact ite_sameMode (by simp) (by simp)
@[simp] theorem stepBase_sameMode (m : MemArg) (scale : Nat) : SameMode (t.stepBase m scale) t := by
  unfold Team.stepBase
  split
  · exact ite_sameMode (by simp) (by simp)
  · exact ite_sameMode (by simp) (by simp)
  all_goals exact sameMode_refl t
@[simp] theorem putLoad_sameMode (d : LoadDst) (v : Nat) (bad bad1 : Bool) : SameMode (t.putLoad d v bad bad1) t := by
  unfold Team.putLoad
  split <;> exact ite_sameMode (by simp) (by simp)
@[simp] theorem killOpnd_sameMode (o : Opnd) (keep : List Opnd) : SameMode (t.killOpnd o keep) t :=
  ((foldl_sameMode killM_sameMode _ _).trans (foldl_sameMode killV_sameMode _ _)).trans (foldl_sameMode killS_sameMode _ _)
@[simp] theorem retire_sameMode (sh : Shape) : SameMode (sh.retire t) t :=
  foldl_sameMode (f := fun t (u : Use) => t.killOpnd u.o sh.dsts) (fun t u => killOpnd_sameMode t u.o sh.dsts)
    ((sh.srcs ++ sh.unread).filter (·.last)) t
@[simp] theorem afterWrite_sameMode (s : State) (loc n : Nat) : SameMode (t.afterWrite s loc n) t := sameMode_refl t
@[simp] theorem killRange_sameMode (lo hi : Nat) : SameMode (t.killRange lo hi) t := by
  unfold Team.killRange; exact ⟨rfl, rfl, rfl⟩
@[simp] theorem grow_sameMode (k : Nat) : SameMode (t.grow k) t := by
  unfold Team.grow Team.killRange; exact ⟨rfl, rfl, rfl⟩
@[simp] theorem setSlot_sameMode (slot : BitVec 2) (b : BellSlot) : SameMode (t.setSlot slot b) t := sameMode_refl t
@[simp] theorem retry_sameMode : SameMode t.retry t := by
  unfold Team.retry; split <;> exact sameMode_refl t

end TeamOps

end Sys2Proof.Proofs
end

section
/-!
SUPPORT. The shared operations on the state keep the device-wide registers and the reserved bits: memory, queues, traps,
accesses and copies.
-/
namespace Sys2Proof.Proofs
open Sys2Proof.Machine Sys2Proof.Laws

section Keep
variable {g : Privileged} {P : Prop} {s s' : State} {t u : Team}

/-! ### What a change of the teams has to keep -/

/-- An operation that changes neither the device-wide registers nor the teams. -/
theorem Within.of_eq (h : Within g P s) (hd : s'.dev.regs = s.dev.regs) (ht : s'.teams = s.teams) : Within g P s' :=
  ⟨hd.trans h.1, by rw [ht]; exact h.2⟩

theorem Within.fine (h : Within g P s) (ht : t ∈ s.teams) : Fine P t := h.2 t ht

theorem Within.team? (h : Within g P s) {id : Nat} (ht : s.team? id = some t) : Fine P t :=
  h.fine (List.mem_of_find?_eq_some ht)

theorem Within.getD_team? (h : Within g P s) (ht : Fine P t) (id : Nat) : Fine P ((s.team? id).getD t) := by
  cases e : s.team? id with
  | none => exact ht
  | some u => exact h.team? e

theorem Within.curTeam (h : Within g P s) (ht : s.curTeam = some t) : Fine P t := by
  obtain ⟨id, -, hid⟩ := Option.bind_eq_some_iff.mp ht
  exact h.team? hid

/-- Every team is changed, and stays fine. -/
theorem Within.map_teams (h : Within g P s) {f : Team → Team} (hf : ∀ t, Fine P t → Fine P (f t)) (hd : s'.dev.regs = s.dev.regs)
    (ht : s'.teams = s.teams.map f) : Within g P s' := by
  refine ⟨hd.trans h.1, fun u hu => ?_⟩
  rw [ht] at hu
  obtain ⟨v, hv, rfl⟩ := List.mem_map.mp hu
  exact hf v (h.fine hv)

theorem within_putTeam (h : Within g P s) (ht : Fine P t) : Within g P (s.putTeam t) :=
  h.map_teams (f := fun u => if u.id = t.id then t else u) (fun u hu => by
    split
    · exact ht
    · exact hu) rfl rfl

theorem within_modTeam_fine (h : Within g P s) (id : Nat) {f : Team → Team} (hf : ∀ t, Fine P t → Fine P (f t)) :
    Within g P (s.modTeam id f) :=
  h.map_teams (f := fun u => if u.id = id then f u else u) (fun u hu => by
    split
    · exact hf u hu
    · exact hu) rfl rfl

theorem within_modTeam (h : Within g P s) (id : Nat) {f : Team → Team} (hf : ∀ t, SameMode (f t) t) : Within g P (s.modTeam id f) :=
  within_modTeam_fine h id fun t ht => ht.of_same (hf t)

/-- A fold of an operation that keeps both keeps them. -/
theorem within_foldl {α : Type} {f : State → α → State} (hf : ∀ s a, Within g P s → Within g P (f s a)) (h : Within g P s)
    (l : List α) : Within g P (l.foldl f s) := by
  induction l generalizing s with
  | nil => exact h
  | cons a l ih => exact ih (hf s a h)

/-! ### Operations that change neither -/

theorem within_modNode (h : Within g P s) (id : Nat) (f : Node → Node) : Within g P (s.modNode id f) := h
theorem within_modCtx (h : Within g P s) (id : Nat) (f : Context → Context) : Within g P (s.modCtx id f) := h
theorem within_touch (h : Within g P s) (ctx : Nat) (ps : List Place) : Within g P (s.touch ctx ps) := h
theorem within_touchNamed (h : Within g P s) (ctx : Nat) (ps : List Place) : Within g P (s.touchNamed ctx ps) := h
theorem within_dropLines (h : Within g P s) (tower : Nat) (ps : List Place) : Within g P (s.dropLines tower ps) := h
theorem within_servedAtHome (h : Within g P s) (tower : Nat) (ps : List Place) : Within g P (s.servedAtHome tower ps) := h
theorem within_markWord (h : Within g P s) (tower : Nat) (p : Place) (b : Bool) : Within g P (s.markWord tower p b) := h
theorem within_endAccess (h : Within g P s) (id : Nat) : Within g P (s.endAccess id) := h
theorem within_endCopy (h : Within g P s) (id : Nat) : Within g P (s.endCopy id) := h
theorem within_enqueue (h : Within g P s) (l : List Access) (a : Access) : Within g P (s.enqueue l a) := h
theorem within_dropHead (h : Within g P s) (q : Nat) : Within g P (s.dropHead q) := h
theorem within_clearWritten (tower : Nat) (h : Within g P s) (ps : List Place) : Within g P (State.clearWritten tower s ps) := h

theorem within_putQueue (h : Within g P s) (q : Nat) (x : Queue) : Within g P (s.putQueue q x) :=
  h.of_eq (by rw [putQueue_dev]) (putQueue_teams s q x)
theorem within_touchFe (h : Within g P s) (ctx : Nat) (vas : List Addr) : Within g P (s.touchFe ctx vas) :=
  h.of_eq (by rw [touchFe_dev]) (touchFe_teams s ctx vas)
theorem within_touchDesc (h : Within g P s) (ctx : Nat) (a : Addr) : Within g P (s.touchDesc ctx a) :=
  h.of_eq (by rw [touchDesc_dev]) (touchDesc_teams s ctx a)

theorem within_acquireAt (h : Within g P s) (tower : Nat) (c : Option Scope) : Within g P (s.acquireAt tower c) := by
  unfold State.acquireAt
  split
  · split
    · exact h
    · exact h
  · exact h

theorem within_replied (h : Within g P s) (a : Access) (k : Option AccessKind) : Within g P (s.replied a k) := by
  unfold State.replied
  cases k with
  | none => exact h
  | some k => exact h

/-! ### Writes -/

theorem within_afterWrite (h : Within g P s) (loc n : Nat) : Within g P (s.afterWrite loc n) :=
  h.map_teams (f := Team.afterWrite s loc n) (fun t ht => ht.of_same (afterWrite_sameMode t s loc n)) rfl rfl

theorem within_writeLoc (h : Within g P s) (loc : Nat) (bs : List Byte) : Within g P (s.writeLoc loc bs) :=
  within_afterWrite (s := { s with mem := s.mem.store loc bs }) h loc bs.length

theorem within_ownWrite (h : Within g P s) (w : OwnWrite) : Within g P (s.ownWrite w) := within_writeLoc h _ _

theorem within_between (h : Within g P s) : Within g P s.between := by
  unfold State.between
  split
  · exact h
  · refine within_foldl (fun s w hs => within_ownWrite hs w) ?_ _
    exact h

theorem within_settleOne (h : Within g P s) (a : Access) : Within g P (s.settleOne a) := by
  unfold State.settleOne
  split
  · exact within_replied (within_writeLoc h _ _) _ _
  all_goals exact h

theorem within_settle (h : Within g P s) (loc n : Nat) : Within g P (s.settle loc n) :=
  within_foldl (fun _ a hs => within_settleOne hs a) h _

theorem within_tellersDone (h : Within g P s) : Within g P s.tellersDone :=
  within_foldl (fun _ a hs => within_settleOne hs a) h _

theorem within_pokeVa (h : Within g P s) (c : Context) (va : Addr) (bs : List Byte) : Within g P (s.pokeVa c va bs) := by
  have h1 := within_touchFe h c.ctxid [va]
  unfold State.pokeVa
  dsimp only
  split
  · exact h1
  · split
    · exact h1
    · split
      · exact h1
      · exact within_writeLoc (within_settle h1 _ _) _ _
      · exact within_writeLoc (within_settle h1 _ _) _ _
      all_goals exact within_writeLoc h1 _ _

theorem within_postStatus (h : Within g P s) (q : Nat) : Within g P (s.postStatus q) := by
  unfold State.postStatus
  split
  · exact h
  · split
    · exact h
    · split
      · exact h
      · exact within_pokeVa h _ _ _

theorem within_updateQueue (h : Within g P s) (q : Nat) (x : Queue) : Within g P (s.updateQueue q x) :=
  within_postStatus (within_putQueue h q x) q

theorem within_haltQueue (h : Within g P s) (q err : Nat) : Within g P (s.haltQueue q err) :=
  within_updateQueue (within_dropHead h q) q _

theorem within_ringDoorbell (h : Within g P s) (q : Nat) (p : Word) : Within g P (s.ringDoorbell q p) := by
  unfold State.ringDoorbell
  split
  · exact h
  · dsimp only
    split
    · exact within_haltQueue (within_putQueue h _ _) q 4
    · exact within_putQueue h _ _

theorem within_apertureStore (h : Within g P s) (o : Nat) (bs : List Byte) : Within g P (s.apertureStore o bs) := by
  have box (b : List (Nat × Byte)) : Within g P { s with dev := { s.dev with mailbox := b } } := h
  unfold State.apertureStore
  refine within_afterWrite ?_ _ _
  dsimp only
  split
  · split
    · exact within_ringDoorbell h _ _
    · exact h
  · split
    · split
      · split
        · exact within_afterWrite (box _) _ _
        · split
          · exact h
          · exact within_afterWrite (box _) _ _
      · exact h
    · exact h

theorem within_writePlace (h : Within g P s) (p : Place) (bs : List Byte) : Within g P (s.writePlace p bs) := by
  unfold State.writePlace
  split
  · exact within_apertureStore h _ _
  · exact within_writeLoc (within_settle h _ _) _ _
  · exact within_writeLoc (within_settle h _ _) _ _
  all_goals exact within_writeLoc h _ _

theorem within_teamWrite (h : Within g P s) (tower : Nat) (p : Place) (bs : List Byte) : Within g P (s.teamWrite tower p bs) :=
  within_writePlace h p bs

theorem within_writeEach (h : Within g P s) (tower : Nat) (ps : List Place) (bs : List Byte) :
    Within g P (s.writeEach tower ps bs) := by
  induction ps generalizing s bs with
  | nil => exact h
  | cons p ps ih =>
    cases bs with
    | nil => exact h
    | cons b bs =>
      unfold State.writeEach
      refine ih ?_ _
      split
      · exact within_teamWrite h _ _ _
      · exact h

/-! ### Traps -/

theorem within_exitTeam (h : Within g P s) (ht : Fine P t) : Within g P (s.exitTeam t) :=
  within_putTeam (s := { s with cohorts := _ }) h (ht.of_same ⟨rfl, rfl, rfl⟩)

theorem within_transfer (h : Within g P s) (ht : Fine P t) {entry ra : Addr} {iw : Word} {code : Nat} {emu : Bool}
    (e : transfer s t entry ra iw code emu = .ok s') : Within g P s' := by
  have hput (f : Team → Team) (hf : ∀ u, SameMode (f u) u) (u : Team) (hu : SameMode u t) : Fine P (f u) :=
    ht.of_same ((hf u).trans hu)
  have ht1 : SameMode { (((t.setS 62 (t.sval 62 - 32#32)).setS 63 0).goto entry) with
      promises := [], producer := none, cond := .ready, fetched := none, retried := false } t := by simp
  unfold transfer at e
  dsimp only at e
  split at e
  · cases e
  · split at e
    · cases e
    · split at e
      · cases e
      · split at e
        · cases e
        · cases e
          refine within_clearWritten _ (within_writeEach (within_putTeam (within_touch h _ _) ?_) _ _ _) _
          split
          · exact ht.of_same ht1
          · exact hput (fun u => u.pend _) (fun u => pend_sameMode u _) _ ht1

theorem within_writeRecord (h : Within g P s) (t : Team) (x : Trap) (fatal async : Bool) :
    Within g P (s.writeRecord t x fatal async) := by
  unfold State.writeRecord
  exact within_modTeam (within_modNode (within_writeLoc (within_modCtx (within_writeLoc h _ _) _ _) _ _) _ _) _
    fun u => sameMode_refl u

theorem within_endThrough (h : Within g P s) (ht : Fine P t) (x : Trap) (async : Bool) : Within g P (s.endThrough t x async) := by
  have hr := within_modNode (within_writeRecord h t x true async) t.node fun n =>
    { n with status := if x.code = .dieLost then 2 else max n.status 1 }
  exact within_exitTeam hr (hr.getD_team? ht t.id)

theorem within_stopForDebugger (h : Within g P s) (t : Team) (x : Trap) (async : Bool) :
    Within g P (s.stopForDebugger t x async) :=
  within_modTeam (within_writeRecord h t x false async) _ fun u => sameMode_refl u

theorem within_deliver (h : Within g P s) (ht : Fine P t) (x : Trap) (iw : Word) (async : Bool) :
    Within g P (s.deliver t x iw async) := by
  have hfe := within_touchFe h t.ctx [vectorAddr (s.ctxOf t) x.code]
  have ends (y : Trap) : Within g P (if (s.ctxOf t).attached = true
      then (s.touchFe t.ctx [vectorAddr (s.ctxOf t) x.code]).stopForDebugger t x async
      else (s.touchFe t.ctx [vectorAddr (s.ctxOf t) x.code]).endThrough t y async) := by
    split
    · exact within_stopForDebugger hfe t x async
    · exact within_endThrough hfe ht y async
  have hr := within_writeRecord hfe t x false async
  unfold State.deliver
  dsimp only
  split
  · exact within_stopForDebugger h t x async
  · split
    · exact ends _
    · exact ends _
    · exact within_modTeam hr _ fun u => sameMode_refl u
    · split
      · exact within_endThrough (within_touch hfe _ _) ht _ _
      · split
        · exact within_endThrough (within_touch hfe _ _) ht _ _
        next e => exact within_transfer (within_touch hr _ _) (hr.getD_team? ht t.id) e

theorem within_raise (h : Within g P s) (ht : Fine P t) (x : Trap) : Within g P (s.raise t x) := by
  have hfe := within_touchFe h t.ctx (boundTried s t x.addr.toNat)
  unfold State.raise
  dsimp only
  split
  · split
    · exact within_deliver hfe ht _ _ _
    · split
      next e => exact within_modNode (within_transfer hfe ht e) _ _
      · exact within_deliver (within_touch hfe _ _) ht _ _ _
  · exact within_deliver h ht _ _ _

theorem within_stall (h : Within g P s) (ht : Fine P t) : Within g P (s.stall t) :=
  within_putTeam h (ht.of_same ⟨rfl, rfl, rfl⟩)

theorem within_takeTrap (h : Within g P s) (ht : Fine P t) (x : Trap) : Within g P (s.takeTrap t x) := by
  unfold State.takeTrap
  split
  · exact within_stall h ht
  · exact within_raise h ht x

theorem within_takeAsync (h : Within g P s) (ht : Fine P t) (x : Trap) : Within g P (s.takeAsync t x) :=
  within_deliver h ht _ _ _

theorem within_watched (h : Within g P s) (ht : Fine P t) (xs : List Touch) : Within g P (s.watched t xs) := by
  unfold State.watched
  split
  · exact h
  · exact within_raise h (h.getD_team? ht t.id) _

/-! ### How instructions end -/

theorem within_stop (h : Within g P s) (ht : Fine P t) (e : Stop) (he : e.finish s t = .next s') : Within g P s' := by
  induction e generalizing s with
  | trap x =>
    unfold Stop.finish at he
    split at he
    · cases he
      exact within_stall h (ht.of_same (pend_sameMode t x))
    · cases he
      exact within_takeTrap h ht x
  | stall =>
    cases he
    exact within_stall h ht
  | seen ps e ih => exact ih (within_touch h _ _) he

theorem within_completed (hs : Within g P s) (h : Within g P u') (ht : Fine P t) {xs : List Touch}
    (he : s.completed t u' xs = .next s') : Within g P s' := by
  unfold State.completed at he
  split at he
  · cases he
    exact within_putTeam hs (ht.of_same ⟨rfl, rfl, rfl⟩)
  · cases he
    exact within_watched h ht xs

/-- An instruction on its team's registers whose effect keeps its team fine. -/
theorem within_runRegs_fine {sh : Team → Shape} {effect : Team → Except Stop Team}
    (hf : ∀ t t', Fine P t → effect t = .ok t' → Fine P t') (h : Within g P s) (he : runRegs sh effect s = .next s') :
    Within g P s' := by
  obtain ⟨t, hc, ⟨t', -, ht', rfl⟩ | ⟨e, hs⟩⟩ := runRegs_cases he
  · exact within_putTeam h ((hf _ _ ((h.curTeam hc).of_same (begin_sameMode t)) ht').of_same (retire_sameMode _ _))
  · exact within_stop h (h.curTeam hc) e hs

/-- The same where the three registers stay. -/
theorem within_runRegs {sh : Team → Shape} {effect : Team → Except Stop Team} (hf : ∀ t t', effect t = .ok t' → SameMode t' t)
    (h : Within g P s) (he : runRegs sh effect s = .next s') : Within g P s' :=
  within_runRegs_fine (fun t t' ht e => ht.of_same (hf t t' e)) h he

/-- An instruction whose effect never stops. -/
theorem within_runRegs_ok {sh : Team → Shape} {f : Team → Team} (hf : ∀ t, SameMode (f t) t) (h : Within g P s)
    (he : runRegs sh (fun t => .ok (f t)) s = .next s') : Within g P s' :=
  within_runRegs (fun t _ e => by cases e; exact hf t) h he

/-- An instruction that acts outside its team. -/
theorem within_runState {sh : Team → State → Shape} {effect : Team → State → Except Stop (State × List Touch)}
    (hf : ∀ t u u' xs, Within g P u → Fine P t → effect t u = .ok (u', xs) → Within g P u') (h : Within g P s)
    (he : runState sh effect s = .next s') : Within g P s' := by
  unfold runState at he
  split at he
  · cases he
  next t hc =>
    have ht := h.curTeam hc
    have hb : Fine P t.begin := ht.of_same (begin_sameMode t)
    split at he
    · exact within_stop h ht _ he
    · split at he
      · exact within_stop h ht _ he
      next e => exact within_completed h (within_modTeam (hf _ _ _ _ (within_putTeam h hb) hb e) _ (fun u => retire_sameMode u _)) ht he

/-! ### Accesses -/

theorem within_weakRead (h : Within g P s) (tower : Nat) (keep : Bool) (p : Place) (n : Nat) :
    Within g P (s.weakRead tower keep p n).2 := by
  unfold State.weakRead
  dsimp only
  split
  · split
    · split
      · exact h
      · exact h
    · exact within_servedAtHome h _ _
  · exact h

theorem within_strongRead (h : Within g P s) (tower : Nat) (a : Access) : Within g P (s.strongRead tower a) :=
  within_servedAtHome (within_acquireAt h _ _) _ _

theorem within_readPoison (h : Within g P s) (tower : Nat) (a : Access) (old : Nat) : Within g P (s.readPoison tower a old) := by
  unfold State.readPoison
  refine within_modTeam (within_strongRead h _ _) _ fun t => ?_
  dsimp only
  split
  · exact pend_sameMode _ _
  · exact (pend_sameMode _ _).trans (putLoad_sameMode _ _ _ _ _)

theorem within_unreachable (h : Within g P s) (a : Access) : Within g P (s.unreachable a) := by
  unfold State.unreachable
  refine within_modTeam h _ fun t => ?_
  dsimp only
  split
  · exact pend_sameMode _ _
  · exact (pend_sameMode _ _).trans (putLoad_sameMode _ _ _ _ _)

theorem within_atomicWrite (h : Within g P s) (tower : Nat) (a : Access) (old : Nat) (bs : List Byte) (dst : Option LoadDst) :
    Within g P (s.atomicWrite tower a old bs dst).state := by
  unfold State.atomicWrite
  dsimp only
  split
  · exact within_strongRead h _ _
  · exact within_teamWrite (within_strongRead h _ _) _ _ _

theorem within_performAccess (h : Within g P s) (tower : Nat) (keep : Bool) (a : Access) :
    Within g P (s.performAccess tower keep a).state := by
  unfold State.performAccess
  split
  · exact within_unreachable h a
  · have hu : Within g P (if a.kind.asksTeller && s.splitAtomic a.place then s.settle a.place.loc a.size else s) := by
      split
      · exact within_settle h _ _
      · exact h
    generalize (if a.kind.asksTeller && s.splitAtomic a.place then s.settle a.place.loc a.size else s) = u at hu
    have load (v : State) (hv : Within g P v) (d : LoadDst) (n : Nat) (b b' : Bool) :
        Within g P (v.modTeam a.team fun t => t.putLoad d n b b') :=
      within_modTeam hv _ fun t => putLoad_sameMode t d n b b'
    dsimp only
    split
    · exact load _ (within_acquireAt (within_weakRead hu _ _ _ _) _ _) _ _ _ _
    · exact within_teamWrite hu _ _ _
    · split
      · exact within_readPoison hu _ _ _
      · exact load _ (within_strongRead hu _ _) _ _ _ _
    · exact within_teamWrite hu _ _ _
    · split
      · exact within_readPoison hu _ _ _
      · exact within_atomicWrite hu _ _ _ _ _
    · split
      · exact within_readPoison hu _ _ _
      · exact within_atomicWrite hu _ _ _ _ _
    · exact within_writeLoc hu _ _
    · exact load _ hu _ _ _ _

theorem within_rest {r : Performed} (h : Within g P r.state) (keep : Bool) (a : Access) : Within g P (r.rest keep a).state := by
  unfold Performed.rest
  split
  · exact h
  · exact within_performAccess h _ _ _

theorem within_performWhole (h : Within g P s) (keep : Bool) (a : Access) : Within g P (s.performWhole keep a) :=
  within_rest (within_rest (within_performAccess h _ _ _) _ _) _ _

theorem within_issue (h : Within g P s) (t : Team) (as : List Access) : Within g P (s.issue t as) := by
  unfold State.issue
  dsimp only
  split
  · exact within_foldl (fun _ a hs => within_enqueue hs _ a) (within_touch h _ _) _
  · exact within_foldl (fun _ a hs => within_performWhole hs _ a) (within_touch h _ _) _

theorem within_doAccesses (h : Within g P s) (ht : Fine P t) (as : List Access) : Within g P (s.doAccesses t as) :=
  within_issue (within_putTeam h ht) t as

/-! ### ERET -/

theorem reservedClear_iff (t : Team) : t.reservedClear = true ↔
    t.mode.toNat < 2 ^ 13 ∧ fld 5 3 t.mode.toNat ≤ 4 ∧ t.lavc.toNat < 2 ^ 24 ∧ t.slim.toNat % 16 = 0 := by
  simp only [Team.reservedClear, Bool.and_eq_true, beq_iff_eq, decide_eq_true_eq, and_assoc,
    Nat.div_eq_zero_iff_lt (Nat.two_pow_pos _)]

/-- A MODE value that passes the checks. -/
theorem Fine.of_mode (ht : Fine P t) {nvr : Nat} {v : Word} (hv : modeOk nvr v = true)
    (hu : u.mode = v ∧ u.lavc = t.lavc ∧ u.slim = t.slim) : Fine P u := fun hp => by
  obtain ⟨hm, hl, hs⟩ := hu
  obtain ⟨-, -, hlavc, hslim⟩ := (reservedClear_iff t).mp (ht hp)
  obtain ⟨h13, hr, -⟩ := (modeOk_iff nvr v).mp hv
  rw [reservedClear_iff, hm, hl, hs]
  exact ⟨h13, hr, hlavc, hslim⟩

theorem within_returnFromTrap (h : Within g P s) (ht : Fine P t) (e : returnFromTrap t s = .ok s') : Within g P s' := by
  unfold returnFromTrap raiseAt at e
  dsimp only at e
  split at e
  · cases e
  · split at e
    · cases e
    next ps _ =>
      split at e
      · cases e
      · split at e
        · cases e
        · rw [afterSeeing_ok] at e
          split at e
          · cases e
          · split at e
            · cases e
            next hmode =>
              split at e
              · cases e
              · cases e
                refine within_putTeam (within_foldl (fun _ p hs => within_acquireAt hs _ _)
                  (within_servedAtHome (within_touch h _ _) _ _) _) ?_
                exact ht.of_mode (by simpa using hmode) (by simp)

end Keep
end Sys2Proof.Proofs
end

section
/-!
SUPPORT. The instructions that act on their team's registers keep the device-wide registers and the reserved bits.
-/
namespace Sys2Proof.Proofs
open Sys2Proof.Machine Sys2Proof.Laws

/-- What an instruction or event does keeps the device-wide registers and the reserved bits. -/
def Keeps (f : State → Result) : Prop :=
  ∀ ⦃g : Privileged⦄ ⦃P : Prop⦄ ⦃s s' : State⦄, Within g P s → f s = .next s' → Within g P s'

theorem keeps_runRegs {sh : State → Team → Shape} {effect : State → Team → Except Stop Team}
    (hf : ∀ s t t', effect s t = .ok t' → SameMode t' t) : Keeps fun s => runRegs (sh s) (effect s) s :=
  fun _ _ _ _ h he => within_runRegs (hf _) h he

/-- An instruction whose effect on its team's registers never stops. -/
theorem keeps_ok {sh : State → Team → Shape} {f : State → Team → Team} (hf : ∀ s t, SameMode (f s t) t) :
    Keeps fun s => runRegs (sh s) (fun t => .ok (f s t)) s :=
  fun _ _ _ _ h he => within_runRegs_ok (hf _) h he

/-! ### Scalars and masks -/

theorem keeps_scalarRR (f : Word → Word → Word) (d : Reg) (a b : Src) : Keeps (scalarRR f d a b) := keeps_ok fun _ t => by simp
theorem keeps_scalarR (f : Word → Word) (d : Reg) (a : Src) : Keeps (scalarR f d a) := keeps_ok fun _ t => by simp
theorem keeps_pairRR (f : Addr → Addr → Addr) (d : Reg) (a b : Src) : Keeps (pairRR f d a b) := keeps_ok fun _ t => by simp
theorem keeps_pairR (f : Addr → Addr) (d : Reg) (a : Src) : Keeps (pairR f d a) := keeps_ok fun _ t => by simp
theorem keeps_scalarDiv (sg : Bool) (op : Nat) (pick : Word × Word → Word) (d : Reg) (a b : Src) (la : BitVec 4) :
    Keeps (scalarDiv sg op pick d a b la) := keeps_ok fun _ t => by simp
theorem keeps_execSel (d : Reg) (a b : Src) : Keeps (execSel d a b) := keeps_ok fun _ t => by simp
theorem keeps_execSltux (d : Reg) (a b : Src) : Keeps (execSltux d a b) := keeps_ok fun _ t => by simp
theorem keeps_execLui (d : Reg) (i : BitVec 20) : Keeps (execLui d i) := keeps_ok fun _ t => by simp
theorem keeps_execAddpc (d : Reg) (i : BitVec 20) : Keeps (execAddpc d i) := keeps_ok fun _ t => by simp
theorem keeps_execStamp (d : Reg) : Keeps (execStamp d) := keeps_ok fun _ t => by simp

theorem keeps_maskRR (f : LaneBits → LaneBits → LaneBits) (d : MReg) (a b : MSrc) : Keeps (maskRR f d a b) :=
  keeps_ok fun _ t => by simp
theorem keeps_maskR (f : LaneBits → LaneBits) (d : MReg) (a : MSrc) : Keeps (maskR f d a) := keeps_ok fun _ t => by simp
theorem keeps_maskSet (b : LaneBits) (d : MReg) : Keeps (maskSet b d) := keeps_ok fun _ t => by simp
theorem keeps_maskToScalar (f : Nat → LaneBits → Word) (d : Reg) (a : MSrc) : Keeps (maskToScalar f d a) :=
  keeps_ok fun _ t => by simp
theorem keeps_execMsetw (d : MReg) (a b : Src) : Keeps (execMsetw d a b) := keeps_ok fun _ t => by simp
theorem keeps_execExmset (a : MSrc) : Keeps (execExmset a) := keeps_ok fun _ t => by simp
theorem keeps_execExmget (d : MReg) : Keeps (execExmget d) := keeps_ok fun _ t => by simp

theorem keeps_execMgetw (d : Reg) (a : MSrc) (b : Src) : Keeps (execMgetw d a b) := keeps_runRegs fun s t t' e => by
  dsimp only [raiseAt] at e
  split at e
  · cases e
  · cases e
    simp

/-! ### Vectors -/

theorem keeps_elementwise (accept : Nat → Bool) (p rd : Bool) (op : ElemOp) (d : Reg) (srcs : List Src) :
    Keeps (elementwise accept p rd op d srcs) := keeps_ok fun _ t => by
  split <;> simp

theorem keeps_wordwise (op : List Word → Word) (d : Reg) (srcs : List Src) : Keeps (wordwise op d srcs) :=
  keeps_ok fun _ t => by simp
theorem keeps_execVfsgnK (d : Reg) (a : Src) : Keeps (execVfsgnK d a) := keeps_ok fun _ t => by simp
theorem keeps_compareFp (k : Bool) (c : FpCond) (d : MReg) (a b : Src) : Keeps (compareFp k c d a b) :=
  keeps_ok fun _ t => by simp
theorem keeps_execVcmp (c : IntCond) (d : MReg) (a b : Src) : Keeps (execVcmp c d a b) := keeps_ok fun _ t => by simp
theorem keeps_execVlane (d : Reg) : Keeps (execVlane d) := keeps_ok fun _ t => by simp
theorem keeps_execVsel (d : Reg) (a b : Src) (k : MReg) : Keeps (execVsel d a b k) := keeps_ok fun _ t => by simp
theorem keeps_execVli (d : Reg) (i : BitVec 20) : Keeps (execVli d i) := keeps_ok fun _ t => by simp
theorem keeps_reduction (int : Nat → Bool → List Nat → Out) (fp : Nat → Nat → Nat → List Nat → Out) (d : Reg) (a : Src)
    (la : BitVec 4) : Keeps (reduction int fp d a la) := keeps_ok fun _ t => by simp
theorem keeps_execVscan (d : Reg) (a : Src) (la : BitVec 4) : Keeps (execVscan d a la) := keeps_ok fun _ t => by simp
theorem keeps_iterative (o : IterOp) (d : Reg) (srcs : List Src) (la : BitVec 4) : Keeps (iterative o d srcs la) :=
  keeps_ok fun _ t => by simp
theorem keeps_execVpack (d : Reg) (a b : Src) : Keeps (execVpack d a b) := keeps_ok fun _ t => by simp
theorem keeps_execVunpk (d : Reg) (a : Src) (sel : Bool) : Keeps (execVunpk d a sel) := keeps_ok fun _ t => by simp
theorem keeps_dotProduct (accept : Nat → Bool) (d : Reg) (a b : Src) : Keeps (dotProduct accept d a b) :=
  keeps_ok fun _ t => by simp
theorem keeps_execVqnt (d : Reg) (a b : Src) (f : BitVec 5) : Keeps (execVqnt d a b f) := keeps_ok fun _ t => by simp
theorem keeps_execVbcast (d : Reg) (a : Src) (la : BitVec 4) : Keeps (execVbcast d a la) := keeps_ok fun _ t => by simp

theorem keeps_execVcvt (d : Reg) (a : Src) (f sel : BitVec 5) : Keeps (execVcvt d a f sel) := keeps_runRegs fun s t t' e => by
  dsimp only [raiseAt] at e
  split at e
  · cases e
  · cases e
    simp

theorem keeps_execVshfl (d : Reg) (a b : Src) (la : BitVec 4) : Keeps (execVshfl d a b la) := keeps_runRegs fun s t t' e => by
  dsimp only at e
  split at e
  · cases e
  · cases e
    simp

theorem keeps_execVext (d : Reg) (a b : Src) (la : BitVec 4) : Keeps (execVext d a b la) := keeps_runRegs fun s t t' e => by
  dsimp only at e
  split at e
  · cases e
  · cases e
    simp

theorem keeps_execVins (d : Reg) (a b : Src) (la : BitVec 4) : Keeps (execVins d a b la) := keeps_ok fun _ t => by
  split <;> simp

/-! ### Control -/

theorem keeps_execBr (i : BitVec 26) : Keeps (execBr i) := keeps_runRegs fun s t t' e => by
  dsimp only at e
  split at e
  · cases e
  · cases e
    split <;> simp

theorem keeps_branchScalar (taken : Word → Bool) (r : Reg) (i : BitVec 19) : Keeps (branchScalar taken r i) :=
  keeps_ok fun _ t => by split <;> simp
theorem keeps_branchMask (taken : LaneBits → LaneBits → Bool) (m : MReg) (i : BitVec 20) : Keeps (branchMask taken m i) :=
  keeps_ok fun _ t => by split <;> simp

theorem keeps_jumpPair (link : Bool) (a : Src) : Keeps (jumpPair link a) := keeps_runRegs fun s t t' e => by
  dsimp only [raiseAt] at e
  split at e
  · cases e
  · split at e
    · cases e
    · split at e
      · cases e
      · cases e
        split <;> simp

theorem keeps_execRet : Keeps execRet := keeps_runRegs fun s t t' e => by
  dsimp only [raiseAt] at e
  split at e
  · cases e
  · cases e
    simp

theorem keeps_execEntry : Keeps execEntry := keeps_ok fun _ t => by simp
theorem keeps_execNop : Keeps execNop := keeps_ok fun _ t => by simp
theorem keeps_execYield : Keeps execYield := keeps_ok fun _ t => by simp

theorem keeps_nestWith (m : MReg) (f : Bool → Nat → Nat) : Keeps (nestWith m f) := keeps_runRegs fun s t t' e => by
  dsimp only [raiseAt] at e
  split at e
  · cases e
    simp
  · cases e

theorem keeps_nestAll (f : Nat → Nat) : Keeps (nestAll f) := keeps_runRegs fun s t t' e => by
  dsimp only [raiseAt] at e
  split at e
  · cases e
    simp
  · cases e

theorem keeps_execSendlp (m : MReg) (i : BitVec 19) : Keeps (execSendlp m i) := keeps_runRegs fun s t t' e => by
  dsimp only at e
  split at e
  · cases e
    simp
  · cases e
    simp

/-! ### Special registers, the register window, fences and cohorts -/

theorem keeps_execSrd (d : Reg) (n : BitVec 12) : Keeps (execSrd d n) := keeps_runRegs fun s t t' e => by
  dsimp only at e
  split at e
  · cases e
  · cases e
    split <;> simp

theorem keeps_execRegacq (k : BitVec 3) : Keeps (execRegacq k) := keeps_runRegs fun s t t' e => by
  split at e
  · cases e
  · cases e
    simp

theorem keeps_execRegacqNb (d : Reg) (k : BitVec 3) : Keeps (execRegacqNb d k) := keeps_runRegs fun s t t' e => by
  split at e
  · cases e
    simp
  · cases e
    simp

theorem keeps_execRegrel (k : BitVec 3) : Keeps (execRegrel k) := keeps_ok fun _ t => by simp

theorem keeps_execFwait (a : Src) : Keeps (execFwait a) := keeps_runRegs fun s t t' e => by
  split at e
  · cases e
  · cases e
    simp

theorem keeps_execBellclr (slot : BitVec 2) : Keeps (execBellclr slot) := keeps_ok fun _ t => by simp
theorem keeps_execClead (d : Reg) (a : Src) : Keeps (execClead d a) := keeps_ok fun _ t => by simp

end Sys2Proof.Proofs
end

section
/-!
SUPPORT. The instructions that act outside their team keep the device-wide registers and the reserved bits.
-/
namespace Sys2Proof.Proofs
open Sys2Proof.Machine Sys2Proof.Laws

/-- The effect of an instruction on the state keeps both. -/
def KeepsEffect (effect : Team → State → Except Stop (State × List Touch)) : Prop :=
  ∀ ⦃g : Privileged⦄ ⦃P : Prop⦄ ⦃t : Team⦄ ⦃s s' : State⦄ ⦃xs : List Touch⦄, Within g P s → Fine P t →
    effect t s = .ok (s', xs) → Within g P s'

theorem keeps_runState {sh : Team → State → Shape} {effect : Team → State → Except Stop (State × List Touch)}
    (hf : KeepsEffect effect) : Keeps (runState sh effect) :=
  fun _ _ _ _ h he => within_runState (fun _ _ _ _ hu ht e => hf hu ht e) h he

/-- What a sequence of checks ends with. -/
theorem exceptBind_ok {α β : Type} {x : Except Stop α} {f : α → Except Stop β} {b : β} :
    (x >>= f) = .ok b ↔ ∃ a, x = .ok a ∧ f a = .ok b := by
  constructor
  · intro h
    cases x with
    | error e => cases h
    | ok a => exact ⟨a, rfl, h⟩
  · rintro ⟨a, rfl, h⟩
    exact h

section Effects
variable {g : Privileged} {P : Prop} {s s' : State} {t : Team} {xs : List Touch}

/-! ### Loads and stores -/

/-- Accesses of a team that steps its base and goes on. -/
theorem within_accesses (h : Within g P s) (ht : Fine P t) (m : MemArg) (scale : Nat) (as : List Access) :
    Within g P (s.doAccesses (t.stepBase m scale).advance as) :=
  within_doAccesses h (ht.of_same (by simp)) as

theorem keeps_scalarLoad (size : Nat) (wide : Bool) (sign : Nat) (d : Reg) (m : MemArg) :
    Keeps (scalarLoad size wide sign d m) := keeps_runState fun g P t s s' xs h ht e => by
  dsimp only [raiseAt] at e
  split at e
  · cases e
  · split at e
    · cases e
    · cases e
      exact within_accesses h ht _ _ _

theorem keeps_scalarStore (size : Nat) (wide : Bool) (r : Reg) (m : MemArg) : Keeps (scalarStore size wide r m) :=
    keeps_runState fun g P t s s' xs h ht e => by
  dsimp only [raiseAt] at e
  split at e
  · cases e
  · split at e
    · cases e
    · cases e
      exact within_accesses h ht _ _ _

theorem keeps_vectorMem (store : Bool) (d : Reg) (m : MemArg) (z : BitVec 2) (lanes : Team → List Nat)
    (form : Team → Nat → AForm) : Keeps (vectorMem store d m z lanes form) := keeps_runState fun g P t s s' xs h ht e => by
  dsimp only [raiseAt] at e
  split at e
  · cases e
  · split at e
    · cases e
    · cases e
      exact within_accesses h ht _ _ _

theorem keeps_cacheOp (align size : Nat) (i : Intent) {act : State → Team → Team → AForm → Place → State × List Touch} (m : MemArg)
    (hact : ∀ ⦃g P s t t'⦄ f p, Within g P s → Fine P t' → Within g P (act s t t' f p).1) :
    Keeps (cacheOp align size i act m) := keeps_runState fun g P t s s' xs h ht e => by
  dsimp only [raiseAt] at e
  split at e
  · cases e
  · split at e
    · cases e
    next p _ =>
      have ha := hact (t := t) (memAddress m t 128) p h (ht.of_same (u := (t.stepBase m 128).advance) (by simp))
      rw [Except.ok.inj e] at ha
      exact ha

theorem keeps_execPref (m : MemArg) : Keeps (execPref m) := keeps_runState fun g P t s s' xs h ht e => by
  dsimp only [raiseAt] at e
  split at e
  · cases e
  · cases e
    exact within_putTeam (within_touch h _ _) (ht.of_same (by simp))

theorem keeps_execCwb (m : MemArg) : Keeps (execCwb m) :=
  keeps_cacheOp _ _ _ _ fun _ _ _ _ _ _ _ h ht => within_putTeam (within_touch h _ _) ht

theorem keeps_execCinv (m : MemArg) : Keeps (execCinv m) :=
  keeps_cacheOp _ _ _ _ fun _ _ _ _ _ _ _ h ht => within_dropLines (within_putTeam (within_touch h _ _) ht) _ _

theorem keeps_execDiscard (m : MemArg) : Keeps (execDiscard m) :=
  keeps_cacheOp _ _ _ _ fun _ _ _ _ _ _ _ h ht => within_doAccesses h ht _

theorem keeps_strongScalar (k : Strong) (a4 a8 : Nat) (cm : Bool) (r : MemOrd) (d : Reg) (b : Src) (la : BitVec 4) :
    Keeps (strongScalar k a4 a8 cm r d b la) := keeps_runState fun g P t s s' xs h ht e => by
  dsimp only at e
  split at e
  · cases e
  · cases e
    exact within_doAccesses h (ht.of_same (by simp)) _

theorem keeps_strongVector (k : Strong) (a4 a8 : Nat) (cm : Bool) (r : MemOrd) (d : Reg) (b : Src) (la : BitVec 4) :
    Keeps (strongVector k a4 a8 cm r d b la) := keeps_runState fun g P t s s' xs h ht e => by
  dsimp only at e
  split at e
  · cases e
  · cases e
    exact within_doAccesses h (ht.of_same (by simp)) _

/-! ### Fences, bells, barriers and cohorts -/

theorem keeps_execFence (k : FenceKind) (c : Scope) (uo cp : Bool) (d : Reg) : Keeps (execFence k c uo cp d) :=
    keeps_runState fun g P t s s' xs h ht e => by
  dsimp only at e
  split at e
  · cases e
    exact within_acquireAt (within_putTeam h (ht.of_same (by simp))) _ _
  · cases e
    exact within_putTeam h (ht.of_same (by simp))

theorem within_listBell (h : Within g P s) (a : Armed) (team slot : Nat) : Within g P (s.listBell a team slot) := by
  unfold State.listBell
  split
  · exact within_writeLoc h _ _
  · exact h

/-- The last step of BELL: the condition holds already, or the bell is armed where there is room. -/
theorem within_bellArmed {u : State} (h1 : Within g P u) (ht1 : Fine P t) (d : Reg) (slot : BitVec 2) (p : Place) (id home : Nat)
    (w : BitVec 64) (tch : List Touch) (bell : Armed) (e : (if bell.holds w then .ok (u.putTeam (t.setS d 1), tch)
      else match u.bellRoom home with
        | none => .error (.seen [p] .stall)
        | some listed =>
          .ok ((u.listBell { bell with listed } id slot.toNat).modTeam id fun u =>
            (u.setS d 0).setSlot slot ⟨some { bell with listed }, false⟩, tch) : Except Stop (State × List Touch)) = .ok (s', xs)) :
    Within g P s' := by
  split at e
  · cases e
    exact within_putTeam h1 (ht1.of_same (by simp))
  · split at e
    · cases e
    · cases e
      exact within_modTeam (within_listBell h1 _ _ _) _ fun u => by simp

theorem keeps_execBell (c : BellCond) (d : Reg) (slot : BitVec 2) (a b : Src) : Keeps (execBell c d slot a b) :=
    keeps_runState fun g P t s s' xs h ht e => by
  have ht1 : Fine P (t.setSlot slot .off).advance := ht.of_same (by simp)
  dsimp only at e
  split at e
  · cases e
  · split at e
    · cases e
    · split at e
      · cases e
      next p _ _ _ =>
        have h1 := within_putTeam (within_servedAtHome (within_touch h t.ctx [p]) (towerOf t.core) [p]) ht1
        split at e
        · cases e
          exact within_putTeam h1 (ht1.of_same (by simp))
        · exact within_bellArmed h1 ht1 d slot p _ _ _ _ _ e

theorem keeps_execAwait (d : Reg) (a : Src) : Keeps (execAwait d a) := fun g P s s' h he => by
  unfold execAwait at he
  split at he
  · cases he
  next t0 hc =>
    dsimp only at he
    split at he
    · cases he
      exact within_putTeam h ((h.curTeam hc).of_same ⟨rfl, rfl, rfl⟩)
    · refine within_runRegs (fun t t' e => ?_) h he
      split at e
      · cases e
        simp
      · split at e <;>
        · cases e
          simp

theorem keeps_arrive (drop pub : Bool) (d : Reg) (a : Src) : Keeps (arrive drop pub d a) :=
    keeps_runState fun g P t s s' xs h ht e => by
  dsimp only at e
  split at e
  · cases e
  · split at e
    · cases e
    · split at e
      · cases e
        exact within_putTeam (within_touch h _ _) (ht.of_same (by simp))
      · cases e
        exact within_teamWrite (within_putTeam (within_touch h _ _) (ht.of_same (by simp))) _ _ _

theorem keeps_execBwait (a b : Src) : Keeps (execBwait a b) := fun g P s s' h he => by
  have done (u : State) (t : Team) (ht : Fine P t) (hu : Within g P u) (sh : Shape) (xs : List Touch)
      (e : s.completed t (u.putTeam (sh.retire t.begin.advance)) xs = .next s') : Within g P s' :=
    within_completed h (within_putTeam hu (ht.of_same (by simp))) ht e
  unfold execBwait at he
  split at he
  · cases he
  next t0 hc =>
    have ht := h.curTeam hc
    dsimp only at he
    split at he
    · exact done s t0 ht h _ _ he
    · split at he
      · exact within_stop h ht _ he
      · split at he
        · exact within_stop h ht _ he
        · split at he
          · exact within_stop h ht _ he
          · split at he
            · exact within_stop h ht _ he
            · split at he
              · cases he
                exact within_putTeam (within_touch h _ _) (ht.of_same ⟨rfl, rfl, rfl⟩)
              · exact done _ t0 ht (within_touch h _ _) _ _ he

theorem within_join (h : Within g P s) (hh : BitVec 16) : Within g P (s.join t hh).2.1 ∧ SameMode (s.join t hh).2.2 t := by
  have named : SameMode (if t.cid0 = 0 then { t with cid0 := hh } else { t with cid1 := hh }) t :=
    ite_sameMode ⟨rfl, rfl, rfl⟩ ⟨rfl, rfl, rfl⟩
  unfold State.join
  dsimp only
  split
  · exact ⟨h, sameMode_refl t⟩
  · split
    · exact ⟨h, sameMode_refl t⟩
    · split
      · split
        · exact ⟨h, sameMode_refl t⟩
        · exact ⟨h, named⟩
      · split
        · exact ⟨h, sameMode_refl t⟩
        · exact ⟨h, named⟩

theorem keeps_execJoin (d : Reg) (a : Src) : Keeps (execJoin d a) := keeps_runState fun g P t s s' xs h ht e => by
  dsimp only [raiseAt] at e
  split at e
  · cases e
  · obtain ⟨hj, hs⟩ := within_join (t := t) h ((t.sval a.reg).setWidth 16)
    cases e
    exact within_putTeam hj (ht.of_same (SameMode.trans (by simp) hs))

theorem keeps_execLeave (d : Reg) (a : Src) : Keeps (execLeave d a) := keeps_runState fun g P t s s' xs h ht e => by
  dsimp only at e
  split at e
  · cases e
    exact within_putTeam (s := { s with cohorts := _ }) h (ht.of_same (by simp))
  · cases e
    exact within_putTeam h (ht.of_same (by simp))

/-! ### Returns, ends and traps -/

theorem keeps_execEret : Keeps execEret := keeps_runState fun g P t s s' xs h ht e => by
  split at e
  · cases e
  next hr =>
    cases e
    exact within_returnFromTrap h ht hr

theorem within_discardRest (h : Within g P s) (team : Nat) (copies : Option (List Nat)) (x : Trap) :
    Within g P (s.discardRest team copies x) := by
  unfold State.discardRest
  split
  · exact h
  · dsimp only
    split
    · refine within_foldl (fun _ c hs => within_endCopy hs c) (within_modTeam h _ fun u => ?_) _
      exact ⟨rfl, rfl, rfl⟩
    · exact h

theorem keeps_execExit : Keeps execExit := fun g P s s' h he => by
  unfold execExit at he
  split at he
  · cases he
  next t hc =>
    have ht := h.curTeam hc
    split at he
    · cases he
      exact within_exitTeam h ht
    next cs x rest _ =>
      split at he
      · cases he
        exact within_stall h ht
      · have ht1 : Fine P { t with followFaults := rest } := ht.of_same ⟨rfl, rfl, rfl⟩
        cases he
        exact within_discardRest (within_takeTrap (within_putTeam h ht1) ht1 x) _ _ _

theorem keeps_execTrap (n : BitVec 12) : Keeps (execTrap n) := fun g P s s' h he => by
  unfold execTrap at he
  split at he
  · cases he
  next t hc =>
    have ht := h.curTeam hc
    have ht1 : Fine P (({} : Shape).retire t.begin.advance) := ht.of_same (by simp)
    dsimp only at he
    split at he
    · cases he
      exact within_stall h ht
    · cases he
      exact within_takeTrap (within_putTeam h ht1) ht1 _

theorem keeps_execBrk (n : BitVec 12) : Keeps (execBrk n) := fun g P s s' h he => by
  unfold execBrk at he
  split at he
  · cases he
  next t hc =>
    cases he
    exact within_takeTrap h (h.curTeam hc) _

/-! ### NODE -/

theorem within_enter (h : Within g P s) (ctx : Nat) (q : Option Nat) (a : Addr) (d : Desc) (prio : Nat) :
    Within g P (s.enter ctx q a d prio) := by
  unfold State.enter
  exact within_touchDesc (s := { s.addNode _ with fe := _ }) h ctx a

theorem keeps_execNode (d : Reg) (a b : Src) : Keeps (execNode d a b) := keeps_runState fun g P t s s' xs h ht e => by
  have ht1 (v : Word) : Fine P (t.setS d v).advance := ht.of_same (by simp)
  dsimp only [raiseAt] at e
  split at e
  · cases e
  · split at e
    · cases e
    · split at e
      · cases e
      · split at e
        · cases e
          exact within_putTeam (within_touchDesc (within_touchNamed h _ _) _ _) (ht1 1)
        · cases e
          exact within_putTeam (within_enter (within_touchNamed h _ _) _ _ _ _ _) (ht1 0)

/-! ### Copies and tags -/

theorem within_copyFailed (h : Within g P s) (team : Nat) (pc va : Addr) : Within g P (s.copyFailed team pc va) := by
  unfold State.copyFailed
  exact within_modTeam h _ fun u => ite_sameMode (sameMode_refl u) (pend_sameMode u _)

theorem within_sourceRead (h : Within g P s) (tower : Nat) (b : ByteSrc) : Within g P (s.sourceRead tower b) := by
  cases b with
  | loc p va => exact within_servedAtHome h _ _
  | fixed v p => exact h

theorem within_performMove (h : Within g P s) (tower : Nat) (c : Copy) (m : Move) (rest : List Move) :
    Within g P (s.performMove tower c m rest).1 := by
  have hw (v : Byte) := within_teamWrite (within_sourceRead h tower m.src) tower m.dst [v]
  unfold State.performMove
  split
  · exact within_copyFailed h _ _ _
  · split
    · exact within_markWord (within_copyFailed h _ _ _) _ _ _
    · dsimp only
      split
      · exact within_markWord (hw _) _ _ _
      · split
        · exact within_markWord (hw _) _ _ _
        · exact hw _

theorem within_performMoves (tower : Nat) (c : Copy) (fuel : Nat) (h : Within g P s) (ms : List Move) :
    Within g P (State.performMoves tower c fuel s ms) := by
  induction fuel generalizing s ms with
  | zero => exact h
  | succ n ih =>
    cases ms with
    | nil => exact h
    | cons m ms => exact ih (within_performMove h _ _ _ _) _

theorem within_copyMoved (h : Within g P s) (c : Copy) : Within g P (s.copyMoved c) := by
  unfold State.copyMoved
  split
  · exact within_endCopy h _
  · exact h

theorem within_beginCopy (h : Within g P s) (tower : Nat) (lost : Place → Bool) (c : Copy) :
    Within g P (s.beginCopy tower lost c).1 := by
  unfold State.beginCopy
  split
  · exact h
  · dsimp only
    split
    · exact within_servedAtHome h _ _
    · exact within_copyFailed (within_servedAtHome h _ _) _ _ _

theorem within_performCopy (h : Within g P s) (tower : Nat) (c : Copy) : Within g P (s.performCopy tower c) :=
  within_copyMoved (within_performMoves _ _ _ (within_beginCopy h _ _ _) _) _

theorem within_startCopy (h : Within g P s) (ht : Fine P t) (recs : List Place) (p : CopyPlan) (o : Option MatrixOp) :
    Within g P (s.startCopy t recs p o) := by
  have hput (l : List Nat) (ps : List Place) (tower : Nat) : Within g P
      (((s.touch t.ctx ps).servedAtHome tower recs).putTeam { t.advance with unsealed := l }) :=
    within_putTeam (within_servedAtHome (within_touch h _ _) _ _) (ht.of_same ⟨rfl, rfl, rfl⟩)
  unfold State.startCopy
  dsimp only
  split
  · exact hput _ _ _
  · refine within_performCopy ?_ _ _
    exact hput _ _ _

theorem within_copyPieces (h : Within g P s) (ht : Fine P t) {recs : List Place} {src dst : List (Addr × Nat)}
    {planes : Option (Nat × Nat)} {o : Option MatrixOp} {more : List Touch}
    (e : copyPieces s t recs src dst planes o more = .ok (s', xs)) : Within g P s' := by
  unfold copyPieces at e
  split at e
  · cases e
  · split at e
    · cases e
    · cases e
      exact within_startCopy h ht _ _ _

theorem keeps_execCpy (d : Reg) (a b : Src) : Keeps (execCpy d a b) :=
  keeps_runState fun _ _ _ _ _ _ h ht e => within_copyPieces h ht e

theorem within_copyTile (h : Within g P s) (ht : Fine P t) {recs : List Place} {src dst : ShapeRec} {w : Word} {more : List Touch}
    (e : copyTile s t recs src dst w more = .ok (s', xs)) : Within g P s' := by
  unfold copyTile at e
  split at e
  · cases e
  · split at e
    · exact within_copyPieces h ht e
    · split at e
      · cases e
      · split at e
        · cases e
        · exact within_copyPieces h ht e

theorem keeps_execCpyt (d : Reg) (a b : Src) : Keeps (execCpyt d a b) := keeps_runState fun g P t s s' xs h ht e => by
  simp only [exceptBind_ok] at e
  obtain ⟨_, _, _, _, _, _, _, _, _, _, e⟩ := e
  exact within_copyTile h ht e

theorem keeps_listCopy (scatter : Bool) (d : Reg) (a : Src) : Keeps (listCopy scatter d a) :=
    keeps_runState fun g P t s s' xs h ht e => by
  simp only [exceptBind_ok] at e
  obtain ⟨_, _, _, _, _, _, _, _, _, _, _, _, e⟩ := e
  exact within_copyPieces h ht e

theorem keeps_execCseal (k : BitVec 6) : Keeps (execCseal k) := keeps_runState fun g P t s s' xs h ht e => by
  cases e
  exact within_putTeam (s := { s with flight := _ }) h (ht.of_same ⟨rfl, rfl, rfl⟩)

/-- A tag instruction whose effect keeps both. -/
theorem keeps_tagOp {d : List Opnd} {a : Src} {effect : Team → State → Addr → Except Stop State}
    (hf : ∀ ⦃g P t s s'⦄ m, Within g P s → Fine P t → effect t s m = .ok s' → Within g P s') : Keeps (tagOp d a effect) :=
    fun g P s s' h he => by
  unfold tagOp at he
  dsimp only at he
  split at he
  · cases he
  next t hc =>
    have ht := h.curTeam hc
    split at he
    · split at he
      · cases he
        exact within_stall h ht
      · have ht1 (l : List (List Nat × Trap)) : Fine P { t with followFaults := l } := ht.of_same ⟨rfl, rfl, rfl⟩
        cases he
        exact within_discardRest (within_takeTrap (within_putTeam h (ht1 _)) (ht1 _) _) _ _ _
    · refine keeps_runState (fun g P t s s' xs h ht e => ?_) h he
      split at e
      · cases e
      next h' =>
        cases e
        exact hf _ h ht h'
    · exact within_stop h ht _ he

theorem keeps_execCwany (d : Reg) (a : Src) : Keeps (execCwany d a) := keeps_tagOp fun g P t s s' m h ht e => by
  split at e
  · cases e
  · cases e
    exact within_putTeam h (ht.of_same (by simp))

theorem keeps_execCwall (a : Src) : Keeps (execCwall a) := keeps_tagOp fun g P t s s' m h ht e => by
  split at e
  · cases e
    exact within_putTeam h (ht.of_same (by simp))
  · cases e

theorem keeps_execCffr (d : Reg) (a : Src) : Keeps (execCffr d a) := keeps_tagOp fun g P t s s' m h ht e => by
  cases e
  exact within_putTeam h (ht.of_same (by simp))

theorem keeps_execCtclr (a : Src) : Keeps (execCtclr a) := keeps_tagOp fun g P t s s' m h ht e => by
  cases e
  exact within_putTeam (s := { s with flight := _ }) h (ht.of_same (by simp))

theorem keeps_execColl (a : Src) : Keeps (execColl a) := keeps_runState fun g P t s s' xs h ht e => by
  simp only [exceptBind_ok] at e
  obtain ⟨_, _, _, _, _, _, _, _, _, _, _, _, e⟩ := e
  cases e
  exact within_putTeam (within_servedAtHome (within_touch h _ _) _ _) (ht.of_same ⟨rfl, rfl, rfl⟩)

/-! ### Matrix instructions -/

theorem keeps_matrixIssue (tile : Bool) (a b c : Reg) (la : BitVec 4) : Keeps (matrixIssue tile a b c la) :=
    keeps_runState fun g P t s s' xs h ht e => by
  split at e
  · cases e
  · cases e
    exact within_putTeam h (ht.of_same (by simp))
  · cases e
    exact within_putTeam h (ht.of_same ⟨rfl, rfl, rfl⟩)

theorem keeps_execMzero (a b : Reg) (la : BitVec 4) : Keeps (execMzero a b la) := keeps_runState fun g P t s s' xs h ht e => by
  dsimp only at e
  split at e
  · cases e
  · cases e
    exact within_putTeam (s := { s with mem := _ }) h (ht.of_same (by simp))

theorem keeps_execMaccrd (a b : Reg) (la : BitVec 4) : Keeps (execMaccrd a b la) := keeps_runState fun g P t s s' xs h ht e => by
  dsimp only at e
  split at e
  · cases e
  · cases e
    exact within_putTeam h (ht.of_same (by simp))

theorem keeps_execMaccwr (a b : Reg) (la : BitVec 4) : Keeps (execMaccwr a b la) := keeps_runState fun g P t s s' xs h ht e => by
  dsimp only at e
  split at e
  · cases e
  · cases e
    exact within_putTeam (s := { s with mem := _ }) h (ht.of_same (by simp))

theorem within_loadCell (h : Within g P s) (t : Team) (x : Nat × Addr × Place) : Within g P (loadCell s t x) := by
  obtain ⟨k, va, p⟩ := x
  unfold loadCell
  dsimp only
  split
  · exact within_modTeam (s := { s with mem := _ }) h _ fun u => pend_sameMode u _
  · exact within_acquireAt (within_weakRead h _ _ _ _) _ _

theorem within_storeCell (h : Within g P s) (t : Team) (x : Nat × Addr × Place) : Within g P (storeCell s t x) := by
  obtain ⟨k, va, p⟩ := x
  unfold storeCell
  dsimp only
  split
  · exact within_modTeam h _ fun u => pend_sameMode u _
  · split
    · exact within_markWord (within_teamWrite h _ _ _) _ _ _
    · exact within_teamWrite h _ _ _

theorem keeps_cellTransfer (store : Bool) {step : State → Team → Nat × Addr × Place → State}
    (hstep : ∀ ⦃g P s⦄ t x, Within g P s → Within g P (step s t x)) (a b c : Reg) (la : BitVec 4) :
    Keeps (cellTransfer store step a b c la) := keeps_runState fun g P t s s' xs h ht e => by
  dsimp only at e
  split at e
  · cases e
  · split at e
    · cases e
    · cases e
      exact within_foldl (fun _ x hs => hstep _ x hs) (within_putTeam (within_touch h _ _) (ht.of_same (by simp))) _

theorem keeps_execAcwin (a b c : Reg) (la : BitVec 4) : Keeps (execAcwin a b c la) := keeps_runState fun g P t s s' xs h ht e => by
  have h1 (v : Word) := within_putTeam (t := (t.setS a v).advance) h (ht.of_same (by simp))
  dsimp only [raiseAt] at e
  split at e
  · cases e
  · split at e
    · cases e
      exact h1 _
    · cases e
      exact within_modTeam (h1 _) _ fun u => ⟨rfl, rfl, rfl⟩

theorem within_writePositions (h : Within g P s) (base F : Nat) (ps : List (Nat × Planed × Nat)) :
    Within g P (s.writePositions base F ps) := by
  have hd : Within g P (s.writeDescriptors base F ps) := by
    unfold State.writeDescriptors
    split
    · exact within_foldl (fun _ x hs => within_writeLoc hs _ _) h _
    · exact h
  exact within_foldl (fun _ m hs => within_foldl (fun _ k hs => within_writeLoc hs _ _) hs _) hd _

theorem keeps_execMplan (a b c : Reg) (la : BitVec 4) : Keeps (execMplan a b c la) := keeps_runState fun g P t s s' xs h ht e => by
  simp only [exceptBind_ok] at e
  obtain ⟨_, _, e⟩ := e
  split at e
  · cases e
    exact within_putTeam h (ht.of_same (by simp))
  · simp only [exceptBind_ok] at e
    obtain ⟨_, _, _, _, _, _, e⟩ := e
    cases e
    exact within_writePositions (within_putTeam h (ht.of_same (by simp))) _ _ _

theorem keeps_execMchk (a b : Reg) (la : BitVec 4) : Keeps (execMchk a b la) := keeps_runState fun g P t s s' xs h ht e => by
  dsimp only [raiseAt] at e
  split at e
  · cases e
  · split at e
    · cases e
    · cases e
      refine within_putTeam h (ht.of_same (SameMode.trans (b := if (t.sval b).getLsbD 0 then { t with reruns := 0 } else t) ?_
        (ite_sameMode ⟨rfl, rfl, rfl⟩ (sameMode_refl t))))
      simp

end Effects

end Sys2Proof.Proofs
end

section
/-!
SUPPORT. MODE and the special registers: what SETMODE, MODEW and SWR keep; and every instruction (07 R94 to R96, R98).
-/
namespace Sys2Proof.Proofs
open Sys2Proof.Machine Sys2Proof.Laws

section Special
variable {g : Privileged} {P : Prop} {s s' : State} {t : Team} {n : BitVec 12} {r : Reg} {v : Word} {xs : List Touch}

/-! ### MODE -/

theorem Fine.of_setMode (ht : Fine P t) {u : Team} (e : setMode s t v = .ok u) : Fine P u := by
  unfold setMode raiseAt at e
  split at e
  next hm =>
    cases e
    exact ht.of_mode hm ⟨rfl, rfl, rfl⟩
  · cases e

theorem keeps_execModew (a : Src) : Keeps (execModew a) := fun _ _ _ _ h he =>
  within_runRegs_fine (fun t t' ht e => by
    split at e
    · cases e
    next hm =>
      cases e
      exact (ht.of_setMode hm).of_same (advance_sameMode _)) h he

theorem keeps_execSetmode (k : BitVec 20) : Keeps (execSetmode k) := fun _ _ _ _ h he =>
  within_runRegs_fine (fun t t' ht e => by
    split at e
    · cases e
    next hm =>
      cases e
      exact (ht.of_setMode hm).of_same (advance_sameMode _)) h he

/-! ### SWR -/

/-- The words that the registers of a team take keep their reserved bits clear. -/
theorem Fine.of_writeSpecial (ht : Fine P t) (n : Nat) (v : Word) : Fine P (t.writeSpecial n v) := by
  unfold Team.writeSpecial
  split
  · exact ht.of_same ⟨rfl, rfl, rfl⟩
  · intro hp
    obtain ⟨hm, hr, -, hs⟩ := (reservedClear_iff t).mp (ht hp)
    refine (reservedClear_iff _).mpr ⟨hm, hr, ?_, hs⟩
    rw [lavc_word]
    have hlt : fld 0 24 v.toNat < 2 ^ 24 := Nat.mod_lt _ (Nat.two_pow_pos 24)
    exact lt_of_le_of_lt (Nat.mod_le _ _) hlt
  · intro hp
    obtain ⟨hm, hr, hl, -⟩ := (reservedClear_iff t).mp (ht hp)
    refine (reservedClear_iff _).mpr ⟨hm, hr, hl, ?_⟩
    rw [slim_word, BitVec.toNat_ofNat]
    have := v.isLt
    omega
  · dsimp only
    split
    · split
      · exact ht.of_same ⟨rfl, rfl, rfl⟩
      · exact ht.of_same ⟨rfl, rfl, rfl⟩
    · exact ht

theorem within_retryContext (h : Within g P s) (ctx : Nat) : Within g P (s.retryContext ctx) :=
  h.map_teams (f := fun t => if t.ctx = ctx then t.retry else t)
    (fun t ht => ht.of_same (ite_sameMode (retry_sameMode t) (sameMode_refl t))) rfl rfl

theorem within_retryRegion (h : Within g P s) (ctx : Nat) (va : Addr) : Within g P (s.retryRegion ctx va) :=
  h.map_teams (f := fun t => if t.ctx = ctx ∧ (t.pendingAddr.any fun a => a.toNat / 2 ^ 30 == va.toNat / 2 ^ 30)
      then t.retry else t)
    (fun t ht => ht.of_same (ite_sameMode (retry_sameMode t) (sameMode_refl t))) rfl rfl

theorem within_invalidate (h : Within g P s) (e : invalidate s v = .ok s') : Within g P s' := by
  unfold invalidate at e
  dsimp only at e
  split at e
  · cases e
    exact h
  · split at e
    · split at e
      · cases e
      · cases e
        exact within_retryContext h _
    · split at e
      · cases e
      · cases e
        exact within_retryRegion h _ _

/-- SWR changes the device-wide registers only under a number from 0x100 on. -/
theorem within_swrEffect (h : Within g P s) (ht : Fine P t) (e : swrEffect n r t s = .ok (s', xs)) :
    ∃ g', Within g' P s' ∧ (n.toNat < 0x100 → g' = g) := by
  unfold swrEffect at e
  split at e
  · split at e
    · cases e
    next hm =>
      cases e
      exact ⟨g, within_putTeam h ((ht.of_setMode hm).of_same (advance_sameMode _)), fun _ => rfl⟩
  · split at e
    · cases e
    · split at e
      · split at e
        · cases e
        next hv =>
          cases e
          exact ⟨g, within_putTeam (within_invalidate h hv) (ht.of_same (advance_sameMode _)), fun _ => rfl⟩
      · cases e
        have hput : Fine P (t.writeSpecial n.toNat (t.sval r)).advance :=
          (ht.of_writeSpecial _ _).of_same (advance_sameMode _)
        refine ⟨_, within_putTeam ⟨rfl, h.2⟩ hput, fun hn => ?_⟩
        rw [writeDevice_user s hn]
        exact h.1

/-- SWR keeps the reserved bits, and in a context that is not privileged the device-wide registers. -/
theorem within_swr (h : Within g P s) (he : exec (.swr n r) s = .next s') :
    ∃ g', Within g' P s' ∧ (∀ t, s.curTeam = some t → (s.ctxOf t).priv = false → g' = g) := by
  rw [exec_swr, execSwr_eq] at he
  unfold runState at he
  split at he
  · cases he
  next t hc =>
    have ht := h.curTeam hc
    have hb : Fine P t.begin := ht.of_same (begin_sameMode t)
    split at he
    · exact ⟨g, within_stop h ht _ he, fun _ _ _ => rfl⟩
    next hk =>
      split at he
      · exact ⟨g, within_stop h ht _ he, fun _ _ _ => rfl⟩
      next e =>
        obtain ⟨g', hw, hg⟩ := within_swrEffect (within_putTeam h hb) hb e
        have hpriv (u : Team) (hu : s.curTeam = some u) (hp : (s.ctxOf u).priv = false) : g' = g := by
          rw [hc] at hu
          cases hu
          refine hg (not_le.mp fun hle => ?_)
          rw [check_early (specialTrap_unprivileged hle hp)] at hk
          cases hk
        unfold State.completed at he
        split at he
        · cases he
          exact ⟨g, within_putTeam h (ht.of_same ⟨rfl, rfl, rfl⟩), fun _ _ _ => rfl⟩
        · cases he
          exact ⟨g', within_watched (within_modTeam hw _ fun u => retire_sameMode u _) ht _, hpriv⟩

end Special

/-! ### Every instruction -/

/-- Every instruction but SWR keeps the device-wide registers and the reserved bits. -/
theorem keeps_instruction {i : Instr} (hi : encode i ≠ none) (hn : ∀ n r, i ≠ .swr n r) : Keeps (exec i) := by
  cases i
  case swr n r => exact absurd rfl (hn n r)
  case modew => exact keeps_execModew _
  case setmode => exact keeps_execSetmode _
  case add | sub | mul | mulh | mulhu | and | or | xor | andn | shl | shr | sra | min | max | minu | maxu | seq |
      sne | slt | sltu =>
    unfold exec
    simp only [execAdd, execSub, execMul, execMulh, execMulhu, execAnd, execOr, execXor, execAndn, execShl, execShr,
      execSra, execMin, execMax, execMinu, execMaxu, execSeq, execSne, execSlt, execSltu]
    exact keeps_scalarRR _ _ _ _
  case sel => exact keeps_execSel _ _ _
  case clz | popc | sext | zext | mov | addi | andi | ori | xori | shli | shri | srai | slti | sltiu =>
    unfold exec
    simp only [execClz, execPopc, execSext, execZext, execMov, execAddi, execAndi, execOri, execXori, execShli,
      execShri, execSrai, execSlti, execSltiu]
    exact keeps_scalarR _ _ _
  case div | divu | rem | remu =>
    unfold exec
    simp only [execDiv, execDivu, execRem, execRemu]
    exact keeps_scalarDiv _ _ _ _ _ _ _
  case addx | subx =>
    unfold exec
    simp only [execAddx, execSubx]
    exact keeps_pairRR _ _ _ _
  case shlix | shrix | addix =>
    unfold exec
    simp only [execShlix, execShrix, execAddix]
    exact keeps_pairR _ _ _
  case sltux => exact keeps_execSltux _ _ _
  case mand | mor | mxor | mandn =>
    unfold exec
    simp only [execMand, execMor, execMxor, execMandn]
    exact keeps_maskRR _ _ _ _
  case mnot | mmov =>
    unfold exec
    simp only [execMnot, execMmov]
    exact keeps_maskR _ _ _
  case mall | mclr =>
    unfold exec
    simp only [execMall, execMclr]
    exact keeps_maskSet _ _
  case mpopc | mffs | msumw =>
    unfold exec
    simp only [execMpopc, execMffs, execMsumw]
    exact keeps_maskToScalar _ _ _
  case msetw => exact keeps_execMsetw _ _ _
  case mgetw => exact keeps_execMgetw _ _ _
  case exmset => exact keeps_execExmset _
  case exmget => exact keeps_execExmget _
  case srd => exact keeps_execSrd _ _
  case stamp => exact keeps_execStamp _
  case trap => exact keeps_execTrap _
  case brk => exact keeps_execBrk _
  case regacq => exact keeps_execRegacq _
  case regacqNb => exact keeps_execRegacqNb _ _
  case regrel => exact keeps_execRegrel _
  case node => exact keeps_execNode _ _ _
  case lui => exact keeps_execLui _ _
  case addpc => exact keeps_execAddpc _ _
  case vli => exact keeps_execVli _ _
  case br => exact keeps_execBr _
  case bz | bnz =>
    unfold exec
    simp only [execBz, execBnz]
    exact keeps_branchScalar _ _ _
  case bany | ball | bnone =>
    unfold exec
    simp only [execBany, execBall, execBnone]
    exact keeps_branchMask _ _ _
  case callr | jmpr =>
    unfold exec
    simp only [execCallr, execJmpr]
    exact keeps_jumpPair _ _
  case ret => exact keeps_execRet
  case eret => exact keeps_execEret
  case entry => exact keeps_execEntry
  case exit => exact keeps_execExit
  case nop => exact keeps_execNop
  case yield => exact keeps_execYield
  case sif | sbrk | scont =>
    unfold exec
    simp only [execSif, execSbrk, execScont]
    exact keeps_nestWith _ _
  case selse | sendif | sloop =>
    unfold exec
    simp only [execSelse, execSendif, execSloop]
    exact keeps_nestAll _
  case sendlp => exact keeps_execSendlp _ _
  case vadd | vsub | vmul | vmulh | vmad | vmin | vmax | vshl | vshr | vsra | vabs | vneg | vaddi | vshli | vshri
      | vfadd | vfsub | vfmul | vfma | vfms | vfnma | vfmin | vfmax | vfminm | vfmaxm | vfabs | vfneg | vfsgn |
      vfclass =>
    unfold exec
    simp only [execVadd, execVsub, execVmul, execVmulh, execVmad, execVmin, execVmax, execVshl, execVshr, execVsra,
      execVabs, execVneg, execVaddi, execVshli, execVshri, execVfadd, execVfsub, execVfmul, execVfma, execVfms,
      execVfnma, execVfmin, execVfmax, execVfminm, execVfmaxm, execVfabs, execVfneg, execVfsgn, execVfclass]
    exact keeps_elementwise _ _ _ _ _ _
  case vand | vor | vxor | vandn | vmov =>
    unfold exec
    simp only [execVand, execVor, execVxor, execVandn, execVmov]
    exact keeps_wordwise _ _ _
  case vcmp => exact keeps_execVcmp _ _ _ _
  case vlane => exact keeps_execVlane _
  case vsel => exact keeps_execVsel _ _ _ _
  case vfsgnK => exact keeps_execVfsgnK _ _
  case vfcmp | vfcmpK =>
    unfold exec
    simp only [execVfcmp, execVfcmpK]
    exact keeps_compareFp _ _ _ _ _
  case vfdiv | vfsqrt | vfrsq | vfrcp | vfexp2 | vflog2 =>
    unfold exec
    simp only [execVfdiv, execVfsqrt, execVfrsq, execVfrcp, execVfexp2, execVflog2]
    exact keeps_iterative _ _ _ _
  case vcvt => exact keeps_execVcvt _ _ _ _
  case vqnt => exact keeps_execVqnt _ _ _ _
  case vpack => exact keeps_execVpack _ _ _
  case vunpk => exact keeps_execVunpk _ _ _
  case vdot2 | vdot4 | vdot8 =>
    unfold exec
    simp only [execVdot2, execVdot4, execVdot8]
    exact keeps_dotProduct _ _ _ _
  case vshfl => exact keeps_execVshfl _ _ _ _
  case vbcast => exact keeps_execVbcast _ _ _
  case vext => exact keeps_execVext _ _ _ _
  case vins => exact keeps_execVins _ _ _ _
  case vredadd | vredmax | vredmin =>
    unfold exec
    simp only [execVredadd, execVredmax, execVredmin]
    exact keeps_reduction _ _ _ _ _
  case vscan => exact keeps_execVscan _ _ _
  case ldU8 | ldS8 | ldU16 | ldS16 | ld | ldD =>
    unfold exec
    simp only [execLdU8, execLdS8, execLdU16, execLdS16, execLd, execLdD]
    exact keeps_scalarLoad _ _ _ _ _
  case stB | stH | st | stD =>
    unfold exec
    simp only [execStB, execStH, execSt, execStD]
    exact keeps_scalarStore _ _ _ _
  case pref => exact keeps_execPref _
  case cwb => exact keeps_execCwb _
  case cinv => exact keeps_execCinv _
  case discard => exact keeps_execDiscard _
  case vld | vst | vlds | vsts =>
    unfold exec
    simp only [execVld, execVst, execVlds, execVsts]
    exact keeps_vectorMem _ _ _ _ _ _
  case atom | cas | red | stStrong | ldStrong =>
    unfold exec
    simp only [execAtom, execCas, execRed, execStStrong, execLdStrong]
    exact keeps_strongScalar _ _ _ _ _ _ _ _
  case vatom | vcas | vred | vstStrong | vldStrong =>
    unfold exec
    simp only [execVatom, execVcas, execVred, execVstStrong, execVldStrong]
    exact keeps_strongVector _ _ _ _ _ _ _ _
  case fence => exact keeps_execFence _ _ _ _ _
  case fwait => exact keeps_execFwait _
  case await => exact keeps_execAwait _ _
  case bellclr => exact keeps_execBellclr _
  case bwait => exact keeps_execBwait _ _
  case arrive | arrivePub | arriveDrop | arriveDropPub =>
    unfold exec
    simp only [execArrive, execArrivePub, execArriveDrop, execArriveDropPub]
    exact keeps_arrive _ _ _ _
  case join => exact keeps_execJoin _ _
  case leave => exact keeps_execLeave _ _
  case clead => exact keeps_execClead _ _
  case bell => exact keeps_execBell _ _ _ _ _
  case cpy => exact keeps_execCpy _ _ _
  case cpyt => exact keeps_execCpyt _ _ _
  case gath | scat =>
    unfold exec
    simp only [execGath, execScat]
    exact keeps_listCopy _ _ _
  case cseal => exact keeps_execCseal _
  case cwany => exact keeps_execCwany _ _
  case cwall => exact keeps_execCwall _
  case cffr => exact keeps_execCffr _ _
  case ctclr => exact keeps_execCtclr _
  case coll => exact keeps_execColl _
  case mtile | mma =>
    unfold exec
    simp only [execMtile, execMma]
    exact keeps_matrixIssue _ _ _ _ _
  case mzero => exact keeps_execMzero _ _ _
  case maccrd => exact keeps_execMaccrd _ _ _
  case maccwr => exact keeps_execMaccwr _ _ _
  case maccld =>
    unfold exec execMaccld
    exact keeps_cellTransfer _ (fun _ _ _ t x h => within_loadCell h t x) _ _ _ _
  case maccst =>
    unfold exec execMaccst
    exact keeps_cellTransfer _ (fun _ _ _ t x h => within_storeCell h t x) _ _ _ _
  case acwin => exact keeps_execAcwin _ _ _ _
  case mplan => exact keeps_execMplan _ _ _ _
  case mchk => exact keeps_execMchk _ _ _
  all_goals exact absurd rfl hi

end Sys2Proof.Proofs
end

section
/-!
The obligation on the device-wide registers.
-/
namespace Sys2Proof.Proofs
open Sys2Proof.Machine Sys2Proof.Laws

/-- Settles O8: every instruction but SWR keeps the registers (`keeps_instruction`), and SWR of a context that is not
privileged raises PRIVILEGE before it reaches one (`within_swr`). -/
theorem unprivilegedKeepsDeviceRegisters : Obligations.UnprivilegedKeepsDeviceRegisters := by
  unfold Obligations.UnprivilegedKeepsDeviceRegisters
  intro i s s' t hi hc hp he
  have hw : Within s.dev.regs False s := ⟨rfl, fun _ _ => False.elim⟩
  by_cases hn : ∃ n r, i = .swr n r
  · obtain ⟨n, r, rfl⟩ := hn
    obtain ⟨g', hw', hg⟩ := within_swr hw he
    rw [hw'.1]
    exact hg t hc hp
  · push Not at hn
    exact (keeps_instruction hi hn hw he).1

end Sys2Proof.Proofs
end

section
/-!
SUPPORT. Placement, completion, preemption and the drum's rounds keep the device-wide registers and the reserved bits (19
R270 to R296).
-/
namespace Sys2Proof.Proofs
open Sys2Proof.Machine Sys2Proof.Laws

section Place
variable {g : Privileged} {P : Prop} {s s' : State} {t : Team}

/-- A fold of a step that keeps both, over a state with something beside it, keeps them. -/
theorem within_foldl_fst {α β : Type} {f : State × β → α → State × β} (hf : ∀ x a, Within g P x.1 → Within g P (f x a).1)
    {x : State × β} (h : Within g P x.1) (l : List α) : Within g P (l.foldl f x).1 := by
  induction l generalizing x with
  | nil => exact h
  | cons a l ih => exact ih (hf x a h)

/-- The teams become some of those that were, each at most changed in other registers. -/
theorem Within.of_subset (h : Within g P s) (hd : s'.dev.regs = s.dev.regs) (ht : ∀ u ∈ s'.teams, ∃ t ∈ s.teams, SameMode u t) :
    Within g P s' := by
  refine ⟨hd.trans h.1, fun u hu => ?_⟩
  obtain ⟨t, htm, hs⟩ := ht u hu
  exact (h.fine htm).of_same hs

theorem Within.filter_teams (h : Within g P s) {p : Team → Bool} (hd : s'.dev.regs = s.dev.regs) (ht : s'.teams = s.teams.filter p) :
    Within g P s' :=
  h.of_subset hd fun u hu => by
    rw [ht] at hu
    exact ⟨u, (List.mem_filter.mp hu).1, sameMode_refl u⟩

theorem within_fe (h : Within g P s) (fe : FrontEnd) : Within g P { s with fe := fe } := h

/-! ### Placement -/

theorem fresh_reservedClear (id : Nat) (n : Node) (core : Nat) : (Team.fresh id n core).reservedClear = true :=
  (reservedClear_iff _).mpr ⟨(by decide : (0x17#32).toNat < 2 ^ 13), (by decide : fld 5 3 (0x17#32).toNat ≤ 4),
    (by decide : (0#32).toNat < 2 ^ 24), (by decide : (0#32).toNat % 16 = 0)⟩

theorem within_addTeam (h : Within g P s) (ht : Fine P t) (hd : s'.dev.regs = s.dev.regs) (hts : s'.teams = s.teams ++ [t]) :
    Within g P s' := by
  refine ⟨hd.trans h.1, fun u hu => ?_⟩
  rw [hts] at hu
  rcases List.mem_append.mp hu with hu | hu
  · exact h.fine hu
  · rw [List.mem_singleton.mp hu]
    exact ht

theorem within_placeTeam (h : Within g P s) (n : Node) (core : Nat) : Within g P (s.placeTeam n core) := by
  have hf : Fine P (Team.fresh s.sched.nextName n core) := fun _ => fresh_reservedClear _ _ _
  unfold State.placeTeam
  dsimp only
  refine within_acquireAt (within_touchFe (within_modCtx ?_ _ _) _ _) _ _
  exact within_addTeam h hf rfl rfl

theorem within_leavePool (h : Within g P s) (id : Nat) : Within g P (s.leavePool id) := by
  unfold State.leavePool
  split
  · exact h
  · split
    · exact h
    · exact h

theorem within_yieldSlot (h : Within g P s) (ht : Fine P t) : Within g P (s.yieldSlot t) := by
  unfold State.yieldSlot
  refine within_modNode (within_putTeam h ?_) _ _
  exact ht.of_same ⟨rfl, rfl, rfl⟩

theorem keeps_execTeamPlacement : Keeps execTeamPlacement := fun g P s s' h e => by
  unfold execTeamPlacement at e
  split at e
  · cases e
  · split at e
    next t ht =>
      cases e
      exact within_putTeam h ((h.fine (List.mem_of_find?_eq_some ht)).of_same ⟨rfl, rfl, rfl⟩)
    · split at e
      · cases e
      · cases e
        exact within_leavePool (within_placeTeam h _ _) _

theorem within_returns (h : Within g P s) {u : Team} (hu : s.returnsFor t = some u) : Fine P u :=
  h.fine (List.mem_filter.mp (List.mem_of_find?_eq_some hu)).1

theorem keeps_execSlotYield (id : Nat) : Keeps (execSlotYield id) := fun g P s s' h e => by
  unfold execSlotYield at e
  split at e
  · cases e
  next t ht =>
    have hy := within_yieldSlot h (h.team? ht)
    split at e
    · cases e
    · split at e
      · cases e
      · dsimp only at e
        split at e
        · split at e
          next u hu =>
            cases e
            exact within_putTeam hy ((within_returns h hu).of_same ⟨rfl, rfl, rfl⟩)
          · cases e
            exact hy
        · split at e
          · cases e
          · split at e
            · cases e
            · cases e
              exact within_leavePool (within_placeTeam hy _ _) _

theorem within_freeSlot (h : Within g P s) (ctx core : Nat) : Within g P (s.freeSlot ctx core) := by
  unfold State.freeSlot
  split
  · exact h
  · exact h

/-! ### Receipts, signals and successors -/

theorem within_postVa (h : Within g P s) (ctx : Nat) (va : Addr) (bs : List Byte) : Within g P (s.postVa ctx va bs) := by
  have h1 := within_touchFe h ctx [va]
  unfold State.postVa
  split
  · exact h
  · dsimp only
    split
    · exact h1
    · split
      · exact within_writePlace h1 _ _
      · exact h1

theorem within_halfWay (h : Within g P s) (p : Place) : Within g P (s.halfWay p) := by
  unfold State.halfWay
  split
  · exact within_between h
  · exact h

theorem within_updateWord (h : Within g P s) (p : Place) (op : Nat) (v : BitVec 64) : Within g P (s.updateWord p op v) := by
  have h1 := within_settle h p.loc 8
  unfold State.updateWord
  dsimp only
  split
  · exact h1
  · exact within_writePlace (within_halfWay h1 _) _ _

theorem within_signalUpdate (h : Within g P s) (ctx : Nat) (d : Desc) : Within g P (s.signalUpdate ctx d) := by
  have h1 := within_touchFe h ctx [d.signal]
  unfold State.signalUpdate
  split
  · exact h
  · split
    · exact h1
    · exact within_updateWord h1 _ _ _

theorem within_rejectSuccessor (h : Within g P s) (ctx : Nat) (a : Addr) : Within g P (s.rejectSuccessor ctx a) := by
  unfold State.rejectSuccessor
  split
  · exact h
  · split
    · split
      · exact h
      · exact within_postVa (within_touchFe h _ _) _ _ _
    · exact h

theorem within_countFor (h : Within g P s) (q : Option Nat) (id : Nat) : Within g P (s.countFor q id) := by
  unfold State.countFor
  split
  · exact h
  · exact within_putQueue h _ _

theorem within_enterSuccessor (h : Within g P s) (ctx : Nat) (a : Addr) : Within g P (s.enterSuccessor ctx a) := by
  unfold State.enterSuccessor
  split
  · exact h
  · split
    · exact within_rejectSuccessor (within_touchDesc h _ _) _ _
    · split
      · exact h
      · exact within_enter h _ _ _ _ _

theorem within_decrementPred (h : Within g P s) (ctx : Nat) (a : Addr) : Within g P (s.decrementPred ctx a) := by
  have h1 := within_touchFe h ctx [a + 40#64]
  unfold State.decrementPred
  dsimp only
  split
  · exact within_rejectSuccessor h1 _ _
  next p _ =>
    have h2 := within_settle h1 p.loc 4
    have h3 := within_writePlace (within_halfWay h2 p) p
    split
    · exact h2
    · split
      · exact within_enterSuccessor (h3 _) _ _
      · exact h3 _

theorem within_decrementSuccessors (h : Within g P s) (ctx : Nat) (d : Desc) : Within g P (s.decrementSuccessors ctx d) :=
  within_foldl (fun s i hs => by
    dsimp only
    split
    · exact hs
    · exact within_decrementPred (within_touchFe hs _ _) _ _) h _

theorem within_forgetNode (h : Within g P s) (id : Nat) : Within g P (s.forgetNode id) := h

theorem within_completeNode (h : Within g P s) (n : Node) : Within g P (s.completeNode n) := by
  unfold State.completeNode
  dsimp only
  have h1 : Within g P (if n.desc.receipt = 0 then s
      else s.postVa n.ctx n.desc.receipt
        (receiptBytes { n with finish := s.dev.time } n.status (s.signalValue n.ctx n.desc))) := by
    split
    · exact h
    · exact within_postVa h _ _ _
  refine within_forgetNode ?_ _
  split
  · exact within_decrementSuccessors (within_signalUpdate h1 _ _) _ _
  · exact within_signalUpdate h1 _ _

/-! ### Preemption -/

theorem stopTeam_sameMode (s : State) (n : Nat) (t : Team) : SameMode (s.stopTeam n t) t := ⟨rfl, rfl, rfl⟩

theorem within_gate (h : Within g P s) : Within g P s.gate := by
  unfold State.gate
  split
  · exact h
  · refine h.of_subset rfl fun u hu => ?_
    obtain ⟨i, hi, rfl⟩ := List.mem_mapIdx.mp hu
    refine ⟨s.teams[i], List.getElem_mem hi, ?_⟩
    split
    · exact stopTeam_sameMode _ _ _
    · exact sameMode_refl _

theorem within_idlePreempt (h : Within g P s) : Within g P s.idlePreempt := by
  unfold State.idlePreempt
  split
  · exact within_gate h
  · exact h

/-! ### Exit and completion -/

theorem keeps_execTeamExitComplete (id : Nat) : Keeps (execTeamExitComplete id) := fun g P s s' h e => by
  unfold execTeamExitComplete at e
  split at e
  · cases e
  next t _ =>
    split at e
    · cases e
    · have h1 : Within g P { s with teams := s.teams.filter fun u => u.id != id } := h.filter_teams rfl rfl
      have h2 := within_modNode (within_freeSlot h1 t.ctx t.core) t.node fun n => { n with exited := n.exited + 1 }
      dsimp only at e
      split at e
      · cases e
        exact within_idlePreempt h2
      · cases e
        refine within_idlePreempt ?_
        split
        · exact within_completeNode h2 _
        · exact h2

theorem keeps_execHeldSuccessorEntry : Keeps execHeldSuccessorEntry := fun g P s s' h e => by
  unfold execHeldSuccessorEntry at e
  split at e
  · cases e
  · split at e
    · cases e
    · cases e
      exact within_enter (within_fe h _) _ _ _ _ _

/-! ### Queues and their packets -/

theorem keeps_execDoorbell (q : Nat) (p : Word) : Keeps (execDoorbell q p) := fun g P s s' h e => by
  unfold execDoorbell at e
  split at e
  · cases e
  · cases e
    exact within_ringDoorbell h _ _

theorem within_touchSlots (h : Within g P s) (q : Nat) (cs : List Word) : Within g P (s.touchSlots q cs) := by
  unfold State.touchSlots
  split
  · exact h
  · split
    · exact h
    · exact within_touchFe h _ _

theorem keeps_execPacketPrefetch (q n : Nat) : Keeps (execPacketPrefetch q n) := fun g P s s' h e => by
  unfold execPacketPrefetch at e
  dsimp only at e
  split at e
  · cases e
  · split at e
    · cases e
    · cases e
      exact within_putQueue (within_touchSlots h _ _) _ _

theorem within_head (h : Within g P s) (q : Nat) : Within g P (s.head q).1 := by
  have ht := within_touchSlots h q [(s.queue q).consumed]
  unfold State.head
  dsimp only
  split
  · exact h
  · split
    · exact h
    · split
      · exact within_putQueue ht _ _
      · exact within_putQueue ht _ _

theorem within_unmapQueue (h : Within g P s) (q : Nat) : Within g P (s.unmapQueue q) := within_putQueue (within_dropHead h q) _ _

theorem within_packetLeft (h : Within g P s) (q : Nat) : Within g P (s.packetLeft q) := by
  unfold State.packetLeft
  split
  · exact within_unmapQueue h q
  · exact h

theorem within_consume (h : Within g P s) (q : Nat) : Within g P (s.consume q) :=
  within_packetLeft (within_updateQueue h _ _) _

theorem within_writeResult (h : Within g P s) (ctx : Nat) (va : Addr) (code : Nat) : Within g P (s.writeResult ctx va code) := by
  unfold State.writeResult
  split
  · exact h
  · exact within_postVa h _ _ _

theorem within_refuseOp (h : Within g P s) (q p : Nat) : Within g P (s.refuseOp q p) := by
  unfold State.refuseOp
  split
  · exact h
  · split
    · exact within_haltQueue h _ _
    · exact within_consume (within_writeResult h _ _ _) _

theorem within_refuseOps (k : Nat) (h : Within g P s) : Within g P (State.refuseOps k s) := by
  induction k generalizing s with
  | zero => exact h
  | succ k ih =>
    unfold State.refuseOps
    split
    · exact h
    · split
      · exact h
      · split
        · exact ih (within_idlePreempt (within_refuseOp (within_fe h _) _ _))
        · exact h

/-! ### How a packet ends -/

/-- The state in which a packet's processing ends keeps both. -/
def EndsWithin (g : Privileged) (P : Prop) : PacketEnd → Prop
  | .done s => Within g P s
  | .stays s => Within g P s
  | .halts _ s => Within g P s

theorem within_ended {x : PacketEnd} (h : EndsWithin g P x) (q : Nat) : Within g P (x.ended q) := by
  cases x with
  | done s => exact within_consume h q
  | stays s => exact within_packetLeft h q
  | halts err s => exact within_packetLeft (within_haltQueue h q err) q

theorem within_close {x : PacketEnd} (h : EndsWithin g P x) (q : Nat) : Within g P (x.close q) :=
  within_refuseOps 32 (within_idlePreempt (within_ended h q))

theorem keeps_packetEvent {q type : Nat} {f : State → Nat → PacketEnd}
    (hf : ∀ g P s p, Within g P s → EndsWithin g P (f s p)) : Keeps (packetEvent q type f) := fun g P s s' h e => by
  unfold packetEvent at e
  split at e
  · split at e
    · cases e
      exact within_close (hf g P _ _ (within_fe h _)) q
    · cases e
  · cases e

/-- A packet of a queue whose context is in the run list. -/
theorem endsWithin_forQueue {q : Nat} {f : Context → PacketEnd} (h : Within g P s) (hf : ∀ c, EndsWithin g P (f c)) :
    EndsWithin g P (forQueue q s f) := by
  unfold forQueue
  split
  · exact h
  · exact hf _

theorem keeps_queueEvent {q type : Nat} {f : State → Nat → Context → PacketEnd}
    (hf : ∀ g P s p c, Within g P s → EndsWithin g P (f s p c)) :
    Keeps (packetEvent q type fun s p => forQueue q s (f s p)) :=
  keeps_packetEvent fun g P s p h => endsWithin_forQueue h fun c => hf g P s p c h

/-! ### A round -/

theorem within_settleWait (h : Within g P s) (q : Nat) : Within g P (s.settleWait q) := by
  unfold State.settleWait
  dsimp only
  split
  · exact within_consume h q
  · split
    · split
      · exact within_haltQueue h _ _
      · split
        · exact within_consume h q
        · exact h
    · exact h
  all_goals exact h

theorem within_packetToProcess (h : Within g P s) (q : Nat) : Within g P (s.packetToProcess q).1 := by
  have h1 := within_settleWait h q
  have h2 := within_head h1 q
  unfold State.packetToProcess
  dsimp only
  split
  · exact h1
  · split
    · exact h2
    · split
      · exact h2
      · exact h2

theorem within_takeLane (h : Within g P s) (lane : Fin 32) : Within g P (s.takeLane lane).1 := by
  unfold State.takeLane
  dsimp only
  refine within_foldl_fst (x := (s, none)) (fun x j hx => ?_) h _
  have h1 := within_packetToProcess hx (lane.val + 32 * (s.fe.rotation[lane] + j).toNat)
  split
  · exact hx
  · split
    · exact h1
    · exact h1

theorem within_classify (h : Within g P s) (q p : Nat) : Within g P (s.classify q p).1 := by
  unfold State.classify
  split
  · exact h
  · dsimp only
    split
    · exact within_haltQueue h _ _
    · exact h

theorem keeps_execDrumRound : Keeps execDrumRound := fun g P s s' h e => by
  unfold execDrumRound at e
  split at e
  · cases e
  · obtain rfl := Host.Outcome.next.inj e
    refine within_refuseOps 32 (within_fe (within_foldl_fst (x := (s, [])) (fun x lane hx => ?_) h _) _)
    have h1 := within_takeLane hx lane
    dsimp only
    split
    · exact h1
    · exact within_classify h1 _ _

end Place
end Sys2Proof.Proofs
end

section
/-!
SUPPORT. Packets, the run list, switches and the firmware's hand-over keep the device-wide registers and the reserved bits (19
R273 to R297).
-/
namespace Sys2Proof.Proofs
open Sys2Proof.Machine Sys2Proof.Laws

section Packets
variable {g : Privileged} {P : Prop} {s s' : State} {t : Team}

/-! ### NODE, GRAPH and GANG -/

theorem within_enterFrom (h : Within g P s) (c : Context) (q : Nat) (a : Addr) (d : Desc) (prio : Nat) :
    Within g P (s.enterFrom c q a d prio) :=
  within_countFor (within_enter h _ _ _ _ _) _ _

theorem keeps_execNodePacket (q : Nat) : Keeps (execNodePacket q) := keeps_queueEvent fun g P s p c h => by
  have hv := within_touchDesc h c.ctxid (packetAddr 8 p)
  dsimp only
  split
  · exact hv
  · split
    · exact hv
    · split
      · exact hv
      · exact within_enterFrom hv _ _ _ _ _

theorem within_graphAt (h : Within g P s) (q p i : Nat) : Within g P (s.graphAt q p i) := within_putQueue h _ _

theorem endsWithin_graphFrom (c : Context) (q p : Nat) (region : Addr) (k i : Nat) (h : Within g P s) :
    EndsWithin g P (State.graphFrom c q p region k i s) := by
  induction k generalizing i s with
  | zero => exact h
  | succ k ih =>
    have hv := within_touchDesc h c.ctxid (region + .ofNat 64 (128 * i))
    have hg := within_graphAt hv q p i
    unfold State.graphFrom
    dsimp only
    split
    · exact hg
    · split
      · exact ih _ hv
      · split
        · exact hg
        · split
          · exact hg
          · exact ih _ (within_enterFrom hv _ _ _ _ _)

theorem keeps_execGraph (q : Nat) : Keeps (execGraph q) := keeps_queueEvent fun _ _ _ _ _ h => endsWithin_graphFrom _ _ _ _ _ _ h

theorem within_placeAll {q id pairs : Nat} (k : Nat) (h : Within g P s) (e : State.placeAll q id pairs k s = some s') :
    Within g P s' := by
  induction k generalizing s with
  | zero =>
    cases e
    exact h
  | succ k ih =>
    unfold State.placeAll at e
    split at e
    · cases e
    · split at e
      · cases e
      · exact ih (within_placeTeam h _ _) e

theorem within_placeParts {q : Nat} (ps : List (Node × Nat)) (h : Within g P s) (e : State.placeParts q ps s = some s') :
    Within g P s' := by
  induction ps generalizing s with
  | nil =>
    cases e
    exact h
  | cons x ps ih =>
    unfold State.placeParts at e
    split at e
    · cases e
    next hp => exact ih (within_placeAll _ h hp) e

theorem endsWithin_tryGang (h : Within g P s) (q p : Nat) (c : Context) : EndsWithin g P (s.tryGang q p c) := by
  have hw := within_putQueue h q { s.queue q with wait := .gang }
  unfold State.tryGang
  dsimp only
  split
  · exact hw
  · split
    · exact hw
    next hp => exact within_fe (within_foldl (fun _ n hs => within_countFor hs _ _) (within_placeParts _ h hp) _) _

theorem keeps_execGang (q : Nat) : Keeps (execGang q) := keeps_queueEvent fun g P s p c h => by
  have hv : Within g P ((gangParts p).foldl (fun s a => s.touchDesc c.ctxid a.1) s) :=
    within_foldl (fun _ a hs => within_touchDesc hs _ _) h _
  dsimp only
  split
  · exact hv
  next ds _ =>
    refine endsWithin_tryGang (within_foldl (fun s d hs => ?_) hv ds) q p c
    exact hs

theorem endsWithin_gangAgain (h : Within g P s) {q : Nat} {x : PacketEnd} (e : s.gangAgain q = some x) : EndsWithin g P x := by
  unfold State.gangAgain at e
  split at e
  · cases e
    exact endsWithin_forQueue h fun c => endsWithin_tryGang h _ _ c
  · cases e

theorem keeps_execGangReserveRetry (q : Nat) : Keeps (execGangReserveRetry q) := fun g P s s' h e => by
  unfold execGangReserveRetry at e
  split at e
  next hx =>
    cases e
    exact within_close (endsWithin_gangAgain h hx) q
  · cases e

theorem within_retryGangs (h : Within g P s) (ctx : Nat) : Within g P (s.retryGangs ctx) :=
  within_foldl (fun s q hs => by
    cases hx : s.gangAgain q with
    | none => exact hs
    | some x => exact within_ended (endsWithin_gangAgain hs hx) q) h _

/-! ### SIGNAL, WAIT_SIGNAL and MARKER -/

theorem keeps_execSignal (q : Nat) : Keeps (execSignal q) := keeps_queueEvent fun g P s p c h => by
  have hv := within_touchFe h c.ctxid [packetAddr 8 p]
  dsimp only
  split
  · exact hv
  · exact within_updateWord hv _ _ _

theorem keeps_execWaitSignal (q : Nat) : Keeps (execWaitSignal q) := keeps_queueEvent fun g P s p c h => by
  have hv := within_touchFe h c.ctxid [packetAddr 8 p]
  dsimp only
  split
  · exact hv
  · split
    · exact hv
    · split
      · exact hv
      · split
        · exact within_putQueue hv _ _
        · split
          · exact hv
          · exact within_putQueue (within_listBell hv _ _ _) _ _

theorem keeps_execMarker (q : Nat) : Keeps (execMarker q) := keeps_queueEvent fun g P s p c h => by
  have hv := within_touchFe h c.ctxid [packetAddr 8 p]
  dsimp only
  split
  · exact hv
  · split
    · exact hv
    · exact within_writePlace (within_writePlace hv _ _) _ _

/-! ### RANGE_COMMIT -/

theorem within_performAll (h : Within g P s) (p : Nat → Bool) : Within g P (s.performAll p) :=
  within_foldl (fun _ a hs => within_endAccess (within_performWhole hs _ a) _) h _

theorem within_commit (h : Within g P s) (c : Context) (rs : List (Nat × Range)) : Within g P (s.commit c rs) := by
  have h1 := within_performAll h (s.inCtx c.ctxid)
  unfold State.commit
  refine within_retryContext (within_modCtx ?_ _ _) _
  exact h1

theorem keeps_execRangeCommit (q : Nat) : Keeps (execRangeCommit q) := keeps_queueEvent fun g P s p c h => by
  have hv := within_touchFe h c.ctxid (packetAddr 8 p :: imageAddrs (packetAddr 8 p) (packetBytes 16 8 p))
  dsimp only
  split
  · exact hv
  · split
    · split
      · exact hv
      · exact within_commit hv _ _
    · exact hv

/-! ### CONTEXT_CTL -/

theorem within_touchControl (h : Within g P s) (c : Context) (p : Nat) : Within g P (s.touchControl c p) :=
  within_foldl (fun _ _ hs => within_touchFe hs _ _) h _

theorem keeps_controlEvent {q op : Nat} {f : State → Context → Nat → Nat → Except Nat State}
    (hf : ∀ g P s c p n s', Within g P s → f s c p n = .ok s' → Within g P s') : Keeps (controlEvent q op f) :=
  fun g P s s' h e => by
    unfold controlEvent at e
    split at e
    · cases e
    · split at e
      · cases e
      · refine keeps_queueEvent (fun g P s p c h => ?_) h e
        have hv := within_touchControl h c p
        dsimp only
        split
        · exact hv
        · split
          · exact within_writeResult hv _ _ _
          next hr => exact within_writeResult (hf _ _ _ _ _ _ _ hv hr) _ _ _

theorem keeps_execCreate (q : Nat) : Keeps (execCreate q) := keeps_controlEvent fun g P s c p n s' h e => by
  dsimp only at e
  split at e
  · cases e
  · split at e
    · cases e
    · split at e
      · cases e
      · cases e
        exact h

theorem keeps_execUpdate (q : Nat) : Keeps (execUpdate q) := keeps_controlEvent fun g P s c p n s' h e => by
  split at e
  · cases e
  · split at e
    · cases e
    · split at e
      · cases e
      · cases e
        exact h

theorem within_checkOverrun (h : Within g P s) (q : Nat) : Within g P (s.checkOverrun q) := by
  unfold State.checkOverrun
  split
  · exact h
  · split
    · exact within_haltQueue h _ _
    · exact h

theorem within_mapQueue (h : Within g P s) (q : Nat) (m : QueueMap) : Within g P (s.mapQueue q m) := within_updateQueue h _ _

theorem keeps_execMapq (q : Nat) : Keeps (execMapq q) := keeps_controlEvent fun g P s c p n s' h e => by
  dsimp only at e
  split at e
  · cases e
  · split at e
    · cases e
    · split at e
      · cases e
      · split at e
        · cases e
        · cases e
          exact within_mapQueue h _ _

theorem keeps_execUnmapq (q : Nat) : Keeps (execUnmapq q) := keeps_controlEvent fun g P s c p n s' h e => by
  split at e
  · cases e
  · split at e
    · cases e
      exact within_putQueue h _ _
    · cases e
      exact within_unmapQueue h _

theorem keeps_execResumeq (q : Nat) : Keeps (execResumeq q) := keeps_controlEvent fun g P s c p n s' h e => by
  dsimp only at e
  split at e
  · cases e
  · split at e
    · cases e
      exact h
    · cases e
      exact within_checkOverrun (within_updateQueue h _ _) _

theorem keeps_execPreempt (q : Nat) : Keeps (execPreempt q) := keeps_controlEvent fun g P s c p n s' h e => by
  dsimp only at e
  split at e
  · cases e
  · cases e
    exact within_fe (within_gate h) _

/-! ### DESTROY -/

theorem within_breakColl (h : Within g P s) (p : CollPart) : Within g P (s.breakColl p) := h

theorem within_drainContext (h : Within g P s) (ctx : Nat) : Within g P (s.drainContext ctx) :=
  within_foldl (fun _ c hs => by
    refine within_endCopy ?_ _
    split
    · exact within_breakColl hs _
    · exact within_performCopy hs _ _) (within_performAll h _) _

theorem within_destroyReceipts (h : Within g P s) (ctx : Nat) : Within g P (s.destroyReceipts ctx) := by
  unfold State.destroyReceipts
  refine within_foldl (fun s x hs => ?_) (within_foldl (fun s n hs => ?_) h _) _
  · split
    · exact hs
    · exact within_postVa hs _ _ _
  · split
    · exact hs
    · exact within_postVa hs _ _ _

theorem within_removeContext (h : Within g P s) (ctx : Nat) : Within g P (s.removeContext ctx) := by
  unfold State.removeContext
  dsimp only
  generalize hu : List.foldl _ s (List.range 128) = u
  refine Within.filter_teams (s := u) ?_ rfl rfl
  rw [← hu]
  refine within_foldl (fun s q hs => ?_) h _
  split
  · exact hs
  · split
    · exact within_unmapQueue hs q
    · exact hs

theorem keeps_execDestroy (q : Nat) : Keeps (execDestroy q) := fun g P s s' h e => by
  unfold execDestroy at e
  split at e
  · cases e
  · split at e
    · cases e
    · refine keeps_queueEvent (fun g P s p c h => ?_) h e
      have hv := within_touchControl h c p
      dsimp only
      split
      · exact hv
      · split
        · exact within_writeResult hv _ _ _
        · split
          · exact within_writeResult hv _ _ _
          · exact within_removeContext (within_consume
              (within_writeResult (within_destroyReceipts (within_drainContext hv _) _) _ _ _) _) _

/-! ### Slices and switches -/

theorem keeps_execSliceEnd : Keeps execSliceEnd := fun g P s s' h e => by
  unfold execSliceEnd at e
  split at e
  · cases e
  · split at e
    · cases e
    · cases e
      split
      · exact within_gate (within_fe (within_fe h _) _)
      · exact h

theorem keeps_execPreemptionRequest : Keeps execPreemptionRequest := fun g P s s' h e => by
  unfold execPreemptionRequest at e
  split at e
  · cases e
  · cases e
    exact within_gate h

theorem within_writeTouched (h : Within g P s) (ctx : Nat) : Within g P (s.writeTouched ctx) := by
  unfold State.writeTouched
  split
  · exact h
  · exact within_writeLoc h _ _

theorem within_switchTo (h : Within g P s) (ctx : Nat) : Within g P (s.switchTo ctx) := by
  have h1 : Within g P (if s.fe.running = ctx then s else s.writeTouched s.fe.running) := by
    split
    · exact h
    · exact within_writeTouched h _
  unfold State.switchTo
  exact within_idlePreempt (within_retryGangs (within_retryContext (within_fe (within_modCtx (within_fe h1 _) _ _) _) _) _)

theorem keeps_execContextSwitchIn : Keeps execContextSwitchIn := fun g P s s' h e => by
  unfold execContextSwitchIn at e
  split at e
  · cases e
  · split at e
    · cases e
    · split at e
      · cases e
      · cases e
        exact within_switchTo h _

theorem keeps_execShadowPreload : Keeps execShadowPreload := fun g P s s' h e => by
  unfold execShadowPreload at e
  split at e
  · cases e
  · split at e
    · cases e
    · cases e
      exact h

theorem within_spillTo (h : Within g P s) (ctx : Nat) : Within g P (s.spillTo ctx) := by
  unfold State.spillTo
  split
  · exact h
  · exact within_foldl (fun _ _ hs => within_writeLoc hs _ _) h _

theorem keeps_execStateSpill : Keeps execStateSpill := fun g P s s' h e => by
  unfold execStateSpill at e
  split at e
  · cases e
  · cases e
    exact within_fe (within_spillTo h _) _

/-! ### Firmware hand-over -/

theorem keeps_execFwHandover (q : Nat) : Keeps (execFwHandover q) := keeps_queueEvent fun g P s p c h => by
  have hv := within_touchFe h c.ctxid (packetAddr 24 p :: imagePages (packetAddr 8 p) (packetBytes 16 4 p))
  dsimp only
  split
  · exact hv
  · split
    · exact hv
    · split
      · exact within_postVa hv _ _ _
      · split
        · exact within_postVa hv _ _ _
        · exact within_fe hv _

theorem keeps_execFwHandoverSwitch : Keeps execFwHandoverSwitch := fun g P s s' h e => by
  unfold execFwHandoverSwitch at e
  split at e
  · split at e
    · cases e
    · cases e
      refine within_fe (within_consume ?_ _) _
      dsimp only
      split
      · exact within_fe h _
      · exact within_postVa (within_fe h _) _ _ _
  · cases e

end Packets
end Sys2Proof.Proofs
end

section
/-!
SUPPORT. What is in flight and the matrix array keep the device-wide registers and the reserved bits (13 R194 to R216; 17 R260;
21 R318).
-/
namespace Sys2Proof.Proofs
open Sys2Proof.Machine Sys2Proof.Laws

section Perform
variable {g : Privileged} {P : Prop} {s s' : State} {t : Team}

/-! ### Accesses, fences and AWAIT -/

theorem within_owes (h : Within g P s) (a : Access) (k : Option AccessKind) : Within g P (s.owes a k) := by
  unfold State.owes
  split
  · exact h
  · exact within_replied h a _

theorem keeps_performEvent (id : Nat) (keep : Bool) (kind : AccessKind → Bool) : Keeps (performEvent id keep kind) :=
  fun g P s s' h e => by
    unfold performEvent at e
    split at e
    · cases e
    · split at e
      · cases e
      · cases e
        exact within_owes (within_performAccess h _ _ _) _ _

theorem within_fenceDone (h : Within g P s) (t : Team) (k : FenceKind) (c : Scope) : Within g P (s.fenceDone t k c) :=
  within_acquireAt h _ _

theorem keeps_execFenceComplete (id : Nat) (ticket : Word) : Keeps (execFenceComplete id ticket) := fun g P s s' h e => by
  unfold execFenceComplete at e
  split at e
  · cases e
  next t ht =>
    split at e
    · cases e
    · split at e
      · cases e
      · cases e
        refine within_fenceDone (within_putTeam h ?_) _ _ _
        exact (h.team? ht).of_same ⟨rfl, rfl, rfl⟩

theorem keeps_execAwaitTimeout (id : Nat) : Keeps (execAwaitTimeout id) := fun g P s s' h e => by
  unfold execAwaitTimeout at e
  split at e
  · cases e
  next t ht =>
    split at e
    · split at e
      · cases e
      · cases e
        exact within_putTeam h ((h.team? ht).of_same (by simp))
    all_goals cases e

/-! ### Copies -/

theorem within_putCopy (h : Within g P s) (c : Copy) : Within g P (s.putCopy c) := h

theorem within_performBytes {tower : Nat} {c : Copy} (is : List Nat) (h : Within g P s) {ms : List Move} {r : State × List Move}
    (e : State.performBytes tower c is s ms = some r) : Within g P r.1 := by
  induction is generalizing s ms with
  | nil =>
    cases e
    exact h
  | cons i is ih =>
    unfold State.performBytes at e
    split at e
    · cases e
    · exact ih (within_performMove h _ _ _ _) e

theorem keeps_execCopyPerform (id : Nat) (bytes : List Nat) : Keeps (execCopyPerform id bytes) := fun g P s s' h e => by
  unfold execCopyPerform at e
  split at e
  · cases e
  · split at e
    · cases e
    · dsimp only at e
      split at e
      · cases e
      next hb =>
        have h1 := within_putCopy (within_performBytes _ (within_beginCopy h _ _ _) hb)
        cases e
        split
        · exact within_copyMoved (h1 _) _
        · exact h1 _

theorem keeps_execFollowOnIssue (id : Nat) : Keeps (execFollowOnIssue id) := fun g P s s' h e => by
  unfold execFollowOnIssue at e
  split at e
  · cases e
  · split at e
    · cases e
      exact within_modTeam (within_putCopy h _) _ fun u => sameMode_refl u
    · cases e

/-! ### Collectives -/

theorem within_finishColl (h : Within g P s) (c : Copy) (p : CollPart) (es : List (Nat × Bool)) (status flags : Nat) :
    Within g P (s.finishColl c p es status flags) :=
  within_endCopy (within_performMoves _ _ _ h _) _

theorem within_collPoison (h : Within g P s) (c : Copy) (p : CollPart) : Within g P (s.collPoison c p) := by
  unfold State.collPoison
  dsimp only
  have h1 : Within g P (match p.send.find? fun x => !s.reachable x.place with
      | none => s
      | some x => s.copyFailed c.team c.pc x.va) := by
    split
    · exact h
    · exact within_copyFailed h _ _ _
  split
  · exact h1
  · exact within_modTeam h1 _ fun u => pend_sameMode u _

/-- The ranks of this device end one after the other. -/
theorem within_collEnds {f : RankData → List (Nat × Bool) × Nat} {status : Nat} (h : Within g P s)
    (l : List ((Copy × CollPart) × RankData))
    (e : Host.Outcome.next (l.foldl (fun s x =>
      let r := f x.2
      let s1 := s.servedAtHome x.1.2.tower (placesIn x.1.2.send)
      (s1.collPoison x.1.1 x.1.2).finishColl x.1.1 x.1.2 r.1 status r.2) s) = (.next s' : Result)) : Within g P s' := by
  obtain rfl := Host.Outcome.next.inj e
  exact within_foldl (fun _ _ hs => within_finishColl (within_collPoison (within_servedAtHome hs _ _) _ _) _ _ _ _ _) h l

theorem keeps_execCollComplete (id : Nat) (remote : List RankPart) : Keeps (execCollComplete id remote) := fun g P s s' h e => by
  unfold execCollComplete at e
  split at e
  · cases e
  · extract_lets grp locals ds once missing lost close at e
    have hclose (f : RankData → List (Nat × Bool) × Nat) (status : Nat) (e : close f status = .next s') : Within g P s' :=
      within_collEnds h (locals.zip ds) e
    clear_value close
    split at e
    · cases e
    · split at e
      · exact hclose _ _ e
      · split at e
        · cases e
        · split at e
          · exact hclose _ _ e
          · split at e
            · exact hclose _ _ e
            · exact hclose _ _ e

/-! ### The matrix array -/

theorem within_mem (h : Within g P s) (m : Memory) : Within g P { s with mem := m } := h

theorem within_cores (h : Within g P s) (c : Cores) : Within g P { s with cores := c } := h

theorem within_dropMatrix (h : Within g P s) (team : Nat) (o : MatrixOp) : Within g P (s.dropMatrix team o) := by
  have h1 := within_modTeam h team (f := fun t => { t with matrix := t.matrix.tail }) fun u => sameMode_refl u
  unfold State.dropMatrix
  dsimp only
  split
  · exact h1
  · exact within_endCopy h1 _

theorem within_arrayFault (h : Within g P s) (t : Team) (o : MatrixOp) (cause : Nat) : Within g P (s.arrayFault t o cause) := by
  unfold State.arrayFault
  refine within_modTeam h _ fun u => ?_
  split
  · exact sameMode_refl u
  · exact sameMode_refl u

theorem within_stepPasses (h : Within g P s) (t : Team) (o : MatrixOp) : Within g P (s.stepPasses t o) := by
  unfold State.stepPasses
  dsimp only
  split
  · exact within_modTeam (within_mem h _) _ fun u => sameMode_refl u
  · exact within_modTeam (within_dropMatrix (within_mem h _) _ _) _ fun u => raiseLate_sameMode u _

theorem within_countRerun (h : Within g P s) (t : Team) : Within g P (s.countRerun t) := by
  unfold State.countRerun
  refine within_modNode (within_modTeam h _ fun u => ?_) _ _
  exact sameMode_refl u

theorem within_narrow (h : Within g P s) (core : Nat) (onB : Bool) : Within g P (s.narrow core onB) := h

theorem within_lastingFault (h : Within g P s) (t : Team) (o : MatrixOp) (halfB : Bool) :
    Within g P (s.lastingFault t o halfB) := by
  unfold State.lastingFault
  dsimp only
  split
  · exact within_arrayFault (within_dropMatrix (within_cores h _) _ _) _ _ _
  · refine within_arrayFault (within_modTeam (within_cores (within_narrow h _ _) _) _ fun u => ?_) _ _ _
    exact sameMode_refl u

theorem within_matrixStep (h : Within g P s) (t : Team) (o : MatrixOp) (check : StepCheck) :
    Within g P (s.matrixStep t o check) := by
  have h1 := within_mem h (o.clear t.ctx t.core s.mem)
  unfold State.matrixStep
  split
  · exact within_arrayFault (within_dropMatrix h _ _) _ _ _
  · dsimp only
    split
    · exact within_stepPasses h1 _ _
    · exact within_stepPasses (within_countRerun h1 _) _ _
    · exact within_lastingFault (within_countRerun h1 _) _ _ _

theorem keeps_execKGroupStep (id : Nat) (check : StepCheck) : Keeps (execKGroupStep id check) := fun g P s s' h e => by
  unfold execKGroupStep at e
  split at e
  · cases e
  · split at e
    · cases e
    · split at e
      · cases e
      · cases e
        exact within_matrixStep h _ _ _

theorem matrixReset_sameMode (core : Nat) (held : Bool) (copies : List Nat) (t : Team) : SameMode (t.matrixReset core held copies) t := by
  unfold Team.matrixReset
  dsimp only
  have h1 : SameMode (if held then { t with matrix := [] } else t) t := ite_sameMode (sameMode_refl t) (sameMode_refl t)
  split
  · exact (pend_sameMode _ _).trans h1
  · split
    · exact h1
    · exact h1

theorem within_dropFollowOn (h : Within g P s) (id : Nat) : Within g P (s.dropFollowOn id) := h

theorem keeps_execMatrixReset (core : Nat) : Keeps (execMatrixReset core) := fun g P s s' h e => by
  unfold execMatrixReset at e
  dsimp only at e
  split at e
  · cases e
  · cases e
    refine within_foldl (fun _ _ hs => within_dropFollowOn hs _) (within_foldl (fun _ _ hs => within_endCopy hs _) ?_ _) _
    exact h.map_teams (fun t ht => ht.of_same (ite_sameMode (matrixReset_sameMode _ _ _ t) (sameMode_refl t))) rfl rfl

end Perform
end Sys2Proof.Proofs
end

section
/-!
SUPPORT. Traps at boundaries, upsets, lasting faults, lost dies and failing links keep the device-wide registers and the reserved
bits (21 R302 to R320; 25 R347).
-/
namespace Sys2Proof.Proofs
open Sys2Proof.Machine Sys2Proof.Laws

section Faults
variable {g : Privileged} {P : Prop} {s s' : State} {t : Team}

/-! ### Traps at a boundary -/

theorem keeps_execAsyncTrapDelivery (id : Nat) : Keeps (execAsyncTrapDelivery id) := fun g P s s' h e => by
  unfold execAsyncTrapDelivery at e
  split at e
  · cases e
  next t ht =>
    split at e
    · cases e
    next x rest _ =>
      split at e
      · cases e
      · have h1 : Fine P { t with
            traps := rest, cond := .ready, producer := none, promises := [], retried := false, fetched := none } :=
          (h.team? ht).of_same ⟨rfl, rfl, rfl⟩
        cases e
        exact within_discardRest (within_takeAsync (within_putTeam h h1) h1 _) _ _ _

theorem keeps_execIllegalOpcodeWord (w : Word) : Keeps (execIllegalOpcodeWord w) := fun g P s s' h e => by
  unfold execIllegalOpcodeWord at e
  split at e
  · cases e
  next hc _ =>
    cases e
    exact within_takeTrap h (h.curTeam hc) _
  · cases e

theorem keeps_execInstructionFetchFault : Keeps execInstructionFetchFault := fun g P s s' h e => by
  unfold execInstructionFetchFault at e
  split at e
  · cases e
  next t hc =>
    split at e
    · cases e
    · split at e
      next hs =>
        cases e
        exact within_modTeam (within_stop h (h.curTeam hc) _ hs) _ fun u => sameMode_refl u
      · cases e
      · cases e

/-! ### Storage errors -/

theorem within_spoil (h : Within g P s) (site : EccSite) : Within g P (s.spoil site) := by
  have mod (id : Nat) {f : Team → Team} (hf : ∀ u, SameMode (f u) u) : Within g P (s.modTeam id f) := within_modTeam h id hf
  cases site with
  | memory _ loc => exact h
  | cleanLine _ loc => exact h
  | scalar id r =>
    simp only [State.spoil]
    split
    · exact h
    · exact mod id fun u => sameMode_refl u
  | vector id r l =>
    simp only [State.spoil]
    split
    · exact mod id fun u => sameMode_refl u
    · exact h
  | mask id m w =>
    simp only [State.spoil]
    split
    · exact h
    · exact mod id fun u => sameMode_refl u
  | exm id w =>
    simp only [State.spoil]
    split
    · exact h
    · exact mod id fun u => ite_sameMode (sameMode_refl u) (sameMode_refl u)
  | cell id row col =>
    simp only [State.spoil]
    split
    · exact h
    · exact h

theorem keeps_execEccError (site : EccSite) (outcome : EccOutcome) : Keeps (execEccError site outcome) := fun g P s s' h e => by
  unfold execEccError at e
  split at e
  · cases e
  · split at e
    · split at e
      · cases e
        exact h
      · cases e
        exact within_modTeam h _ fun u => sameMode_refl u
    · cases e
      exact h
    · cases e
      exact within_spoil h site

/-! ### Teams that end where they stand -/

theorem within_endTeam (h : Within g P s) (id : Nat) (x : Trap) : Within g P (s.endTeam id x) := by
  unfold State.endTeam
  split
  · exact h
  next t ht =>
    split
    · exact h
    · have hu : Fine P { t with matrix := [], yielded := false } := (h.team? ht).of_same ⟨rfl, rfl, rfl⟩
      have h1 : Within g P ((t.matrix.filterMap (·.followOn)).foldl State.endCopy
          (s.putTeam { t with matrix := [], yielded := false })) :=
        within_foldl (fun _ _ hs => within_endCopy hs _) (within_putTeam h hu) _
      exact within_endThrough h1 (h1.getD_team? (h.team? ht) id) x true

theorem within_disableCore (h : Within g P s) (core : Nat) : Within g P (s.disableCore core) := by
  unfold State.disableCore
  refine within_foldl (fun _ _ hs => within_endTeam hs _ _) ?_ _
  exact h

theorem keeps_execPortBeatError (core : Nat) (half second : Bool) : Keeps (execPortBeatError core half second) :=
  fun g P s s' h e => by
    unfold execPortBeatError at e
    dsimp only at e
    split at e
    · cases e
    · split at e
      · cases e
        exact h
      · split at e
        · cases e
          exact within_disableCore h _
        · cases e
          exact within_narrow h _ _

/-! ### Lost dies -/

/-- A change of the device that leaves its registers. -/
theorem within_dev (h : Within g P s) {d : Device} (hd : d.regs = s.dev.regs) : Within g P { s with dev := d } := h.of_eq hd rfl

theorem within_postEvent (h : Within g P s) (kind n : Nat) : Within g P (s.postEvent kind n) := by
  unfold State.postEvent
  split
  · exact h
  · exact within_writeLoc (within_settle h _ _) _ _

theorem within_teamLost (h : Within g P s) (lost : Word) (die id : Nat) : Within g P (s.teamLost lost die id) := by
  unfold State.teamLost
  dsimp only
  split
  · exact h
  next t ht =>
    split
    · exact within_endTeam h _ _
    · split
      · exact h
      · exact within_putTeam h ((h.team? ht).of_same (pend_sameMode _ _))

theorem within_loseDie (h : Within g P s) (die : Nat) : Within g P (s.loseDie die) := by
  unfold State.loseDie
  refine within_postEvent (within_foldl (fun _ _ hs => within_writeTouched hs _) ?_ _) _ _
  refine within_foldl (fun _ _ hs => within_teamLost hs _ _ _) ?_ _
  exact within_dev h rfl

theorem keeps_execDieLost (die : Nat) : Keeps (execDieLost die) := fun g P s s' h e => by
  unfold execDieLost at e
  split at e
  · cases e
  · split at e
    · cases e
      refine within_postEvent ?_ _ _
      exact within_dev h rfl
    · cases e
      exact within_loseDie h die

theorem keeps_execUcieLinkFailure (link : UcieLink) : Keeps (execUcieLinkFailure link) := fun g P s s' h e => by
  unfold execUcieLinkFailure at e
  split at e
  · split at e
    · cases e
    · cases e
      exact within_loseDie h _
  · split at e
    · cases e
    · cases e
      exact within_dev h rfl

/-! ### Links -/

theorem within_failAccess (h : Within g P s) (done : Bool) (a : Access) : Within g P (s.failAccess done a) := by
  have h1 : Within g P (if a.kind.isAtomic then s.settle a.place.loc a.size else s) := by
    split
    · exact within_settle h _ _
    · exact h
  unfold State.failAccess
  dsimp only
  refine within_endAccess (within_unreachable ?_ _) _
  split
  · exact within_writeLoc h1 _ _
  · exact h1

theorem within_failCopy (h : Within g P s) (link : Link) (done : Bool) (c : Copy) : Within g P (s.failCopy link done c) := by
  unfold State.failCopy
  split
  · exact h
  · split
    · exact h
    · dsimp only
      exact within_copyMoved (within_putCopy (within_performMoves _ _ _ (within_foldl (fun _ _ hs => within_markWord hs _ _ _)
        (within_copyFailed (within_beginCopy h _ _ _) _ _ _) _) _) _) _

theorem within_failColl (link : Link) (h : Within g P s) (p : CollPart) : Within g P (State.failColl link s p) := by
  unfold State.failColl
  refine within_breakColl (within_foldl (fun s x hs => within_finishColl ?_ _ _ _ _ _) h _) p
  split
  · exact hs
  · exact within_copyFailed hs _ _ _

theorem keeps_execFlitCrcError (link : Link) (second : Bool) (lost done : List Nat) :
    Keeps (execFlitCrcError link second lost done) := fun g P s s' h e => by
  unfold execFlitCrcError at e
  extract_lets outstanding named failing exists_ half s1 copies s2 colls s3 at e
  have h1 : Within g P s1 := within_foldl (fun _ _ hs => within_failAccess hs _ _) h _
  have h2 : Within g P s2 := within_foldl (fun _ _ hs => within_failCopy hs _ _ _) (by
    split
    · exact h1
    · exact within_tellersDone h1) _
  have h3 : Within g P s3 := within_foldl (fun _ _ hs => within_failColl link hs _) h2 _
  clear_value s3 failing exists_
  split at e
  · cases e
  · split at e
    · cases e
      exact h
    · split at e
      · cases e
      · split at e
        · cases e
          exact h3
        · cases e
          refine within_postEvent ?_ _ _
          exact within_dev h3 rfl

end Faults
end Sys2Proof.Proofs
end

section
/-!
SUPPORT. The management unit, requests over the links and the debug unit keep the reserved bits, and all but a register write the
device-wide registers (25 R344 to R360).
-/
namespace Sys2Proof.Proofs
open Sys2Proof.Machine Sys2Proof.Laws

section Manage
variable {g : Privileged} {P : Prop} {s s' : State} {t : Team}

/-! ### Mailbox commands -/

theorem within_commandDone (h : Within g P s) (code : Byte) : Within g P (s.commandDone code) := by
  unfold State.commandDone
  refine within_afterWrite ?_ _ _
  exact within_dev h rfl

theorem keeps_mailboxCommand {k : Nat} {f : State → Except Byte State}
    (hf : ∀ g P s s', Within g P s → f s = .ok s' → Within g P s') : Keeps (mailboxCommand k f) := fun g P s s' h e => by
  unfold mailboxCommand at e
  split at e
  · cases e
  · split at e
    · cases e
    · split at e
      · cases e
        exact within_commandDone h _
      next hs =>
        cases e
        exact within_commandDone (hf _ _ _ _ h hs) _

theorem keeps_execSetq0 : Keeps execSetq0 := keeps_mailboxCommand fun g P s s' h e => by
  dsimp only at e
  split at e
  · split at e
    · cases e
      exact within_checkOverrun (within_updateQueue (within_dropHead (within_touchFe h _ _) _) _ _) _
    · cases e
  · cases e

theorem keeps_execRoute : Keeps execRoute := by
  unfold execRoute
  refine keeps_mailboxCommand fun g P s s' h e => ?_
  extract_lets at e
  split at e
  · cases e
  · cases e
    exact within_dev h rfl

theorem keeps_execAttest : Keeps execAttest := by
  unfold execAttest
  refine keeps_mailboxCommand fun g P s s' h e => ?_
  extract_lets at e
  split at e
  · cases e
  · split at e
    · cases e
    · obtain rfl := Except.ok.inj e
      refine within_writeLoc ?_ _ _
      exact within_dev h rfl

theorem keeps_execEvent : Keeps execEvent := by
  unfold execEvent
  refine keeps_mailboxCommand fun g P s s' h e => ?_
  extract_lets at e
  split at e
  · cases e
  · cases e
    exact within_dev h rfl

/-! ### Resets -/

theorem within_noTeams (hd : s.dev.regs = g) (ht : s.teams = []) : Within g P s :=
  ⟨hd, fun u hu => by
    rw [ht] at hu
    cases hu⟩

theorem within_enterReset (h : Within g P s) : Within g P s.enterReset := within_noTeams h.1 rfl

theorem keeps_resetEvent : Keeps resetEvent := fun g P s s' h e => by
  unfold resetEvent at e
  split at e
  · cases e
  · cases e
    exact within_enterReset h

theorem keeps_execReset : Keeps execReset := keeps_mailboxCommand fun g P s s' h e => by
  split at e
  · cases e
  · cases e
    exact within_enterReset h

/-! ### Temperature and power -/

theorem keeps_execHotSet (tower : Nat) : Keeps (execHotSet tower) := fun g P s s' h e => by
  unfold execHotSet at e
  split at e
  · cases e
  · cases e
    exact within_dev h rfl

theorem keeps_execHotClear (tower : Nat) : Keeps (execHotClear tower) := fun g P s s' h e => by
  unfold execHotClear at e
  split at e
  · cases e
  · cases e
    exact within_dev h rfl

theorem keeps_execPowerThrottle : Keeps execPowerThrottle := fun g P s s' h e => by
  unfold execPowerThrottle at e
  split at e
  · cases e
  · cases e
    exact within_dev h rfl

theorem keeps_execThrottleClear : Keeps execThrottleClear := fun g P s s' h e => by
  unfold execThrottleClear at e
  split at e
  · cases e
  · cases e
    exact within_dev h rfl

/-! ### Registers -/

/-- A register that takes a value from outside: only the device-wide ones may change. -/
theorem within_registerWrite {n : BitVec 12} {v : Word} (h : Within g P s) (e : execRegisterWrite n v s = .next s') :
    ∃ g', Within g' P s' := by
  unfold execRegisterWrite at e
  split at e
  · split at e
    · cases e
      exact ⟨_, rfl, h.2⟩
    · cases e
  · split at e
    · cases e
    next hc =>
      cases e
      exact ⟨g, within_putTeam h ((h.curTeam hc).of_writeSpecial _ _)⟩

theorem keeps_execTbloCapture : Keeps execTbloCapture := fun g P s s' h e => by
  unfold execTbloCapture at e
  split at e
  · cases e
  next t hc =>
    have ht : Fine P { t with tbCapture := s.coreTime t.core } := (h.curTeam hc).of_same ⟨rfl, rfl, rfl⟩
    cases e
    exact within_putTeam h ht

/-! ### Translations -/

theorem keeps_execInvalidateContext (ctx : BitVec 16) : Keeps (execInvalidateContext ctx) := fun g P s s' h e => by
  unfold execInvalidateContext at e
  split at e
  · cases e
    exact h
  · split at e
    · cases e
    · cases e
      exact within_retryContext h _

theorem keeps_execInvalidatePage (ctx : BitVec 16) (va : Addr) : Keeps (execInvalidatePage ctx va) := fun g P s s' h e => by
  unfold execInvalidatePage at e
  split at e
  · cases e
    exact h
  · split at e
    · cases e
    · cases e
      exact within_retryRegion h _ _

/-- A fold of a step that may fail keeps what each step keeps. -/
theorem within_foldlM {α : Type} {f : State → α → Option State} (hf : ∀ s a s', Within g P s → f s a = some s' → Within g P s')
    (l : List α) (h : Within g P s) (e : l.foldlM f s = some s') : Within g P s' := by
  induction l generalizing s with
  | nil =>
    cases e
    exact h
  | cons a l ih =>
    rw [List.foldlM_cons] at e
    obtain ⟨s1, h1, h2⟩ := Option.bind_eq_some_iff.mp e
    exact ih (hf _ _ _ h h1) h2

theorem within_moveBell (h : Within g P s) {m : PageMove} {a : Armed} {owner slot : Nat} {r : State × Armed}
    (e : s.moveBell m a owner slot = some r) : Within g P r.1 := by
  unfold State.moveBell at e
  dsimp only at e
  split at e
  · cases e
    exact h
  · split at e
    · cases e
      exact h
    · obtain ⟨listed, -, rfl⟩ := Option.map_eq_some_iff.mp e
      exact within_listBell h _ _ _

theorem within_moveSlot (m : PageMove) {x : Nat × BitVec 2} (h : Within g P s) (e : State.moveSlot m s x = some s') :
    Within g P s' := by
  unfold State.moveSlot at e
  split at e
  · cases e
    exact h
  · dsimp only at e
    split at e
    · cases e
      exact h
    · obtain ⟨r, hr, rfl⟩ := Option.map_eq_some_iff.mp e
      exact within_modTeam (within_moveBell h hr) _ fun u => setSlot_sameMode u _ _

theorem within_moveWait (m : PageMove) {q : Nat} (h : Within g P s) (e : State.moveWait m s q = some s') : Within g P s' := by
  unfold State.moveWait at e
  split at e
  · obtain ⟨r, hr, rfl⟩ := Option.map_eq_some_iff.mp e
    exact within_putQueue (within_moveBell h hr) _ _
  all_goals
    cases e
    exact h

theorem within_moveBells {m : PageMove} (h : Within g P s) (e : s.moveBells m = some s') : Within g P s' := by
  unfold State.moveBells at e
  obtain ⟨s1, h1, h2⟩ := Option.bind_eq_some_iff.mp e
  exact within_foldlM (fun _ _ _ hs => within_moveWait m hs) _ (within_foldlM (fun _ _ _ hs => within_moveSlot m hs) _ h h1) h2

theorem keeps_execPageHomeChange (pte pageBits : Nat) (entry : BitVec 64) : Keeps (execPageHomeChange pte pageBits entry) :=
  fun g P s s' h e => by
    unfold execPageHomeChange at e
    extract_lets old size o n inPage inNew move s1 src s2 at e
    have h1 : Within g P s1 := within_foldl (fun _ _ hs => within_owes (within_performAccess hs _ _ _) _ _) h _
    have h2 : Within g P s2 := h1
    clear_value s2 move
    split at e
    · cases e
    · split at e
      · cases e
      next hm =>
        obtain rfl := Host.Outcome.next.inj e
        exact within_writeLoc (within_moveBells h2 hm) _ _

/-! ### Requests over the links -/

theorem keeps_linkRequest (aperture : Bool) (r : BusReq) : Keeps (linkRequest aperture r) := fun g P s s' h e => by
  unfold linkRequest at e
  dsimp only at e
  split at e
  · cases e
  · split at e
    · cases e
    · split at e
      · cases e
        exact within_dev h rfl
      · cases e
        exact within_writePlace h _ _

theorem keeps_execPeerRequest (device : BitVec 12) (r : BusReq) : Keeps (execPeerRequest device r) := fun g P s s' h e => by
  unfold execPeerRequest at e
  split at e
  · cases e
  · exact keeps_linkRequest _ _ h e

/-! ### The debug unit -/

theorem within_debugReply (h : Within g P s) (code : Nat) (v : BitVec 256) : Within g P (s.debugReply code v) := within_dev h rfl

theorem keeps_onTeam {r : TeamRef} {malformed : State → Option Team → Bool} {f : Team → State → Result}
    (hf : ∀ g P t s s', Within g P s → Fine P t → f t s = .next s' → Within g P s') :
    Keeps fun s => onTeam r (malformed s) (f · s) s := fun g P s s' h e => by
  have reply (n : Nat) {v : State} (e : Host.Outcome.next (s.debugReply n 0) = (.next v : Result)) : Within g P v := by
    cases e
    exact within_debugReply h _ _
  dsimp only [onTeam] at e
  split at e
  · exact reply 1 e
  · split at e
    next ht =>
      split at e
      · exact hf _ _ _ _ _ h (h.fine (List.mem_of_find?_eq_some ht)) e
      · exact reply 3 e
    · exact reply 2 e

theorem keeps_execStop (r : TeamRef) : Keeps (execStop r) := keeps_onTeam fun g P t s s' h ht e => by
  split at e
  · cases e
    exact within_debugReply h _ _
  · split at e
    · cases e
    · cases e
      refine within_debugReply (within_putTeam ?_ ?_) _ _
      · exact h
      · exact ht.of_same (stopTeam_sameMode s s.sched.freeCount t)

theorem keeps_execResume (r : TeamRef) : Keeps (execResume r) := keeps_onTeam fun g P t s s' h ht e => by
  split at e
  · cases e
    exact within_debugReply h _ _
  · have hu : Fine P { t with cond := t.resumed } := ht.of_same ⟨rfl, rfl, rfl⟩
    cases e
    exact within_debugReply (within_putTeam h hu) _ _

theorem within_touchItem (h : Within g P s) (t : Team) (item : DebugItem) : Within g P (s.touchItem t item) := by
  cases item with
  | memory va => exact within_touch h _ _
  | _ => exact h

theorem keeps_execRead (r : TeamRef) (item : DebugItem) : Keeps (execRead r item) := keeps_onTeam fun g P t s s' h ht e => by
  split at e
  · cases e
    exact within_debugReply h _ _
  · cases e
    exact within_debugReply (within_touchItem h _ _) _ _

theorem Fine.setBlocks (ht : Fine P t) (b : BitVec 4) : Fine P { t with blocks := b } := ht.of_same ⟨rfl, rfl, rfl⟩

/-- MODE under R96; LAVC and SLIM as SWR writes them (21 R322). -/
theorem Fine.of_debugSpecial (ht : Fine P t) {n : Nat} {v : Word} {u : Team} (e : debugSpecial s t n v = some u) : Fine P u := by
  unfold debugSpecial at e
  split at e
  · split at e
    next hm =>
      cases e
      exact ht.of_mode hm ⟨rfl, rfl, rfl⟩
    · cases e
  · split at e
    · cases e
      exact ht.of_same ⟨rfl, rfl, rfl⟩
    · split at e
      · cases e
        exact ht.of_same ⟨rfl, rfl, rfl⟩
      · split at e
        · split at e
          · cases e
            exact ht.of_same ⟨rfl, rfl, rfl⟩
          · cases e
        · split at e
          · split at e
            · cases e
              exact (ht.of_same (killRange_sameMode t _ _)).setBlocks _
            · cases e
          · split at e
            · cases e
              exact ht.of_same ⟨rfl, rfl, rfl⟩
            · split at e
              · cases e
                exact ht.of_same ⟨rfl, rfl, rfl⟩
              · split at e
                · cases e
                  exact ht.of_writeSpecial n v
                · cases e

theorem within_landWord (p : Place) (tower : Nat) (c : Copy) (fuel : Nat) (h : Within g P s) (ms : List Move) :
    Within g P (State.landWord p tower c fuel s ms).1 := by
  induction fuel generalizing s ms with
  | zero => exact h
  | succ fuel ih =>
    unfold State.landWord
    split
    · exact h
    · split
      · exact h
      · exact ih (within_performMove h _ _ _ _) _

theorem within_landCopy (h : Within g P s) (p : Place) (c : Copy) : Within g P (s.landCopy p c) := by
  have h1 := within_putCopy (within_landWord p (s.towerFor c.team) c 4 h c.moves)
  unfold State.landCopy
  dsimp only
  split
  · split
    · exact within_copyMoved (h1 _) _
    · exact h1 _
  · exact h

theorem within_debugWrite (h : Within g P s) (ht : Fine P t) {item : DebugItem} {v : BitVec 256} (e : debugWrite s t item v = some s') :
    Within g P s' := by
  have put {u : Team} (hu : SameMode u t) : Within g P (s.putTeam u) := within_putTeam h (ht.of_same hu)
  unfold debugWrite at e
  dsimp only at e
  split at e
  · split at e
    · cases e
      exact put ⟨rfl, rfl, rfl⟩
    · cases e
  · cases e
    exact put (setS_sameMode t _ _)
  · cases e
    exact put ⟨rfl, rfl, rfl⟩
  · cases e
    exact put (setMWord_sameMode t _ _ _)
  · split at e
    · cases e
    · cases e
      exact put ⟨rfl, rfl, rfl⟩
  · obtain ⟨u, hu, rfl⟩ := Option.map_eq_some_iff.mp e
    exact within_putTeam h (ht.of_debugSpecial hu)
  · cases e
    exact put ⟨rfl, rfl, rfl⟩
  · split at e
    · cases e
      exact put ⟨rfl, rfl, rfl⟩
    · cases e
  · split at e
    · cases e
    · split at e
      · cases e
      · cases e
        exact within_writePlace (within_foldl (fun _ _ hs => within_landCopy hs _ _) h _) _ _

theorem keeps_execWrite (r : TeamRef) (item : DebugItem) (v : BitVec 256) : Keeps (execWrite r item v) :=
  keeps_onTeam fun g P t s s' h ht e => by
    split at e
    · cases e
      exact within_debugReply h _ _
    · cases e
      refine within_debugReply ?_ _ _
      cases hw : debugWrite (s.touchItem t item) t item v with
      | none => exact h
      | some u => exact within_debugWrite (within_touchItem h t item) ht hw

theorem keeps_execWatch (ctx : BitVec 16) (slot : Nat) (w : Option Watch) : Keeps (execWatch ctx slot w) := fun g P s s' h e => by
  unfold execWatch at e
  extract_lets code ok at e
  clear_value ok
  split at e
  · cases e
    exact within_debugReply h _ _
  · split at e
    · cases e
      exact within_debugReply h _ _
    · split at e
      · cases e
        exact within_debugReply h _ _
      · cases e
        exact within_debugReply (within_modCtx h _ _) _ _

theorem keeps_execDebugAttach (ctx : BitVec 16) (on : Bool) : Keeps (execDebugAttach ctx on) := fun g P s s' h e => by
  unfold execDebugAttach at e
  split at e
  · cases e
    exact within_debugReply h _ _
  · cases e
    exact within_debugReply (within_modCtx h _ _) _ _

end Manage
end Sys2Proof.Proofs
end

section
/-!
SUPPORT. Every instruction and every event keeps the reserved bits (07 R96, R98; 03 R52).
-/
namespace Sys2Proof.Proofs
open Sys2Proof.Machine Sys2Proof.Laws

/-- Every event but a register write keeps the device-wide registers and the reserved bits. -/
theorem keeps_event {i : Instr} (hi : encode i = none) (hn : ∀ n v, i ≠ .registerWrite n v) : Keeps (exec i) := by
  cases i
  case registerWrite n v => exact absurd rfl (hn n v)
  case doorbell => exact keeps_execDoorbell _ _
  case packetPrefetch => exact keeps_execPacketPrefetch _ _
  case drumRound => exact keeps_execDrumRound
  case graph => exact keeps_execGraph _
  case nodePacket => exact keeps_execNodePacket _
  case gang => exact keeps_execGang _
  case gangReserveRetry => exact keeps_execGangReserveRetry _
  case signal => exact keeps_execSignal _
  case waitSignal => exact keeps_execWaitSignal _
  case rangeCommit => exact keeps_execRangeCommit _
  case marker => exact keeps_execMarker _
  case create => exact keeps_execCreate _
  case destroy => exact keeps_execDestroy _
  case update => exact keeps_execUpdate _
  case mapq => exact keeps_execMapq _
  case unmapq => exact keeps_execUnmapq _
  case resumeq => exact keeps_execResumeq _
  case preempt => exact keeps_execPreempt _
  case fwHandover => exact keeps_execFwHandover _
  case fwHandoverSwitch => exact keeps_execFwHandoverSwitch
  case teamPlacement => exact keeps_execTeamPlacement
  case slotYield => exact keeps_execSlotYield _
  case teamExitComplete => exact keeps_execTeamExitComplete _
  case heldSuccessorEntry => exact keeps_execHeldSuccessorEntry
  case sliceEnd => exact keeps_execSliceEnd
  case preemptionRequest => exact keeps_execPreemptionRequest
  case contextSwitchIn => exact keeps_execContextSwitchIn
  case shadowPreload => exact keeps_execShadowPreload
  case stateSpill => exact keeps_execStateSpill
  case atomicPerform => exact keeps_performEvent _ _ _
  case atomicReply => exact keeps_performEvent _ _ _
  case writePerform => exact keeps_performEvent _ _ _
  case copyPerform => exact keeps_execCopyPerform _ _
  case followOnIssue => exact keeps_execFollowOnIssue _
  case fenceComplete => exact keeps_execFenceComplete _ _
  case awaitTimeout => exact keeps_execAwaitTimeout _
  case collComplete => exact keeps_execCollComplete _ _
  case kGroupStep => exact keeps_execKGroupStep _ _
  case matrixReset => exact keeps_execMatrixReset _
  case asyncTrapDelivery => exact keeps_execAsyncTrapDelivery _
  case pageHomeChange => exact keeps_execPageHomeChange _ _ _
  case invalidateContext => exact keeps_execInvalidateContext _
  case invalidatePage => exact keeps_execInvalidatePage _ _
  case tbloCapture => exact keeps_execTbloCapture
  case hostRequest => exact keeps_linkRequest _ _
  case peerRequest => exact keeps_execPeerRequest _ _
  case flitCrcError => exact keeps_execFlitCrcError _ _ _ _
  case ucieLinkFailure => exact keeps_execUcieLinkFailure _
  case eccError => exact keeps_execEccError _ _
  case portBeatError => exact keeps_execPortBeatError _ _ _
  case dieLost => exact keeps_execDieLost _
  case hotSet => exact keeps_execHotSet _
  case hotClear => exact keeps_execHotClear _
  case powerThrottle => exact keeps_execPowerThrottle
  case setq0 => exact keeps_execSetq0
  case route => exact keeps_execRoute
  case attest => exact keeps_execAttest
  case reset => exact keeps_execReset
  case event => exact keeps_execEvent
  case coldReset => exact keeps_resetEvent
  case ixletReset => exact keeps_resetEvent
  case stop => exact keeps_execStop _
  case resume => exact keeps_execResume _
  case read => exact keeps_execRead _ _
  case write => exact keeps_execWrite _ _ _
  case watch => exact keeps_execWatch _ _ _
  case illegalOpcodeWord => exact keeps_execIllegalOpcodeWord _
  case instructionFetchFault => exact keeps_execInstructionFetchFault
  case loadPerform => exact keeps_performEvent _ _ _
  case throttleClear => exact keeps_execThrottleClear
  case debugAttach => exact keeps_execDebugAttach _ _
  all_goals cases hi

section Clear
variable {g : Privileged} {P : Prop} {s s' : State} {t : Team}

theorem Within.reservedClear (h : Within g True s) : s.reservedClear := fun _ ht => h.fine ht trivial

theorem within_of_reservedClear (h : s.reservedClear) : Within s.dev.regs True s := ⟨rfl, fun t ht _ => h t ht⟩

/-- What an instruction, an event or a turn does keeps the reserved bits. -/
def KeepsClear (f : State → Result) : Prop := ∀ ⦃s s'⦄, s.reservedClear → f s = .next s' → s'.reservedClear

theorem Keeps.clear {f : State → Result} (hf : Keeps f) : KeepsClear f := fun _ _ h e =>
  (hf (within_of_reservedClear h) e).reservedClear

/-- Every row of the opcode table. -/
theorem keepsClear_exec (i : Instr) : KeepsClear (exec i) := by
  by_cases hw : ∃ n r, i = .swr n r
  · obtain ⟨n, r, rfl⟩ := hw
    intro s s' h e
    obtain ⟨g', hs, -⟩ := within_swr (within_of_reservedClear h) e
    exact hs.reservedClear
  · by_cases hr : ∃ n v, i = .registerWrite n v
    · obtain ⟨n, v, rfl⟩ := hr
      intro s s' h e
      obtain ⟨g', hs⟩ := within_registerWrite (within_of_reservedClear h) e
      exact hs.reservedClear
    · push Not at hw hr
      by_cases hi : encode i = none
      · exact (keeps_event hi hr).clear
      · exact (keeps_instruction hi hw).clear

/-! ### A team's turn -/

/-- LAVC.COUNT stops at its largest value (07 R98). -/
theorem countLookahead_lt {v : Word} (h : v.toNat < 2 ^ 24) (held : Bool) : (countLookahead v held).toNat < 2 ^ 24 := by
  unfold countLookahead
  split
  next hc =>
    have hv : v ≠ 0xFFFFFF#32 := by
      rw [Bool.and_eq_true, bne_iff_ne] at hc
      exact hc.2
    bv_omega
  · exact h

theorem Fine.lookAhead (ht : Fine P t) (i : Instr) (free : Bool) : Fine P (t.lookAhead i free) := fun hp => by
  obtain ⟨hm, hr, hl, hs⟩ := (reservedClear_iff t).mp (ht hp)
  exact (reservedClear_iff _).mpr ⟨hm, hr, countLookahead_lt hl _, hs⟩

theorem within_sched (h : Within g P s) (x : Sched) : Within g P { s with sched := x } := h

theorem within_claimUnits (h : Within g P s) (t : Team) : Within g P (s.claimUnits t) := by
  unfold State.claimUnits
  exact within_fe (within_foldl (fun _ _ hs => within_spillTo hs _) h _) _

theorem within_beginIssue (h : Within g P s) (t : Team) (defer : Bool) : Within g P (s.beginIssue t defer) :=
  within_sched (within_claimUnits h t) _

theorem within_touchFetch (h : Within g P s) (t : Team) : Within g P (s.touchFetch t) := within_touch h _ _

theorem within_lookAhead (h : Within g P s) (s0 : State) (t : Team) (i : Instr) : Within g P (s.lookAhead s0 t i) :=
  within_modTeam_fine h _ fun _ hu => hu.lookAhead _ _

theorem within_withWord (h : Within g P s) (w : Word) : Within g P (s.withWord w) := h

theorem keepsClear_issueTurn (id : Nat) (defer : Bool) : KeepsClear fun s => issueTurn s id defer := fun s s' h e => by
  have h0 := within_tellersDone (within_of_reservedClear h)
  dsimp only [issueTurn] at e
  split at e
  · cases e
  next t _ =>
    have h1 := within_touchFetch (within_beginIssue h0 t defer) t
    split at e
    · cases e
    · split at e
      · exact keepsClear_exec (.asyncTrapDelivery id) h0.reservedClear e
      · split at e
        · exact keepsClear_exec .instructionFetchFault (within_withWord h1 _).reservedClear e
        next w _ =>
          split at e
          · exact keepsClear_exec _ (within_withWord (within_lookAhead h1 _ _ _) w).reservedClear e
          · exact keepsClear_exec (.illegalOpcodeWord w) (within_withWord h1 w).reservedClear e

/-! ### The turn of an event -/

theorem reservedClear_afterEvent {r : Result} (hr : ∀ u, r = .next u → u.reservedClear) (e : afterEvent r = .next s') :
    s'.reservedClear := by
  cases r with
  | next u =>
    cases e
    have hu := within_of_reservedClear (hr u rfl)
    exact (within_idlePreempt (within_foldl (fun _ w hs => within_ownWrite hs w) (within_sched hu _) _)).reservedClear
  | fault f => cases e
  | refused r => cases e

theorem within_readyFor (h : Within g P s) (i : Instr) : Within g P (s.readyFor i) := by
  unfold State.readyFor
  split
  · exact h
  · exact within_tellersDone h

theorem keepsClear_eventTurn (i : Instr) (between : List (List OwnWrite)) : KeepsClear (eventTurn i between) := fun s s' h e => by
  unfold eventTurn at e
  split at e
  · have h1 := within_readyFor (within_sched (within_of_reservedClear h) { s.sched with cur := none, during := between }) i
    exact reservedClear_afterEvent (fun u hu => keepsClear_exec i h1.reservedClear hu) e
  · cases e

/-! ### Turns of time and of the outside -/

theorem reservedClear_of_teams (h : s.reservedClear) (ht : s'.teams = s.teams) : s'.reservedClear := by
  unfold State.reservedClear
  rw [ht]
  exact h

theorem reservedClear_startUp (h : s.reservedClear) : s.startUp.reservedClear := by
  unfold State.startUp
  split
  · exact h
  · split
    · exact h
    · exact h

theorem reservedClear_ownWrite (h : s.reservedClear) (w : OwnWrite) : (s.ownWrite w).idlePreempt.reservedClear :=
  (within_idlePreempt (within_ownWrite (within_of_reservedClear h) w)).reservedClear

theorem keepsClear_runTurn (u : Turn) : KeepsClear (runTurn u) := fun s s' h e => by
  cases u with
  | issue id defer => exact keepsClear_issueTurn id defer h e
  | event i => exact keepsClear_eventTurn i [] h e
  | eventDuring i between =>
    simp only [runTurn] at e
    split at e
    · exact keepsClear_eventTurn i between h e
    · cases e
  | startUp =>
    simp only [runTurn] at e
    split at e
    · cases e
      exact reservedClear_startUp h
    · cases e
  | tick n =>
    cases e
    exact reservedClear_of_teams h rfl
  | columnTemp core x =>
    simp only [runTurn] at e
    split at e
    · cases e
      exact reservedClear_of_teams h rfl
    · cases e
  | stackTemp tower sensor x =>
    simp only [runTurn] at e
    split at e
    · cases e
      exact reservedClear_of_teams h rfl
    · cases e
  | power w =>
    cases e
    exact reservedClear_of_teams h rfl
  | hostMemory a bs =>
    simp only [runTurn] at e
    split at e
    · cases e
      exact reservedClear_ownWrite h _
    · cases e
  | peerMemory a bs =>
    simp only [runTurn] at e
    split at e
    · cases e
      exact reservedClear_ownWrite h _
    · cases e

/-! ### The turn that no agenda names -/

/-- Each of some turns keeps the reserved bits. -/
def ClearTurns (fs : List (State → Result)) : Prop := ∀ f ∈ fs, KeepsClear f

theorem clearTurns_nil : ClearTurns [] := fun _ hf => absurd hf List.not_mem_nil

theorem ClearTurns.cons {f : State → Result} {fs : List (State → Result)} (hf : KeepsClear f) (h : ClearTurns fs) :
    ClearTurns (f :: fs) :=
  List.forall_mem_cons.mpr ⟨hf, h⟩

theorem clearTurns_append {fs us : List (State → Result)} : ClearTurns (fs ++ us) ↔ ClearTurns fs ∧ ClearTurns us :=
  List.forall_mem_append

theorem clearTurns_exec (i : Instr) : ClearTurns [exec i] := .cons (keepsClear_exec i) clearTurns_nil

/-- One event for each element of a list. -/
theorem clearTurns_map {α : Type} (l : List α) (f : α → Instr) : ClearTurns (l.map fun a => exec (f a)) :=
  List.forall_mem_map.mpr fun a _ => keepsClear_exec (f a)

theorem clearTurns_flatMap {α : Type} (l : List α) {f : α → List (State → Result)} (h : ∀ a, ClearTurns (f a)) :
    ClearTurns (l.flatMap f) := fun u hu => by
  obtain ⟨a, -, ha⟩ := List.mem_flatMap.mp hu
  exact h a u ha

theorem clearTurns_packet (s : State) : ClearTurns (packetTurns s) := by
  unfold packetTurns
  split
  · exact clearTurns_nil
  next q _ _ =>
    split
    · exact clearTurns_nil
    · dsimp only
      split
      · exact clearTurns_exec (.graph q)
      · exact clearTurns_exec (.nodePacket q)
      · exact clearTurns_exec (.gang q)
      · exact clearTurns_exec (.signal q)
      · exact clearTurns_exec (.waitSignal q)
      · exact clearTurns_exec (.rangeCommit q)
      · split
        · exact clearTurns_exec (.create q)
        · exact clearTurns_exec (.destroy q)
        · exact clearTurns_exec (.update q)
        · exact clearTurns_exec (.mapq q)
        · exact clearTurns_exec (.unmapq q)
        · exact clearTurns_exec (.resumeq q)
        · exact clearTurns_exec (.preempt q)
      · exact clearTurns_exec (.marker q)
      · exact clearTurns_exec (.fwHandover q)

theorem clearTurns_command (s : State) : ClearTurns (commandTurns s) := by
  unfold commandTurns
  split
  · exact clearTurns_nil
  · split
    · exact clearTurns_exec .setq0
    · exact clearTurns_exec .route
    · exact clearTurns_exec .attest
    · exact clearTurns_exec .reset
    · exact clearTurns_exec .event

theorem clearTurns_internal (s : State) : ClearTurns (internalTurns s) := by
  have sequencing : ClearTurns [execFwHandoverSwitch, execContextSwitchIn, execStateSpill, execSliceEnd] :=
    .cons (keepsClear_exec .fwHandoverSwitch) (.cons (keepsClear_exec .contextSwitchIn)
      (.cons (keepsClear_exec .stateSpill) (clearTurns_exec .sliceEnd)))
  have accesses (a : Access) : ClearTurns
      [execLoadPerform a.id false, execWritePerform a.id, execAtomicPerform a.id, execAtomicReply a.id] :=
    .cons (keepsClear_exec (.loadPerform a.id false)) (.cons (keepsClear_exec (.writePerform a.id))
      (.cons (keepsClear_exec (.atomicPerform a.id)) (clearTurns_exec (.atomicReply a.id))))
  have copies (c : Copy) : ClearTurns [execCopyPerform c.id [0], execFollowOnIssue c.id, execCollComplete c.id []] :=
    .cons (keepsClear_exec (.copyPerform c.id [0])) (.cons (keepsClear_exec (.followOnIssue c.id))
      (clearTurns_exec (.collComplete c.id [])))
  have hot (k : Nat) : ClearTurns [execHotSet k, execHotClear k] :=
    .cons (keepsClear_exec (.hotSet k)) (clearTurns_exec (.hotClear k))
  have power : ClearTurns [execPowerThrottle, execThrottleClear, execDrumRound] :=
    .cons (keepsClear_exec .powerThrottle) (.cons (keepsClear_exec .throttleClear) (clearTurns_exec .drumRound))
  simp only [internalTurns, clearTurns_append, and_assoc]
  exact ⟨clearTurns_packet s, clearTurns_command s, clearTurns_map _ fun t : Team => .asyncTrapDelivery t.id,
    clearTurns_map _ fun t : Team => .teamExitComplete t.id, clearTurns_exec .heldSuccessorEntry,
    clearTurns_map _ fun q => .gangReserveRetry q, sequencing, clearTurns_map _ fun t : Team => .slotYield t.id,
    clearTurns_exec .teamPlacement, clearTurns_flatMap _ accesses, clearTurns_flatMap _ copies,
    clearTurns_flatMap _ fun t : Team => clearTurns_map t.fences fun f => .fenceComplete t.id f.ticket,
    clearTurns_map _ fun t : Team => .awaitTimeout t.id, clearTurns_map _ fun t : Team => .kGroupStep t.id .passes,
    clearTurns_flatMap _ hot, power⟩

theorem keepsClear_firstTurn {skip : State → Bool} {fs : List (State → Result)} (hf : ClearTurns fs) (h : s.reservedClear)
    (e : firstTurn s skip fs = some (.next s')) : s'.reservedClear := by
  induction fs with
  | nil => cases e
  | cons f fs ih =>
    have hrest := ih fun f hf' => hf f (List.mem_cons_of_mem _ hf')
    unfold firstTurn at e
    split at e
    · exact hrest e
    · cases e
    next u hu =>
      split at e
      · exact hrest e
      · cases e
        exact hf f List.mem_cons_self h hu

theorem clearTurns_issue (s : State) : ClearTurns (issueTurns s) := by
  intro f hf
  obtain ⟨t, -, rfl⟩ := List.mem_map.mp hf
  exact keepsClear_issueTurn t.id false

theorem keepsClear_defaultTurn : KeepsClear defaultTurn := fun s s' h e => by
  have h0 : ({ s with sched := { s.sched with cur := none } } : State).tellersDone.reservedClear :=
    (within_tellersDone (within_sched (within_of_reservedClear h) _)).reservedClear
  unfold defaultTurn at e
  dsimp only at e
  split at e
  next r hr => exact reservedClear_afterEvent (fun u hu => keepsClear_firstTurn (clearTurns_internal _) h0 (hu ▸ hr)) e
  · split at e
    next hr =>
      cases e
      exact reservedClear_of_teams (keepsClear_firstTurn (clearTurns_issue s) h hr) rfl
    next r _ hr =>
      subst e
      exact keepsClear_firstTurn (clearTurns_issue s) h hr
    · cases e
      exact reservedClear_of_teams h rfl

theorem keepsClear_stoppedTurn : KeepsClear stoppedTurn := fun s s' h e => by
  unfold stoppedTurn at e
  split at e
  · split at e
    · cases e
    next u us hu =>
      have hk : KeepsClear u := clearTurns_command s u (by rw [hu]; exact List.mem_cons_self)
      exact reservedClear_afterEvent (fun v hv => hk h hv) e
  · cases e

end Clear
end Sys2Proof.Proofs
end

section
/-!
The obligation on the reserved bits.
-/
namespace Sys2Proof.Proofs
open Sys2Proof.Machine Sys2Proof.Laws

/-- Settles O6: every row of the opcode table keeps the bits (`keepsClear_exec`), and so do lookahead's count and whatever else
makes up a turn. -/
theorem stepKeepsReservedBits : Obligations.StepKeepsReservedBits := by
  unfold Obligations.StepKeepsReservedBits
  intro s s' h e
  unfold step at e
  split at e
  · split at e
    · exact keepsClear_defaultTurn h e
    · split at e
      · cases e
        exact reservedClear_startUp h
      · exact keepsClear_stoppedTurn h e
  next u rest _ =>
    split at e
    · exact keepsClear_runTurn u (within_sched (within_of_reservedClear h) { s.sched with agenda := rest }).reservedClear e
    · cases e

end Sys2Proof.Proofs
end

section
/-!
SUPPORT. What writes and last uses leave of a team's scalar and mask registers, several registers at a time (07 R100, R101), as
`scalarsAfter` and `masksAfter` of Safety say it.
-/
namespace Sys2Proof.Proofs
open Sys2Proof.Machine Sys2Proof.Laws

/-- Scalar registers written, the first of the list last. -/
def writtenS (ws : List (Reg × Word)) (v : Vector SReg 64) : Vector SReg 64 :=
  ws.foldr (fun w v => if w.1 = 0#6 then v else v.set w.1.toNat (.live w.2 false) w.1.isLt) v

/-- The same for mask registers, which hold bits only below `tw`. -/
def writtenM (tw : Nat) (ws : List (MReg × LaneBits)) (v : Vector MaskReg 16) : Vector MaskReg 16 :=
  ws.foldr (fun w v => if w.1 = 0#4 then v else v.set w.1.toNat (.live (w.2 &&& lanesBelow tw) 0) w.1.isLt) v

/-- The registers of a list that are not among those written. -/
def unwritten {α β : Type} [BEq α] (ws : List (α × β)) (used : List α) : List α :=
  used.filter fun r => !(ws.map (·.1)).contains r

theorem find?_toNat_eq_none_iff {n : Nat} {β : Type} (ws : List (BitVec n × β)) (i : Nat) :
    (ws.find? fun w => w.1.toNat == i) = none ↔ ∀ w ∈ ws, w.1.toNat ≠ i := by simp

/-- Whether a register is used up and not written too. -/
theorem any_unwritten {n : Nat} {β : Type} (ws : List (BitVec n × β)) (used : List (BitVec n)) {i : Nat}
    (h : (ws.find? fun w => w.1.toNat == i) = none) :
    ((unwritten ws used).any fun r => r.toNat == i) = used.any fun r => r.toNat == i := by
  rw [find?_toNat_eq_none_iff] at h
  rw [unwritten, List.any_filter]
  refine List.any_congr rfl fun r => ?_
  by_cases hr : r.toNat = i
  · have hn : ¬ ∃ w ∈ ws, w.1 = r := fun ⟨w, hw, e⟩ => h w hw (e ▸ hr)
    simpa [hr] using hn
  · simp [hr]

theorem any_unwritten_of_some {n : Nat} {β : Type} (ws : List (BitVec n × β)) (used : List (BitVec n)) {i : Nat}
    {w : BitVec n × β} (h : (ws.find? fun w => w.1.toNat == i) = some w) :
    ((unwritten ws used).any fun r => r.toNat == i) = false := by
  have hi : w.1.toNat = i := by simpa using List.find?_some h
  rw [List.any_eq_false]
  intro r hr hri
  have hne := (List.mem_filter.mp hr).2
  have hrw : r = w.1 := BitVec.eq_of_toNat_eq (by simpa [hi] using hri)
  have hin : w.1 ∈ ws.map (·.1) := List.mem_map_of_mem (List.mem_of_find?_eq_some h)
  simp [hrw, hin] at hne

theorem writtenS_getElem (ws : List (Reg × Word)) (v : Vector SReg 64) {i : Nat} (hi : i < 64) :
    (writtenS ws v)[i] = if i = 0 then v[i] else
      match ws.find? fun w => w.1.toNat == i with
      | some w => .live w.2 false
      | none => v[i] := by
  induction ws with
  | nil => simp [writtenS]
  | cons w ws ih =>
    have hz : w.1.toNat = 0 ↔ w.1 = 0#6 := BitVec.toNat_inj (y := 0#6)
    change (if w.1 = 0#6 then writtenS ws v else (writtenS ws v).set w.1.toNat (.live w.2 false) w.1.isLt)[i] = _
    rw [List.find?_cons]
    by_cases h0 : w.1 = 0#6
    · rw [if_pos h0, ih]
      refine if_ctx_congr Iff.rfl (fun _ => rfl) fun hi0 => ?_
      rw [beq_false_of_ne (a := w.1.toNat) (fun e => hi0 (e.symm.trans (hz.2 h0)))]
    · rw [if_neg h0, Vector.getElem_set]
      by_cases hw : w.1.toNat = i
      · rw [if_pos hw, if_neg (fun e => h0 (hz.1 (hw.trans e))), beq_iff_eq.2 hw]
      · rw [if_neg hw, beq_false_of_ne hw, ih]

theorem writtenM_getElem (tw : Nat) (ws : List (MReg × LaneBits)) (v : Vector MaskReg 16) {i : Nat} (hi : i < 16) :
    (writtenM tw ws v)[i] = if i = 0 then v[i] else
      match ws.find? fun w => w.1.toNat == i with
      | some w => .live (w.2 &&& lanesBelow tw) 0
      | none => v[i] := by
  induction ws with
  | nil => simp [writtenM]
  | cons w ws ih =>
    have hz : w.1.toNat = 0 ↔ w.1 = 0#4 := BitVec.toNat_inj (y := 0#4)
    change (if w.1 = 0#4 then writtenM tw ws v
      else (writtenM tw ws v).set w.1.toNat (.live (w.2 &&& lanesBelow tw) 0) w.1.isLt)[i] = _
    rw [List.find?_cons]
    by_cases h0 : w.1 = 0#4
    · rw [if_pos h0, ih]
      refine if_ctx_congr Iff.rfl (fun _ => rfl) fun hi0 => ?_
      rw [beq_false_of_ne (a := w.1.toNat) (fun e => hi0 (e.symm.trans (hz.2 h0)))]
    · rw [if_neg h0, Vector.getElem_set]
      by_cases hw : w.1.toNat = i
      · rw [if_pos hw, if_neg (fun e => h0 (hz.1 (hw.trans e))), beq_iff_eq.2 hw]
      · rw [if_neg hw, beq_false_of_ne hw, ih]

/-- Scalar registers written, and those used up but for them dead (07 R101). -/
theorem killedS_writtenS (used : List Reg) (ws : List (Reg × Word)) (t : Team) :
    killedS (unwritten ws used) (writtenS ws t.sregs) = scalarsAfter t used ws := by
  ext i hi
  simp only [killedS, scalarsAfter, Vector.getElem_ofFn, Fin.getElem_fin, Fin.ext_iff, Fin.val_zero, writtenS_getElem]
  cases hf : ws.find? fun w => w.1.toNat == i with
  | none => rw [any_unwritten ws used hf]; split <;> rfl
  | some w => rw [any_unwritten_of_some ws used hf]; split <;> rfl

theorem killedM_writtenM (used : List MReg) (ws : List (MReg × LaneBits)) (t : Team) :
    killedM (unwritten ws used) (writtenM t.tw ws t.masks) = masksAfter t used ws := by
  ext i hi
  simp only [killedM, masksAfter, Vector.getElem_ofFn, Fin.getElem_fin, Fin.ext_iff, Fin.val_zero, writtenM_getElem]
  cases hf : ws.find? fun w => w.1.toNat == i with
  | none => rw [any_unwritten ws used hf]; split <;> rfl
  | some w => rw [any_unwritten_of_some ws used hf]; split <;> rfl

theorem scalarsAfter_nil (t : Team) : scalarsAfter t [] [] = t.sregs := by
  ext i hi
  simp [scalarsAfter]

/-- Two registers written in either order. -/
theorem scalarsAfter_swap (t : Team) (used : List Reg) {a b : Reg × Word} (h : a.1 ≠ b.1) :
    scalarsAfter t used [a, b] = scalarsAfter t used [b, a] := by
  ext i hi
  simp only [scalarsAfter, Vector.getElem_ofFn, List.find?_cons, List.find?_nil]
  cases ha : a.1.toNat == i
  · cases b.1.toNat == i <;> rfl
  · have hb : (b.1.toNat == i) = false :=
      beq_false_of_ne fun e => h (BitVec.eq_of_toNat_eq ((beq_iff_eq.1 ha).trans e.symm))
    rw [hb]

/-- What completes with an instruction that names no vector register as a source and opens no promise: what it wrote of the
scalar and mask registers, what it used up of them, and the count. -/
theorem retire_written {sh : Shape} {used : List Reg} {ws : List (Reg × Word)} {usedM : List MReg}
    {wsM : List (MReg × LaneBits)}
    {u v : Team} (hla : sh.la = 0) (hV : usedUpV sh = []) (hS : usedUpS sh = unwritten ws used)
    (hM : usedUpM sh = unwritten wsM usedM) (hs : v.sregs = writtenS ws u.sregs) (hm : v.masks = writtenM u.tw wsM u.masks) :
    sh.retire v = { v with
      sregs := scalarsAfter u used ws, masks := masksAfter u usedM wsM,
      promises := promisesAged v, issued := v.issued + 1 } := by
  rw [retire_of_la_zero hla, hV, hS, hM, killed, List.map_nil, killedV_nil, hs, hm, killedS_writtenS, killedM_writtenM]

/-- The same of one whose sources are all scalar registers. -/
theorem retire_scalars {sh : Shape} {used : List Reg} {ws : List (Reg × Word)} {u v : Team} (hsh : ScalarSources sh)
    (hS : usedUpS sh = unwritten ws used) (hs : v.sregs = writtenS ws u.sregs) :
    sh.retire v = { v with sregs := scalarsAfter u used ws, promises := promisesAged v, issued := v.issued + 1 } := by
  rw [retire_of_scalarSources hsh, hS, hs, killedS_writtenS]

/-! ### The register writes of the model -/

theorem setS_sregs (t : Team) (r : Reg) (v : Word) : (t.setS r v).sregs = writtenS [(r, v)] t.sregs := by
  rw [setS_eq]
  rfl

theorem setPair_sregs (t : Team) (r : Reg) (x : Addr) :
    (t.setPair r x).sregs = writtenS [(r + 1#6, highWord x), (r, lowWord x)] t.sregs := by
  rw [Team.setPair, Team.setPairP, setSP_eq, setSP_eq]
  rfl

theorem setM_masks (t : Team) (m : MReg) (b : LaneBits) : (t.setM m b).masks = writtenM t.tw [(m, b)] t.masks := by
  rw [setM_eq]
  rfl

/-- A pair of registers is two. -/
theorem add_one_ne (r : Reg) : r + 1#6 ≠ r := by bv_omega

theorem scalarsAfter_pairWrites (t : Team) (used : List Reg) (d : Reg) (x : Addr) :
    scalarsAfter t used [(d + 1#6, highWord x), (d, lowWord x)] = scalarsAfter t used (pairWrites d x) :=
  scalarsAfter_swap t used (add_one_ne d)

/-! ### What the operand classes use up -/

theorem scalarSources_useP (as : List Src) (dsts : List Opnd) : ScalarSources { srcs := useP as, dsts := dsts } :=
  ⟨rfl, by simp [useP, Opnd.vectors, Opnd.maskRegs]⟩

theorem usedUpS_useP (as : List Src) (dsts : List Opnd) {ws : List (Reg × Word)}
    (h : dsts.flatMap Opnd.scalars = ws.map (·.1)) :
    usedUpS { srcs := useP as, dsts := dsts } = unwritten ws (lastPairs as) := by
  simp only [usedUpS, List.append_nil, h, flatMap_scalars_useP, unwritten]

theorem usedUpS_useS_of (as : List Src) (dsts : List Opnd) {ws : List (Reg × Word)}
    (h : dsts.flatMap Opnd.scalars = ws.map (·.1)) :
    usedUpS { srcs := useS as, dsts := dsts } = unwritten ws (lastOf as) := by
  simp only [usedUpS, List.append_nil, h, flatMap_scalars_useS, unwritten]

end Sys2Proof.Proofs
end

section
/-!
SUPPORT. The scalar arithmetic of majors 0x01 to 0x04 and 0x08 to 0x11: what its shared forms leave, and its results as the
tables of 09 R120 to R123 give them.
-/
namespace Sys2Proof.Proofs
open Sys2Proof.Machine Sys2Proof.Laws

/-! ### The shared forms -/

section Forms
variable {s : State} {t : Team} {d : Reg} {a b : Src}

theorem scalarRR_next (f : Word → Word → Word) (hi : Issues s t { srcs := useS [a, b], dsts := [.s d] }) :
    scalarRR f d a b s = .next (s.putTeam { t.past with
      sregs := scalarsAfter t (lastOf [a, b]) [(d, f (t.sval a.reg) (t.sval b.reg))] }) := by
  have hrun : scalarRR f d a b s = .next (s.putTeam (Shape.retire { srcs := useS [a, b], dsts := [.s d] }
      (t.begin.setS d (f (t.sval a.reg) (t.sval b.reg))).advance)) := runRegs_next hi.1 hi.2 rfl
  rw [hrun, retire_setS_advance (scalarSources_useS _ _) (usedUpS_useS _ _)]
  rfl

theorem scalarR_next (f : Word → Word) (hi : Issues s t { srcs := useS [a], dsts := [.s d] }) :
    scalarR f d a s = .next (s.putTeam { t.past with
      sregs := scalarsAfter t (lastOf [a]) [(d, f (t.sval a.reg))] }) := by
  have hrun : scalarR f d a s = .next (s.putTeam (Shape.retire { srcs := useS [a], dsts := [.s d] }
      (t.begin.setS d (f (t.sval a.reg))).advance)) := runRegs_next hi.1 hi.2 rfl
  rw [hrun, retire_setS_advance (scalarSources_useS _ _) (usedUpS_useS _ _)]
  rfl

/-- A 64-bit value in the pair named by the destination, and the instruction past. -/
theorem retire_setPair_advance (as : List Src) (d : Reg) (x : Addr) (t : Team) :
    Shape.retire { srcs := useP as, dsts := [.pair d] } (t.begin.setPair d x).advance =
      { t.past with sregs := scalarsAfter t (lastPairs as) (pairWrites d x) } := by
  have hu : usedUpS { srcs := useP as, dsts := [.pair d] } =
      unwritten [(d + 1#6, highWord x), (d, lowWord x)] (lastPairs as) := by
    simp only [usedUpS, List.append_nil, flatMap_scalars_useP, unwritten]
    refine List.filter_congr fun r _ => congrArg (!·) ?_
    rw [Bool.eq_iff_iff]
    simp [Opnd.scalars, or_comm]
  rw [retire_scalars (scalarSources_useP _ _) hu (u := t) (v := (t.begin.setPair d x).advance) (setPair_sregs t.begin d x),
    scalarsAfter_pairWrites, Team.setPair, Team.setPairP, setSP_eq, setSP_eq]
  rfl

theorem pairRR_next (f : Addr → Addr → Addr) (hi : Issues s t { srcs := useP [a, b], dsts := [.pair d] }) :
    pairRR f d a b s = .next (s.putTeam { t.past with
      sregs := scalarsAfter t (lastPairs [a, b]) (pairWrites d (f (t.pair a.reg) (t.pair b.reg))) }) := by
  have hrun : pairRR f d a b s = .next (s.putTeam (Shape.retire { srcs := useP [a, b], dsts := [.pair d] }
      (t.begin.setPair d (f (t.pair a.reg) (t.pair b.reg))).advance)) := runRegs_next hi.1 hi.2 rfl
  rw [hrun, retire_setPair_advance]

theorem pairR_next (f : Addr → Addr) (hi : Issues s t { srcs := useP [a], dsts := [.pair d] }) :
    pairR f d a s = .next (s.putTeam { t.past with
      sregs := scalarsAfter t (lastPairs [a]) (pairWrites d (f (t.pair a.reg))) }) := by
  have hrun : pairR f d a s = .next (s.putTeam (Shape.retire { srcs := useP [a], dsts := [.pair d] }
      (t.begin.setPair d (f (t.pair a.reg))).advance)) := runRegs_next hi.1 hi.2 rfl
  rw [hrun, retire_setPair_advance]

end Forms

/-- Instruction `i` writes `g` of its two scalar sources (09 R120). -/
def Computes2 (i : Reg → Src → Src → Instr) (g : Word → Word → Word) : Prop :=
  ∀ (d : Reg) (a b : Src) (s : State) (t : Team), Issues s t { srcs := useS [a, b], dsts := [.s d] } →
    exec (i d a b) s = .next (s.putTeam { t.past with
      sregs := scalarsAfter t (lastOf [a, b]) [(d, g (t.sval a.reg) (t.sval b.reg))] })

/-- Instruction `i`, where it is well formed, writes `g` of its scalar source. -/
def Computes1 (i : Reg → Src → Instr) (g : Word → Word) : Prop :=
  ∀ (d : Reg) (a : Src) (s : State) (t : Team), (i d a).wf = true → Issues s t { srcs := useS [a], dsts := [.s d] } →
    exec (i d a) s = .next (s.putTeam { t.past with sregs := scalarsAfter t (lastOf [a]) [(d, g (t.sval a.reg))] })

/-- The same of two pairs and a pair (09 R123). -/
def ComputesPair2 (i : Reg → Src → Src → Instr) (g : Addr → Addr → Addr) : Prop :=
  ∀ (d : Reg) (a b : Src) (s : State) (t : Team), Issues s t { srcs := useP [a, b], dsts := [.pair d] } →
    exec (i d a b) s = .next (s.putTeam { t.past with
      sregs := scalarsAfter t (lastPairs [a, b]) (pairWrites d (g (t.pair a.reg) (t.pair b.reg))) })

def ComputesPair1 (i : Reg → Src → Instr) (g : Addr → Addr) : Prop :=
  ∀ (d : Reg) (a : Src) (s : State) (t : Team), Issues s t { srcs := useP [a], dsts := [.pair d] } →
    exec (i d a) s = .next (s.putTeam { t.past with
      sregs := scalarsAfter t (lastPairs [a]) (pairWrites d (g (t.pair a.reg))) })

theorem computes2_of {i : Reg → Src → Src → Instr} {f g : Word → Word → Word}
    (he : ∀ d a b s, exec (i d a b) s = scalarRR f d a b s) (hfg : ∀ x y, f x y = g x y) : Computes2 i g := by
  obtain rfl : f = g := funext fun x => funext fun y => hfg x y
  intro d a b s t hi
  rw [he, scalarRR_next f hi]

theorem computes1_of {i : Reg → Src → Instr} {f g : Word → Word} (he : ∀ d a s, exec (i d a) s = scalarR f d a s)
    (hfg : ∀ d a, (i d a).wf = true → ∀ x, f x = g x) : Computes1 i g := by
  intro d a s t hw hi
  rw [he, scalarR_next f hi, hfg d a hw]

theorem computesPair2_of {i : Reg → Src → Src → Instr} {f g : Addr → Addr → Addr}
    (he : ∀ d a b s, exec (i d a b) s = pairRR f d a b s) (hfg : ∀ x y, f x y = g x y) : ComputesPair2 i g := by
  obtain rfl : f = g := funext fun x => funext fun y => hfg x y
  intro d a b s t hi
  rw [he, pairRR_next f hi]

theorem computesPair1_of {i : Reg → Src → Instr} {f g : Addr → Addr} (he : ∀ d a s, exec (i d a) s = pairR f d a s)
    (hfg : ∀ x, f x = g x) : ComputesPair1 i g := by
  obtain rfl : f = g := funext hfg
  intro d a s t hi
  rw [he, pairR_next f hi]

/-! ### Results -/

section Results
variable {n : Nat}

theorem add_eq_ofNat (x y : BitVec n) : x + y = .ofNat n (x.toNat + y.toNat) := by
  rw [BitVec.ofNat_add, BitVec.ofNat_toNat, BitVec.ofNat_toNat, BitVec.setWidth_eq, BitVec.setWidth_eq]

theorem mul_eq_ofNat (x y : BitVec n) : x * y = .ofNat n (x.toNat * y.toNat) := by
  rw [BitVec.ofNat_mul, BitVec.ofNat_toNat, BitVec.ofNat_toNat, BitVec.setWidth_eq, BitVec.setWidth_eq]

theorem sub_eq_ofInt (x y : BitVec n) : x - y = .ofInt n (x.toNat - y.toNat) := by
  refine BitVec.eq_of_toNat_eq ?_
  have hx := x.isLt
  have hy := y.isLt
  rw [BitVec.toNat_sub, BitVec.toNat_ofInt]
  have hcast : ((2 ^ n - y.toNat + x.toNat : Nat) : Int) = (x.toNat - y.toNat : Int) + (2 ^ n : Nat) := by omega
  have h : (((2 ^ n - y.toNat + x.toNat) % 2 ^ n : Nat) : Int) = (x.toNat - y.toNat : Int) % (2 ^ n : Nat) := by
    rw [Int.natCast_mod, hcast, Int.add_emod_right]
  rw [← h, Int.toNat_natCast]

theorem shiftLeft_eq_ofNat (x : BitVec n) (k : Nat) : x <<< k = .ofNat n (x.toNat * 2 ^ k) :=
  BitVec.eq_of_toNat_eq (by rw [BitVec.toNat_shiftLeft, BitVec.toNat_ofNat, Nat.shiftLeft_eq])

theorem shiftRight_eq_ofNat (x : BitVec n) (k : Nat) : x >>> k = .ofNat n (x.toNat / 2 ^ k) := by
  rw [← Nat.shiftRight_eq_div_pow, ← BitVec.toNat_ushiftRight, BitVec.ofNat_toNat, BitVec.setWidth_eq]

theorem sshiftRight_eq_ofInt (x : BitVec n) (k : Nat) : x.sshiftRight k = .ofInt n (x.toInt / 2 ^ k) := by
  rw [← BitVec.ofInt_toInt (x := x.sshiftRight k), BitVec.toInt_sshiftRight, Int.shiftRight_eq_div_pow]
  rfl

/-- An immediate is added with its sign. -/
theorem add_signExtend_eq (x : BitVec n) {m : Nat} (i : BitVec m) : x + i.signExtend n = .ofInt n (x.toInt + i.toInt) := by
  rw [BitVec.ofInt_add, BitVec.ofInt_toInt]
  rfl

theorem add_signExtend_eq_toNat (x : BitVec n) {m : Nat} (i : BitVec m) :
    x + i.signExtend n = .ofInt n (x.toNat + i.toInt) := by
  rw [BitVec.ofInt_add, BitVec.ofInt_natCast, BitVec.ofNat_toNat, BitVec.setWidth_eq]
  rfl

end Results

theorem amount_eq (y : Word) : amount y = y.toNat % 32 := by
  rw [amount, fld, Nat.pow_zero, Nat.div_one]
  rfl

theorem boolWord_decide (p : Prop) [Decidable p] : boolWord (decide p) = if p then 1 else 0 := by
  by_cases h : p <;> simp [boolWord, h]

theorem min_eq_ofInt (x y : Word) : (if x.toInt ≤ y.toInt then x else y) = .ofInt 32 (min x.toInt y.toInt) := by
  split
  next h => rw [min_eq_left h, BitVec.ofInt_toInt]
  next h => rw [min_eq_right (by omega), BitVec.ofInt_toInt]

theorem max_eq_ofInt (x y : Word) : (if x.toInt ≤ y.toInt then y else x) = .ofInt 32 (max x.toInt y.toInt) := by
  split
  next h => rw [max_eq_right h, BitVec.ofInt_toInt]
  next h => rw [max_eq_left (by omega), BitVec.ofInt_toInt]

theorem minu_eq_ofNat (x y : Word) : (if x.toNat ≤ y.toNat then x else y) = .ofNat 32 (min x.toNat y.toNat) := by
  split
  next h => rw [min_eq_left h, BitVec.ofNat_toNat, BitVec.setWidth_eq]
  next h => rw [min_eq_right (by omega), BitVec.ofNat_toNat, BitVec.setWidth_eq]

theorem maxu_eq_ofNat (x y : Word) : (if x.toNat ≤ y.toNat then y else x) = .ofNat 32 (max x.toNat y.toNat) := by
  split
  next h => rw [max_eq_right h, BitVec.ofNat_toNat, BitVec.setWidth_eq]
  next h => rw [max_eq_left (by omega), BitVec.ofNat_toNat, BitVec.setWidth_eq]

/-- The values below `n` up to the first that fails `p`. -/
theorem takeWhile_range {p : Nat → Bool} {n k : Nat} (hk : k ≤ n) (hp : ∀ i < k, p i = true)
    (hn : k < n → p k = false) :
    (List.range n).takeWhile p = List.range k := by
  obtain ⟨m, rfl⟩ := Nat.exists_eq_add_of_le hk
  rw [List.range_add, List.takeWhile_append_of_pos fun i hi => hp i (List.mem_range.1 hi)]
  cases m with
  | zero => simp
  | succ m => simp [List.range_succ_eq_map, hn (by omega)]

/-- Leading zeros, counted from bit 31 down (09 R121). -/
theorem leadingZeros_eq (x : Word) :
    leadingZeros x = .ofNat 32 ((List.range 32).takeWhile fun i => !x.getLsbD (31 - i)).length := by
  unfold leadingZeros
  by_cases h0 : x = 0
  · subst h0
    rw [if_pos rfl, takeWhile_range (k := 32) (Nat.le_refl _) (by simp) (by omega), List.length_range]
  · have hne : x.toNat ≠ 0 := fun e => h0 (BitVec.eq_of_toNat_eq e)
    have hlog : x.toNat.log2 < 32 := (Nat.log2_lt hne).2 x.isLt
    rw [if_neg h0, takeWhile_range (k := 31 - x.toNat.log2) (by omega), List.length_range]
    · intro i hi
      have hbig : x.toNat < 2 ^ (31 - i) := (Nat.log2_lt hne).1 (by omega)
      simp [BitVec.getLsbD, Nat.testBit_eq_false_of_lt hbig]
    · intro _
      have : 31 - (31 - x.toNat.log2) = x.toNat.log2 := by omega
      rw [this]
      simpa [BitVec.getLsbD] using Nat.testBit_log2 hne

theorem popCount_eq (x : Word) :
    BitVec.ofNat 32 (popCount 32 x.toNat) = .ofNat 32 ((List.range 32).countP fun i => x.getLsbD i) := by
  rw [popCount, List.countP_eq_length_filter]
  rfl

/-- The low `n` bits with the sign of the highest of them (09 R121). -/
theorem signExtendLow_eq {n : Nat} (hn : 1 ≤ n) (x : Word) : signExtendLow n x = (x.setWidth n).signExtend 32 := by
  have hmsb : (x.setWidth n).msb = x.getLsbD (n - 1) := by
    rw [BitVec.msb_eq_getLsbD_last, BitVec.getLsbD_setWidth]
    simp only [show n - 1 < n by omega, decide_true, Bool.true_and]
  have hlow : fld 0 n x.toNat = (x.setWidth n).toNat := by rw [fld, Nat.pow_zero, Nat.div_one, BitVec.toNat_setWidth]
  rw [signExtendLow, BitVec.signExtend, BitVec.toInt_eq_msb_cond, hmsb, hlow]
  split
  · rfl
  · exact (BitVec.ofInt_natCast ..).symm

theorem zeroExtendLow_eq (n : Nat) (x : Word) : zeroExtendLow n x = (x.setWidth n).setWidth 32 :=
  BitVec.eq_of_toNat_eq (by
    rw [zeroExtendLow, fld, Nat.pow_zero, Nat.div_one, BitVec.toNat_ofNat, BitVec.toNat_setWidth, BitVec.toNat_setWidth])

/-- An immediate compared without sign is sign-extended first (09 R122). -/
theorem lt_signExtend_iff (x : Word) (k : BitVec 12) :
    x.toNat < (k.signExtend 32).toNat ↔ (x.toNat : Int) < k.toInt % 2 ^ 32 := by
  have hnn : 0 ≤ k.toInt % 2 ^ 32 := Int.emod_nonneg _ (by decide)
  rw [BitVec.signExtend, BitVec.toNat_ofInt]
  omega

/-! ### The instructions -/

theorem computes_add : Computes2 .add (fun a b => .ofNat 32 (a.toNat + b.toNat)) :=
  computes2_of (f := (· + ·)) (fun _ _ _ _ => rfl) add_eq_ofNat

theorem computes_sub : Computes2 .sub (fun a b => .ofInt 32 (a.toNat - b.toNat)) :=
  computes2_of (f := (· - ·)) (fun _ _ _ _ => rfl) sub_eq_ofInt

theorem computes_mul : Computes2 .mul (fun a b => .ofNat 32 (a.toNat * b.toNat)) :=
  computes2_of (f := (· * ·)) (fun _ _ _ _ => rfl) mul_eq_ofNat

theorem computes_mulh : Computes2 .mulh (fun a b => .ofInt 32 (a.toInt * b.toInt / 2 ^ 32)) :=
  computes2_of (f := mulHigh) (fun _ _ _ _ => rfl) fun _ _ => rfl

theorem computes_mulhu : Computes2 .mulhu (fun a b => .ofNat 32 (a.toNat * b.toNat / 2 ^ 32)) :=
  computes2_of (f := mulHighU) (fun _ _ _ _ => rfl) fun _ _ => rfl

theorem computes_and : Computes2 .and (fun a b => a &&& b) :=
  computes2_of (f := (· &&& ·)) (fun _ _ _ _ => rfl) fun _ _ => rfl

theorem computes_or : Computes2 .or (fun a b => a ||| b) :=
  computes2_of (f := (· ||| ·)) (fun _ _ _ _ => rfl) fun _ _ => rfl

theorem computes_xor : Computes2 .xor (fun a b => a ^^^ b) :=
  computes2_of (f := (· ^^^ ·)) (fun _ _ _ _ => rfl) fun _ _ => rfl

theorem computes_andn : Computes2 .andn (fun a b => a &&& ~~~b) :=
  computes2_of (f := fun x y => x &&& ~~~y) (fun _ _ _ _ => rfl) fun _ _ => rfl

theorem computes_shl : Computes2 .shl (fun a b => .ofNat 32 (a.toNat * 2 ^ (b.toNat % 32))) :=
  computes2_of (f := fun x y => x <<< amount y) (fun _ _ _ _ => rfl) fun x y => by rw [amount_eq, shiftLeft_eq_ofNat]

theorem computes_shr : Computes2 .shr (fun a b => .ofNat 32 (a.toNat / 2 ^ (b.toNat % 32))) :=
  computes2_of (f := fun x y => x >>> amount y) (fun _ _ _ _ => rfl) fun x y => by rw [amount_eq, shiftRight_eq_ofNat]

theorem computes_sra : Computes2 .sra (fun a b => .ofInt 32 (a.toInt / 2 ^ (b.toNat % 32))) :=
  computes2_of (f := fun x y => x.sshiftRight (amount y)) (fun _ _ _ _ => rfl)
    fun x y => by rw [amount_eq, sshiftRight_eq_ofInt]

theorem computes_min : Computes2 .min (fun a b => .ofInt 32 (min a.toInt b.toInt)) :=
  computes2_of (f := fun x y => if x.toInt ≤ y.toInt then x else y) (fun _ _ _ _ => rfl) min_eq_ofInt

theorem computes_max : Computes2 .max (fun a b => .ofInt 32 (max a.toInt b.toInt)) :=
  computes2_of (f := fun x y => if x.toInt ≤ y.toInt then y else x) (fun _ _ _ _ => rfl) max_eq_ofInt

theorem computes_minu : Computes2 .minu (fun a b => .ofNat 32 (min a.toNat b.toNat)) :=
  computes2_of (f := fun x y => if x.toNat ≤ y.toNat then x else y) (fun _ _ _ _ => rfl) minu_eq_ofNat

theorem computes_maxu : Computes2 .maxu (fun a b => .ofNat 32 (max a.toNat b.toNat)) :=
  computes2_of (f := fun x y => if x.toNat ≤ y.toNat then y else x) (fun _ _ _ _ => rfl) maxu_eq_ofNat

theorem computes_seq : Computes2 .seq (fun a b => if a = b then 1 else 0) :=
  computes2_of (f := fun x y => boolWord (x == y)) (fun _ _ _ _ => rfl) fun x y => by by_cases h : x = y <;> simp [boolWord, h]

theorem computes_sne : Computes2 .sne (fun a b => if a = b then 0 else 1) :=
  computes2_of (f := fun x y => boolWord (x != y)) (fun _ _ _ _ => rfl) fun x y => by by_cases h : x = y <;> simp [boolWord, h]

theorem computes_slt : Computes2 .slt (fun a b => if a.toInt < b.toInt then 1 else 0) :=
  computes2_of (f := fun x y => boolWord (x.toInt < y.toInt)) (fun _ _ _ _ => rfl) fun _ _ => boolWord_decide _

theorem computes_sltu : Computes2 .sltu (fun a b => if a.toNat < b.toNat then 1 else 0) :=
  computes2_of (f := fun x y => boolWord (x.toNat < y.toNat)) (fun _ _ _ _ => rfl) fun _ _ => boolWord_decide _

theorem one_le_of_widthOk {m : BitVec 6} (h : widthOk m = true) : 1 ≤ m.toNat := by
  simp only [widthOk, Bool.and_eq_true, decide_eq_true_eq] at h
  exact h.1

section Immediates
variable (k : BitVec 12) (n : BitVec 5) (m : BitVec 6)

theorem computes_clz : Computes1 .clz (fun a => .ofNat 32 ((List.range 32).takeWhile fun i => !a.getLsbD (31 - i)).length) :=
  computes1_of (f := leadingZeros) (fun _ _ _ => rfl) fun _ _ _ => leadingZeros_eq

theorem computes_popc : Computes1 .popc (fun a => .ofNat 32 ((List.range 32).countP fun i => a.getLsbD i)) :=
  computes1_of (f := fun x => .ofNat 32 (popCount 32 x.toNat)) (fun _ _ _ => rfl) fun _ _ _ => popCount_eq

theorem computes_mov : Computes1 .mov (fun a => a) :=
  computes1_of (f := id) (fun _ _ _ => rfl) fun _ _ _ _ => rfl

theorem computes_sext : Computes1 (fun d a => .sext d a m) (fun a => (a.setWidth m.toNat).signExtend 32) :=
  computes1_of (f := signExtendLow m.toNat) (fun _ _ _ => rfl) fun _ _ hw => signExtendLow_eq (one_le_of_widthOk hw)

theorem computes_zext : Computes1 (fun d a => .zext d a m) (fun a => (a.setWidth m.toNat).setWidth 32) :=
  computes1_of (f := zeroExtendLow m.toNat) (fun _ _ _ => rfl) fun _ _ _ => zeroExtendLow_eq _

theorem computes_addi : Computes1 (fun d a => .addi d a k) (fun a => .ofInt 32 (a.toInt + k.toInt)) :=
  computes1_of (f := fun x => x + k.signExtend 32) (fun _ _ _ => rfl) fun _ _ _ x => add_signExtend_eq x k

theorem computes_andi : Computes1 (fun d a => .andi d a k) (fun a => a &&& k.setWidth 32) :=
  computes1_of (f := fun x => x &&& k.setWidth 32) (fun _ _ _ => rfl) fun _ _ _ _ => rfl

theorem computes_ori : Computes1 (fun d a => .ori d a k) (fun a => a ||| k.setWidth 32) :=
  computes1_of (f := fun x => x ||| k.setWidth 32) (fun _ _ _ => rfl) fun _ _ _ _ => rfl

theorem computes_xori : Computes1 (fun d a => .xori d a k) (fun a => a ^^^ k.setWidth 32) :=
  computes1_of (f := fun x => x ^^^ k.setWidth 32) (fun _ _ _ => rfl) fun _ _ _ _ => rfl

theorem computes_shli : Computes1 (fun d a => .shli d a n) (fun a => .ofNat 32 (a.toNat * 2 ^ n.toNat)) :=
  computes1_of (f := fun x => x <<< n.toNat) (fun _ _ _ => rfl) fun _ _ _ x => shiftLeft_eq_ofNat x _

theorem computes_shri : Computes1 (fun d a => .shri d a n) (fun a => .ofNat 32 (a.toNat / 2 ^ n.toNat)) :=
  computes1_of (f := fun x => x >>> n.toNat) (fun _ _ _ => rfl) fun _ _ _ x => shiftRight_eq_ofNat x _

theorem computes_srai : Computes1 (fun d a => .srai d a n) (fun a => .ofInt 32 (a.toInt / 2 ^ n.toNat)) :=
  computes1_of (f := fun x => x.sshiftRight n.toNat) (fun _ _ _ => rfl) fun _ _ _ x => sshiftRight_eq_ofInt x _

theorem computes_slti : Computes1 (fun d a => .slti d a k) (fun a => if a.toInt < k.toInt then 1 else 0) :=
  computes1_of (f := fun x => boolWord (x.toInt < k.toInt)) (fun _ _ _ => rfl) fun _ _ _ _ => boolWord_decide _

theorem computes_sltiu : Computes1 (fun d a => .sltiu d a k) (fun a => if (a.toNat : Int) < k.toInt % 2 ^ 32 then 1 else 0) :=
  computes1_of (f := fun x => boolWord (x.toNat < (k.signExtend 32).toNat)) (fun _ _ _ => rfl) fun _ _ _ x =>
    (boolWord_decide _).trans (if_congr (lt_signExtend_iff x k) rfl rfl)

end Immediates

end Sys2Proof.Proofs
end

section
/-!
The obligation on scalar arithmetic.
-/
namespace Sys2Proof.Proofs
open Sys2Proof.Machine Sys2Proof.Laws

/-- Settles O9: each instruction is `scalarRR` or `scalarR` (`computes2_of`, `computes1_of`), and each function of the model is
that of the table. -/
theorem scalarArithmetic : Obligations.ScalarArithmetic := by
  unfold Obligations.ScalarArithmetic
  refine ⟨?_, fun k n m => ?_⟩
  · simp only [List.forall_mem_cons, List.not_mem_nil, false_imp_iff, implies_true, and_true]
    exact ⟨computes_add, computes_sub, computes_mul, computes_mulh, computes_mulhu, computes_and, computes_or, computes_xor,
      computes_andn, computes_shl, computes_shr, computes_sra, computes_min, computes_max, computes_minu, computes_maxu,
      computes_seq, computes_sne, computes_slt, computes_sltu⟩
  · simp only [List.forall_mem_cons, List.not_mem_nil, false_imp_iff, implies_true, and_true]
    exact ⟨computes_clz, computes_popc, computes_mov, computes_sext m, computes_zext m, computes_addi k, computes_andi k,
      computes_ori k, computes_xori k, computes_shli n, computes_shri n,
      computes_srai n, computes_slti k, computes_sltiu k⟩

end Sys2Proof.Proofs
end

section
/-!
SUPPORT. The 64-bit pair forms, SEL, LUI, ADDPC and STAMP (09 R121 to R123, R140).
-/
namespace Sys2Proof.Proofs
open Sys2Proof.Machine Sys2Proof.Laws

theorem computes_addx : ComputesPair2 .addx (fun a b => .ofNat 64 (a.toNat + b.toNat)) :=
  computesPair2_of (f := (· + ·)) (fun _ _ _ _ => rfl) add_eq_ofNat

theorem computes_subx : ComputesPair2 .subx (fun a b => .ofInt 64 (a.toNat - b.toNat)) :=
  computesPair2_of (f := (· - ·)) (fun _ _ _ _ => rfl) sub_eq_ofInt

theorem computes_shlix (n : BitVec 6) : ComputesPair1 (fun d a => .shlix d a n) (fun a => .ofNat 64 (a.toNat * 2 ^ n.toNat)) :=
  computesPair1_of (f := fun x => x <<< n.toNat) (fun _ _ _ => rfl) fun x => shiftLeft_eq_ofNat x _

theorem computes_shrix (n : BitVec 6) : ComputesPair1 (fun d a => .shrix d a n) (fun a => .ofNat 64 (a.toNat / 2 ^ n.toNat)) :=
  computesPair1_of (f := fun x => x >>> n.toNat) (fun _ _ _ => rfl) fun x => shiftRight_eq_ofNat x _

theorem computes_addix (k : BitVec 12) : ComputesPair1 (fun d a => .addix d a k) (fun a => .ofInt 64 (a.toNat + k.toInt)) :=
  computesPair1_of (f := fun x => x + k.signExtend 64) (fun _ _ _ => rfl) fun x => add_signExtend_eq_toNat x k

section Moves
variable {s : State} {t : Team} {d : Reg} {a b : Src}

/-- An instruction whose effect never stops it. -/
theorem runRegs_ok_next {sh : Shape} (f : Team → Team) (hi : Issues s t sh) :
    runRegs (fun _ => sh) (fun t => .ok (f t)) s = .next (s.putTeam (sh.retire (f t.begin))) := runRegs_next hi.1 hi.2 rfl

/-- SLTUX compares two pairs without sign. -/
theorem exec_sltux (hi : Issues s t { srcs := useP [a, b], dsts := [.s d] }) :
    exec (.sltux d a b) s = .next (s.putTeam { t.past with
      sregs := scalarsAfter t (lastPairs [a, b]) [(d, if (t.pair a.reg).toNat < (t.pair b.reg).toNat then 1 else 0)] }) := by
  have hrun : exec (.sltux d a b) s = .next (s.putTeam (Shape.retire { srcs := useP [a, b], dsts := [.s d] }
      (t.begin.setS d (boolWord ((t.pair a.reg).toNat < (t.pair b.reg).toNat))).advance)) :=
    runRegs_ok_next (fun t => (t.setS d (boolWord ((t.pair a.reg).toNat < (t.pair b.reg).toNat))).advance) hi
  have hu : usedUpS { srcs := useP [a, b], dsts := [.s d] } = (lastPairs [a, b]).filter fun r => r != d := by
    simp only [usedUpS, List.append_nil, keeps_dst, flatMap_scalars_useP]
  rw [hrun, retire_setS_advance (scalarSources_useP _ _) hu, boolWord_decide]
  rfl

/-- SEL picks by the old value of its destination. -/
theorem exec_sel (hi : Issues s t { srcs := useS [a, b, ⟨d, false⟩], dsts := [.s d] }) :
    exec (.sel d a b) s = .next (s.putTeam { t.past with
      sregs := scalarsAfter t (lastOf [a, b]) [(d, if t.sval d = 0 then t.sval b.reg else t.sval a.reg)] }) := by
  have hrun : exec (.sel d a b) s = .next (s.putTeam (Shape.retire { srcs := useS [a, b, ⟨d, false⟩], dsts := [.s d] }
      (t.begin.setS d (if t.sval d != 0 then t.sval a.reg else t.sval b.reg)).advance)) :=
    runRegs_ok_next (fun t => (t.setS d (if t.sval d != 0 then t.sval a.reg else t.sval b.reg)).advance) hi
  have hlast : lastOf [a, b, ⟨d, false⟩] = lastOf [a, b] := by
    rw [lastOf, lastOf, ← List.singleton_append, ← List.append_nil [a, b]]
    simp [List.filter_cons]
  have hpick : (if t.sval d != 0 then t.sval a.reg else t.sval b.reg) =
      if t.sval d = 0 then t.sval b.reg else t.sval a.reg := by
    by_cases h : t.sval d = 0 <;> simp [h]
  rw [hrun, retire_setS_advance (scalarSources_useS _ _) (usedUpS_useS _ _), hlast, hpick]
  rfl

theorem exec_lui (k : BitVec 20) (hi : Issues s t { dsts := [.s d] }) :
    exec (.lui d k) s = .next (s.putTeam { t.past with sregs := scalarsAfter t [] [(d, .ofNat 32 (k.toNat * 2 ^ 12))] }) := by
  have hrun : exec (.lui d k) s = .next (s.putTeam (Shape.retire { srcs := useS [], dsts := [.s d] }
      (t.begin.setS d (k.setWidth 32 <<< 12)).advance)) :=
    runRegs_ok_next (fun t => (t.setS d (k.setWidth 32 <<< 12)).advance) hi
  have hk : k.setWidth 32 <<< 12 = BitVec.ofNat 32 (k.toNat * 2 ^ 12) := by
    rw [shiftLeft_eq_ofNat, BitVec.toNat_setWidth, Nat.mod_eq_of_lt (by omega)]
  rw [hrun, retire_setS_advance (scalarSources_useS _ _) (usedUpS_useS _ _), hk]
  rfl

/-- ADDPC counts from its own address. -/
theorem exec_addpc (k : BitVec 20) (hi : Issues s t { dsts := [.pair d] }) :
    exec (.addpc d k) s = .next (s.putTeam { t.past with
      sregs := scalarsAfter t [] (pairWrites d (.ofInt 64 (t.pc.toNat + k.toInt * 2 ^ 12))) }) := by
  have hrun : exec (.addpc d k) s = .next (s.putTeam (Shape.retire { srcs := useP [], dsts := [.pair d] }
      (t.begin.setPair d (t.pc + k.signExtend 64 <<< 12)).advance)) :=
    runRegs_ok_next (fun t => (t.setPair d (t.pc + k.signExtend 64 <<< 12)).advance) hi
  have hk : t.pc + k.signExtend 64 <<< 12 = BitVec.ofInt 64 (t.pc.toNat + k.toInt * 2 ^ 12) := by
    have hshift : k.signExtend 64 <<< 12 = BitVec.ofInt 64 (k.toInt * 2 ^ 12) := by
      rw [BitVec.shiftLeft_eq_mul_twoPow, BitVec.ofInt_mul]
      rfl
    rw [BitVec.ofInt_add, hshift, BitVec.ofInt_natCast, BitVec.ofNat_toNat, BitVec.setWidth_eq]
  rw [hrun, retire_setPair_advance, hk]
  rfl

theorem exec_stamp (hi : Issues s t { dsts := [.pair d] }) :
    exec (.stamp d) s = .next (s.putTeam { t.past with sregs := scalarsAfter t [] (pairWrites d (s.coreTime t.core)) }) := by
  have hrun : exec (.stamp d) s = .next (s.putTeam (Shape.retire { srcs := useP [], dsts := [.pair d] }
      (t.begin.setPair d (s.coreTime t.core)).advance)) :=
    runRegs_ok_next (fun t => (t.setPair d (s.coreTime t.core)).advance) hi
  rw [hrun, retire_setPair_advance]
  rfl

end Moves

end Sys2Proof.Proofs
end

section
/-!
The obligations on the word of ENTRY, and on pairs and moves.
-/
namespace Sys2Proof.Proofs
open Sys2Proof.Machine Sys2Proof.Laws

/-- Settles O2: ENTRY has one word, and a word that decodes is the encoding of what it decodes to (`decodeAndEncodeAgree`). -/
theorem entryIsOneWord : Obligations.EntryIsOneWord := by
  unfold Obligations.EntryIsOneWord
  have henc : encode .entry = some 0x5D000000#32 := by decide
  intro w
  constructor
  · intro h
    have hw := (decodeAndEncodeAgree.2 w .entry h).2
    exact (Option.some.inj (henc.symm.trans hw)).symm
  · rintro rfl
    exact decode_of_encode rfl henc

/-- Settles O10: the pair forms by `computesPair2_of` and `computesPair1_of`, the moves one by one. -/
theorem scalarPairsAndMoves : Obligations.ScalarPairsAndMoves := by
  unfold Obligations.ScalarPairsAndMoves
  refine ⟨⟨?_, fun n k => ?_, fun d a b s t => exec_sltux⟩, fun d a b s t => exec_sel, fun d k s t => exec_lui k,
    fun d k s t hi => ⟨exec_addpc k hi, exec_stamp hi⟩⟩
  · simp only [List.forall_mem_cons, List.not_mem_nil, false_imp_iff, implies_true, and_true]
    exact ⟨computes_addx, computes_subx⟩
  · simp only [List.forall_mem_cons, List.not_mem_nil, false_imp_iff, implies_true, and_true]
    exact ⟨computes_shlix n, computes_shrix n, computes_addix k⟩

end Sys2Proof.Proofs
end

section
/-!
SUPPORT. Branches, calls, jumps and RET (09 R125 to R131): the word that they read, and the team that they leave.
-/
namespace Sys2Proof.Proofs
open Sys2Proof.Machine Sys2Proof.Laws

section Branches
variable {s : State} {t : Team}

theorem trapped_at {c : TrapCode} (h : c ≠ .acquireFailed) (va : Addr) (k : Nat) :
    s.trapped t (.at c va k) = s.takeTrap t ⟨c, va, k, none, none⟩ := trapped_of_ne h

/-! ### Instructions that only move PC -/

theorem retire_advance {sh : Shape} (hla : sh.la = 0) (h : ∀ u ∈ sh.srcs ++ sh.unread, u.last = false) :
    sh.retire t.begin.advance = t.past := by
  rw [retire_of_no_last hla h]
  rfl

theorem retire_goto {sh : Shape} (hla : sh.la = 0) (h : ∀ u ∈ sh.srcs ++ sh.unread, u.last = false) (a : Addr) :
    sh.retire (t.begin.goto a) = t.arrived a := by
  rw [retire_of_no_last hla h]
  rfl

/-- A branch without a fetch: to its target, or past it. -/
theorem retire_branch {sh : Shape} (hla : sh.la = 0) (h : ∀ u ∈ sh.srcs ++ sh.unread, u.last = false)
    (taken : Bool) {n : Nat} (i : BitVec n) :
    sh.retire (if taken then t.begin.goto (branchTarget t.begin i) else t.begin.advance) =
      if taken then t.arrived (targetOf t i.toInt) else t.past := by
  rw [apply_ite sh.retire, retire_goto hla h, retire_advance hla h, branchTarget_eq]
  rfl

theorem branchScalar_next {r : Reg} (taken : Word → Bool) (i : BitVec 19)
    (hi : Issues s t { srcs := useS [⟨r, false⟩] }) : branchScalar taken r i s =
      .next (s.putTeam (if taken (t.sval r) then t.arrived (targetOf t i.toInt) else t.past)) := by
  have hrun : branchScalar taken r i s = .next (s.putTeam (Shape.retire { srcs := useS [⟨r, false⟩] }
      (if taken (t.sval r) then t.begin.goto (branchTarget t.begin i) else t.begin.advance))) :=
    runRegs_ok_next (fun t => if taken (t.sval r) then t.goto (branchTarget t i) else t.advance) hi
  rw [hrun, retire_branch rfl (by simp [useS])]

/-- The operands of a mask branch, and its style check (03 R41). -/
def maskBranchShape (m : MReg) (t : Team) : Shape :=
  { srcs := useM [⟨m, false⟩], exm := true, early := if t.structured then some (.at .illegalMode 0 0) else none }

theorem branchMask_next {m : MReg} (taken : LaneBits → LaneBits → Bool) (i : BitVec 20) (hst : t.structured = false)
    (hi : Issues s t { srcs := useM [⟨m, false⟩], exm := true }) : branchMask taken m i s =
      .next (s.putTeam (if taken (t.mbits m) t.exm then t.arrived (targetOf t i.toInt) else t.past)) := by
  have hk : (maskBranchShape m t).check t s = none := by
    rw [maskBranchShape, if_neg (by simp [hst])]
    exact hi.2
  have hrun : branchMask taken m i s = .next (s.putTeam ((maskBranchShape m t).retire
      (if taken (t.mbits m) t.exm then t.begin.goto (branchTarget t.begin i) else t.begin.advance))) :=
    runRegs_next (sh := maskBranchShape m)
      (effect := fun t => .ok (if taken (t.mbits m) t.exm then t.goto (branchTarget t i) else t.advance)) hi.1 hk rfl
  rw [hrun, retire_branch rfl (by simp [maskBranchShape, useM])]

/-- ILLEGAL_MODE in structured style, before anything else. -/
theorem branchMask_structured {m : MReg} (taken : LaneBits → LaneBits → Bool) (i : BitVec 20) (hst : t.structured = true)
    (hc : s.curTeam = some t) : branchMask taken m i s = .next (s.takeTrap t ⟨.illegalMode, 0, 0, none, none⟩) := by
  rw [← trapped_of_ne (by decide)]
  exact runRegs_early (sh := maskBranchShape m) hc (if_pos hst)

section Exec
variable (m : MReg) (r : Reg) (i : BitVec 19) (k : BitVec 20) (s : State)

theorem exec_bz : exec (.bz r i) s = branchScalar (fun v => v == 0) r i s := rfl
theorem exec_bnz : exec (.bnz r i) s = branchScalar (fun v => v != 0) r i s := rfl
theorem exec_bany : exec (.bany m k) s = branchMask (fun b e => b &&& e != 0) m k s := rfl
theorem exec_ball : exec (.ball m k) s = branchMask (fun b e => e &&& ~~~b == 0) m k s := rfl
theorem exec_bnone : exec (.bnone m k) s = branchMask (fun b e => b &&& e == 0) m k s := rfl

end Exec

/-! ### The read of the target's word -/

theorem fetchAt_ok {a : Addr} {w : Word} (h : fetch32 s t a = .ok w) : fetchAt s t a = .ok w := by rw [fetchAt, h]

theorem fetchAt_error {a : Addr} {x : Trap} (h : fetch32 s t a = .error x) :
    fetchAt s t a = .error (.seen (s.placesAt t [a]) (.trap x)) := by rw [fetchAt, h]

theorem finish_seen_trap (s : State) (t : Team) (ps : List Place) (x : Trap) :
    finish s t (.error (.seen ps (.trap x))) = .next ((s.touch t.ctx ps).trapped t x) := by
  rw [finish_seen, finish_trap]

/-- The link of a call, or none (09 R126, R130). -/
def linkWrites (t : Team) (link : Bool) : List (Reg × Word) := if link then [(63, lowWord (t.pc + 4#64))] else []

theorem linked_sregs (t : Team) (link : Bool) :
    (if link then t.linkTo else t).sregs = writtenS (linkWrites t link) t.sregs := by
  cases link
  · rfl
  · exact setS_sregs t 63 _

/-- The team that a jump with a fetched target leaves: the link, the address, and the word that is executed next. -/
def jumped (t : Team) (link : Bool) (a : Addr) (w : Word) : Team :=
  { (if link then t.linkTo else t).goto a with fetched := some w }

theorem retire_jump {sh : Shape} (hsh : ScalarSources sh) {used : List Reg} (link : Bool)
    (hu : usedUpS sh = unwritten (linkWrites t link) used) (a : Addr) (w : Word) :
    sh.retire (jumped t.begin link a w) =
      { t.arrived a with fetched := some w, sregs := scalarsAfter t used (linkWrites t link) } := by
  rw [retire_scalars hsh hu (u := t) (v := jumped t.begin link a w) (linked_sregs t.begin link)]
  cases link
  · rfl
  · rw [jumped, if_pos rfl, Team.linkTo, setS_eq]
    rfl

/-! ### BR and CALL -/

/-- What BR does once its checks have passed. -/
def brEffect (s : State) (i : BitVec 26) (t : Team) : Except Stop Team :=
  match fetchAt s t (branchTarget t i) with
  | .error e => .error e
  | .ok w => .ok { (if w = entryWord then t.linkTo else t).goto (branchTarget t i) with fetched := some w }

theorem exec_br (i : BitVec 26) (s : State) : exec (.br i) s = runRegs (fun _ => { dsts := [.s 63] }) (brEffect s i) s := rfl

theorem exec_br_fetched {i : BitVec 26} {w : Word} (hi : Issues s t { dsts := [.s 63] })
    (hw : fetch32 s t (targetOf t i.toInt) = .ok w) : exec (.br i) s = .next (s.putTeam { t.arrived (targetOf t i.toInt) with
      fetched := some w, sregs := if w = entryWord then scalarsAfter t [] [(63, lowWord (t.pc + 4#64))] else t.sregs }) := by
  have hf : fetchAt s t.begin (branchTarget t.begin i) = .ok w := by
    rw [branchTarget_eq]
    exact fetchAt_ok hw
  have he : brEffect s i t.begin = .ok (jumped t.begin (w = entryWord) (branchTarget t.begin i) w) := by
    rw [brEffect, hf]
    simp only [jumped, decide_eq_true_eq]
  have hsh : ScalarSources { dsts := [.s 63] } := scalarSources_useS [] _
  rw [exec_br, runRegs_next hi.1 hi.2 he, retire_jump hsh (used := []) _ rfl, branchTarget_eq]
  by_cases h : w = entryWord
  · rw [if_pos h, decide_eq_true h]
    rfl
  · rw [if_neg h, decide_eq_false h, linkWrites, if_neg (by decide), scalarsAfter_nil]
    rfl

theorem exec_br_refused {i : BitVec 26} {x : Trap} (hi : Issues s t { dsts := [.s 63] })
    (hx : fetch32 s t (targetOf t i.toInt) = .error x) : exec (.br i) s = .next (s.refusedAt t (targetOf t i.toInt) x) := by
  have he : brEffect s i t.begin = .error (.seen (s.placesAt t [targetOf t i.toInt]) (.trap x)) := by
    have hf := fetchAt_error hx
    rw [← branchTarget_eq] at hf ⊢
    have hf' : fetchAt s t.begin (branchTarget t.begin i) = _ := hf
    rw [brEffect, hf']
  rw [exec_br, runRegs_stopped hi.1 hi.2 he, finish_seen_trap]
  rfl

/-! ### CALLR and JMPR -/

/-- What CALLR and JMPR do once their checks have passed. -/
def jumpEffect (s : State) (link : Bool) (a : Src) (t : Team) : Except Stop Team :=
  if (t.pair a.reg).toNat % 4 ≠ 0 then raiseAt .misaligned (t.pair a.reg)
  else match fetchAt s t (t.pair a.reg) with
    | .error e => .error e
    | .ok w =>
      if w ≠ entryWord then .error (.seen (s.placesAt t [t.pair a.reg]) (.trap (.at .entryMissing (t.pair a.reg) 0)))
      else .ok { (if link then t.linkTo else t).goto (t.pair a.reg) with fetched := some w }

/-- The operands of CALLR and JMPR. -/
def jumpShape (link : Bool) (a : Src) : Shape := { srcs := useP [a], dsts := if link then [.s 63] else [] }

theorem jumpPair_eq (link : Bool) (a : Src) (s : State) :
    jumpPair link a s = runRegs (fun _ => jumpShape link a) (jumpEffect s link a) s := rfl

theorem aligned_begin {a : Src} (h : (t.pair a.reg).toNat % 4 = 0) : ¬ (t.begin.pair a.reg).toNat % 4 ≠ 0 := not_not_intro h

section Jump
variable {link : Bool} {a : Src} (hi : Issues s t (jumpShape link a))
include hi

theorem jumpPair_misaligned (h : (t.pair a.reg).toNat % 4 ≠ 0) :
    jumpPair link a s = .next (s.takeTrap t ⟨.misaligned, t.pair a.reg, 0, none, none⟩) := by
  have he : jumpEffect s link a t.begin = .error (.trap (.at .misaligned (t.pair a.reg) 0)) := if_pos h
  rw [jumpPair_eq, runRegs_stopped hi.1 hi.2 he, finish_trap, trapped_at (by decide)]

theorem jumpPair_refused (h : (t.pair a.reg).toNat % 4 = 0) {x : Trap} (hx : fetch32 s t (t.pair a.reg) = .error x) :
    jumpPair link a s = .next (s.refusedAt t (t.pair a.reg) x) := by
  have he : jumpEffect s link a t.begin = .error (.seen (s.placesAt t [t.pair a.reg]) (.trap x)) := by
    have hf : fetchAt s t.begin (t.begin.pair a.reg) = _ := fetchAt_error hx
    rw [jumpEffect, if_neg (aligned_begin h), hf]
    rfl
  rw [jumpPair_eq, runRegs_stopped hi.1 hi.2 he, finish_seen_trap]
  rfl

theorem jumpPair_no_entry (h : (t.pair a.reg).toNat % 4 = 0) {w : Word} (hf : fetch32 s t (t.pair a.reg) = .ok w)
    (hw : w ≠ entryWord) : jumpPair link a s = .next ((s.touch t.ctx (s.placesAt t [t.pair a.reg])).takeTrap t
      ⟨.entryMissing, t.pair a.reg, 0, none, none⟩) := by
  have he : jumpEffect s link a t.begin =
      .error (.seen (s.placesAt t [t.pair a.reg]) (.trap (.at .entryMissing (t.pair a.reg) 0))) := by
    have hf' : fetchAt s t.begin (t.begin.pair a.reg) = _ := fetchAt_ok hf
    rw [jumpEffect, if_neg (aligned_begin h), hf']
    exact if_pos hw
  rw [jumpPair_eq, runRegs_stopped hi.1 hi.2 he, finish_seen_trap, trapped_at (by decide)]

theorem jumpPair_enters (h : (t.pair a.reg).toNat % 4 = 0) (hf : fetch32 s t (t.pair a.reg) = .ok entryWord) :
    jumpPair link a s = .next (s.putTeam { t.arrived (t.pair a.reg) with
      fetched := some entryWord, sregs := scalarsAfter t (lastPairs [a]) (linkWrites t link) }) := by
  have he : jumpEffect s link a t.begin = .ok (jumped t.begin link (t.pair a.reg) entryWord) := by
    have hf' : fetchAt s t.begin (t.begin.pair a.reg) = _ := fetchAt_ok hf
    rw [jumpEffect, if_neg (aligned_begin h), hf']
    exact if_neg (not_not_intro rfl)
  have hu : usedUpS (jumpShape link a) = unwritten (linkWrites t link) (lastPairs [a]) :=
    usedUpS_useP [a] _ (by cases link <;> rfl)
  rw [jumpPair_eq, runRegs_next hi.1 hi.2 he, retire_jump (sh := jumpShape link a) (scalarSources_useP [a] _) link hu]

end Jump

/-! ### RET -/

/-- The region of the RET and the offset in it, as one address. -/
theorem joinPair_highWord (lo : Word) (x : Addr) :
    joinPair lo (highWord x) = .ofNat 64 (x.toNat / 2 ^ 32 * 2 ^ 32 + lo.toNat) := by
  have hlo := lo.isLt
  have hx := x.isLt
  have hh : (highWord x).toNat = x.toNat / 2 ^ 32 := by
    rw [highWord, BitVec.toNat_setWidth, BitVec.toNat_ushiftRight, Nat.shiftRight_eq_div_pow]
    omega
  refine BitVec.eq_of_toNat_eq ?_
  rw [joinPair_toNat, hh, BitVec.toNat_ofNat]
  omega

/-- What RET does once its checks have passed. -/
def retEffect (t : Team) : Except Stop Team :=
  if (t.sval 63).toNat % 4 ≠ 0 then raiseAt .misaligned (joinPair (t.sval 63) (highWord t.pc))
  else .ok (t.goto (joinPair (t.sval 63) (highWord t.pc)))

theorem exec_ret (s : State) : exec .ret s = runRegs (fun _ => { srcs := useS [⟨63, false⟩] }) retEffect s := rfl

theorem exec_ret_aligned (hi : Issues s t { srcs := useS [⟨63, false⟩] }) (h : (t.sval 63).toNat % 4 = 0) :
    exec .ret s = .next (s.putTeam (t.arrived (.ofNat 64 (t.pc.toNat / 2 ^ 32 * 2 ^ 32 + (t.sval 63).toNat)))) := by
  have he : retEffect t.begin = .ok (t.begin.goto (joinPair (t.sval 63) (highWord t.pc))) := if_neg (not_not_intro h)
  rw [exec_ret, runRegs_next hi.1 hi.2 he, retire_goto rfl (by simp [useS]), joinPair_highWord]

theorem exec_ret_misaligned (hi : Issues s t { srcs := useS [⟨63, false⟩] }) (h : (t.sval 63).toNat % 4 ≠ 0) :
    exec .ret s = .next (s.takeTrap t
      ⟨.misaligned, .ofNat 64 (t.pc.toNat / 2 ^ 32 * 2 ^ 32 + (t.sval 63).toNat), 0, none, none⟩) := by
  have he : retEffect t.begin = .error (.trap (.at .misaligned (joinPair (t.sval 63) (highWord t.pc)) 0)) := if_pos h
  rw [exec_ret, runRegs_stopped hi.1 hi.2 he, finish_trap, trapped_at (by decide), joinPair_highWord]

end Branches

end Sys2Proof.Proofs
end

section
/-!
The obligations on branches, calls, jumps and returns, and on the hints and EXIT.
-/
namespace Sys2Proof.Proofs
open Sys2Proof.Machine Sys2Proof.Laws

/-- Settles O17: the branches by `branchScalar_next` and `branchMask_next`, BR by whether its fetch answers a word, CALLR and
JMPR by the checks of `jumpEffect` in their order. -/
theorem branchesCallsAndJumps : Obligations.BranchesCallsAndJumps := by
  unfold Obligations.BranchesCallsAndJumps
  refine ⟨⟨fun r i s t hi => ⟨?_, ?_⟩, fun m i s t hst hi => ⟨?_, ?_, ?_⟩, fun m i s t hc hst b hb => ?_⟩,
    fun i s t hi => ⟨fun w hw => exec_br_fetched hi hw, fun x hx => exec_br_refused hi hx⟩, fun p hp a s t hi => ?_⟩
  · simp only [exec_bz, branchScalar_next _ i hi, beq_iff_eq]
  · simp only [exec_bnz, branchScalar_next _ i hi, bne_iff_ne, ne_eq, ite_not]
  · simp only [exec_bany, branchMask_next _ i hst hi, bne_iff_ne, ne_eq, ite_not]
  · simp only [exec_ball, branchMask_next _ i hst hi, beq_iff_eq]
  · simp only [exec_bnone, branchMask_next _ i hst hi, beq_iff_eq]
  · simp only [List.mem_cons, List.not_mem_nil, or_false] at hb
    rcases hb with rfl | rfl | rfl
    · rw [exec_bany, branchMask_structured _ i hst hc]
    · rw [exec_ball, branchMask_structured _ i hst hc]
    · rw [exec_bnone, branchMask_structured _ i hst hc]
  · have hjump {link : Bool} (hi : Issues s t (jumpShape link a)) :=
      And.intro (jumpPair_misaligned hi) fun h => And.intro (fun x hx => jumpPair_refused hi h (x := x) hx)
        (And.intro (fun w hf hw => jumpPair_no_entry hi h (w := w) hf hw) (jumpPair_enters hi h))
    simp only [List.mem_cons, List.not_mem_nil, or_false] at hp
    rcases hp with rfl | rfl
    · exact hjump (link := true) hi
    · exact hjump (link := false) hi

/-- Settles O18, by whether the offset in s63 is aligned. -/
theorem returnInRegion : Obligations.ReturnInRegion := fun _ _ hi => ⟨exec_ret_aligned hi, exec_ret_misaligned hi⟩

/-- Settles O19: the hints name no operand, so that no check stops them; EXIT by whether a follow-on has left a fault. -/
theorem hintsAndExit : Obligations.HintsAndExit := by
  unfold Obligations.HintsAndExit
  intro s t hc
  have hi : Issues s t {} := ⟨hc, check_no_operands t s⟩
  have hstill : exec .entry s = .next (s.putTeam t.past) := by
    have hrun : exec .entry s = .next (s.putTeam (Shape.retire {} t.begin.advance)) := runRegs_ok_next Team.advance hi
    rw [hrun, retire_advance rfl (by simp)]
  refine ⟨hstill, hstill, ?_, fun hf => ?_, fun cs x rest hf => ?_⟩
  · have hrun : exec .yield s = .next (s.putTeam (Shape.retire {} ({ t.begin with promises := [] } : Team).advance)) :=
      runRegs_ok_next (fun t => ({ t with promises := [] } : Team).advance) hi
    rw [hrun, retire_of_no_last rfl (by simp)]
    rfl
  · have he : exec .exit s = .next (s.exitTeam t) := by
      change execExit s = _
      simp only [execExit, hc, hf]
    rw [he]
    rfl
  · have he : exec .exit s = if s.frameHeld t then .next (s.stall t)
        else .next (((s.putTeam { t with followFaults := rest }).takeTrap { t with followFaults := rest } x).discardRest
          t.id (some cs) x) := by
      change execExit s = _
      simp only [execExit, hc, hf]
    exact ⟨fun h => he.trans (if_pos h), fun h => he.trans (if_neg (by simp [h]))⟩

end Sys2Proof.Proofs
end

section
/-!
SUPPORT. REGACQ and REGREL: the window's new top, and the registers that join or leave it (09 R142, 03 R54).
-/
namespace Sys2Proof.Proofs
open Sys2Proof.Machine Sys2Proof.Laws

section Window
variable {s : State} {t : Team}

/-- The top of the window, in blocks. -/
def windowTop (t : Team) : Nat := t.vbase.toNat + t.blocks.toNat

/-- The operands of REGACQ and its .NB form, with their first check. -/
def acquireShape (dsts : List Opnd) (k : BitVec 3) (t : Team) : Shape := { dsts := dsts, early := acquireTrap t k.toNat }

theorem acquireTrap_beyond {k : Nat} (h : 8 < windowTop t + k) :
    acquireTrap t k = some (.at .regBound (.ofNat 64 (8 * (windowTop t + k) - 1)) 0) := if_pos h

theorem acquireTrap_within {k : Nat} (h : windowTop t + k ≤ 8) : acquireTrap t k = none := if_neg (Nat.not_lt.2 h)

theorem acquireShape_check {dsts : List Opnd} {k : BitVec 3} (hi : Issues s t { dsts := dsts })
    (h : windowTop t + k.toNat ≤ 8) : (acquireShape dsts k t).check t s = none := by
  rw [acquireShape, acquireTrap_within h]
  exact hi.2

/-- What REGACQ does once its checks have passed. -/
def regacqEffect (k : BitVec 3) (t : Team) : Except Stop Team :=
  if t.blockLimit.toNat < t.blocks.toNat + k.toNat then .error .stall else .ok (t.grow k.toNat).advance

/-- The same of the .NB form, which answers in a register. -/
def regacqNbEffect (d : Reg) (k : BitVec 3) (t : Team) : Except Stop Team :=
  if t.blockLimit.toNat < t.blocks.toNat + k.toNat then .ok (t.setS d 1).advance
  else .ok ((t.grow k.toNat).setS d 0).advance

theorem exec_regacq (k : BitVec 3) (s : State) : exec (.regacq k) s = runRegs (acquireShape [] k) (regacqEffect k) s := rfl

theorem exec_regacqNb (d : Reg) (k : BitVec 3) (s : State) :
    exec (.regacqNb d k) s = runRegs (acquireShape [.s d] k) (regacqNbEffect d k) s := rfl

theorem retire_acquireShape (k : BitVec 3) (u : Team) (t : Team) :
    (acquireShape [] k t).retire u = { u with promises := promisesAged u, issued := u.issued + 1 } :=
  retire_of_no_last rfl (by simp [acquireShape]) u

theorem retire_acquireShape_setS (d : Reg) (k : BitVec 3) (u : Team) (v : Word) (t : Team) :
    (acquireShape [.s d] k t).retire (u.setS d v).advance = { u with
      pc := u.pc + 4#64, sregs := scalarsAfter u [] [(d, v)], promises := promisesAged u, issued := u.issued + 1 } :=
  retire_setS_advance (sh := acquireShape [.s d] k t) (used := []) ⟨rfl, by simp [acquireShape]⟩ rfl u v

/-- A request beyond register 63. -/
theorem exec_regacq_beyond {d : Reg} {k : BitVec 3} (hc : s.curTeam = some t) (h : 8 < windowTop t + k.toNat) :
    exec (.regacq k) s = .next (s.takeTrap t ⟨.regBound, .ofNat 64 (8 * (windowTop t + k.toNat) - 1), 0, none, none⟩)
      ∧ exec (.regacqNb d k) s =
        .next (s.takeTrap t ⟨.regBound, .ofNat 64 (8 * (windowTop t + k.toNat) - 1), 0, none, none⟩) := by
  have he := acquireTrap_beyond h
  rw [exec_regacq, exec_regacqNb, ← trapped_at (by decide)]
  exact ⟨runRegs_early hc he, runRegs_early hc he⟩

/-- A request beyond the block limit. -/
theorem exec_regacq_limited {d : Reg} {k : BitVec 3} (hi : Issues s t { dsts := [.s d] }) (hk : windowTop t + k.toNat ≤ 8)
    (h : t.blockLimit.toNat < t.blocks.toNat + k.toNat) : exec (.regacq k) s = .next (s.stall t)
      ∧ exec (.regacqNb d k) s = .next (s.putTeam { t.past with sregs := scalarsAfter t [] [(d, 1)] }) := by
  have he : regacqEffect k t.begin = .error .stall := if_pos h
  have heNb : regacqNbEffect d k t.begin = .ok (t.begin.setS d 1).advance := if_pos h
  constructor
  · rw [exec_regacq, runRegs_stopped hi.1 (acquireShape_check ⟨hi.1, check_no_operands t s⟩ hk) he]
    rfl
  · rw [exec_regacqNb, runRegs_next hi.1 (acquireShape_check hi hk) heNb, retire_acquireShape_setS]
    rfl

/-- The team past its instruction with another window, and the registers from block `lo` to block `hi` dead. -/
def windowed (t : Team) (blocks lo hi : Nat) : Team :=
  { t.past with
    blocks := .ofNat 4 blocks
    vregs := .ofFn fun i : Fin 64 => if 8 * lo ≤ i.val ∧ i.val < 8 * hi then .dead else t.vregs[i] }

theorem exec_regacq_granted {d : Reg} {k : BitVec 3} (hi : Issues s t { dsts := [.s d] }) (hk : windowTop t + k.toNat ≤ 8)
    (h : t.blocks.toNat + k.toNat ≤ t.blockLimit.toNat) :
    let grown := windowed t (t.blocks.toNat + k.toNat) (windowTop t) (windowTop t + k.toNat)
    exec (.regacq k) s = .next (s.putTeam grown)
      ∧ exec (.regacqNb d k) s = .next (s.putTeam { grown with sregs := scalarsAfter t [] [(d, 0)] }) := by
  have he : regacqEffect k t.begin = .ok (t.begin.grow k.toNat).advance := if_neg (Nat.not_lt.2 h)
  have heNb : regacqNbEffect d k t.begin = .ok ((t.begin.grow k.toNat).setS d 0).advance := if_neg (Nat.not_lt.2 h)
  constructor
  · rw [exec_regacq, runRegs_next hi.1 (acquireShape_check ⟨hi.1, check_no_operands t s⟩ hk) he, retire_acquireShape]
    rfl
  · rw [exec_regacqNb, runRegs_next hi.1 (acquireShape_check hi hk) heNb, retire_acquireShape_setS]
    rfl

/-- The registers that REGREL releases, which no load in flight may still write. -/
def releasedShape (k : BitVec 3) (t : Team) : Shape :=
  { unread := [⟨.vgroup (.ofNat 6 (8 * (t.blocks.toNat - k.toNat))) (8 * k.toNat), false⟩] }

/-- The operands of REGREL, with its first check. -/
def regrelShape (k : BitVec 3) (t : Team) : Shape :=
  { releasedShape k t with
    early := if t.blocks.toNat < k.toNat + 1 then some (.at .regBound (8 * t.vbase.setWidth 64) 0) else none }

/-- What REGREL does once its checks have passed. -/
def regrelled (k : BitVec 3) (t : Team) : Team :=
  ({ t.killRange (8 * (windowTop t - k.toNat)) (8 * windowTop t) with
    blocks := .ofNat 4 (t.blocks.toNat - k.toNat) } : Team).advance

theorem exec_regrel (k : BitVec 3) (s : State) :
    exec (.regrel k) s = runRegs (regrelShape k) (fun t => .ok (regrelled k t)) s := rfl

theorem exec_regrel_beyond {k : BitVec 3} (hc : s.curTeam = some t) (h : t.blocks.toNat < 1 + k.toNat) :
    exec (.regrel k) s = .next (s.takeTrap t ⟨.regBound, .ofNat 64 (8 * t.vbase.toNat), 0, none, none⟩) := by
  have hva : 8 * t.vbase.setWidth 64 = BitVec.ofNat 64 (8 * t.vbase.toNat) := by bv_omega
  have he : (regrelShape k t).early = some (.at .regBound (8 * t.vbase.setWidth 64) 0) := if_pos (by omega)
  rw [exec_regrel, runRegs_early hc he, trapped_at (by decide), hva]

theorem regrelShape_of_within {k : BitVec 3} (h : 1 + k.toNat ≤ t.blocks.toNat) : regrelShape k t = releasedShape k t := by
  rw [regrelShape, if_neg (by omega)]
  rfl

theorem exec_regrel_waits {k : BitVec 3} (hc : s.curTeam = some t) (h : 1 + k.toNat ≤ t.blocks.toNat)
    (hk : (releasedShape k t).check t s = some .stall) : exec (.regrel k) s = .next (s.stall t) := by
  rw [← regrelShape_of_within h] at hk
  rw [exec_regrel, runRegs_checked hc hk]
  rfl

theorem exec_regrel_granted {k : BitVec 3} (hc : s.curTeam = some t) (h : 1 + k.toNat ≤ t.blocks.toNat)
    (hk : (releasedShape k t).check t s = none) : exec (.regrel k) s =
      .next (s.putTeam (windowed t (t.blocks.toNat - k.toNat) (windowTop t - k.toNat) (windowTop t))) := by
  rw [← regrelShape_of_within h] at hk
  rw [exec_regrel, runRegs_next (effect := fun t => .ok (regrelled k t)) hc hk rfl,
    retire_of_no_last rfl (by simp [regrelShape, releasedShape])]
  rfl

end Window

end Sys2Proof.Proofs
end

section
/-!
The obligation on the register window.
-/
namespace Sys2Proof.Proofs
open Sys2Proof.Machine Sys2Proof.Laws

/-- Settles O16: each clause by the lemma on REGACQ or REGREL whose hypotheses it has. -/
theorem registerWindow : Obligations.RegisterWindow := by
  unfold Obligations.RegisterWindow
  intro k d s t hi top dead
  exact ⟨exec_regacq_beyond hi.1, exec_regacq_limited hi, exec_regacq_granted hi, exec_regrel_beyond hi.1,
    fun h => ⟨exec_regrel_waits hi.1 h, exec_regrel_granted hi.1 h⟩⟩

end Sys2Proof.Proofs
end

section
/-!
SUPPORT. The mask operations of major 0x05: sets of lane bits lane by lane, and what the operations leave of a team's scalar and
mask registers (09 R136, R137; 03 R36 to R41).
-/
namespace Sys2Proof.Proofs
open Sys2Proof.Machine Sys2Proof.Laws

/-! ### Lane bits -/

theorem bitsOfList_getLsbD (l : List Bool) (i : Nat) : (bitsOfList l).getLsbD i = (decide (i < 1024) && l.getD i false) := by
  rw [bitsOfList, BitVec.getLsbD_ofNat, testBit_foldr_bits]

theorem bitsOfList_range_getLsbD (n : Nat) (f : Nat → Bool) (i : Nat) :
    (bitsOfList ((List.range n).map f)).getLsbD i = (decide (i < 1024) && (decide (i < n) && f i)) := by
  rw [bitsOfList_getLsbD, List.getD_eq_getElem?_getD, List.getElem?_map]
  by_cases h : i < n <;> simp [h]

/-- Bits below TW, said lane by lane. -/
theorem and_lanesBelow_eq {b : LaneBits} {n : Nat} {f : Nat → Bool} (h : ∀ l, b.getLsbD l = (decide (l < 1024) && f l)) :
    b &&& lanesBelow n = bitsOfList ((List.range n).map f) &&& lanesBelow n := by
  refine BitVec.eq_of_getLsbD_eq fun l hl => ?_
  rw [BitVec.getLsbD_and, BitVec.getLsbD_and, h, lanesBelow_getLsbD, bitsOfList_range_getLsbD]
  by_cases hn : l < n <;> simp [hn]

/-- A mask register holds only what lies below TW of what is written to it. -/
theorem masksAfter_congr {t : Team} (used : List MReg) (d : MReg) {b c : LaneBits}
    (h : b &&& lanesBelow t.tw = c &&& lanesBelow t.tw) : masksAfter t used [(d, b)] = masksAfter t used [(d, c)] := by
  ext i hi
  simp only [masksAfter, Vector.getElem_ofFn, List.find?_cons, List.find?_nil]
  cases d.toNat == i
  · rfl
  · simp only [h]

/-! ### What completes with an instruction of scalar and mask operands -/

theorem flatMap_maskRegs_useM (p : MReg → Bool) (as : List MSrc) :
    ((useM as).filter (·.last)).flatMap (fun u => u.o.maskRegs.filter p) = (lastMasks as).filter p := by
  rw [useM, lastMasks, List.filter_map, List.flatMap_map, List.map_eq_flatMap, List.filter_flatMap]
  rfl

/-- The sources of an instruction are scalars `as` and masks `ms`. -/
def MixedSources (sh : Shape) (as : List Src) (ms : List MSrc) : Prop := sh.la = 0 ∧ sh.srcs ++ sh.unread = useS as ++ useM ms

section Mixed
variable {sh : Shape} {as : List Src} {ms : List MSrc} (h : MixedSources sh as ms)
include h

theorem usedUpV_mixed : usedUpV sh = [] := by
  refine List.flatMap_eq_nil_iff.mpr fun u hu => ?_
  rw [h.2] at hu
  have hm : u ∈ useS as ++ useM ms := List.mem_of_mem_filter hu
  simp only [useS, useM, List.mem_append, List.mem_map] at hm
  rcases hm with ⟨a, -, rfl⟩ | ⟨m, -, rfl⟩ <;> rfl

theorem usedUpS_mixed {ws : List (Reg × Word)} (hd : sh.dsts.flatMap Opnd.scalars = ws.map (·.1)) :
    usedUpS sh = unwritten ws (lastOf as) := by
  have hm : ((useM ms).filter (·.last)).flatMap (fun u => u.o.scalars.filter fun r => !(ws.map (·.1)).contains r) = [] := by
    refine List.flatMap_eq_nil_iff.mpr fun u hu => ?_
    obtain ⟨m, -, rfl⟩ := List.mem_map.mp (List.mem_of_mem_filter hu)
    rfl
  simp only [usedUpS, h.2, hd, List.filter_append, List.flatMap_append, flatMap_scalars_useS, hm, List.append_nil, unwritten]

theorem usedUpM_mixed {ws : List (MReg × LaneBits)} (hd : sh.dsts.flatMap Opnd.maskRegs = ws.map (·.1)) :
    usedUpM sh = unwritten ws (lastMasks ms) := by
  have hs : ((useS as).filter (·.last)).flatMap (fun u => u.o.maskRegs.filter fun r => !(ws.map (·.1)).contains r) = [] := by
    refine List.flatMap_eq_nil_iff.mpr fun u hu => ?_
    obtain ⟨a, -, rfl⟩ := List.mem_map.mp (List.mem_of_mem_filter hu)
    rfl
  simp only [usedUpM, h.2, hd, List.filter_append, List.flatMap_append, flatMap_maskRegs_useM, hs, List.nil_append, unwritten]

/-- A scalar register written: the masks used up are dead. -/
theorem retire_setS_mixed {d : Reg} (hd : sh.dsts = [.s d]) (t : Team) (v : Word) :
    sh.retire (t.begin.setS d v).advance =
      { t.past with sregs := scalarsAfter t (lastOf as) [(d, v)], masks := masksAfter t (lastMasks ms) [] } := by
  have hs : (t.begin.setS d v).advance.sregs = writtenS [(d, v)] t.sregs := setS_sregs t.begin d v
  have hm : (t.begin.setS d v).advance.masks = writtenM t.tw [] t.masks := by
    rw [setS_eq]
    rfl
  rw [retire_written (u := t) h.1 (usedUpV_mixed h) (usedUpS_mixed h (ws := [(d, v)]) (by rw [hd]; rfl))
    (usedUpM_mixed h (ws := []) (by rw [hd]; rfl)) hs hm, setS_eq]
  rfl

end Mixed

/-- A mask written by an instruction that reads no scalar register. -/
theorem retire_setM {sh : Shape} {ms : List MSrc} (h : MixedSources sh [] ms) {d : MReg} (hd : sh.dsts = [.m d])
    (t : Team) (b : LaneBits) :
    sh.retire (t.begin.setM d b).advance = { t.past with masks := masksAfter t (lastMasks ms) [(d, b)] } := by
  have hs : (t.begin.setM d b).advance.sregs = writtenS [] t.sregs := by
    rw [setM_eq]
    rfl
  rw [retire_written (u := t) (used := []) (ws := []) h.1 (usedUpV_mixed h) (usedUpS_mixed h (by rw [hd]; rfl))
    (usedUpM_mixed h (ws := [(d, b)]) (by rw [hd]; rfl)) hs (setM_masks t.begin d b), scalarsAfter_nil, setM_eq]
  rfl

section Instructions
variable {s : State} {t : Team}

/-! ### From masks to a mask -/

/-- Instruction `i` gives every lane below TW `g` of its bits in the two sources. -/
def Masks2 (i : MReg → MSrc → MSrc → Instr) (g : Bool → Bool → Bool) : Prop :=
  ∀ (d : MReg) (a b : MSrc) (s : State) (t : Team), Issues s t { srcs := useM [a, b], dsts := [.m d] } →
    exec (i d a b) s = .next (s.putTeam { t.past with
      masks := masksAfter t (lastMasks [a, b]) [(d, bitsOfList ((List.range t.tw).map fun l =>
        g ((t.mbits a.reg).getLsbD l) ((t.mbits b.reg).getLsbD l)))] })

/-- The same of one source. -/
def Masks1 (i : MReg → MSrc → Instr) (g : Bool → Bool) : Prop :=
  ∀ (d : MReg) (a : MSrc) (s : State) (t : Team), Issues s t { srcs := useM [a], dsts := [.m d] } →
    exec (i d a) s = .next (s.putTeam { t.past with
      masks := masksAfter t (lastMasks [a]) [(d, bitsOfList ((List.range t.tw).map fun l => g ((t.mbits a.reg).getLsbD l)))] })

theorem masks2_of {i : MReg → MSrc → MSrc → Instr} {f : LaneBits → LaneBits → LaneBits} {g : Bool → Bool → Bool}
    (he : ∀ d a b s, exec (i d a b) s = maskRR f d a b s)
    (hfg : ∀ x y l, (f x y).getLsbD l = (decide (l < 1024) && g (x.getLsbD l) (y.getLsbD l))) : Masks2 i g := by
  intro d a b s t hi
  have hrun : maskRR f d a b s = .next (s.putTeam (Shape.retire { srcs := useM [a, b], dsts := [.m d] }
      (t.begin.setM d (f (t.mbits a.reg) (t.mbits b.reg))).advance)) :=
    runRegs_ok_next (fun t => (t.setM d (f (t.mbits a.reg) (t.mbits b.reg))).advance) hi
  rw [he, hrun, retire_setM (ms := [a, b]) ⟨rfl, rfl⟩ rfl,
    masksAfter_congr _ d (and_lanesBelow_eq fun l => hfg _ _ l)]

theorem masks1_of {i : MReg → MSrc → Instr} {f : LaneBits → LaneBits} {g : Bool → Bool}
    (he : ∀ d a s, exec (i d a) s = maskR f d a s)
    (hfg : ∀ x l, (f x).getLsbD l = (decide (l < 1024) && g (x.getLsbD l))) : Masks1 i g := by
  intro d a s t hi
  have hrun : maskR f d a s = .next (s.putTeam (Shape.retire { srcs := useM [a], dsts := [.m d] }
      (t.begin.setM d (f (t.mbits a.reg))).advance)) := runRegs_ok_next (fun t => (t.setM d (f (t.mbits a.reg))).advance) hi
  rw [he, hrun, retire_setM (ms := [a]) ⟨rfl, rfl⟩ rfl,
    masksAfter_congr _ d (and_lanesBelow_eq fun l => hfg _ l)]

/-- A lane bit at or beyond 1,024 is none. -/
theorem laneBits_getLsbD (b : LaneBits) (l : Nat) : b.getLsbD l = (decide (l < 1024) && b.getLsbD l) := by
  by_cases h : l < 1024
  · simp [h]
  · simp [h, BitVec.getLsbD_of_ge b l (Nat.not_lt.1 h)]

theorem masks_mand : Masks2 .mand (fun a b => a && b) :=
  masks2_of (f := (· &&& ·)) (fun _ _ _ _ => rfl) fun x y l => by rw [laneBits_getLsbD, BitVec.getLsbD_and]

theorem masks_mor : Masks2 .mor (fun a b => a || b) :=
  masks2_of (f := (· ||| ·)) (fun _ _ _ _ => rfl) fun x y l => by rw [laneBits_getLsbD, BitVec.getLsbD_or]

theorem masks_mxor : Masks2 .mxor (fun a b => a != b) :=
  masks2_of (f := (· ^^^ ·)) (fun _ _ _ _ => rfl) fun x y l => by rw [laneBits_getLsbD, BitVec.getLsbD_xor]

theorem masks_mandn : Masks2 .mandn (fun a b => a && !b) :=
  masks2_of (f := fun x y => x &&& ~~~y) (fun _ _ _ _ => rfl) fun x y l => by
    rw [laneBits_getLsbD, BitVec.getLsbD_and, BitVec.getLsbD_not]
    by_cases h : l < 1024 <;> simp [h]

theorem masks_mnot : Masks1 .mnot (fun a => !a) :=
  masks1_of (f := fun x => ~~~x) (fun _ _ _ => rfl) fun _ _ => BitVec.getLsbD_not

theorem masks_mmov : Masks1 .mmov (fun a => a) := masks1_of (f := id) (fun _ _ _ => rfl) laneBits_getLsbD

/-- An instruction that writes one set of lane bits, whatever the registers hold. -/
theorem runRegs_setM {sh : Shape} {d : MReg} {f : Team → LaneBits} {b : LaneBits} (hi : Issues s t sh)
    (h : MixedSources sh [] []) (hd : sh.dsts = [.m d]) (hb : f t.begin = b) :
    runRegs (fun _ => sh) (fun t => .ok (t.setM d (f t)).advance) s =
      .next (s.putTeam { t.past with masks := masksAfter t [] [(d, b)] }) := by
  rw [runRegs_ok_next (fun t => (t.setM d (f t)).advance) hi, hb, retire_setM h hd]
  rfl

theorem exec_mall {d : MReg} (hi : Issues s t { dsts := [.m d] }) :
    exec (.mall d) s = .next (s.putTeam { t.past with masks := masksAfter t [] [(d, .allOnes 1024)] }) :=
  runRegs_setM (f := fun _ => .allOnes 1024) hi ⟨rfl, rfl⟩ rfl rfl

theorem exec_mclr {d : MReg} (hi : Issues s t { dsts := [.m d] }) :
    exec (.mclr d) s = .next (s.putTeam { t.past with masks := masksAfter t [] [(d, 0)] }) :=
  runRegs_setM (f := fun _ => 0) hi ⟨rfl, rfl⟩ rfl rfl

theorem exec_exmget {d : MReg} (hi : Issues s t { dsts := [.m d], exm := true }) :
    exec (.exmget d) s = .next (s.putTeam { t.past with masks := masksAfter t [] [(d, t.exm)] }) :=
  runRegs_setM (f := Team.exm) hi ⟨rfl, rfl⟩ rfl rfl

/-! ### From a mask to a scalar register -/

/-- Instruction `i` writes `g` of TW and its mask source. -/
def MaskScalar (i : Reg → MSrc → Instr) (g : Nat → LaneBits → Word) : Prop :=
  ∀ (d : Reg) (a : MSrc) (s : State) (t : Team), Issues s t { srcs := useM [a], dsts := [.s d] } →
    exec (i d a) s = .next (s.putTeam { t.past with
      sregs := scalarsAfter t [] [(d, g t.tw (t.mbits a.reg))], masks := masksAfter t (lastMasks [a]) [] })

theorem maskScalar_of {i : Reg → MSrc → Instr} {g : Nat → LaneBits → Word}
    (he : ∀ d a s, exec (i d a) s = maskToScalar g d a s) : MaskScalar i g := by
  intro d a s t hi
  have hrun : maskToScalar g d a s = .next (s.putTeam (Shape.retire { srcs := useM [a], dsts := [.s d] }
      (t.begin.setS d (g t.tw (t.mbits a.reg))).advance)) :=
    runRegs_ok_next (fun t => (t.setS d (g t.tw (t.mbits a.reg))).advance) hi
  rw [he, hrun, retire_setS_mixed (as := []) (ms := [a]) ⟨rfl, rfl⟩ rfl]
  rfl

theorem maskScalar_mpopc : MaskScalar .mpopc (fun n b => .ofNat 32 ((List.range n).countP fun l => b.getLsbD l)) :=
  maskScalar_of (g := countSet) fun _ _ _ => rfl

theorem maskScalar_mffs : MaskScalar .mffs (fun n b => match (List.range n).find? fun l => b.getLsbD l with
    | some l => .ofNat 32 l
    | none => 0xFFFFFFFF#32) :=
  maskScalar_of (g := firstSet) fun _ _ _ => rfl

theorem maskScalar_msumw : MaskScalar .msumw (fun _ b => summaryWord b) := maskScalar_of fun _ _ _ => rfl

/-! ### MGETW -/

/-- The word that MGETW reads. -/
def namedWord (t : Team) (a : MSrc) (b : Src) : Word :=
  if (t.sval b.reg).toNat < t.passes then maskWord (t.mbits a.reg) (t.sval b.reg).toNat else 0

/-- The operands of MGETW. -/
def mgetwShape (d : Reg) (a : MSrc) (b : Src) : Shape := { srcs := useS [b], unread := useM [a], dsts := [.s d] }

/-- What MGETW does once its checks have passed. -/
def mgetwEffect (d : Reg) (a : MSrc) (b : Src) (t : Team) : Except Stop Team :=
  if (t.sval b.reg).toNat < t.passes && (t.mbad a.reg).getLsbD (t.sval b.reg).toNat then raiseAt .poison (a.reg.setWidth 64)
  else .ok (t.setS d (namedWord t a b)).advance

theorem exec_mgetw (d : Reg) (a : MSrc) (b : Src) (s : State) :
    exec (.mgetw d a b) s = runRegs (fun _ => mgetwShape d a b) (mgetwEffect d a b) s := rfl

section Mgetw
variable {d : Reg} {a : MSrc} {b : Src} (hi : Issues s t (mgetwShape d a b))
include hi

theorem exec_mgetw_poisoned (hw : (t.sval b.reg).toNat < t.passes)
    (hp : (t.mbad a.reg).getLsbD (t.sval b.reg).toNat = true) :
    exec (.mgetw d a b) s = .next (s.takeTrap t ⟨.poison, a.reg.setWidth 64, 0, none, none⟩) := by
  have he : mgetwEffect d a b t.begin = .error (.trap (.at .poison (a.reg.setWidth 64) 0)) :=
    if_pos (Bool.and_eq_true_iff.2 ⟨decide_eq_true hw, hp⟩)
  rw [exec_mgetw, runRegs_stopped hi.1 hi.2 he, finish_trap, trapped_at (by decide)]

theorem exec_mgetw_clean (h : (t.sval b.reg).toNat < t.passes → (t.mbad a.reg).getLsbD (t.sval b.reg).toNat = false) :
    exec (.mgetw d a b) s = .next (s.putTeam { t.past with
      sregs := scalarsAfter t (lastOf [b]) [(d, namedWord t a b)], masks := masksAfter t (lastMasks [a]) [] }) := by
  have hno : ¬ (decide ((t.sval b.reg).toNat < t.passes) && (t.mbad a.reg).getLsbD (t.sval b.reg).toNat) = true := fun hb => by
    obtain ⟨hw, hp⟩ := Bool.and_eq_true_iff.1 hb
    rw [h (of_decide_eq_true hw)] at hp
    cases hp
  have he : mgetwEffect d a b t.begin = .ok (t.begin.setS d (namedWord t a b)).advance := if_neg hno
  rw [exec_mgetw, runRegs_next hi.1 hi.2 he,
    retire_setS_mixed (sh := mgetwShape d a b) (as := [b]) (ms := [a]) ⟨rfl, rfl⟩ rfl]

end Mgetw

/-! ### MSETW -/

/-- A word of lane bits in its place. -/
theorem placedWord_getLsbD (v : Word) (w l : Nat) (hl : l < 1024) :
    (v.setWidth 1024 <<< (32 * w) : LaneBits).getLsbD l = (decide (l / 32 = w) && v.getLsbD (l % 32)) := by
  rw [BitVec.getLsbD_shiftLeft, BitVec.getLsbD_setWidth]
  by_cases h : l / 32 = w
  · have h1 : ¬ l < 32 * w := by omega
    have h2 : l - 32 * w = l % 32 := by omega
    have h3 : l % 32 < 1024 := by omega
    simp [hl, h, h1, h2, h3]
  · by_cases h1 : l < 32 * w
    · simp [h, h1]
    · have h2 : v.getLsbD (l - 32 * w) = false := BitVec.getLsbD_of_ge v _ (by omega)
      simp [h, h2]

/-- One word of a set of lane bits replaced. -/
theorem replaceWord_eq (old : LaneBits) (w : Nat) (v : Word) :
    (old &&& ~~~((BitVec.allOnes 32).setWidth 1024 <<< (32 * w))) ||| (v.setWidth 1024 <<< (32 * w)) =
      bitsOfList ((List.range 1024).map fun l => if l / 32 = w then v.getLsbD (l % 32) else old.getLsbD l) := by
  refine BitVec.eq_of_getLsbD_eq fun l hl => ?_
  have hm : l % 32 < 32 := Nat.mod_lt _ (by decide)
  rw [bitsOfList_range_getLsbD, BitVec.getLsbD_or, BitVec.getLsbD_and, BitVec.getLsbD_not, placedWord_getLsbD _ _ _ hl,
    placedWord_getLsbD _ _ _ hl, BitVec.getLsbD_allOnes]
  by_cases h : l / 32 = w <;> simp [h, hl, hm]

/-- One bit of a word cleared is its weight taken away, where it was set. -/
theorem clearBit_eq (x : Word) (w : Nat) :
    x &&& ~~~(1#32 <<< w) = .ofNat 32 (x.toNat - if x.getLsbD w then 2 ^ w else 0) := by
  rw [← BitVec.twoPow_eq]
  by_cases h : x.getLsbD w = true
  · have hw : w < 32 := BitVec.lt_of_getLsbD h
    have hand : (x &&& ~~~BitVec.twoPow 32 w) &&& BitVec.twoPow 32 w = 0 := by
      rw [BitVec.and_assoc, BitVec.and_comm (~~~_), BitVec.and_not_self]
      exact BitVec.and_zero
    have hsum : (x &&& ~~~BitVec.twoPow 32 w) + BitVec.twoPow 32 w = x := by
      rw [BitVec.add_eq_or_of_and_eq_zero]
      · refine BitVec.eq_of_getLsbD_eq fun i hi => ?_
        rw [BitVec.getLsbD_or, BitVec.getLsbD_and, BitVec.getLsbD_not, BitVec.getLsbD_twoPow]
        by_cases hwi : w = i
        · subst hwi
          simp [hw, h]
        · simp [hwi, hi]
      · exact hand
    have hnat : (x &&& ~~~BitVec.twoPow 32 w).toNat + 2 ^ w = x.toNat := by
      have := BitVec.toNat_add_of_and_eq_zero hand
      rw [hsum, BitVec.toNat_twoPow, Nat.mod_eq_of_lt (Nat.pow_lt_pow_right (by decide) hw)] at this
      exact this.symm
    rw [if_pos h, ← hnat, Nat.add_sub_cancel, BitVec.ofNat_toNat, BitVec.setWidth_eq]
  · rw [if_neg h, Nat.sub_zero, BitVec.ofNat_toNat, BitVec.setWidth_eq]
    refine BitVec.eq_of_getLsbD_eq fun i hi => ?_
    rw [BitVec.getLsbD_and, BitVec.getLsbD_not, BitVec.getLsbD_twoPow]
    by_cases hwi : w = i
    · subst hwi
      simp [h]
    · simp [hwi, hi]

/-- The mask registers after one word of mask `d` is written (09 R136). -/
def masksAfterWord (t : Team) (d : MReg) (w : Nat) (v : Word) : Vector MaskReg 16 :=
  .ofFn fun i : Fin 16 =>
    if d = 0#4 ∨ i.val ≠ d.toNat ∨ t.tw ≤ 32 * w then t.masks[i]
    else .live (bitsOfList ((List.range 1024).map fun l => if l / 32 = w then v.getLsbD (l % 32) else (t.mbits d).getLsbD l))
      (.ofNat 32 ((t.mbad d).toNat - if (t.mbad d).getLsbD w then 2 ^ w else 0))

theorem setMWord_eq (t : Team) (d : MReg) (w : Nat) (v : Word) :
    t.setMWord d w v = { t with masks := masksAfterWord t d w v } := by
  unfold Team.setMWord
  by_cases h : d = 0#4 ∨ t.passes ≤ w
  · have hsame : masksAfterWord t d w v = t.masks := by
      ext i hi
      have hi' : d = 0#4 ∨ i ≠ d.toNat ∨ t.tw ≤ 32 * w := by
        rcases h with h | h
        · exact .inl h
        · exact .inr (.inr (Nat.mul_le_mul_left 32 h))
      simp [masksAfterWord, hi']
    rw [if_pos (by simpa using h), hsame]
  · rw [if_neg (by simpa using h)]
    have hnot : ¬ t.tw ≤ 32 * w := by
      unfold Team.tw
      omega
    obtain ⟨hd, -⟩ := not_or.1 h
    dsimp only
    rw [replaceWord_eq, clearBit_eq]
    congr 1
    ext i hi
    rw [masksAfterWord, Vector.getElem_ofFn, Vector.getElem_set]
    by_cases hid : d.toNat = i
    · have hno : ¬ (d = 0#4 ∨ i ≠ d.toNat ∨ t.tw ≤ 32 * w) := by simp [hid, hd, hnot]
      rw [if_pos hid, if_neg hno]
    · rw [if_neg hid, if_pos (.inr (.inl (Ne.symm hid)))]
      rfl

theorem exec_msetw {d : MReg} {a b : Src} (hi : Issues s t { srcs := useS [a, b], dsts := [.m d] }) :
    exec (.msetw d a b) s = .next (s.putTeam { t.past with
      sregs := scalarsAfter t (lastOf [a, b]) [], masks := masksAfterWord t d (t.sval a.reg).toNat (t.sval b.reg) }) := by
  have hrun : exec (.msetw d a b) s = .next (s.putTeam (Shape.retire { srcs := useS [a, b], dsts := [.m d] }
      (t.begin.setMWord d (t.sval a.reg).toNat (t.sval b.reg)).advance)) :=
    runRegs_ok_next (fun t => (t.setMWord d (t.sval a.reg).toNat (t.sval b.reg)).advance) hi
  have hu : usedUpS { srcs := useS [a, b], dsts := [.m d] } = unwritten [] (lastOf [a, b]) := usedUpS_useS_of _ _ rfl
  have hs : (t.begin.setMWord d (t.sval a.reg).toNat (t.sval b.reg)).advance.sregs = writtenS [] t.sregs := by
    rw [setMWord_eq]
    rfl
  rw [hrun, retire_scalars (scalarSources_useS _ _) hu hs, setMWord_eq]
  rfl

/-! ### EXMSET -/

/-- The operand of EXMSET, and its style check (03 R41). -/
def exmsetShape (a : MSrc) (t : Team) : Shape :=
  { srcs := useM [a], early := if t.structured then some (.at .illegalMode 0 0) else none }

/-- EXM replaced, within TW, and clean. -/
def withExm (t : Team) (b : LaneBits) : Team := { t with exmBits := b &&& lanesBelow t.tw, exmPoison := 0 }

theorem exec_exmset (a : MSrc) (s : State) : exec (.exmset a) s =
    runRegs (exmsetShape a) (fun t => .ok (withExm t (t.mbits a.reg)).advance) s := rfl

theorem exec_exmset_maskStyle {a : MSrc} (hi : Issues s t { srcs := useM [a] }) (hst : t.structured = false) :
    exec (.exmset a) s = .next (s.putTeam { t.past with
      exmBits := t.mbits a.reg &&& lanesBelow t.tw, exmPoison := 0, masks := masksAfter t (lastMasks [a]) [] }) := by
  have hk : (exmsetShape a t).check t s = none := by
    rw [exmsetShape, if_neg (by simp [hst])]
    exact hi.2
  have hsh : MixedSources (exmsetShape a t) [] [a] := ⟨rfl, rfl⟩
  have hs : (withExm t.begin (t.begin.mbits a.reg)).advance.sregs = writtenS [] t.sregs := rfl
  have hm : (withExm t.begin (t.begin.mbits a.reg)).advance.masks = writtenM t.tw [] t.masks := rfl
  rw [exec_exmset, runRegs_next (effect := fun t => .ok (withExm t (t.mbits a.reg)).advance) hi.1 hk rfl,
    retire_written (u := t) (used := []) (ws := []) (wsM := []) hsh.1 (usedUpV_mixed hsh)
      (usedUpS_mixed hsh rfl) (usedUpM_mixed hsh rfl) hs hm,
    scalarsAfter_nil]
  rfl

theorem exec_exmset_structured {a : MSrc} (hc : s.curTeam = some t) (hst : t.structured = true) :
    exec (.exmset a) s = .next (s.takeTrap t ⟨.illegalMode, 0, 0, none, none⟩) := by
  rw [exec_exmset, ← trapped_at (by decide)]
  exact runRegs_early (sh := exmsetShape a) hc (if_pos hst)

end Instructions

end Sys2Proof.Proofs
end

section
/-!
The obligation on mask instructions.
-/
namespace Sys2Proof.Proofs
open Sys2Proof.Machine Sys2Proof.Laws

/-- Settles O13: the operations on masks by `masks2_of` and `masks1_of`, the counts by `maskScalar_of`, MSETW by `setMWord_eq`,
MGETW and EXMSET by their checks. -/
theorem maskInstructions : Obligations.MaskInstructions := by
  unfold Obligations.MaskInstructions
  refine ⟨⟨?_, ?_, fun d s t hi => ⟨exec_mall hi, exec_mclr hi⟩⟩,
    ⟨?_, fun d a b s t hi => ⟨exec_mgetw_poisoned hi, exec_mgetw_clean hi⟩, fun d a b s t => exec_msetw⟩,
    fun a s t => exec_exmset_maskStyle, fun a s t => exec_exmset_structured, fun d s t => exec_exmget⟩
  · simp only [List.forall_mem_cons, List.not_mem_nil, false_imp_iff, implies_true, and_true]
    exact ⟨masks_mand, masks_mor, masks_mxor, masks_mandn⟩
  · simp only [List.forall_mem_cons, List.not_mem_nil, false_imp_iff, implies_true, and_true]
    exact ⟨masks_mnot, masks_mmov⟩
  · simp only [List.forall_mem_cons, List.not_mem_nil, false_imp_iff, implies_true, and_true]
    exact ⟨maskScalar_mpopc, maskScalar_mffs, maskScalar_msumw⟩

end Sys2Proof.Proofs
end

section
/-!
SUPPORT. Bytes that a team writes to places each of its own, while no teller stands between its halves (13 R195): what they
leave of memory, of its poison (21 R314) and of the writing team; and the places of consecutive bytes (21 R305).
-/
namespace Sys2Proof.Proofs
open Sys2Proof.Machine Sys2Proof.Laws

/-! ### The places of consecutive bytes -/

/-- A list of checks that all pass. -/
theorem mapM_ok_iff {ε α β : Type} {f : α → Except ε β} {l : List α} {bs : List β} :
    l.mapM f = .ok bs ↔ List.Forall₂ (fun a b => f a = .ok b) l bs := by
  induction l generalizing bs with
  | nil => exact ⟨fun h => by cases h; exact .nil, fun h => by cases h; rfl⟩
  | cons a l ih =>
    rw [List.mapM_cons]
    constructor
    · intro h
      cases ha : f a with
      | error e => rw [ha] at h; cases h
      | ok b =>
        cases hl : l.mapM f with
        | error e => rw [ha, hl] at h; cases h
        | ok bs' =>
          rw [ha, hl] at h
          cases h
          exact .cons ha (ih.1 hl)
    · intro h
      cases h with
      | cons ha hl =>
        rw [ha, ih.2 hl]
        rfl

theorem placesOf_length {s : State} {t : Team} {va : Addr} {n : Nat} {i : Intent} {ps : List Place}
    (h : placesOf s t va n i = .ok ps) : ps.length = n := by
  have hl := (mapM_ok_iff.1 h).length_eq
  rw [List.length_range] at hl
  exact hl.symm

/-! ### One byte -/

theorem byte_store_one {m : Memory} (h : m.wf = true) (loc : Nat) (b : Byte) (a : Nat) :
    (m.store loc [b]).byte a = if a = loc then b else m.byte a := by
  rw [byte_store h]
  by_cases ha : a = loc
  · simp [ha]
  · rw [if_neg ha, if_neg (by simp only [List.length_singleton]; omega)]

/-- One byte covers no word whole. -/
theorem wordBad_store_one (m : Memory) (loc : Nat) (b : Byte) (a : Nat) : (m.store loc [b]).wordBad a = m.wordBad a := by
  have h : ¬ (loc + 3) / 4 * 4 + 4 * 0 + 4 ≤ loc + 1 := by omega
  have hc : coveredWords loc [b].length = [] := by
    simp only [coveredWords, List.length_singleton]
    simp only [show 1 / 4 + 1 = 1 from rfl, List.range_one, List.filterMap_cons, List.filterMap_nil, if_neg h]
  rw [Memory.store, hc]
  rfl

/-- With no teller between its halves there is nothing to finish. -/
theorem settle_eq {s : State} (h : s.settled) (loc n : Nat) : s.settle loc n = s := by
  refine List.foldlRecOn (motive := fun u => u = s) _ _ rfl fun u hu a ha => ?_
  rw [settleOne_eq (h a (List.mem_of_mem_filter ha)), hu]

theorem writePlace_settled {s : State} (h : s.settled) {p : Place} (hp : p.region ≠ .aperture) (bs : List Byte) :
    s.writePlace p bs = s.writeLoc p.loc bs := by
  cases hr : p.region with
  | aperture => exact absurd hr hp
  | hostLink | peer => simp only [State.writePlace, hr, settle_eq h]
  | device _ | hostCoherent | vault _ | localStore => simp only [State.writePlace, hr]

/-! ### Bytes one after another -/

/-- No teller stands between its halves, and the places are reachable and outside the aperture. -/
def Plain (s : State) (ps : List Place) : Prop := s.settled ∧ ∀ p ∈ ps, p.region ≠ .aperture ∧ s.reachable p = true

section Each
variable {s : State} {tower : Nat}

theorem reachable_teamWrite (h : s.settled) {p : Place} (hp : p.region ≠ .aperture) (bs : List Byte) (q : Place) :
    (s.teamWrite tower p bs).reachable q = s.reachable q := by
  rw [State.teamWrite, writePlace_settled h hp]
  rfl

theorem Plain.teamWrite {p : Place} {ps : List Place} (h : Plain s (p :: ps)) (bs : List Byte) :
    Plain (s.teamWrite tower p bs) ps := by
  obtain ⟨hs, hps⟩ := h
  obtain ⟨hp, -⟩ := hps p List.mem_cons_self
  refine ⟨?_, fun q hq => ⟨(hps q (.tail _ hq)).1, ?_⟩⟩
  · rw [State.teamWrite, writePlace_settled hs hp]
    exact hs
  · rw [reachable_teamWrite hs hp]
    exact (hps q (.tail _ hq)).2

theorem writeEach_cons {p : Place} {ps : List Place} (h : Plain s (p :: ps)) (b : Byte) (bs : List Byte) :
    s.writeEach tower (p :: ps) (b :: bs) = (s.teamWrite tower p [b]).writeEach tower ps bs := by
  rw [State.writeEach, if_pos (h.2 p List.mem_cons_self).2]

theorem teamWrite_mem {p : Place} {ps : List Place} (h : Plain s (p :: ps)) (bs : List Byte) :
    (s.teamWrite tower p bs).mem = s.mem.store p.loc bs := by
  rw [State.teamWrite, writePlace_settled h.1 (h.2 p List.mem_cons_self).1]
  rfl

/-- A property that every write of one byte keeps, all of them keep. -/
theorem writeEach_induct {motive : State → State → Prop} (hrefl : ∀ s, motive s s)
    (hstep : ∀ (s w : State) (p : Place) (b : Byte), s.settled → p.region ≠ .aperture →
      motive (s.teamWrite tower p [b]) w → motive s w) {ps : List Place} {bs : List Byte} (h : Plain s ps) :
    motive s (s.writeEach tower ps bs) := by
  induction ps generalizing s bs with
  | nil => exact hrefl s
  | cons p ps ih =>
    cases bs with
    | nil => exact hrefl s
    | cons b bs =>
      rw [writeEach_cons h]
      exact hstep s _ p b h.1 (h.2 p List.mem_cons_self).1 (ih (h.teamWrite [b]))

theorem writeEach_reachable {ps : List Place} {bs : List Byte} (h : Plain s ps) (q : Place) :
    (s.writeEach tower ps bs).reachable q = s.reachable q :=
  writeEach_induct (motive := fun s w => w.reachable q = s.reachable q) (fun _ => rfl)
    (fun _ _ _ b hs hp hw => hw.trans (reachable_teamWrite hs hp [b] q)) h

theorem writeEach_wordBad {ps : List Place} {bs : List Byte} (h : Plain s ps) (a : Nat) :
    (s.writeEach tower ps bs).mem.wordBad a = s.mem.wordBad a :=
  writeEach_induct (motive := fun s w => w.mem.wordBad a = s.mem.wordBad a) (fun _ => rfl)
    (fun s w p b hs hp hw => by
      have hm : (s.teamWrite tower p [b]).mem = s.mem.store p.loc [b] := by
        rw [State.teamWrite, writePlace_settled hs hp]
        rfl
      rw [hw, hm, wordBad_store_one]) h

/-- A byte at none of the places is as it was. -/
theorem writeEach_byte_other {ps : List Place} {bs : List Byte} (hm : s.mem.wf = true) (h : Plain s ps) {a : Nat}
    (ha : a ∉ ps.map (·.loc)) : (s.writeEach tower ps bs).mem.byte a = s.mem.byte a := by
  induction ps generalizing s bs with
  | nil => rfl
  | cons p ps ih =>
    cases bs with
    | nil => rfl
    | cons b bs =>
      obtain ⟨hap, haps⟩ := not_or.1 (mt List.mem_cons.2 ha)
      rw [writeEach_cons h, ih (wf_teamWrite hm _ _ _) (h.teamWrite [b]) haps, teamWrite_mem h, byte_store_one hm, if_neg hap]

/-- Each place has its byte. -/
theorem writeEach_bytes {ps : List Place} {bs : List Byte} (hm : s.mem.wf = true) (h : Plain s ps)
    (hn : (ps.map (·.loc)).Nodup) (hl : ps.length = bs.length) :
    ps.map (fun p => (s.writeEach tower ps bs).mem.byte p.loc) = bs := by
  induction ps generalizing s bs with
  | nil => exact (List.length_eq_zero_iff.1 hl.symm).symm
  | cons p ps ih =>
    cases bs with
    | nil => cases hl
    | cons b bs =>
      obtain ⟨hp, hps⟩ := List.nodup_cons.1 hn
      have hm1 := wf_teamWrite hm tower p [b]
      rw [writeEach_cons h, List.map_cons, ih hm1 (h.teamWrite [b]) hps (Nat.succ.inj hl),
        writeEach_byte_other hm1 (h.teamWrite [b]) hp, teamWrite_mem h, byte_store_one hm, if_pos rfl]

/-- The writes reach a team that does not wait through its bells alone. -/
theorem writeEach_team? {ps : List Place} {bs : List Byte} (h : Plain s ps) {t : Team} (hc : t.cond = .ready)
    (ht : s.team? t.id = some t) : ∃ bells, (s.writeEach tower ps bs).team? t.id = some { t with bells := bells } := by
  refine writeEach_induct (motive := fun s w => ∀ t : Team, t.cond = .ready → s.team? t.id = some t →
    ∃ bells, w.team? t.id = some { t with bells := bells }) (fun s t _ ht => ⟨_, ht⟩)
    (fun s w p b hs hp hw t hc ht => ?_) h t hc ht
  let v : State := { s with mem := s.mem.store p.loc [b] }
  have hteam : t.afterWrite v p.loc 1 = { t with bells := t.bells.map fun b => b.after v p.loc 1 } := by
    simp only [Team.afterWrite, hc]
  have hv : (s.teamWrite tower p [b]).team? t.id = some (t.afterWrite v p.loc 1) := by
    have hteams : (s.teamWrite tower p [b]).teams = s.teams.map (Team.afterWrite v p.loc 1) := by
      rw [State.teamWrite, writePlace_settled hs hp]
      rfl
    rw [State.team?, hteams, List.find?_map]
    exact congrArg (Option.map (Team.afterWrite v p.loc 1)) ht
  rw [hteam] at hv
  exact hw { t with bells := t.bells.map fun b => b.after v p.loc 1 } hc hv

end Each

/-! ### The poison of the words written whole -/

/-- A word has all four of its bytes in a list without repetitions exactly when the list holds four of its bytes. -/
theorem count_word_eq_four {l : List Nat} (h : l.Nodup) (w : Nat) :
    (l.filter fun a => a / 4 == w).length = 4 ↔ ∀ i < 4, w * 4 + i ∈ l := by
  have hr : ((List.range 4).map (w * 4 + ·)).Nodup := List.nodup_range.map fun a b e => Nat.add_left_cancel e
  have hsub : l.filter (fun a => a / 4 == w) ⊆ (List.range 4).map (w * 4 + ·) := fun a ha => by
    have hw : a / 4 = w := by simpa using (List.mem_filter.1 ha).2
    exact List.mem_map.2 ⟨a % 4, List.mem_range.2 (Nat.mod_lt _ (by decide)), by omega⟩
  have hperm := (h.filter fun a => a / 4 == w).subperm hsub
  constructor
  · intro hl i hi
    have hp := hperm.perm_of_length_le (by rw [hl]; rfl)
    exact (List.mem_filter.1 (hp.mem_iff.2 (List.mem_map_of_mem (List.mem_range.2 hi)))).1
  · intro hall
    have hle : (List.range 4).map (w * 4 + ·) ⊆ l.filter fun a => a / 4 == w := fun a ha => by
      obtain ⟨i, hi, rfl⟩ := List.mem_map.1 ha
      have hi4 := List.mem_range.1 hi
      exact List.mem_filter.2 ⟨hall i hi4, by simpa using (by omega : (w * 4 + i) / 4 = w)⟩
    exact Nat.le_antisymm hperm.length_le (hr.subperm hle).length_le

theorem foldl_clear_wordBad {m : Memory} (h : m.wf = true) (ps : List Place) (a : Nat) :
    (ps.foldl (fun m p => m.setWordBad p.loc false) m).wordBad a =
      (m.wordBad a && !ps.any fun p => p.loc / 4 == a / 4) := by
  induction ps generalizing m with
  | nil => simp
  | cons p ps ih =>
    rw [List.foldl_cons, ih (wf_setWordBad h _ _), wordBad_setWordBad h, List.any_cons]
    by_cases hp : a / 4 = p.loc / 4
    · simp [hp]
    · rw [if_neg hp, beq_false_of_ne (Ne.symm hp), Bool.false_or]

theorem clearWritten_byte (s : State) (tower : Nat) (ps : List Place) (a : Nat) :
    (s.clearWritten tower ps).mem.byte a = s.mem.byte a := by
  rw [State.clearWritten, dropLines_mem]
  exact List.foldlRecOn (motive := fun m : Memory => m.byte a = s.mem.byte a) _ _ rfl fun m hm p _ => hm

/-- The poison of exactly those words is cleared whose four bytes stand among the places. -/
theorem clearWritten_wordBad {s : State} {tower : Nat} {ps : List Place} (hm : s.mem.wf = true)
    (hr : ∀ p ∈ ps, s.reachable p = true) (hn : (ps.map (·.loc)).Nodup) (a : Nat) :
    (s.clearWritten tower ps).mem.wordBad a =
      (s.mem.wordBad a && !(List.range 4).all fun i => (ps.map (·.loc)).contains (a / 4 * 4 + i)) := by
  have hcount (w : Nat) : (ps.filter fun q => q.loc / 4 == w).length =
      ((ps.map (·.loc)).filter fun a => a / 4 == w).length := by
    rw [List.filter_map, List.length_map]
    rfl
  rw [State.clearWritten, dropLines_mem, foldl_clear_wordBad hm]
  congr 2
  rw [Bool.eq_iff_iff, List.any_eq_true, List.all_eq_true]
  simp only [List.mem_filter, List.mem_range, Bool.and_eq_true, beq_iff_eq, hcount, List.contains_iff_mem]
  constructor
  · rintro ⟨p, ⟨-, h4, -⟩, hpa⟩ i hi
    rw [hpa] at h4
    exact (count_word_eq_four hn _).1 h4 i hi
  · intro hall
    obtain ⟨p, hp, hpa⟩ := List.mem_map.1 (hall 0 (by decide))
    have hw : p.loc / 4 = a / 4 := by omega
    exact ⟨p, ⟨hp, by rw [hw]; exact (count_word_eq_four hn _).2 hall, hr p hp⟩, hw⟩

end Sys2Proof.Proofs
end

section
/-!
SUPPORT. A transfer whose frame lies in reachable memory (09 R133).
-/
namespace Sys2Proof.Proofs
open Sys2Proof.Machine Sys2Proof.Laws

section Transfer
variable {s s' : State} {t : Team} {entry ra : Addr} {iw : Word} {code : Nat} {emu : Bool} {ps : List Place}

/-- The team as it enters a routine. -/
def entering (t : Team) (entry : Addr) : Team :=
  { t with
    pc := entry, sregs := scalarsAfter t [] [(63, 0), (62, t.sval 62 - 32#32)]
    promises := [], producer := none, cond := .ready, fetched := none, retried := false }

/-- The registers that a transfer writes. -/
theorem setS_setS_sregs (t : Team) (a b : Reg) (v w : Word) :
    ((t.setS a v).setS b w).sregs = scalarsAfter t [] [(b, w), (a, v)] := by
  rw [← killedS_writtenS, setS_sregs, setS_sregs]
  exact (killedS_nil _).symm

theorem setS_setS_goto (t : Team) (a b : Reg) (v w : Word) (pc : Addr) :
    ((t.setS a v).setS b w).goto pc = { t with pc := pc, sregs := scalarsAfter t [] [(b, w), (a, v)] } := by
  rw [← setS_setS_sregs, setS_eq, setS_eq]
  rfl

theorem lostByte_of_reachable (h : ∀ p ∈ ps, s.reachable p = true) (va : Addr) : s.lostByte va ps = none := by
  have hn : ps.findIdx? (fun p => !s.reachable p) = none := List.findIdx?_eq_none_iff.2 fun p hp => by rw [h p hp]; rfl
  rw [State.lostByte, hn]
  rfl

/-- The homes of the frame are touched, the team enters, the frame's bytes are written, then the words written whole are
clean. -/
theorem transfer_eq_of_places (hp : placesOf s t (t.stackStart + (t.sval 62 - 32#32).setWidth 64) 32 .write = .ok ps)
    (hr : ∀ p ∈ ps, s.reachable p = true) (he : transfer s t entry ra iw code emu = .ok s') :
    s' = (((s.touch t.ctx ps).putTeam (entering t entry)).writeEach (towerOf t.core) ps
      (frameBytes t ra iw code emu)).clearWritten (towerOf t.core) ps := by
  have hp' : placesOf s t (stackAddr t (t.sval 62 - 32#32)) 32 .write = .ok ps := hp
  unfold transfer at he
  simp only [hp', lostByte_of_reachable hr, setS_setS_goto] at he
  split at he
  · cases he
  split at he
  · cases he
  split at he
  · cases he
  · exact (Except.ok.inj he).symm

theorem team?_putTeam {u : Team} (h : s.team? t.id = some t) (hu : u.id = t.id) : (s.putTeam u).team? u.id = some u := by
  have hm : s.putTeam u = s.modTeam u.id fun v => { u with id := v.id } := by
    unfold State.putTeam State.modTeam
    congr 1
    refine List.map_congr_left fun v _ => ?_
    by_cases hv : v.id = u.id
    · rw [if_pos hv, if_pos hv]
      exact congrArg (fun i => { u with id := i }) hv.symm
    · rw [if_neg hv, if_neg hv]
  rw [hm, team?_modTeam (f := fun v => { u with id := v.id }) (hu ▸ h) fun _ => rfl, ← hu]

end Transfer

end Sys2Proof.Proofs
end

section
/-!
The obligation on what a transfer writes.
-/
namespace Sys2Proof.Proofs
open Sys2Proof.Machine Sys2Proof.Laws

/-- Settles O21: the writes of the frame byte by byte (`writeEach_bytes`), and the words that they cover whole. -/
theorem transferWritesFrame : Obligations.TransferWritesFrame := by
  unfold Obligations.TransferWritesFrame
  intro s s' t entry ra iw code emu ps hm ht hcode hs hp hps hn he
  have hplain : Plain ((s.touch t.ctx ps).putTeam (entering t entry)) ps := ⟨hs, hps⟩
  have hwf : ((s.touch t.ctx ps).putTeam (entering t entry)).mem.wf = true := hm
  have hl : ps.length = (frameBytes t ra iw code emu).length := placesOf_length hp
  obtain ⟨bells, hteam⟩ := writeEach_team? (tower := towerOf t.core) (bs := frameBytes t ra iw code emu) hplain
    (t := entering t entry) rfl (team?_putTeam (s := s.touch t.ctx ps) (u := entering t entry) ht rfl)
  rw [transfer_eq_of_places hp (fun p h => (hps p h).2) he]
  simp only [clearWritten_byte]
  refine ⟨⟨_, hteam, rfl⟩, writeEach_bytes hwf hplain hn hl, fun a => writeEach_byte_other hwf hplain, fun a => ?_⟩
  rw [clearWritten_wordBad (wf_writeEach hwf _ _ _) (fun p h => ?_) hn, writeEach_wordBad hplain]
  · rfl
  · rw [writeEach_reachable hplain]
    exact (hps p h).2

end Sys2Proof.Proofs
end

section
/-!
SUPPORT. Translations of a team, in a state that differs at most in its teams and in the touched dies (21 R319).
-/
namespace Sys2Proof.Proofs
open Sys2Proof.Machine Sys2Proof.Laws

section Same
variable {s s' : State} {t t' : Team}

theorem ctx?_of_map {s s' : State} {g : Context → Context} (h : s'.fe.contexts = s.fe.contexts.map g)
    (hg : ∀ c, (g c).ctxid = c.ctxid) (id : Nat) : s'.ctx? id = (s.ctx? id).map g := by
  rw [State.ctx?, State.ctx?, h, List.find?_map]
  congr 2
  funext c
  simp only [Function.comp, hg]

/-- The touched dies of a context take part in no translation of its teams. -/
theorem sameMap_touch (s : State) (t : Team) (ctx : Nat) (ps : List Place) :
    SameMap (s.ctxOf t) ((s.touch ctx ps).ctxOf t) := by
  have hctx : (s.touch ctx ps).ctx? t.ctx = (s.ctx? t.ctx).map fun c =>
      if c.ctxid = ctx then { c with touched := ps.foldl (fun m p => m ||| touchedBy p) c.touched } else c :=
    ctx?_of_map rfl (fun c => by split <;> rfl) t.ctx
  unfold State.ctxOf
  rw [hctx]
  cases s.ctx? t.ctx with
  | none => rfl
  | some c =>
    simp only [Option.map_some, Option.getD_some]
    split <;> rfl

theorem named_same {c c' : Context} (hs : SameSpace s s') (hc : SameMap c c') (core : Nat) (va : Addr) :
    s'.named c' core va = s.named c core va := by
  obtain ⟨hm, hd, hcores, hq⟩ := hs
  have ho : SameSpace { s with dev := { s.dev with lostDies := 0 } } { s' with dev := { s'.dev with lostDies := 0 } } :=
    ⟨hm, by rw [hd], hcores, hq⟩
  have hp : SameMap { c with priv := true, claim := 1#8 ||| c.claim } { c' with priv := true, claim := 1#8 ||| c'.claim } := by
    rw [hc]
    rfl
  simp only [State.named, translate_same ho hp]

/-- Two states and two records of a team in which the team's addresses translate, and every byte reads, alike. -/
def SameView (s : State) (t : Team) (s' : State) (t' : Team) : Prop :=
  SameSpace s s' ∧ SameMap (s.ctxOf t) (s'.ctxOf t') ∧ t'.core = t.core ∧ t'.ctx = t.ctx

theorem sameView_touch (s : State) (t : Team) (ctx : Nat) (ps : List Place) : SameView s t (s.touch ctx ps) t :=
  ⟨sameSpace_touch ctx ps, sameMap_touch s t ctx ps, rfl, rfl⟩

theorem sameView_touchNamed (s : State) (t : Team) (ctx : Nat) (ps : List Place) : SameView s t (s.touchNamed ctx ps) t :=
  sameView_touch s t ctx _

/-- The team has begun its instruction. -/
theorem sameView_begin (s : State) (t : Team) : SameView s t (s.putTeam t.begin) t.begin :=
  ⟨⟨rfl, rfl, rfl, fun _ => rfl⟩, rfl, rfl, rfl⟩

theorem translate_view (h : SameView s t s' t') (va : Addr) (i : Intent) :
    translate s' (s'.ctxOf t') t'.core va i = translate s (s.ctxOf t) t.core va i := by
  obtain ⟨hs, hc, hcore, -⟩ := h
  rw [hcore, translate_same hs hc]

theorem placesOf_view (h : SameView s t s' t') (va : Addr) (n : Nat) (i : Intent) :
    placesOf s' t' va n i = placesOf s t va n i := by
  unfold placesOf
  simp only [translate_view h]

theorem placesAt_view (h : SameView s t s' t') (vas : List Addr) : s'.placesAt t' vas = s.placesAt t vas := by
  obtain ⟨hs, hc, hcore, -⟩ := h
  unfold State.placesAt
  rw [hcore, funext (named_same hs hc t.core)]

end Same

/-! ### The places of consecutive bytes, each checked in turn -/

section Checks
variable {s : State} {t : Team} {va : Addr} {i : Intent} {ps : List Place}

theorem placesM_ok {α : Type} {check : α → Except Stop Place} {l : List α}
    (h : List.Forall₂ (fun a p => check a = .ok p) l ps) : placesM check l = .ok ps := by
  induction h with
  | nil => rfl
  | cons hp _ ih => simp only [placesM, hp, ih]

/-- The stop of a check, after the places that passed before it. -/
def afterChecks (ps : List Place) (e : Stop) : Stop := ps.foldr (fun p e => e.checked [p]) e

theorem placesM_error {α : Type} {check : α → Except Stop Place} {l : List α} {a : α} {rest : List α} {e : Stop}
    (h : List.Forall₂ (fun a p => check a = .ok p) l ps) (ha : check a = .error e) :
    placesM check (l ++ a :: rest) = .error (afterChecks ps e) := by
  induction h with
  | nil => simp only [List.nil_append, placesM, ha, afterChecks, List.foldr_nil]
  | cons hp _ ih =>
    simp only [List.cons_append, placesM, hp, ih]
    rfl

theorem finish_checked (s : State) (t : Team) (ps : List Place) (e : Stop) :
    finish s t (.error (e.checked ps)) = finish (s.touchNamed t.ctx ps) t (.error e) := rfl

theorem finish_afterChecks (s : State) (t : Team) (ps : List Place) (e : Stop) :
    finish s t (.error (afterChecks ps e)) = finish (s.touchNamed t.ctx ps) t (.error e) := by
  induction ps generalizing s with
  | nil => rw [State.touchNamed, List.filter_nil, touch_nil]; rfl
  | cons p ps ih =>
    have hsplit : (s.touchNamed t.ctx [p]).touchNamed t.ctx ps = s.touchNamed t.ctx (p :: ps) := by
      rw [State.touchNamed, State.touchNamed, touch_touch, ← List.filter_append]
      rfl
    have hcons : afterChecks (p :: ps) e = (afterChecks ps e).checked [p] := rfl
    rw [hcons, finish_checked, ih, hsplit]

theorem checkPlace_ok_iff {p : Place} : checkPlace s t va i = .ok p ↔ translate s (s.ctxOf t) t.core va i = .ok p :=
  ⟨checkPlace_ok, fun h => by rw [checkPlace, h]⟩

theorem forall₂_checkPlace {n : Nat} (h : placesOf s t va n i = .ok ps) :
    List.Forall₂ (fun k p => checkPlace s t (va + .ofNat 64 k) i = .ok p) (List.range n) ps :=
  (mapM_ok_iff.1 h).imp fun _ _ => checkPlace_ok_iff.2

theorem placesM_of_placesOf {n : Nat} (h : placesOf s t va n i = .ok ps) :
    placesM (fun k => checkPlace s t (va + .ofNat 64 k) i) (List.range n) = .ok ps := placesM_ok (forall₂_checkPlace h)

theorem range_split {k n : Nat} (h : k < n) :
    List.range n = List.range k ++ k :: (List.range (n - k - 1)).map (k + 1 + ·) := by
  have hn : n = k + 1 + (n - k - 1) := by omega
  conv_lhs => rw [hn, List.range_add, List.range_succ, List.append_assoc, List.singleton_append]

theorem placesM_of_refused {k n : Nat} {e : Stop} (hk : k < n) (h : placesOf s t va k i = .ok ps)
    (he : checkPlace s t (va + .ofNat 64 k) i = .error e) :
    placesM (fun k => checkPlace s t (va + .ofNat 64 k) i) (List.range n) = .error (afterChecks ps e) := by
  rw [range_split hk]
  exact placesM_error (forall₂_checkPlace h) he

end Checks

end Sys2Proof.Proofs
end

section
/-!
SUPPORT. ERET, check by check (09 R134).
-/
namespace Sys2Proof.Proofs
open Sys2Proof.Machine Sys2Proof.Laws

/-- Where the frame lies that ERET reads. -/
def frameBase (t : Team) : Addr := t.stackStart + (t.sval 62).setWidth 64

/-- The number that `n` bytes of the frame from offset `o` on hold. -/
def frameWord (s : State) (ps : List Place) (o n : Nat) : Nat :=
  leNat (((ps.flatMap fun p => s.readPlace p 1).drop o).take n)

/-- A read of the frame has to wait for an access in flight. -/
def readHeld (s : State) (t : Team) (ps : List Place) : Bool :=
  ps.any fun p => s.heldBack (t.byteAccess p false (p.order .rlx none) none)

/-- The word of a byte of the frame is poisoned. -/
def frameBad (s : State) (ps : List Place) (o : Nat) : Bool := (ps[o]?).any fun p => s.mem.wordBad p.loc

section Checks
variable {s : State} {t : Team} {ps : List Place}

theorem returnFromTrap_off_stack (h : stackOk t (t.sval 62).toNat 32 = false) :
    returnFromTrap t s = raiseAt .stackLimit ((t.sval 62).setWidth 64) := by
  unfold returnFromTrap
  simp only [h, Bool.not_false, if_true]

/-- What follows once the frame lies on the stack and each of its bytes has a place. -/
def returnThrough (t : Team) (s : State) (ps : List Place) : Except Stop State :=
  if readHeld s t ps then .error (Stop.stall.checked ps)
  else match s.lostByte (frameBase t) ps with
  | some x => .error ((Stop.trap (acquireFailed t.pc x)).checked ps)
  | none => afterSeeing ps <|
    match frameUses.find? (frameBad s ps) with
    | some o =>
      let a := frameBase t + .ofNat 64 o
      raiseAt .poison (a - .ofNat 64 (a.toNat % 4)) 1
    | none =>
      if !modeOk (s.ctxOf t).nvr (.ofNat 32 (frameWord s ps 12 4)) then raiseAt .illegalMode
      else if frameWord s ps 0 8 % 4 != 0 then raiseAt .misaligned (.ofNat 64 (frameWord s ps 0 8))
      else .ok ((ps.foldl (fun s p => s.acquireAt (towerOf t.core) (p.order .rlx none))
          ((s.touch t.ctx ps).servedAtHome (towerOf t.core) ps)).putTeam
        { (((t.setS 63 (.ofNat 32 (frameWord s ps 16 4))).setS 62 (t.sval 62 + 32#32)).goto
            (.ofNat 64 (frameWord s ps 0 8))) with
          mode := .ofNat 32 (frameWord s ps 12 4), promises := [] })

theorem returnFromTrap_refused {e : Stop} {k : Nat} (hst : stackOk t (t.sval 62).toNat 32 = true) (hk : k < 32)
    (hp : placesOf s t (frameBase t) k .read = .ok ps)
    (he : checkPlace s t (frameBase t + .ofNat 64 k) .read = .error e) : returnFromTrap t s = .error (afterChecks ps e) := by
  have hm : placesM (fun k => checkPlace s t (stackAddr t (t.sval 62) + .ofNat 64 k) .read) (List.range 32) = _ :=
    placesM_of_refused hk hp he
  unfold returnFromTrap
  simp only [hst, hm, Bool.not_true, Bool.false_eq_true, if_false]

theorem returnFromTrap_places (hst : stackOk t (t.sval 62).toNat 32 = true)
    (hp : placesOf s t (frameBase t) 32 .read = .ok ps) : returnFromTrap t s = returnThrough t s ps := by
  have hm : placesM (fun k => checkPlace s t (stackAddr t (t.sval 62) + .ofNat 64 k) .read) (List.range 32) = .ok ps :=
    placesM_of_placesOf hp
  have hbad : frameBad s ps = fun o => (ps[o]?.map fun p => s.mem.wordBad p.loc).getD false := by
    funext o
    rw [frameBad]
    cases ps[o]? <;> rfl
  unfold returnFromTrap
  simp only [hst, hm, Bool.not_true, Bool.false_eq_true, if_false, returnThrough, hbad]
  rfl

end Checks
end Sys2Proof.Proofs
end

section
/-!
SUPPORT. What ERET leaves, check by check (09 R134; 15 R223, R229).
-/
namespace Sys2Proof.Proofs
open Sys2Proof.Machine Sys2Proof.Laws

section Through
variable {s : State} {t : Team} {ps : List Place}

theorem lostByte_some {va : Addr} {k : Nat} (hk : k < ps.length) (hb : ∀ j < k, (ps[j]?).all s.reachable = true)
    (hl : (ps[k]?).all s.reachable = false) : s.lostByte va ps = some (va + .ofNat 64 k) := by
  have hfind : ps.findIdx? (fun p => !s.reachable p) = some k := by
    refine List.findIdx?_eq_some_iff_getElem.2 ⟨hk, ?_, fun j hj => ?_⟩
    · simpa [List.getElem?_eq_getElem hk] using hl
    · have := hb j hj
      rw [List.getElem?_eq_getElem (hj.trans hk)] at this
      simpa using this
  rw [State.lostByte, hfind]
  rfl

theorem returnThrough_held (h : readHeld s t ps = true) : returnThrough t s ps = .error (Stop.stall.checked ps) := if_pos h

theorem returnThrough_lost {va : Addr} (h : readHeld s t ps = false) (hl : s.lostByte (frameBase t) ps = some va) :
    returnThrough t s ps = .error ((Stop.trap (acquireFailed t.pc va)).checked ps) := by
  simp only [returnThrough, h, Bool.false_eq_true, if_false, hl]

/-- The team as the frame has it. -/
def returning (s : State) (t : Team) (ps : List Place) : Team :=
  { t with
    pc := .ofNat 64 (frameWord s ps 0 8), mode := .ofNat 32 (frameWord s ps 12 4), promises := []
    sregs := scalarsAfter t [] [(62, t.sval 62 + 32#32), (63, .ofNat 32 (frameWord s ps 16 4))] }

section Read
variable (h : readHeld s t ps = false) (hr : ∀ p ∈ ps, s.reachable p = true)
include h hr

theorem returnThrough_poison {o : Nat} (hb : frameUses.find? (frameBad s ps) = some o) : returnThrough t s ps =
    .error (.seen ps (.trap (.at .poison (frameBase t + .ofNat 64 o -
      .ofNat 64 ((frameBase t + .ofNat 64 o).toNat % 4)) 1))) := by
  simp only [returnThrough, h, Bool.false_eq_true, if_false, lostByte_of_reachable hr, hb]
  rfl

variable (hb : frameUses.find? (frameBad s ps) = none)
include hb

theorem returnThrough_mode (hm : modeOk (s.ctxOf t).nvr (.ofNat 32 (frameWord s ps 12 4)) = false) :
    returnThrough t s ps = .error (.seen ps (.trap (.at .illegalMode 0 0))) := by
  simp only [returnThrough, h, Bool.false_eq_true, if_false, lostByte_of_reachable hr, hb, hm, Bool.not_false, if_true]
  rfl

variable (hm : modeOk (s.ctxOf t).nvr (.ofNat 32 (frameWord s ps 12 4)) = true)
include hm

theorem returnThrough_misaligned (ha : frameWord s ps 0 8 % 4 ≠ 0) :
    returnThrough t s ps = .error (.seen ps (.trap (.at .misaligned (.ofNat 64 (frameWord s ps 0 8)) 0))) := by
  simp only [returnThrough, h, Bool.false_eq_true, if_false, lostByte_of_reachable hr, hb, hm, Bool.not_true,
    bne_iff_ne.2 ha, if_true]
  rfl

theorem returnThrough_returns (ha : frameWord s ps 0 8 % 4 = 0) : returnThrough t s ps =
    .ok ((ps.foldl (fun s p => s.acquireAt (towerOf t.core) (p.order .rlx none))
      ((s.touch t.ctx ps).servedAtHome (towerOf t.core) ps)).putTeam (returning s t ps)) := by
  simp only [returnThrough, h, Bool.false_eq_true, if_false, lostByte_of_reachable hr, hb, hm, Bool.not_true,
    ha, bne_self_eq_false, setS_setS_goto]
  rfl

end Read

/-! ### The tower's copies of lines -/

/-- A strong read of an SO page drops every copy of the tower. -/
theorem foldl_acquireAt (tower : Nat) (ps : List Place) (s : State) :
    ps.foldl (fun s p => s.acquireAt tower (p.order .rlx none)) s = { s with flight := { s.flight with
      lines := s.flight.lines.filter fun l => !(l.tower == tower && ps.any fun p => p.kind == PageKind.so) } } := by
  induction ps generalizing s with
  | nil =>
    have hall : s.flight.lines.filter (fun l => !(l.tower == tower && ([] : List Place).any fun p => p.kind == PageKind.so)) =
        s.flight.lines := List.filter_eq_self.2 fun l _ => by simp
    rw [hall]
    rfl
  | cons p ps ih =>
    rw [List.foldl_cons, ih]
    by_cases hp : p.kind = .so
    · have hscope : crossesTowers (wider .tm p.soScope) = true := by
        unfold Place.soScope
        cases p.region <;> rfl
      have hacq : s.acquireAt tower (p.order .rlx none) = { s with flight := { s.flight with
          lines := s.flight.lines.filter fun l => l.tower != tower } } := by
        rw [Place.order, if_pos hp]
        exact if_pos hscope
      rw [hacq]
      simp only [List.filter_filter, List.any_cons, hp, beq_self_eq_true, Bool.true_or, Bool.and_true]
      congr 3
      funext l
      cases hl : l.tower == tower <;> simp [bne, hl]
    · have hacq : s.acquireAt tower (p.order .rlx none) = s := by
        rw [Place.order, if_neg hp]
        rfl
      rw [hacq]
      simp only [List.any_cons, beq_false_of_ne hp, Bool.false_or]

theorem any_or {α : Type} (l : List α) (p q : α → Bool) : (l.any fun a => p a || q a) = (l.any p || l.any q) := by
  induction l with
  | nil => rfl
  | cons a l ih => simp only [List.any_cons, ih, Bool.or_assoc, Bool.or_left_comm]

/-- The copies that reads of these places leave a tower: one of a line that it has written goes with a read of the line, and
every one with a read of an SO page (15 R223, R229). -/
def withoutCopies (s : State) (tower : Nat) (ps : List Place) : State :=
  { s with flight := { s.flight with
    lines := s.flight.lines.filter fun l => !(l.tower == tower && ps.any fun p => p.kind == PageKind.so
      || (p.loc / 128 == l.line && s.flight.stored.contains (l.tower, l.line))) } }

theorem foldl_acquireAt_servedAtHome (s : State) (tower : Nat) (ps : List Place) :
    ps.foldl (fun s p => s.acquireAt tower (p.order .rlx none)) (s.servedAtHome tower ps) = withoutCopies s tower ps := by
  rw [foldl_acquireAt]
  simp only [withoutCopies, State.servedAtHome, State.dropLines, List.filter_filter]
  congr 3
  funext l
  by_cases hl : l.tower = tower
  · subst hl
    have hread (p : Place) : (p.loc / 128 == l.line && s.flight.stored.contains (l.tower, l.line)) =
        (s.flight.stored.contains (l.tower, p.loc / 128) && p.loc / 128 == l.line) := by
      by_cases hp : p.loc / 128 = l.line
      · rw [hp, beq_self_eq_true, Bool.true_and, Bool.and_true]
      · rw [beq_false_of_ne hp, Bool.false_and, Bool.and_false]
    simp only [beq_self_eq_true, Bool.true_and, ← Bool.not_or, List.any_filter, any_or, hread]
  · simp only [beq_false_of_ne hl, Bool.false_and, Bool.not_false, Bool.true_and]

end Through

section Exec
variable {s : State} {t : Team} {ps : List Place}

/-- The operands of ERET. -/
def eretShape : Shape := { srcs := useS [⟨62, false⟩], dsts := [.s 63, .s 62] }

theorem frameWord_putTeam (u : Team) (ps : List Place) (o n : Nat) : frameWord (s.putTeam u) ps o n = frameWord s ps o n := by
  have h : SameSpace s (s.putTeam u) := ⟨rfl, rfl, rfl, fun _ => rfl⟩
  simp only [frameWord, readPlace_same h]

/-- What ERET does once its operands are checked. -/
def eretEffect (t : Team) (s : State) : Except Stop (State × List Touch) :=
  match returnFromTrap t s with
  | .error x => .error x
  | .ok s' => .ok (s', [⟨stackAddr t (t.sval 62), 32, false, none⟩])

theorem exec_eret (s : State) : exec .eret s = runState (fun _ _ => eretShape) eretEffect s := rfl

theorem eretEffect_ok {s' : State} (h : returnFromTrap t s = .ok s') :
    eretEffect t s = .ok (s', [⟨stackAddr t (t.sval 62), 32, false, none⟩]) := by rw [eretEffect, h]

theorem returnFromTrap_begin (hst : stackOk t (t.sval 62).toNat 32 = true)
    (hp : placesOf s t (frameBase t) 32 .read = .ok ps) :
    returnFromTrap t.begin (s.putTeam t.begin) = returnThrough t.begin (s.putTeam t.begin) ps :=
  returnFromTrap_places (t := t.begin) hst ((placesOf_view (sameView_begin s t) _ _ _).trans hp)

theorem modeOk_begin (hm : modeAccepted (s.ctxOf t).nvr (.ofNat 32 (frameWord s ps 12 4))) :
    modeOk ((s.putTeam t.begin).ctxOf t.begin).nvr (.ofNat 32 (frameWord (s.putTeam t.begin) ps 12 4)) = true := by
  rw [frameWord_putTeam]
  exact (modeOk_iff _ _).2 hm

section
variable (hi : Issues s t eretShape)
include hi

theorem exec_eret_stops {e : Stop} (he : returnFromTrap t.begin (s.putTeam t.begin) = .error e) :
    exec .eret s = finish s t (.error e) := by
  rw [exec_eret]
  exact runState_stopped hi.1 hi.2 (by rw [eretEffect, he])

theorem exec_eret_off_stack (h : stackOk t (t.sval 62).toNat 32 = false) :
    exec .eret s = .next (s.takeTrap t ⟨.stackLimit, (t.sval 62).setWidth 64, 0, none, none⟩) := by
  rw [exec_eret_stops hi (returnFromTrap_off_stack (t := t.begin) h), finish_trap, trapped_at (by decide)]
  rfl

variable (hst : stackOk t (t.sval 62).toNat 32 = true)
include hst

theorem exec_eret_refused {k : Nat} {x : Trap} (hk : k < 32) (hp : placesOf s t (frameBase t) k .read = .ok ps)
    (hx : translate s (s.ctxOf t) t.core (frameBase t + .ofNat 64 k) .read = .error x) :
    exec .eret s = .next ((s.touchNamed t.ctx ps).refusedAt t (frameBase t + .ofNat 64 k) x) := by
  have hp' : placesOf (s.putTeam t.begin) t.begin (frameBase t) k .read = .ok ps :=
    (placesOf_view (sameView_begin s t) _ _ _).trans hp
  have hx' : checkPlace (s.putTeam t.begin) t.begin (frameBase t + .ofNat 64 k) .read = _ :=
    checkPlace_error ((translate_view (sameView_begin s t) _ _).trans hx)
  rw [exec_eret_stops hi (returnFromTrap_refused (t := t.begin) hst hk hp' hx'), finish_afterChecks, finish_seen, finish_trap,
    placesAt_view (sameView_begin s t), State.refusedAt, placesAt_view (sameView_touchNamed s t _ _)]

variable (hp : placesOf s t (frameBase t) 32 .read = .ok ps)
include hp

theorem exec_eret_stopped {e : Stop} (he : returnThrough t.begin (s.putTeam t.begin) ps = .error e) :
    exec .eret s = finish s t (.error e) := exec_eret_stops hi ((returnFromTrap_begin hst hp).trans he)

theorem exec_eret_held (h : readHeld s t ps = true) : exec .eret s = .next ((s.touchNamed t.ctx ps).stall t) :=
  exec_eret_stopped hi hst hp (returnThrough_held (s := s.putTeam t.begin) (t := t.begin) h)

theorem exec_eret_lost {k : Nat} (h : readHeld s t ps = false) (hk : k < 32)
    (hb : ∀ j < k, (ps[j]?).all s.reachable = true) (hl : (ps[k]?).all s.reachable = false) :
    exec .eret s = .next ((s.touchNamed t.ctx ps).stall
      (t.pend ⟨.acquireFailed, frameBase t + .ofNat 64 k, 0, none, some t.pc⟩)) :=
  exec_eret_stopped hi hst hp (returnThrough_lost (s := s.putTeam t.begin) (t := t.begin) h
    (lostByte_some (s := s.putTeam t.begin) (placesOf_length hp ▸ hk) hb hl))

variable (h : readHeld s t ps = false) (hr : ∀ p ∈ ps, s.reachable p = true)
include h hr

theorem exec_eret_poison {o : Nat} (hb : frameUses.find? (frameBad s ps) = some o) :
    exec .eret s = .next ((s.touch t.ctx ps).takeTrap t ⟨.poison, frameBase t + .ofNat 64 o -
      .ofNat 64 ((frameBase t + .ofNat 64 o).toNat % 4), 1, none, none⟩) := by
  rw [exec_eret_stopped hi hst hp (returnThrough_poison (s := s.putTeam t.begin) (t := t.begin) h hr hb), finish_seen,
    finish_trap, trapped_at (by decide)]
  rfl

variable (hb : frameUses.find? (frameBad s ps) = none)
include hb

theorem exec_eret_mode (hm : ¬ modeAccepted (s.ctxOf t).nvr (.ofNat 32 (frameWord s ps 12 4))) :
    exec .eret s = .next ((s.touch t.ctx ps).takeTrap t ⟨.illegalMode, 0, 0, none, none⟩) := by
  have hm' := Bool.eq_false_iff.2 (mt (modeOk_iff _ _).1 hm)
  rw [← frameWord_putTeam t.begin] at hm'
  rw [exec_eret_stopped hi hst hp (returnThrough_mode (s := s.putTeam t.begin) (t := t.begin) h hr hb hm'), finish_seen,
    finish_trap, trapped_at (by decide)]

variable (hm : modeAccepted (s.ctxOf t).nvr (.ofNat 32 (frameWord s ps 12 4)))
include hm

theorem exec_eret_misaligned (ha : frameWord s ps 0 8 % 4 ≠ 0) :
    exec .eret s = .next ((s.touch t.ctx ps).takeTrap t ⟨.misaligned, .ofNat 64 (frameWord s ps 0 8), 0, none, none⟩) := by
  rw [← frameWord_putTeam t.begin] at ha
  rw [exec_eret_stopped hi hst hp (returnThrough_misaligned (s := s.putTeam t.begin) (t := t.begin) h hr hb
    (modeOk_begin hm) ha), finish_seen, finish_trap, trapped_at (by decide), frameWord_putTeam]

theorem exec_eret_returns (ha : frameWord s ps 0 8 % 4 = 0) (hu : s.unwatched) :
    exec .eret s = .next ((withoutCopies (s.touch t.ctx ps) (towerOf t.core) ps).putTeam
      { t.arrived (.ofNat 64 (frameWord s ps 0 8)) with
        mode := .ofNat 32 (frameWord s ps 12 4), promises := []
        sregs := scalarsAfter t [] [(62, t.sval 62 + 32#32), (63, .ofNat 32 (frameWord s ps 16 4))] }) := by
  rw [← frameWord_putTeam t.begin] at ha
  have he := (returnFromTrap_begin hst hp).trans (returnThrough_returns (s := s.putTeam t.begin) (t := t.begin) h hr hb
    (modeOk_begin hm) ha)
  rw [foldl_acquireAt_servedAtHome] at he
  have hlast : ∀ u ∈ eretShape.srcs ++ eretShape.unread, u.last = false := by simp [eretShape, useS]
  rw [exec_eret, runState_next_unwatched hi.1 hi.2 (eretEffect_ok he) (unwatched_touch hu t.ctx ps)]
  refine congrArg Host.Outcome.next ((putTeam_modTeam_of (withoutCopies (s.touch t.ctx ps) (towerOf t.core) ps)
    (v := t.begin) (u := returning (s.putTeam t.begin) t.begin ps) rfl rfl (retire_id _)).trans ?_)
  rw [retire_of_no_last rfl hlast]
  simp only [returning, frameWord_putTeam]
  rfl

end
end Exec
end Sys2Proof.Proofs
end

section
/-!
The obligation on ERET.
-/
namespace Sys2Proof.Proofs
open Sys2Proof.Machine Sys2Proof.Laws

/-- Settles O22: each clause by the lemma on ERET whose hypotheses it has. -/
theorem returnFromTrap : Obligations.ReturnFromTrap := by
  unfold Obligations.ReturnFromTrap
  intro s t hi base
  refine ⟨exec_eret_off_stack hi, fun hst => ⟨fun k ps x hk hp hx => exec_eret_refused hi hst hk hp hx, ?_⟩⟩
  intro ps hp F word bad used held u checked
  have hheld : held ↔ readHeld s t ps = true := List.any_eq_true.symm
  refine ⟨fun h => exec_eret_held hi hst hp (hheld.1 h), fun h k hk hb hl => ?_, fun h hr => ?_⟩
  · exact exec_eret_lost hi hst hp (Bool.eq_false_iff.2 (mt hheld.2 h)) hk hb hl
  · have h' : readHeld s t ps = false := Bool.eq_false_iff.2 (mt hheld.2 h)
    refine ⟨fun o hb => exec_eret_poison hi hst hp h' hr hb, fun hb =>
      ⟨exec_eret_mode hi hst hp h' hr hb, fun hm => ?_⟩⟩
    exact ⟨exec_eret_misaligned hi hst hp h' hr hb hm, exec_eret_returns hi hst hp h' hr hb hm⟩

end Sys2Proof.Proofs
end

section
/-!
SUPPORT. A fault record: its bytes, field by field, and what writing it leaves alone (21 R303, R304).
-/
namespace Sys2Proof.Proofs
open Sys2Proof.Machine Sys2Proof.Laws

/-! ### Little-endian bytes -/

theorem leNat_leBytes (n v : Nat) : leNat (leBytes n v) = v % 256 ^ n := by
  induction n generalizing v with
  | zero => exact (Nat.mod_one v).symm
  | succ n ih =>
    have hsplit : v % (256 * 256 ^ n) = v % 256 + 256 * (v / 256 % 256 ^ n) := Nat.mod_mul
    rw [leBytes, leNat, ih, BitVec.toNat_ofNat, Nat.pow_succ' (m := 256), hsplit]

theorem bytes_eq (m : Memory) (loc n : Nat) : m.bytes loc n = (List.range n).map fun i => m.byte (loc + i) := rfl

/-- Some of the bytes just stored. -/
theorem bytes_store_within {m : Memory} (h : m.wf = true) (loc : Nat) (bs : List Byte) {o n : Nat} (hn : o + n ≤ bs.length) :
    (m.store loc bs).bytes (loc + o) n = (bs.drop o).take n := by
  refine List.ext_getElem (by simp [bytes_eq]; omega) fun i hi hi' => ?_
  have hin : i < n := by simpa [bytes_eq] using hi
  rw [List.getElem_take, List.getElem_drop]
  simp only [bytes_eq, List.getElem_map, List.getElem_range]
  rw [byte_store h, if_pos (by omega), List.getD_eq_getElem?_getD]
  have hidx : loc + o + i - loc = o + i := by omega
  rw [hidx, List.getElem?_eq_getElem (by omega), Option.getD_some]

theorem bytes_store_apart {m : Memory} (h : m.wf = true) {loc a n : Nat} (bs : List Byte)
    (ha : a + n ≤ loc ∨ loc + bs.length ≤ a) : (m.store loc bs).bytes a n = m.bytes a n := by
  rw [bytes_eq, bytes_eq]
  refine List.map_congr_left fun i hi => byte_store_other h bs ?_
  have := List.mem_range.1 hi
  omega

/-! ### The 32 bytes -/

theorem trapCode_num_lt (c : TrapCode) : c.num < 64 := by cases c <;> decide

/-- The cause and the lane of a trap fit their fields. -/
def FitsRecord (x : Trap) : Prop := x.cause < 16 ∧ ∀ l ∈ x.lane, l < 1024

theorem fitsRecord_of_no_lane {x : Trap} (hc : x.cause < 16) (hl : x.lane = none) : FitsRecord x :=
  ⟨hc, fun l h => by cases hl ▸ h⟩

theorem FitsRecord.lane {x : Trap} (h : FitsRecord x) : x.lane.getD 0x3FF < 1024 := by
  cases hx : x.lane with
  | none => decide
  | some l => exact h.2 l hx

section Fields
variable (s : State) (t : Team) (x : Trap) (fatal async : Bool)

/-- The number in `n` bytes of the record from offset `o` on. -/
def recordField (o n : Nat) : Nat := leNat (((recordBytes s t x fatal async).drop o).take n)

theorem recordField_time : recordField s t x fatal async 0 8 = (s.coreTime t.core).toNat :=
  (leNat_leBytes 8 _).trans (Nat.mod_eq_of_lt (s.coreTime t.core).isLt)

theorem recordField_pc : recordField s t x fatal async 8 8 = (x.pcw.getD t.pc).toNat % 2 ^ 57 + t.corr.toNat * 2 ^ 57 := by
  have hc := t.corr.isLt
  refine (leNat_leBytes 8 _).trans (Nat.mod_eq_of_lt ?_)
  omega

theorem recordField_addr :
    recordField s t x fatal async 16 8 = x.addr.toNat % 2 ^ 57 + x.code.num * 2 ^ 57 + fatal.toNat * 2 ^ 63 := by
  have hn := trapCode_num_lt x.code
  have hf := Bool.toNat_le fatal
  refine (leNat_leBytes 8 _).trans (Nat.mod_eq_of_lt ?_)
  omega

theorem recordField_nid : recordField s t x fatal async 24 4 = t.nid.toNat :=
  (leNat_leBytes 4 _).trans (Nat.mod_eq_of_lt t.nid.isLt)

theorem recordField_index : recordField s t x fatal async 28 2 = t.index.toNat := by
  have hi := t.index.isLt
  refine (leNat_leBytes 2 _).trans ?_
  omega

theorem recordField_last (hx : FitsRecord x) : recordField s t x fatal async 28 4 =
    t.index.toNat + x.lane.getD 0x3FF * 2 ^ 16 + x.cause * 2 ^ 26 + async.toNat * 2 ^ 30 := by
  have hi := t.index.isLt
  have ha := Bool.toNat_le async
  have hc := hx.1
  have hlane := hx.lane
  refine (leNat_leBytes 4 _).trans (Nat.mod_eq_of_lt ?_)
  omega

end Fields

/-! ### The record in memory -/

/-- Where the next record of a context goes. -/
def recordSlot (c : Context) : Nat := physical (c.save.toNat + 32 * (1 + c.produced % 1023))

/-- The first word of the log, which counts the records. -/
def recordHeader (c : Context) : Nat := physical c.save.toNat

theorem recordHeader_apart (c : Context) :
    recordSlot c + 32 ≤ recordHeader c ∨ recordHeader c + 4 ≤ recordSlot c := by
  unfold recordSlot recordHeader physical hbmSize
  omega

section Written
variable {v w : State} {t : Team} {x : Trap} {fatal : Bool}

theorem ctx?_afterWrite (s : State) (loc n id : Nat) :
    ((s.afterWrite loc n).ctx? id).map (·.produced) = (s.ctx? id).map (·.produced) := by
  rw [ctx?_of_map (s := s) rfl (fun c => by dsimp only; split <;> rfl) id, Option.map_map]
  congr 1
  funext c
  dsimp only [Function.comp]
  split <;> rfl

theorem ctx?_writeLoc (s : State) (loc : Nat) (bs : List Byte) (id : Nat) :
    ((s.writeLoc loc bs).ctx? id).map (·.produced) = (s.ctx? id).map (·.produced) :=
  ctx?_afterWrite { s with mem := s.mem.store loc bs } loc bs.length id

theorem ctx?_modNode (s : State) (id : Nat) (f : Node → Node) (i : Nat) : (s.modNode id f).ctx? i = s.ctx? i := rfl

theorem ctx?_modTeam (s : State) (id : Nat) (f : Team → Team) (i : Nat) : (s.modTeam id f).ctx? i = s.ctx? i := rfl

theorem ctx?_modCtx {s : State} {id : Nat} {c : Context} (h : s.ctx? id = some c) {f : Context → Context}
    (hf : ∀ c, (f c).ctxid = c.ctxid) : (s.modCtx id f).ctx? id = some (f c) := by
  have hid : c.ctxid = id := by simpa using List.find?_some h
  rw [ctx?_of_map (s := s) rfl (fun c => by split <;> simp [hf]) id, h, Option.map_some, if_pos hid]

theorem writeRecord_mem (c : Context) (hc : v.ctx? t.ctx = some c) : (v.writeRecord t x fatal false).mem =
    (v.mem.store (recordSlot c) (recordBytes v t x fatal false)).store (recordHeader c) (leBytes 4 (c.produced + 1)) := by
  have hctx : v.ctxOf t = c := by rw [State.ctxOf, hc, Option.getD_some]
  rw [← hctx]
  rfl

theorem writeRecord_produced (c : Context) (hc : v.ctx? t.ctx = some c) :
    ((v.writeRecord t x fatal false).ctx? t.ctx).map (·.produced) = some (c.produced + 1) := by
  have hctx : v.ctxOf t = c := by rw [State.ctxOf, hc, Option.getD_some]
  have hid : c.ctxid = t.ctx := by simpa using List.find?_some hc
  have h1 := ctx?_writeLoc v (recordSlot c) (recordBytes v t x fatal false) t.ctx
  rw [hc] at h1
  obtain ⟨d, hd, hdp⟩ := Option.map_eq_some_iff.1 h1
  have h2 := ctx?_modCtx hd (f := fun c => { c with produced := c.produced + 1 }) fun _ => rfl
  unfold State.writeRecord
  simp only [hctx, hid]
  rw [ctx?_modTeam, ctx?_modNode, ctx?_writeLoc]
  refine (congrArg (Option.map _) h2).trans ?_
  rw [Option.map_some, hdp]

/-- Whatever keeps the memory and the contexts of the state that `writeRecord` leaves shows the record. -/
theorem recorded_of (hx : FitsRecord x) (hm : w.mem = (v.writeRecord t x fatal false).mem)
    (hf : w.fe.contexts = (v.writeRecord t x fatal false).fe.contexts) : recorded v w t x fatal false := by
  intro c hctx slot header field
  have hprod : (w.ctx? t.ctx).map (·.produced) = some (c.produced + 1) := by
    rw [State.ctx?, hf]
    exact writeRecord_produced c hctx
  refine ⟨hprod, fun hwf => ?_⟩
  have hwf1 := wf_store hwf (recordSlot c) (recordBytes v t x fatal false)
  have hmem := hm.trans (writeRecord_mem c hctx)
  have hapart := recordHeader_apart c
  have hfield (o n : Nat) (hn : o + n ≤ 32) : field o n = recordField v t x fatal false o n := by
    have hdis : recordSlot c + o + n ≤ recordHeader c
        ∨ recordHeader c + (leBytes 4 (c.produced + 1)).length ≤ recordSlot c + o := by
      have hlen : (leBytes 4 (c.produced + 1)).length = 4 := rfl
      omega
    have hbytes : w.mem.bytes (recordSlot c + o) n = ((recordBytes v t x fatal false).drop o).take n := by
      rw [hmem, bytes_store_apart hwf1 _ hdis, bytes_store_within hwf _ _ hn]
    exact congrArg leNat hbytes
  have haddr := recordField_addr v t x fatal false
  have hpc := recordField_pc v t x fatal false
  have hlast := recordField_last v t x fatal false hx
  have hcorr := t.corr.isLt
  have hnum := trapCode_num_lt x.code
  have hfatal := Bool.toNat_le fatal
  have hindex := t.index.isLt
  have hc := hx.1
  have hlane := hx.lane
  rw [← hfield 16 8 (by decide)] at haddr
  rw [← hfield 8 8 (by decide)] at hpc
  rw [← hfield 28 4 (by decide)] at hlast
  rw [Bool.toNat_false] at hlast ⊢
  refine ⟨(hfield 0 8 (by decide)).trans (recordField_time ..), by omega, by omega, by omega, by omega, by omega,
    (hfield 24 4 (by decide)).trans (recordField_nid ..), (hfield 28 2 (by decide)).trans (recordField_index ..), by omega,
    by omega, by omega, ?_, fun a ha hb => ?_⟩
  · have h4 := bytes_store_same hwf1 (recordHeader c) (leBytes 4 (c.produced + 1))
    rw [← hmem] at h4
    exact (congrArg leNat h4).trans (leNat_leBytes 4 _)
  · rw [hmem, byte_store_other hwf1 _ hb, byte_store_other hwf _ ha]

theorem recorded_writeRecord (hx : FitsRecord x) : recorded v (v.writeRecord t x fatal false) t x fatal false :=
  recorded_of hx rfl rfl

end Written

end Sys2Proof.Proofs
end

section
/-!
SUPPORT. What a trap whose entry ends or stops its team leaves (21 R301, R321), what can fail a transfer, and what the entry
of the vector table says (21 R300).
-/
namespace Sys2Proof.Proofs
open Sys2Proof.Machine Sys2Proof.Laws

/-! ### The team and its node once the record is written -/

section Ends
variable {v w : State} {t : Team} {x : Trap}

theorem team?_afterWrite {s : State} {id : Nat} (h : s.team? id = some t) (loc n : Nat) :
    (s.afterWrite loc n).team? id = some (t.afterWrite s loc n) := by
  have hteams : (s.afterWrite loc n).teams = s.teams.map (Team.afterWrite s loc n) := rfl
  rw [State.team?, hteams, List.find?_map]
  exact congrArg (Option.map (Team.afterWrite s loc n)) h

theorem team?_writeLoc {s : State} {id : Nat} (h : s.team? id = some t) (loc : Nat) (bs : List Byte) :
    ∃ bells cond, (s.writeLoc loc bs).team? id = some (withWait t bells cond) :=
  ⟨_, _, team?_afterWrite (s := { s with mem := s.mem.store loc bs }) h loc bs.length⟩

theorem team?_modNode (s : State) (i : Nat) (f : Node → Node) (id : Nat) : (s.modNode i f).team? id = s.team? id := rfl

theorem team?_modCtx (s : State) (i : Nat) (f : Context → Context) (id : Nat) : (s.modCtx i f).team? id = s.team? id := rfl

/-- Of a team, a fault record changes what a write can change, and CORR. -/
theorem team?_writeRecord {s : State} (h : s.team? t.id = some t) (x : Trap) (fatal async : Bool) :
    ∃ bells cond, (s.writeRecord t x fatal async).team? t.id = some { withWait t bells cond with corr := 0 } := by
  obtain ⟨b1, c1, h1⟩ := team?_writeLoc h (physical ((s.ctxOf t).save.toNat + 32 * (1 + (s.ctxOf t).produced % 1023)))
    (recordBytes s t x fatal async)
  rw [← team?_modCtx _ (s.ctxOf t).ctxid fun c => { c with produced := c.produced + 1 }] at h1
  obtain ⟨b2, c2, h2⟩ := team?_writeLoc h1 (physical (s.ctxOf t).save.toNat) (leBytes 4 ((s.ctxOf t).produced + 1))
  rw [← team?_modNode _ t.node fun n => { n with faults := n.faults + 1 }] at h2
  exact ⟨b2, c2, team?_modTeam (f := fun t => { t with corr := 0 }) h2 fun _ => rfl⟩

/-- A node whose teams have one more record. -/
def recordedNode (t : Team) (n : Node) : Node := if n.id = t.node then { n with faults := n.faults + 1 } else n

theorem endThrough_nodes (v : State) (t : Team) (x : Trap) : (v.endThrough t x false).nodes =
    (v.nodes.map (recordedNode t)).map fun n => if n.id = t.node then
      { n with status := if x.code = .dieLost then 2 else max n.status 1 } else n := rfl

theorem team?_exitTeam {s : State} (h : s.team? t.id = some t) :
    ∃ u, (s.exitTeam t).team? t.id = some u ∧ u.cond = .exiting ∧ u.sregs = t.sregs ∧ u.pc = t.pc :=
  ⟨_, team?_putTeam (s := { s with cohorts := _ }) (t := t) h rfl, rfl, rfl, rfl⟩

theorem endsThrough_endThrough (ht : v.team? t.id = some t) (hx : FitsRecord x) :
    endsThrough v (v.endThrough t x false) t x := by
  refine ⟨recorded_of hx rfl rfl, ?_, fun n hn hid => ?_⟩
  · obtain ⟨bells, cond, hu⟩ := team?_writeRecord ht x true false
    have hend : v.endThrough t x false =
        ((v.writeRecord t x true false).modNode t.node fun n =>
          { n with status := if x.code = .dieLost then 2 else max n.status 1 }).exitTeam
            { withWait t bells cond with corr := 0 } := by
      unfold State.endThrough
      dsimp only
      rw [team?_modNode, hu, Option.getD_some]
    rw [hend]
    exact team?_exitTeam (t := { withWait t bells cond with corr := 0 }) hu
  · have hrec : recordedNode t n = { n with faults := n.faults + 1 } := if_pos hid
    refine ⟨{ n with faults := n.faults + 1, status := if x.code = .dieLost then 2 else max n.status 1 }, ?_, rfl, rfl, ?_⟩
    · rw [endThrough_nodes]
      refine List.mem_map.2 ⟨recordedNode t n, List.mem_map_of_mem hn, ?_⟩
      rw [hrec]
      exact if_pos hid
    · split <;> rfl

theorem stopsFor_stopForDebugger (hx : FitsRecord x) : stopsFor v (v.stopForDebugger t x false) t x :=
  ⟨recorded_of hx rfl rfl, rfl⟩

end Ends

/-! ### The traps of a translation and of a transfer -/

/-- An answer whose traps fit a record. -/
def TrapsFit {α : Type} (r : Except Trap α) : Prop := ∀ x, r = .error x → FitsRecord x

section Traps
variable {α : Type} {a b : Except Trap α}

theorem trapsFit_ok (x : α) : TrapsFit (.ok x : Except Trap α) := fun _ h => by cases h

theorem trapsFit_at (c : TrapCode) (va : Addr) {k : Nat} (h : k < 16) : TrapsFit (.error (.at c va k) : Except Trap α) :=
  fun x hx => by
    cases hx
    exact fitsRecord_of_no_lane h rfl

theorem trapsFit_ite {p : Prop} [Decidable p] (ha : TrapsFit a) (hb : TrapsFit b) : TrapsFit (if p then a else b) := by
  split
  · exact ha
  · exact hb

end Traps

section Translation
variable (s : State) (c : Context) (core : Nat) (va : Addr) (i : Intent)

theorem trapsFit_windowPlace : TrapsFit (windowPlace s c core va i) :=
  trapsFit_ite
    (trapsFit_ite (trapsFit_at _ _ (by decide)) (trapsFit_ite (trapsFit_at _ _ (by decide))
      (trapsFit_ite (trapsFit_at _ _ (by decide)) (trapsFit_ok _))))
    (trapsFit_ite (trapsFit_at _ _ (by decide)) (trapsFit_ite (trapsFit_at _ _ (by decide))
      (trapsFit_ite (trapsFit_at _ _ (by decide)) (trapsFit_ite (trapsFit_at _ _ (by decide)) (trapsFit_ok _)))))

theorem trapsFit_permit (attr : Nat) (p : Place) : TrapsFit (permit s c va i attr p) := by
  refine trapsFit_ite (trapsFit_at _ _ (by decide)) (trapsFit_ite (trapsFit_at _ _ (by decide))
    (trapsFit_ite (trapsFit_at _ _ (by decide)) ?_))
  cases p.region with
  | device h => exact trapsFit_ite (trapsFit_at _ _ (by decide)) (trapsFit_ok _)
  | hostCoherent | hostLink | peer | vault _ | localStore | aperture => exact trapsFit_ok _

theorem trapsFit_leafPlace (pte pageBits : Nat) : TrapsFit (leafPlace s c va i pte pageBits) := by
  refine trapsFit_ite (trapsFit_at _ _ (by decide)) ?_
  split
  · exact trapsFit_at _ _ (by decide)
  · exact trapsFit_permit s c va i _ _

theorem trapsFit_walk (table : Nat) (ls : List (Nat × Nat × Bool × Bool)) : TrapsFit (walk s c va i table ls) := by
  induction ls generalizing table with
  | nil => exact trapsFit_at _ _ (by decide)
  | cons l ls ih =>
    exact trapsFit_ite (trapsFit_at _ _ (by decide)) (trapsFit_ite
      (trapsFit_ite (trapsFit_leafPlace s c va i _ _) (trapsFit_at _ _ (by decide)))
      (trapsFit_ite (trapsFit_at _ _ (by decide)) (ih _)))

theorem trapsFit_translate : TrapsFit (translate s c core va i) := by
  refine trapsFit_ite (trapsFit_at _ _ (by decide)) (trapsFit_ite (trapsFit_windowPlace s c core va i) ?_)
  split
  · split
    · exact trapsFit_at _ _ (by decide)
    · exact trapsFit_permit s c va i _ _
  · exact trapsFit_walk s c va i _ _

end Translation

theorem mapM_error {ε α β : Type} {f : α → Except ε β} {l : List α} {e : ε} (h : l.mapM f = .error e) :
    ∃ a ∈ l, f a = .error e := by
  induction l with
  | nil => cases h
  | cons a l ih =>
    rw [List.mapM_cons] at h
    cases ha : f a with
    | error e' =>
      rw [ha] at h
      cases h
      exact ⟨a, .head _, ha⟩
    | ok b =>
      cases hl : l.mapM f with
      | error e' =>
        rw [ha, hl] at h
        cases h
        obtain ⟨a', hm, he⟩ := ih hl
        exact ⟨a', .tail _ hm, he⟩
      | ok bs => rw [ha, hl] at h; cases h

theorem trapsFit_placesOf (s : State) (t : Team) (va : Addr) (n : Nat) (i : Intent) : TrapsFit (placesOf s t va n i) :=
  fun x h => by
    obtain ⟨k, -, hk⟩ := mapM_error h
    exact trapsFit_translate _ _ _ _ _ x hk

theorem trapsFit_transfer (s : State) (t : Team) (entry ra : Addr) (iw : Word) (code : Nat) (emu : Bool) :
    TrapsFit (transfer s t entry ra iw code emu) := by
  refine trapsFit_ite (trapsFit_at _ _ (by decide)) (trapsFit_ite (trapsFit_at _ _ (by decide))
    (trapsFit_ite (trapsFit_at _ _ (by decide)) ?_))
  split
  next x hx =>
    intro y hy
    cases hy
    exact trapsFit_placesOf s t _ _ _ x hx
  · exact trapsFit_ok _

/-! ### The entry of the vector table -/

/-- What the value of an entry says. -/
def entrySays (code : TrapCode) (v : Nat) : VectorEntry :=
  if v = 0 then .ends
  else if v = 1 then (if code = .translation then .pending else .ends)
  else if v % 4 = 0 then .handler (.ofNat 64 v)
  else .failed

theorem readVector_eq (r : State) (c : Context) (code : TrapCode) :
    readVector r c code = ((entryValue r c code).map (entrySays code)).getD .failed := by
  have ha : vectorAddr c code = c.trapvec + .ofNat 64 (8 * code.num) := rfl
  unfold readVector entryValue
  rw [ha]
  cases r.feTranslate c (c.trapvec + .ofNat 64 (8 * code.num)) .read with
  | error _ => rfl
  | ok p =>
    dsimp only
    by_cases h : r.mem.anyBad p.loc 8 = true ∨ r.reachable p = false
    · rw [if_pos h, if_pos (by simpa using h)]
      rfl
    · rw [if_neg h, if_neg (by simpa using h)]
      rfl

theorem readVector_handler {r : State} {c : Context} {code : TrapCode} {e : Nat} (he : entryValue r c code = some e)
    (h0 : e ≠ 0) (h4 : e % 4 = 0) : readVector r c code = .handler (.ofNat 64 e) := by
  rw [readVector_eq, he]
  exact (if_neg h0).trans ((if_neg (by omega)).trans (if_pos h4))

end Sys2Proof.Proofs
end

section
/-!
SUPPORT. The delivery of a trap, branch by branch (21 R300, R321), and the traps that instructions raise (21 R299; 23 R329,
R330).
-/
namespace Sys2Proof.Proofs
open Sys2Proof.Machine Sys2Proof.Laws

section Deliver
variable {s : State} {t : Team} {x : Trap}

/-- The debugger has the trap whatever the entry says. -/
def StaysForDebugger (s : State) (t : Team) (x : Trap) : Prop :=
  (s.ctxOf t).attached = true ∧ (x.code = .break_ ∨ x.code = .watch)

/-- The state in which the entry of a trap is looked up. -/
def beforeRecord (s : State) (t : Team) (x : Trap) : State :=
  s.touchFe t.ctx [(s.ctxOf t).trapvec + .ofNat 64 (8 * x.code.num)]

/-- The same with the record written. -/
def withRecord (s : State) (t : Team) (x : Trap) : State := (beforeRecord s t x).writeRecord t x false false

/-- The team ends through `z`, or stops for the debugger. -/
def endedOrStopped (s : State) (t : Team) (x z : Trap) : State :=
  if (s.ctxOf t).attached then (beforeRecord s t x).stopForDebugger t x false else (beforeRecord s t x).endThrough t z false

/-- The places of the routine's first word. -/
def routineSeen (s : State) (t : Team) (x : Trap) (a : Addr) : List Place := (beforeRecord s t x).placesAt t [a]

/-- The team as it stands with its record written. -/
def recordedTeam (s : State) (t : Team) (x : Trap) : Team := ((withRecord s t x).team? t.id).getD t

/-- The transfer to a routine. -/
def routineEntered (s : State) (t : Team) (x : Trap) (a : Addr) (iw : Word) : Except Trap State :=
  transfer ((withRecord s t x).touch t.ctx (routineSeen s t x a)) (recordedTeam s t x) a t.pc iw x.code.num false

theorem deliver_stays (h : StaysForDebugger s t x) (iw : Word) :
    s.deliver t x iw false = s.stopForDebugger t x false := by
  have hb : ((s.ctxOf t).attached && (x.code == .break_ || x.code == .watch)) = true := by
    simpa [StaysForDebugger] using h
  exact if_pos hb

section Looks
variable (h : ¬ StaysForDebugger s t x) (iw : Word)
include h

theorem deliver_of_entry : s.deliver t x iw false =
    match readVector (withRecord s t x) (s.ctxOf t) x.code with
    | .ends => endedOrStopped s t x x
    | .failed => endedOrStopped s t x { x with cause := 0xF }
    | .pending => (withRecord s t x).modTeam t.id fun t =>
        { t with
          cond := .pendingTranslation x.addr x.lane, promises := [], producer := none, fetched := some iw
          retried := false }
    | .handler a =>
      match fetch32 (withRecord s t x) t a with
      | .error _ => ((beforeRecord s t x).touch t.ctx (routineSeen s t x a)).endThrough t { x with cause := 0xF } false
      | .ok _ =>
        match routineEntered s t x a iw with
        | .error _ => ((beforeRecord s t x).touch t.ctx
            (routineSeen s t x a ++ (beforeRecord s t x).frameTried (recordedTeam s t x))).endThrough t
              { x with cause := 0xF } false
        | .ok s2 => s2 := by
  have hb : ¬ ((s.ctxOf t).attached && (x.code == .break_ || x.code == .watch)) = true := fun hb =>
    h (by simpa [StaysForDebugger] using hb)
  exact if_neg hb

theorem deliver_unreadable (he : entryValue (withRecord s t x) (s.ctxOf t) x.code = none) :
    s.deliver t x iw false = endedOrStopped s t x { x with cause := 0xF } := by
  rw [deliver_of_entry h, readVector_eq, he]
  rfl

theorem deliver_ends (he : entryValue (withRecord s t x) (s.ctxOf t) x.code = some 0
      ∨ (entryValue (withRecord s t x) (s.ctxOf t) x.code = some 1 ∧ x.code ≠ .translation)) :
    s.deliver t x iw false = endedOrStopped s t x x := by
  have hv : readVector (withRecord s t x) (s.ctxOf t) x.code = .ends := by
    rw [readVector_eq]
    rcases he with he | ⟨he, hc⟩
    · rw [he]
      rfl
    · rw [he]
      exact if_neg hc
  rw [deliver_of_entry h, hv]

theorem deliver_pends (he : entryValue (withRecord s t x) (s.ctxOf t) x.code = some 1) (hc : x.code = .translation) :
    s.deliver t x iw false = (withRecord s t x).modTeam t.id fun t =>
      { t with
        cond := .pendingTranslation x.addr x.lane, promises := [], producer := none, fetched := some iw
        retried := false } := by
  have hv : readVector (withRecord s t x) (s.ctxOf t) x.code = .pending := by
    rw [readVector_eq, he]
    exact if_pos hc
  rw [deliver_of_entry h, hv]

section Value
variable {e : Nat} (he : entryValue (withRecord s t x) (s.ctxOf t) x.code = some e)
include he

theorem deliver_other (h1 : 1 < e) (h4 : e % 4 ≠ 0) :
    s.deliver t x iw false = endedOrStopped s t x { x with cause := 0xF } := by
  have hv : readVector (withRecord s t x) (s.ctxOf t) x.code = .failed := by
    rw [readVector_eq, he]
    exact (if_neg (by omega)).trans ((if_neg (by omega)).trans (if_neg h4))
  rw [deliver_of_entry h, hv]

variable (h0 : e ≠ 0) (h4 : e % 4 = 0)
include h0 h4

theorem deliver_unfetched {z : Trap} (hf : fetch32 (withRecord s t x) t (.ofNat 64 e) = .error z) : s.deliver t x iw false =
    ((beforeRecord s t x).touch t.ctx (routineSeen s t x (.ofNat 64 e))).endThrough t { x with cause := 0xF } false := by
  rw [deliver_of_entry h, readVector_handler he h0 h4]
  simp only [hf]

variable {word : Word} (hf : fetch32 (withRecord s t x) t (.ofNat 64 e) = .ok word)
include hf

theorem deliver_refused {z : Trap} (hr : routineEntered s t x (.ofNat 64 e) iw = .error z) : s.deliver t x iw false =
    ((beforeRecord s t x).touch t.ctx (routineSeen s t x (.ofNat 64 e) ++
      (beforeRecord s t x).frameTried (recordedTeam s t x))).endThrough t { x with cause := 0xF } false := by
  rw [deliver_of_entry h, readVector_handler he h0 h4]
  simp only [hf, hr]

theorem deliver_enters {s2 : State} (hr : routineEntered s t x (.ofNat 64 e) iw = .ok s2) : s.deliver t x iw false = s2 := by
  rw [deliver_of_entry h, readVector_handler he h0 h4]
  simp only [hf, hr]

end Value
end Looks

/-! ### The delivery as a whole -/

/-- Either ending is as the statement has it. -/
theorem endsOrStops_of_eq {z : Trap} {w : State} (hw : w = endedOrStopped s t x z)
    (ht : s.team? t.id = some t) (hx : FitsRecord x) (hz : FitsRecord z) : ((s.ctxOf t).attached = true → stopsFor (beforeRecord s t x) w t x)
      ∧ ((s.ctxOf t).attached = false → endsThrough (beforeRecord s t x) w t z) := by
  have ht' : (beforeRecord s t x).team? t.id = some t := (team?_of_teams (touchFe_teams s _ _) t.id).trans ht
  refine ⟨fun h => ?_, fun h => ?_⟩
  · rw [hw, endedOrStopped, if_pos h]
    exact stopsFor_stopForDebugger hx
  · rw [hw, endedOrStopped, if_neg (by simp [h])]
    exact endsThrough_endThrough ht' hz

theorem again_eq (x : Trap) (t : Team) :
    x.again t.retried = if t.retried = true ∧ x.code = .translation then { x with cause := 3 } else x := by
  unfold Trap.again
  simp only [Bool.and_eq_true, beq_iff_eq]

theorem again_code (x : Trap) (b : Bool) : (x.again b).code = x.code := by
  unfold Trap.again
  split <;> rfl

theorem again_fits {x : Trap} (h : FitsRecord x) (b : Bool) : FitsRecord (x.again b) := by
  unfold Trap.again
  split
  · exact ⟨(by decide : 3 < 16), h.2⟩
  · exact h

theorem FitsRecord.failed {x : Trap} (h : FitsRecord x) : FitsRecord { x with cause := 0xF } :=
  ⟨(by decide : 0xF < 16), h.2⟩

theorem delivered_deliver (ht : s.team? t.id = some t) (hx : FitsRecord x) :
    delivered s t x (s.deliver t (x.again t.retried) s.sched.iw false) := by
  unfold delivered
  rw [← again_eq x t, ← again_code x t.retried]
  have hy := again_fits hx t.retried
  generalize x.again t.retried = y at hy
  intro z c v r failed stays ends
  have hv : v.team? t.id = some t := (team?_of_teams (touchFe_teams s _ _) t.id).trans ht
  refine ⟨fun h => ?_, fun h => ⟨recorded_writeRecord hy, fun he => ?_, fun he hc => deliver_pends h _ he hc, fun he => ?_,
    fun e he => ⟨fun h1 h4 => ?_, fun h0 h4 => ⟨fun z hf => ?_, fun word hf => ⟨fun z hr => ?_, fun s2 hr => ?_⟩⟩⟩⟩⟩
  · rw [deliver_stays h]
    exact stopsFor_stopForDebugger hy
  · exact endsOrStops_of_eq (deliver_ends h _ he) ht hy hy
  · exact endsOrStops_of_eq (deliver_unreadable h _ he) ht hy hy.failed
  · exact endsOrStops_of_eq (deliver_other h _ he h1 h4) ht hy hy.failed
  · rw [deliver_unfetched h _ he h0 h4 hf]
    exact endsThrough_endThrough hv hy.failed
  · rw [deliver_refused h _ he h0 h4 hf hr]
    exact endsThrough_endThrough hv hy.failed
  · exact deliver_enters h _ he h0 h4 hf hr

end Deliver

/-! ### Traps of instructions -/

section Raise
variable {s : State} {t : Team} {x : Trap}

theorem takeTrap_held (h : s.frameHeld t = true) : s.takeTrap t x = s.stall t := if_pos h

theorem takeTrap_raises (h : s.frameHeld t = false) : s.takeTrap t x = s.raise t x := if_neg (by simp [h])

theorem raise_delivered (hc : x.code ≠ .featureAbsent) (ht : s.team? t.id = some t) (hx : FitsRecord x) :
    delivered s t x (s.raise t x) := by
  rw [State.raise, if_neg hc]
  exact delivered_deliver ht hx

/-- The state in which a bound routine has been looked for. -/
def afterSearch (s : State) (t : Team) (x : Trap) : State := s.touchFe t.ctx (boundTried s t x.addr.toNat)

section Absent
variable (hc : x.code = .featureAbsent)
include hc

theorem raise_unbound (hb : boundRoutine s t x.addr.toNat = none) (ht : s.team? t.id = some t) (hx : FitsRecord x) :
    delivered (afterSearch s t x) t x (s.raise t x) := by
  have hv : (afterSearch s t x).team? t.id = some t := (team?_of_teams (touchFe_teams s _ _) t.id).trans ht
  have hiw : s.sched.iw = (afterSearch s t x).sched.iw := by rw [afterSearch, touchFe_sched]
  rw [State.raise, if_pos hc]
  simp only [hb, hiw]
  exact delivered_deliver hv hx

section Bound
variable {a : Addr} (hb : boundRoutine s t x.addr.toNat = some a)
include hb

theorem raise_called {s2 : State} (hr : transfer (afterSearch s t x) t a (t.pc + 4#64) s.sched.iw 6 true = .ok s2) :
    s.raise t x = s2.modNode t.node fun n => { n with emulated := true } := by
  have hr' : transfer (s.touchFe t.ctx (boundTried s t x.addr.toNat)) t a (t.pc + 4#64) s.sched.iw 6 true = .ok s2 := hr
  rw [State.raise, if_pos hc]
  simp only [hb, hr']

theorem raise_refused {z : Trap} (hr : transfer (afterSearch s t x) t a (t.pc + 4#64) s.sched.iw 6 true = .error z)
    (ht : s.team? t.id = some t) : delivered ((afterSearch s t x).touch t.ctx (s.frameTried t)) t z (s.raise t x) := by
  have hr' : transfer (s.touchFe t.ctx (boundTried s t x.addr.toNat)) t a (t.pc + 4#64) s.sched.iw 6 true = .error z := hr
  have hv : ((afterSearch s t x).touch t.ctx (s.frameTried t)).team? t.id = some t :=
    (team?_of_teams (touchFe_teams s _ _) t.id).trans ht
  have hiw : s.sched.iw = ((afterSearch s t x).touch t.ctx (s.frameTried t)).sched.iw := by
    rw [touch_sched, afterSearch, touchFe_sched]
  have hraise : s.raise t x = ((afterSearch s t x).touch t.ctx (s.frameTried t)).deliver t (z.again t.retried)
      s.sched.iw false := by
    rw [State.raise, if_pos hc]
    simp only [hb, hr']
    rfl
  rw [hraise, hiw]
  exact delivered_deliver hv (trapsFit_transfer _ _ _ _ _ _ _ z hr)

end Bound
end Absent

theorem takeTrap_delivered (hh : s.frameHeld t = false) (hc : x.code ≠ .featureAbsent) (ht : s.team? t.id = some t)
    (hx : FitsRecord x) : delivered s t x (s.takeTrap t x) := by
  rw [takeTrap_raises hh]
  exact raise_delivered hc ht hx

end Raise

/-! ### The routine bound for a bit -/

section Bound
variable {s : State} {c : Context} {t : Team} {b : Nat}

theorem tableWord_eq_some_iff {va : Addr} {w : Nat} : s.tableWord c va = some w ↔
    ∃ p, s.feTranslate c va .read = .ok p ∧ s.reachable p = true ∧ leNat (s.readPlace p 8) = w := by
  unfold State.tableWord
  cases s.feTranslate c va .read with
  | error _ => simp
  | ok p => cases hr : s.reachable p <;> simp [hr]

theorem isBound_iff : isBound s t b = true ↔
    b ≤ 64 ∧ ∃ w, s.tableWord (s.ctxOf t) (boundAddrs (s.ctxOf t) t b).1 = some w ∧ w.testBit (b % 64) = true := by
  unfold isBound
  simp only [Bool.and_eq_true, decide_eq_true_eq, Option.any_eq_true, bit_eq_testBit]

theorem boundRoutine_eq_some_iff {a : Addr} : boundRoutine s t b = some a ↔ isBound s t b = true
    ∧ ∃ w, s.tableWord (s.ctxOf t) (boundAddrs (s.ctxOf t) t b).2 = some w ∧ w ≠ 0 ∧ a = .ofNat 64 w := by
  unfold boundRoutine
  by_cases h : isBound s t b = true
  · simp only [h, true_and]
    cases s.tableWord (s.ctxOf t) (boundAddrs (s.ctxOf t) t b).2 with
    | none => simp
    | some w =>
      cases w with
      | zero => simp
      | succ w => simpa using eq_comm
  · simp [h]

end Bound

/-! ### TRAP and BRK -/

section Instructions
variable {s : State} {t : Team} (n : BitVec 12)

theorem team?_of_curTeam (h : s.curTeam = some t) : s.team? t.id = some t := by
  obtain ⟨id, -, hid⟩ := Option.bind_eq_some_iff.1 h
  have hti : t.id = id := by simpa using List.find?_some hid
  rw [hti]
  exact hid

theorem exec_trap_held (hc : s.curTeam = some t) (h : s.frameHeld t = true) : exec (.trap n) s = .next (s.stall t) := by
  have hrun : exec (.trap n) s = execTrap n s := rfl
  rw [hrun, execTrap]
  simp only [hc, h, if_true]

theorem exec_trap_raises (hc : s.curTeam = some t) (h : s.frameHeld t = false) : exec (.trap n) s =
    .next ((s.putTeam t.past).takeTrap t.past ⟨.software, n.setWidth 64, 0, none, some t.pc⟩) := by
  have hrun : exec (.trap n) s = execTrap n s := rfl
  have hpast : Shape.retire {} t.begin.advance = t.past := retire_advance rfl (by simp)
  rw [hrun, execTrap]
  simp only [hc, h, Bool.false_eq_true, if_false, hpast]

theorem exec_brk (hc : s.curTeam = some t) :
    exec (.brk n) s = .next (s.takeTrap t ⟨.break_, n.setWidth 64, 0, none, none⟩) := by
  have hrun : exec (.brk n) s = execBrk n s := rfl
  rw [hrun, execBrk, hc]
  rfl

/-- The team past its instruction has its frame at the same places, and as many accesses in flight. -/
theorem frameHeld_past (s : State) (t : Team) : (s.putTeam t.past).frameHeld t.past = s.frameHeld t := by
  have hview : SameView s t (s.putTeam t.past) t.past := ⟨⟨rfl, rfl, rfl, fun _ => rfl⟩, rfl, rfl, rfl⟩
  have hp : placesOf (s.putTeam t.past) t.past (stackAddr t.past (t.past.sval 62 - 32#32)) 32 .write =
      placesOf s t (stackAddr t (t.sval 62 - 32#32)) 32 .write := placesOf_view hview _ _ _
  unfold State.frameHeld
  simp only [hp]
  rfl

theorem team?_past (ht : s.team? t.id = some t) : (s.putTeam t.past).team? t.past.id = some t.past := team?_putTeam ht rfl

end Instructions

end Sys2Proof.Proofs
end

section
/-!
The obligation on traps.
-/
namespace Sys2Proof.Proofs
open Sys2Proof.Machine Sys2Proof.Laws

/-- Settles O20: the delivery branch by branch (`delivered_deliver`), the emulation call by `raise_called` and `raise_refused`,
the bound routine by its two reads. -/
theorem trapsRaisedAndDelivered : Obligations.TrapsRaisedAndDelivered := by
  unfold Obligations.TrapsRaisedAndDelivered
  refine ⟨fun n s t hc => ⟨exec_trap_raises n hc, exec_trap_held n hc, exec_brk n hc⟩, fun s t x hc hcause hlane => ?_,
    fun s t b a => ?_, fun n s t hc hh => ?_⟩
  · have ht := team?_of_curTeam hc
    have hx : FitsRecord x := ⟨hcause, hlane⟩
    refine ⟨takeTrap_held, fun hh => ⟨fun hcode => takeTrap_delivered hh hcode ht hx, fun hcode => ?_⟩⟩
    rw [takeTrap_raises hh]
    exact ⟨fun hb => raise_unbound hcode hb ht hx, fun a hb => ⟨fun s2 hr => raise_called hcode hb hr,
      fun z hr => raise_refused hcode hb hr ht⟩⟩
  · rw [boundRoutine_eq_some_iff, isBound_iff, and_assoc]
    simp only [tableWord_eq_some_iff]
    rfl
  · have ht := team?_of_curTeam hc
    refine ⟨⟨_, exec_trap_raises n hc hh, ?_⟩, _, exec_brk n hc, ?_⟩
    · exact takeTrap_delivered ((frameHeld_past s t).trans hh) (by decide : TrapCode.software ≠ .featureAbsent)
        (team?_past ht) (fitsRecord_of_no_lane (by decide : 0 < 16) rfl)
    · exact takeTrap_delivered hh (by decide : TrapCode.break_ ≠ .featureAbsent) ht
        (fitsRecord_of_no_lane (by decide : 0 < 16) rfl)

end Sys2Proof.Proofs
end

section
/-!
SUPPORT. What writes and last uses leave of a team's vector registers (07 R100, R101; 03 R54), as `vectorsAfter` of Safety says
it, and what completes with a vector instruction.
-/
namespace Sys2Proof.Proofs
open Sys2Proof.Machine Sys2Proof.Laws

/-! ### Vector registers in closed form -/

section Vectors
variable {t : Team}

theorem virt_inj {a b : Reg} : (t.virt a).toNat = (t.virt b).toNat ↔ a = b := by
  rw [BitVec.toNat_inj, Team.virt, Team.virt]
  exact BitVec.add_left_inj _

theorem vectorsAfter_getElem (t : Team) (used : List Reg) (ws : List (Reg × (Nat → Option Word))) {i : Nat} (hi : i < 64) :
    (vectorsAfter t used ws)[i] = match ws.find? fun w => (t.virt w.1).toNat == i with
      | some w => lanesAfter t t.vregs[i] w.2
      | none => if used.any fun r => (t.virt r).toNat == i then .dead else t.vregs[i] := by
  rw [vectorsAfter, Vector.getElem_ofFn]
  rfl

@[simp] theorem vectorsAfter_nil (t : Team) : vectorsAfter t [] [] = t.vregs := by
  ext i hi
  simp [vectorsAfter_getElem]

/-- The registers used up, but for those written, dead after the writes (07 R101). -/
theorem killedV_vectorsAfter (t : Team) (used : List Reg) (ws : List (Reg × (Nat → Option Word))) :
    killedV ((unwritten ws used).map t.virt) (vectorsAfter t [] ws) = vectorsAfter t used ws := by
  ext i hi
  have hget (used' : List Reg) : (killedV (used'.map t.virt) (vectorsAfter t [] ws))[i] =
      if used'.any fun r => (t.virt r).toNat == i then .dead else (vectorsAfter t [] ws)[i] := by
    simp [killedV, Function.comp_def]
  rw [hget, vectorsAfter_getElem, vectorsAfter_getElem, unwritten, List.any_filter]
  cases hf : ws.find? fun w => (t.virt w.1).toNat == i with
  | none =>
    have hnot : ∀ w ∈ ws, (t.virt w.1).toNat ≠ i := by simpa using hf
    have hany : (used.any fun r => !(ws.map (·.1)).contains r && (t.virt r).toNat == i)
        = used.any fun r => (t.virt r).toNat == i := by
      refine List.any_congr rfl fun r => ?_
      by_cases hr : (t.virt r).toNat = i
      · have hn : ¬ ∃ w ∈ ws, w.1 = r := fun ⟨w, hw, e⟩ => hnot w hw (e ▸ hr)
        simpa [hr] using hn
      · simp [hr]
    simp only [hany, List.any_nil, Bool.false_eq_true, if_false]
  | some w =>
    have hi' : (t.virt w.1).toNat = i := by simpa using List.find?_some hf
    have hany : (used.any fun r => !(ws.map (·.1)).contains r && (t.virt r).toNat == i) = false := by
      rw [List.any_eq_false]
      intro r _ hr
      simp only [Bool.and_eq_true, beq_iff_eq, Bool.not_eq_true', List.contains_eq_mem, decide_eq_false_iff_not] at hr
      obtain ⟨hn, hri⟩ := hr
      rw [virt_inj.1 (hri.trans hi'.symm)] at hn
      exact hn (List.mem_map_of_mem (List.mem_of_find?_eq_some hf))
    simp only [hany, Bool.false_eq_true, if_false]

/-- One register written, in the lanes below TW for which `g` answers. -/
theorem setLanes_vregs {r : Reg} {f : Nat → Option Lane} {g : Nat → Option Word}
    (h : ∀ l < t.tw, f l = (g l).map fun v => ⟨v, false⟩) : (t.setLanes r f).vregs = vectorsAfter t [] [(r, g)] := by
  have hall : ((List.range t.tw).all fun l => (f l).isNone) = (List.range t.tw).all fun l => (g l).isNone := by
    rw [Bool.eq_iff_iff, List.all_eq_true, List.all_eq_true]
    refine forall₂_congr fun l hl => ?_
    rw [h l (List.mem_range.1 hl), Option.isNone_map]
  have hmap : ((List.range t.tw).map fun l => (f l).getD (t.laneOf r l)) = (List.range t.tw).map fun l =>
      match g l with
      | some v => ⟨v, false⟩
      | none => t.laneOf r l := by
    refine List.map_congr_left fun l hl => ?_
    rw [h l (List.mem_range.1 hl)]
    cases g l <;> rfl
  ext i hi
  rw [setLanes_eq, vectorsAfter_getElem, List.find?_cons, List.find?_nil]
  dsimp only
  rw [hall, hmap]
  by_cases hr : (t.virt r).toNat = i
  · subst hr
    simp only [beq_self_eq_true, lanesAfter]
    split
    · rfl
    · rw [Vector.getElem_set_self]
      rfl
  · rw [beq_false_of_ne hr]
    simp only [List.any_nil, Bool.false_eq_true, if_false]
    split
    · rfl
    · rw [Vector.getElem_set_ne _ _ hr]

theorem setLanes_closed {r : Reg} {f : Nat → Option Lane} {g : Nat → Option Word}
    (h : ∀ l < t.tw, f l = (g l).map fun v => ⟨v, false⟩) :
    t.setLanes r f = { t with vregs := vectorsAfter t [] [(r, g)] } := by
  have hupd : t.setLanes r f = { t with vregs := (t.setLanes r f).vregs } := by rw [setLanes_eq]
  rw [hupd, setLanes_vregs h]

theorem lanesAfter_of_tw {u : Team} (h : u.tw = t.tw) (old : VReg) (f : Nat → Option Word) :
    lanesAfter u old f = lanesAfter t old f := by
  rw [lanesAfter, lanesAfter, h]

/-- A second register written after a first. -/
theorem vectorsAfter_after {u : Team} {d e : Reg} {g k : Nat → Option Word} (hw : u.tw = t.tw) (hb : u.virt = t.virt)
    (hv : u.vregs = vectorsAfter t [] [(d, g)]) (h : d ≠ e) :
    vectorsAfter u [] [(e, k)] = vectorsAfter t [] [(d, g), (e, k)] := by
  ext i hi
  simp only [vectorsAfter_getElem, hv, hb, List.find?_cons, List.find?_nil, lanesAfter_of_tw hw, List.any_nil,
    Bool.false_eq_true, if_false]
  by_cases hd : (t.virt d).toNat = i
  · have he : (t.virt e).toNat ≠ i := fun he => h (virt_inj.1 (hd.trans he.symm))
    simp only [beq_iff_eq.2 hd, beq_false_of_ne he]
  · simp only [beq_false_of_ne hd]

theorem setLanes_setLanes {d e : Reg} {f k : Nat → Option Lane} {g j : Nat → Option Word}
    (hf : ∀ l < t.tw, f l = (g l).map fun v => ⟨v, false⟩) (hk : ∀ l < t.tw, k l = (j l).map fun v => ⟨v, false⟩)
    (h : d ≠ e) :
    (t.setLanes d f).setLanes e k = { t with vregs := vectorsAfter t [] [(d, g), (e, j)] } := by
  have h1 := setLanes_closed (r := d) hf
  generalize t.setLanes d f = u at h1
  have hw : u.tw = t.tw := by rw [Team.tw, h1, Team.tw]
  have hb : u.virt = t.virt := by funext r; rw [Team.virt, h1, Team.virt]
  have hv : u.vregs = vectorsAfter t [] [(d, g)] := by rw [h1]
  rw [setLanes_closed (t := u) (g := j) (by rwa [hw]), vectorsAfter_after hw hb hv h, h1]

theorem setActive_closed (r : Reg) (f : Nat → Word) :
    t.setActive r f = { t with vregs := vectorsAfter t [] [(r, onActive t f)] } := by
  refine setLanes_closed fun l _ => ?_
  unfold onActive
  split <;> rfl

/-! ### Element results -/

theorem perActive_getD {α : Type} (f : Nat → α) {l : Nat} (hl : l < t.tw) :
    (t.perActive f).getD l none = if t.effective.getLsbD l then some (f l) else none := by
  simp [Team.perActive, List.getD_eq_getElem?_getD, hl]

theorem setOuts_perActive (T : Nat) (d : Reg) (f : Nat → List Out) :
    t.setOuts T d (t.perActive f) =
      { t with vregs := vectorsAfter t [] (elemWrites t T d fun l => (f l).map (·.bits)) } := by
  have hout {l : Nat} (hl : l < t.tw) (g : List Nat → Lane) :
      (((t.perActive f).map fun o => o.map fun x => x.map Out.bits).getD l none).map g =
        if t.effective.getLsbD l then some (g ((f l).map Out.bits)) else none := by
    have : ((t.perActive f).map fun o => o.map fun x => x.map Out.bits) = t.perActive fun l => (f l).map Out.bits := by
      rw [Team.perActive, Team.perActive, List.map_map]
      refine List.map_congr_left fun l _ => ?_
      simp only [Function.comp]
      split <;> rfl
    rw [this, perActive_getD _ hl]
    split <;> rfl
  have hlow (x : Nat) : BitVec.ofNat 32 (x / 2 ^ (32 * 0)) = BitVec.ofNat 32 x := by simp
  unfold Team.setOuts Team.setElems elemWrites
  by_cases hT : T = 0x18
  · simp only [hT, if_true]
    refine setLanes_setLanes (fun l hl => ?_) (fun l hl => ?_) (add_one_ne d).symm
    · rw [hout hl, onActive]
      split
      · rw [hlow]; rfl
      · rfl
    · rw [hout hl, onActive]
      split <;> rfl
  · simp only [hT, if_false]
    refine setLanes_closed fun l hl => ?_
    rw [hout hl, onActive]
    split
    · rw [hlow]; rfl
    · rfl

/-- The union of the flags over the active lanes (05 R67). -/
theorem flagsOf_perActive (f : Nat → List Out) :
    flagsOf (t.perActive f) = unionFlags (t.active.flatMap fun l => (f l).map (·.flags)) := by
  have h (ls : List Nat) : ((ls.map fun l => if t.effective.getLsbD l then some (f l) else none).flatMap
      fun o => (o.getD []).map Out.flags) = (ls.filter fun l => t.effective.getLsbD l).flatMap fun l => (f l).map (·.flags) := by
    induction ls with
    | nil => rfl
    | cons l ls ih =>
      rw [List.map_cons, List.flatMap_cons, ih, List.filter_cons]
      split <;> simp_all
  rw [flagsOf, Team.perActive, h, Team.active]

end Vectors
end Sys2Proof.Proofs
end

section
/-!
SUPPORT. What completes with an instruction of vector operands: its writes, its last uses and its promise.
-/
namespace Sys2Proof.Proofs
open Sys2Proof.Machine Sys2Proof.Laws

/-! ### Last uses -/

/-- The registers that uses with a set last-use bit name, read from an operand by `f`. -/
def lastNames {α : Type} (f : Opnd → List α) (us : List Use) : List α := (us.filter (·.last)).flatMap fun u => f u.o

section LastNames
variable {α : Type} (f : Opnd → List α)

theorem lastNames_append (us vs : List Use) : lastNames f (us ++ vs) = lastNames f us ++ lastNames f vs := by
  rw [lastNames, List.filter_append, List.flatMap_append]
  rfl

/-- Operands that are not used up name none. -/
theorem lastNames_of_kept {us : List Use} (h : ∀ u ∈ us, u.last = false) : lastNames f us = [] := by
  rw [lastNames, List.filter_eq_nil_iff.2 fun u hu => by rw [h u hu]; decide]
  rfl

/-- Sources of one class. -/
theorem lastNames_map (c : Reg → Opnd) (as : List Src) :
    lastNames f (as.map fun a => ⟨c a.reg, a.last⟩) = (lastOf as).flatMap fun r => f (c r) := by
  rw [lastNames, lastOf, List.filter_map, List.flatMap_map, List.flatMap_map]
  rfl

theorem lastNames_map_nil {c : Reg → Opnd} (h : ∀ r, f (c r) = []) (as : List Src) :
    lastNames f (as.map fun a => ⟨c a.reg, a.last⟩) = [] := by
  rw [lastNames_map]
  exact List.flatMap_eq_nil_iff.2 fun r _ => h r

theorem lastNames_map_self {f : Opnd → List Reg} {c : Reg → Opnd} (h : ∀ r, f (c r) = [r]) (as : List Src) :
    lastNames f (as.map fun a => ⟨c a.reg, a.last⟩) = lastOf as := by
  rw [lastNames_map]
  simp only [h, List.flatMap_singleton']

end LastNames

/-- The fields of vector sources under a type name the registers of `lastFields`. -/
theorem lastNames_fields (T : Nat) (as : List Src) :
    lastNames Opnd.vectors (as.map fun a => ⟨vField T a.reg, a.last⟩) = lastFields T as := by
  unfold lastFields vField
  split
  · rw [lastNames_map _ Opnd.vpair, lastPairs, lastOf, List.flatMap_map]
    rfl
  · exact lastNames_map_self (c := Opnd.v) (fun _ => rfl) as

theorem scalars_vField (T : Nat) (r : Reg) : (vField T r).scalars = [] := by unfold vField; split <;> rfl
theorem maskRegs_vField (T : Nat) (r : Reg) : (vField T r).maskRegs = [] := by unfold vField; split <;> rfl

/-- The registers of an element result are those of its field. -/
theorem vectors_vField (t : Team) (T : Nat) (d : Reg) (f : Nat → List Nat) :
    (vField T d).vectors = (elemWrites t T d f).map (·.1) := by unfold vField elemWrites; split <;> rfl

/-! ### Retirement -/

/-- What the uses and destinations of a shape name in each class: the registers used up, and those of given writes. -/
structure Names3 (sh : Shape) (usedS : List Reg) (wsS : List (Reg × Word)) (usedV : List Reg)
    (wsV : List (Reg × (Nat → Option Word))) (wsM : List (MReg × LaneBits)) : Prop where
  scalars : lastNames Opnd.scalars (sh.srcs ++ sh.unread) = usedS
  scalarDsts : sh.dsts.flatMap Opnd.scalars = wsS.map (·.1)
  vectors : lastNames Opnd.vectors (sh.srcs ++ sh.unread) = usedV
  vectorDsts : sh.dsts.flatMap Opnd.vectors = wsV.map (·.1)
  masks : lastNames Opnd.maskRegs (sh.srcs ++ sh.unread) = []
  maskDsts : sh.dsts.flatMap Opnd.maskRegs = wsM.map (·.1)

section Retire
variable {sh : Shape} {usedS : List Reg} {wsS : List (Reg × Word)} {usedV : List Reg}
  {wsV : List (Reg × (Nat → Option Word))} {wsM : List (MReg × LaneBits)}

/-- The team after the writes of an instruction and its last uses, in closed form: `u` is the team that it writes over. -/
theorem retire_closed {u v : Team} (h : Names3 sh usedS wsS usedV wsV wsM) (hs : v.sregs = writtenS wsS u.sregs)
    (hv : v.vregs = vectorsAfter u [] wsV) (hm : v.masks = writtenM u.tw wsM u.masks) (hb : v.vbase = u.vbase) :
    sh.retire v = { v with
      sregs := scalarsAfter u usedS wsS, vregs := vectorsAfter u usedV wsV, masks := masksAfter u [] wsM
      promises := promisesAged v ++ sh.promise v, issued := v.issued + 1 } := by
  have hS : usedUpS sh = unwritten wsS usedS := by
    rw [usedUpS, h.scalarDsts, ← h.scalars, unwritten, lastNames, List.filter_flatMap]
  have hV : usedUpV sh = unwritten wsV usedV := by
    rw [usedUpV, h.vectorDsts, ← h.vectors, unwritten, lastNames, List.filter_flatMap]
  have hM : usedUpM sh = unwritten wsM [] := by
    rw [usedUpM, h.maskDsts, ← h.masks, unwritten, lastNames, List.filter_flatMap]
  have hvirt : v.virt = u.virt := by funext r; rw [Team.virt, Team.virt, hb]
  rw [retire_eq, hS, hV, hM, killed, hs, hv, hm, hvirt, killedS_writtenS, killedV_vectorsAfter, killedM_writtenM]
  rfl

theorem masksAfter_nil (t : Team) : masksAfter t [] [] = t.masks := by
  ext i hi
  simp [masksAfter]

/-- The same of one that writes vector registers only, and uses up no others. -/
theorem retire_vectors {u v : Team} (h : Names3 sh [] [] usedV wsV []) (hs : v.sregs = u.sregs) (hv : v.vregs = vectorsAfter u [] wsV)
    (hm : v.masks = u.masks) (hb : v.vbase = u.vbase) : sh.retire v = { v with
      vregs := vectorsAfter u usedV wsV, promises := promisesAged v ++ sh.promise v, issued := v.issued + 1 } := by
  rw [retire_closed h (hs.trans rfl) hv (hm.trans rfl) hb, scalarsAfter_nil, masksAfter_nil, hs, hm]

end Retire

/-- The promises of a vector instruction with a lookahead field (07 R103). -/
theorem promise_vector {sh : Shape} {la : BitVec 4} (hla : sh.la = la.toNat) (hv : sh.vector = true) (t : Team) :
    promisesAged t ++ sh.promise t = promisesAfter t la (.m t.guard :: (sh.srcs ++ sh.unread).map (·.o)) sh.dsts := by
  have hz : la.toNat = 0 ↔ la = 0#4 := BitVec.toNat_inj (y := 0#4)
  simp only [promisesAfter, Shape.promise, hla, hz, hv, if_true, List.cons_append, List.nil_append]

theorem promise_none {sh : Shape} (hla : sh.la = 0) (t : Team) : promisesAged t ++ sh.promise t = promisesAged t := by
  rw [Shape.promise, if_pos hla, List.append_nil]

theorem vectorsAfter_congr {u t : Team} (hw : u.tw = t.tw) (hb : u.vbase = t.vbase) (hv : u.vregs = t.vregs)
    (used : List Reg) (ws : List (Reg × (Nat → Option Word))) : vectorsAfter u used ws = vectorsAfter t used ws := by
  have hvirt : u.virt = t.virt := by funext r; rw [Team.virt, Team.virt, hb]
  simp only [vectorsAfter, hvirt, hv, lanesAfter_of_tw hw]

theorem vectorsAfter_begin (t : Team) (used : List Reg) (ws : List (Reg × (Nat → Option Word))) :
    vectorsAfter t.begin used ws = vectorsAfter t used ws := vectorsAfter_congr rfl rfl rfl used ws

/-! ### Element-wise instructions (11 R147) -/

/-- A shape whose destination is one field, and whose sources but for those of `ins` are not used up. -/
theorem names3_field {sh : Shape} {ins kept : List Use} {usedV : List Reg} {D : Nat} {d : Reg} (u : Team) (g : Nat → List Nat)
    (hsrc : sh.srcs ++ sh.unread = ins ++ kept) (hkept : ∀ x ∈ kept, x.last = false) (hd : sh.dsts = [vField D d])
    (hs : lastNames Opnd.scalars ins = []) (hv : lastNames Opnd.vectors ins = usedV) (hm : lastNames Opnd.maskRegs ins = []) :
    Names3 sh [] [] usedV (elemWrites u D d g) [] where
  scalars := by rw [hsrc, lastNames_append, hs, lastNames_of_kept _ hkept]; rfl
  scalarDsts := by rw [hd, List.flatMap_singleton, scalars_vField]; rfl
  vectors := by rw [hsrc, lastNames_append, hv, lastNames_of_kept _ hkept, List.append_nil]
  vectorDsts := by rw [hd, List.flatMap_singleton, ← vectors_vField]
  masks := by rw [hsrc, lastNames_append, hm, lastNames_of_kept _ hkept]; rfl
  maskDsts := by rw [hd, List.flatMap_singleton, maskRegs_vField]; rfl

theorem names3_vecShape (s : State) (t u : Team) (accept : Nat → Bool) (bits : Nat → List Nat) (d : Reg) (srcs : List Src)
    (readsD : Bool) (f : Nat → List Nat) : Names3 (vecShape s t accept bits d srcs readsD) [] []
      (lastFields t.type srcs) (elemWrites u t.type d f) [] :=
  names3_field u f (List.append_nil _) (by cases readsD <;> simp) rfl (lastNames_map_nil _ (scalars_vField _) srcs)
    (lastNames_fields _ srcs) (lastNames_map_nil _ (maskRegs_vField _) srcs)

/-- The operands of an element-wise instruction, in their order. -/
def elemRegs (d : Reg) (srcs : List Src) (readsD : Bool) : List Reg := srcs.map (·.reg) ++ if readsD then [d] else []

theorem elemResults_eq (t : Team) (op : ElemOp) (rs : List Reg) : t.elemResults op rs = t.perActive (elemOuts t op rs) := by
  unfold Team.elemResults elemOuts columns
  simp only [List.map_map, Function.comp_def]

theorem raiseFlags_eq (t : Team) (f : Nat) : t.raiseFlags f = { t with flags := t.flags ||| .ofNat 32 f } := rfl

theorem openProducer_eq (t : Team) (d : Reg) (wide : Bool) (f : Nat) : t.openProducer d wide f = { t with
    flags := t.flags ||| .ofNat 32 f
    producer := some ⟨t.pc, d, wide, .ofNat 32 f &&& ~~~t.flags &&& ~~~BitVec.ofNat 32 fNV⟩ } := rfl

/-- The producer that an element-wise instruction of 05 R76 opens. -/
def openedProducer (t : Team) (op : ElemOp) (d : Reg) (rs : List Reg) : Producer :=
  ⟨t.pc, d, t.type == 0x18, elemFlags t op rs &&& ~~~t.flags &&& ~~~BitVec.ofNat 32 fNV⟩

/-- An element-wise instruction completes: its results, flags and producer. -/
theorem elementwise_next {accept : Nat → Bool} {readsD : Bool} {d : Reg} {srcs : List Src} {s : State} {t : Team}
    (producer : Bool) (op : ElemOp) (hi : Issues s t (vecShape s t accept typeBits d srcs readsD)) :
    elementwise accept producer readsD op d srcs s = .next (s.putTeam { t.past with
      vregs := elemVectors t op d srcs (elemRegs d srcs readsD)
      flags := t.flags ||| elemFlags t op (elemRegs d srcs readsD)
      producer := if producer then some (openedProducer t op d (elemRegs d srcs readsD)) else none }) := by
  have he : (fun t : Team =>
      let outs := t.elemResults op (elemRegs d srcs readsD)
      let t1 := t.setOuts t.type d outs
      let f := flagsOf outs
      Except.ok (ε := Stop) (if producer then t1.openProducer d (t.type == 0x18) f else t1.raiseFlags f).advance) t.begin
      = .ok { t.begin with
          vregs := vectorsAfter t.begin [] (elemWrites t t.type d fun l => (elemOuts t op (elemRegs d srcs readsD) l).map (·.bits))
          flags := t.flags ||| elemFlags t op (elemRegs d srcs readsD)
          producer := if producer then some (openedProducer t op d (elemRegs d srcs readsD)) else none
          pc := t.pc + 4#64 } := by
    dsimp only
    rw [elemResults_eq, setOuts_perActive, flagsOf_perActive, raiseFlags_eq, openProducer_eq]
    cases producer <;> rfl
  have hrun : elementwise accept producer readsD op d srcs s = _ := runRegs_next hi.1 hi.2 he
  rw [hrun, retire_vectors (u := t.begin) (names3_vecShape s t t accept typeBits d srcs readsD _), promise_none rfl,
    vectorsAfter_begin]
  all_goals rfl

end Sys2Proof.Proofs
end

section
/-!
SUPPORT. The checks of a vector instruction (07 R113): the window, the features of its type, and the poison that its lanes read.
-/
namespace Sys2Proof.Proofs
open Sys2Proof.Machine Sys2Proof.Laws

section Checks
variable {sh : Shape} {s : State} {t : Team}

/-- The vector registers that the fields of a shape name. -/
def namedVectors (sh : Shape) : List Reg := sh.opnds.flatMap Opnd.vectors

theorem regBound_none (h : ∀ r ∈ namedVectors sh, r.toNat < t.bound) : sh.regBound t = none := by
  have hnil : (namedVectors sh).filter (fun r => t.bound ≤ r.toNat) = [] :=
    List.filter_eq_nil_iff.2 fun r hr => by simpa using h r hr
  unfold namedVectors at hnil
  simp only [Shape.regBound, hnil, List.map_nil, List.min?_nil]

/-- REG_BOUND names the lowest register outside the window. -/
theorem regBound_some {r : Reg} (hr : r ∈ namedVectors sh) (hb : t.bound ≤ r.toNat)
    (hmin : ∀ q ∈ namedVectors sh, t.bound ≤ q.toNat → r.toNat ≤ q.toNat) :
    sh.regBound t = some (.at .regBound (.ofNat 64 (r.toNat + 8 * t.vbase.toNat)) 0) := by
  have hm : ((((namedVectors sh).filter fun r => t.bound ≤ r.toNat).map fun r => r.toNat + 8 * t.vbase.toNat).min?) =
      some (r.toNat + 8 * t.vbase.toNat) := by
    rw [List.min?_eq_some_iff]
    refine ⟨List.mem_map.2 ⟨r, List.mem_filter.2 ⟨hr, decide_eq_true hb⟩, rfl⟩, ?_⟩
    rintro _ hn
    obtain ⟨q, hq, rfl⟩ := List.mem_map.1 hn
    obtain ⟨hq, hqb⟩ := List.mem_filter.1 hq
    exact Nat.add_le_add_right (hmin q hq (of_decide_eq_true hqb)) _
  unfold namedVectors at hm
  simp only [Shape.regBound, hm]

/-- The checks after those of the fields and the type, where they pass. -/
theorem check_regBound {x : Trap} (he : sh.early = none) (hr : sh.regBound t = some x) : sh.check t s = some (.trap x) := by
  simp only [Shape.check, he, hr]

theorem check_feature {x : Trap} (he : sh.early = none) (hr : sh.regBound t = none) (hf : sh.feature = some x) :
    sh.check t s = some (.trap x) := by
  simp only [Shape.check, he, hr, hf]

theorem check_poisoned {x : Trap} (he : sh.early = none) (hr : sh.regBound t = none) (hf : sh.feature = none)
    (hw : sh.waits t s = false) (hp : sh.poisoned t = some x) : sh.check t s = some (.trap x) := by
  simp only [Shape.check, he, hr, hf, hw, hp, Bool.false_eq_true, if_false]

theorem early_of_issues (hi : Issues s t sh) : sh.early = none := by
  have h := hi.2
  unfold Shape.check at h
  cases he : sh.early with
  | none => rfl
  | some x => rw [he] at h; cases h

theorem typeTrap_none {pairs : List Reg} {accepted : Bool} (h : typeTrap pairs accepted = none) : accepted = true := by
  unfold typeTrap at h
  cases accepted with
  | true => rfl
  | false => split at h <;> cases h

/-- The type of an instruction that executes is one that it accepts (11 R146). -/
theorem accepts_of_issues {accept : Nat → Bool} {bits : Nat → List Nat} {d : Reg} {srcs : List Src} {readsD : Bool}
    (hi : Issues s t (vecShape s t accept bits d srcs readsD)) : accept t.type = true :=
  typeTrap_none (early_of_issues hi)

theorem runRegs_trapped {f : Team → Shape} {effect : Team → Except Stop Team} {x : Trap} (hc : s.curTeam = some t)
    (hk : (f t).check t s = some (.trap x)) (hx : x.code ≠ .acquireFailed) : runRegs f effect s = .next (s.takeTrap t x) := by
  rw [runRegs_checked hc hk, finish_trap, trapped_of_ne hx]

/-- The lowest active lane of which a test holds. -/
theorem find?_active {p : Nat → Bool} {l : Nat} (hl : l ∈ t.active) (h : p l = true)
    (hmin : ∀ k ∈ t.active, k < l → p k = false) : t.active.find? p = some l := by
  have hsorted : t.active.Pairwise (· < ·) := List.Pairwise.filter _ List.pairwise_lt_range
  generalize t.active = ls at hl hmin hsorted
  induction ls with
  | nil => cases hl
  | cons k ls ih =>
    obtain ⟨hk, hls⟩ := List.pairwise_cons.1 hsorted
    rw [List.find?_cons]
    rcases List.mem_cons.1 hl with rfl | hl'
    · rw [h]
    · rw [hmin k List.mem_cons_self (hk l hl')]
      exact ih hl' (fun j hj => hmin j (List.mem_cons_of_mem _ hj)) hls

/-- Of what the active lanes read, the lowest reading lane's poison is raised (21 R299, R315). -/
theorem poisoned_of_lane {l n : Nat} (hv : sh.vector = true) (hs : sh.srcs.flatMap (fun u => u.o.scalars) = [])
    (hw : ∀ w < t.passes, t.exmBad.getLsbD w = false ∧ (t.mbad t.guard).getLsbD w = false) (hl : l ∈ t.active)
    (hn : sh.lanePoison t l = some n) (hmin : ∀ k ∈ t.active, k < l → sh.lanePoison t k = none) :
    sh.poisoned t = some ⟨.poison, .ofNat 64 n, 0, some l, none⟩ := by
  have hclean {bad : Word} (h : ∀ w < t.passes, bad.getLsbD w = false) :
      ((List.range t.passes).any fun w => bad.getLsbD w) = false := by
    rw [List.any_eq_false]
    exact fun w hw => by rw [h w (List.mem_range.1 hw)]; decide
  have hfind : t.active.find? (fun k => (sh.lanePoison t k).isSome) = some l :=
    find?_active hl (by rw [hn]; rfl) fun k hk hkl => by rw [hmin k hk hkl]; rfl
  unfold Shape.poisoned
  simp only [hv, hs, hclean fun w h => (hw w h).1, hclean fun w h => (hw w h).2, hfind, hn, List.find?_nil, Option.map_none,
    Bool.true_or, Bool.and_false, Bool.false_eq_true, if_false, if_true, ite_self, Option.getD_some]
  rfl

end Checks

/-- No core lacks a feature of the integer types (01 R23 to R25). -/
theorem featureTrap_setI {T : Nat} (h : setI T = true) (s : State) (core : Nat) : featureTrap s core (typeBits T) = none := by
  have hT : (6 ≤ T ∧ T ≤ 0x0B) ∨ T = 0x1D ∨ T = 0x1E := by simpa [setI, or_assoc] using h
  have hbit : dfmBit s core (32 + T) = true := by
    unfold dfmBit
    rw [if_neg (by omega), if_pos (by omega)]
    simp only [Nat.add_sub_cancel_left]
    rcases hT with ⟨h6, hB⟩ | rfl | rfl
    · simp [h6, hB]
    · simp
    · simp
  have hne : T ≠ 0x18 := by omega
  simp only [featureTrap, typeBits, if_neg hne, List.filter_cons, hbit, Bool.not_true, Bool.false_eq_true, if_false,
    List.filter_nil, List.min?_nil]

end Sys2Proof.Proofs
end

section
/-!
SUPPORT. Vector integer arithmetic and shifts (11 R148, R151, R152, R153, R155): their elements as exact functions narrowed by
Fit, and their checks.
-/
namespace Sys2Proof.Proofs
open Sys2Proof.Machine Sys2Proof.Laws

/-! ### Element operations -/

/-- Two operations agree on the elements of `n` operands. -/
def SameOn (n : Nat) (op op' : ElemOp) : Prop :=
  ∀ (T rnd : Nat) (sat : Bool) (xs : List Nat), xs.length = n → op T rnd sat xs = op' T rnd sat xs

theorem sameOn_one {op op' : ElemOp} (h : ∀ T rnd sat x, op T rnd sat [x] = op' T rnd sat [x]) : SameOn 1 op op' := by
  intro T rnd sat xs hl
  obtain ⟨x, rfl⟩ := List.length_eq_one_iff.1 hl
  exact h ..

theorem sameOn_two {op op' : ElemOp} (h : ∀ T rnd sat x y, op T rnd sat [x, y] = op' T rnd sat [x, y]) : SameOn 2 op op' := by
  intro T rnd sat xs hl
  obtain ⟨x, y, rfl⟩ := List.length_eq_two.1 hl
  exact h ..

theorem sameOn_three {op op' : ElemOp} (h : ∀ T rnd sat x y z, op T rnd sat [x, y, z] = op' T rnd sat [x, y, z]) :
    SameOn 3 op op' := by
  intro T rnd sat xs hl
  obtain ⟨x, y, z, rfl⟩ := List.length_eq_three.1 hl
  exact h ..

theorem elemOuts_congr {rs : List Reg} {op op' : ElemOp} (h : SameOn rs.length op op') (t : Team) :
    elemOuts t op rs = elemOuts t op' rs := by
  funext l
  refine List.map_congr_left fun i _ => h _ _ _ _ ?_
  rw [List.length_map]

section Forms
variable {accept : Nat → Bool} {readsD : Bool} {d : Reg} {srcs : List Src} {s : State} {t : Team} {op op' : ElemOp}

/-- An element-wise instruction that opens no producer, its operation said another way. -/
theorem elementwise_plain (h : SameOn (elemRegs d srcs readsD).length op op')
    (hi : Issues s t (vecShape s t accept typeBits d srcs readsD)) :
    elementwise accept false readsD op d srcs s = .next (s.putTeam { t.past with
      vregs := elemVectors t op' d srcs (elemRegs d srcs readsD)
      flags := t.flags ||| elemFlags t op' (elemRegs d srcs readsD) }) := by
  rw [elementwise_next false op hi]
  unfold elemVectors elemFlags
  rw [elemOuts_congr h]
  rfl

/-- An operation without flags raises none. -/
theorem elemFlags_zero (h : ∀ T rnd sat xs, (op T rnd sat xs).flags = 0) (t : Team) (rs : List Reg) : elemFlags t op rs = 0 := by
  have hall : ∀ f ∈ t.active.flatMap fun l => (elemOuts t op rs l).map (·.flags), f = 0 := by
    intro f hf
    obtain ⟨l, -, hf⟩ := List.mem_flatMap.1 hf
    obtain ⟨o, ho, rfl⟩ := List.mem_map.1 hf
    obtain ⟨i, -, rfl⟩ := List.mem_map.1 ho
    exact h ..
  rw [elemFlags, List.eq_replicate_of_mem hall, unionFlags]
  have hz (n : Nat) : (List.replicate n 0).foldl (· ||| ·) 0 = 0 := by
    induction n with
    | zero => rfl
    | succ n ih => rw [List.replicate_succ, List.foldl_cons, Nat.or_zero, ih]
  rw [hz]
  rfl

theorem elementwise_flagless (h : SameOn (elemRegs d srcs readsD).length op op')
    (hz : ∀ T rnd sat xs, (op' T rnd sat xs).flags = 0) (hi : Issues s t (vecShape s t accept typeBits d srcs readsD)) :
    elementwise accept false readsD op d srcs s = .next (s.putTeam { t.past with
      vregs := elemVectors t op' d srcs (elemRegs d srcs readsD) }) := by
  have hor : t.flags ||| elemFlags t op' (elemRegs d srcs readsD) = t.flags := by rw [elemFlags_zero hz]; exact BitVec.or_zero
  rw [elementwise_plain h hi, hor]
  rfl

end Forms

/-! ### Fit of exact functions (11 R148) -/

/-- NV for each of a list that a test finds, in union. -/
theorem unionFlags_map_nv {α : Type} (b : α → Bool) (l : List α) :
    unionFlags (l.map fun x => if b x then fNV else 0) = if l.any b then fNV else 0 := by
  have h (f : Nat) (hf : f = 0 ∨ f = fNV) : (l.map fun x => if b x then fNV else 0).foldl (· ||| ·) f =
      if l.any b then fNV else f := by
    induction l generalizing f with
    | nil => rfl
    | cons x l ih =>
      rw [List.map_cons, List.foldl_cons, List.any_cons]
      cases b x with
      | true =>
        have hnv : f ||| (if true = true then fNV else 0) = fNV := by rcases hf with rfl | rfl <;> rfl
        rw [hnv, ih fNV (.inr rfl), Bool.true_or, ite_self, if_pos rfl]
      | false =>
        rw [if_neg Bool.false_ne_true, Nat.or_zero, ih f hf, Bool.false_or]
  exact h 0 (.inl rfl)

theorem digitsInvalid_eq (T : Nat) (xs : List Nat) : digitsInvalid T xs = unionFlags (xs.map (digitFlag T)) :=
  (unionFlags_map_nv (fun x => (intValue T x).2) xs).symm

theorem sameOn_fitOp1 {f : Int → Int} {g : List Int → Int} (h : ∀ x, f x = g [x]) : SameOn 1 (fitOp1 f) (intOp g) :=
  sameOn_one fun T rnd sat x => by
    simp only [fitOp1, elemOp1, intOp, digitsInvalid_eq, h, List.map_cons, List.map_nil, unionFlags, List.foldl_cons,
      List.foldl_nil, Nat.zero_or]

theorem sameOn_fitOp2 {f : Int → Int → Int} {g : List Int → Int} (h : ∀ x y, f x y = g [x, y]) :
    SameOn 2 (fitOp2 f) (intOp g) :=
  sameOn_two fun T rnd sat x y => by
    simp only [fitOp2, elemOp2, intOp, digitsInvalid_eq, h, List.map_cons, List.map_nil, unionFlags, List.foldl_cons,
      List.foldl_nil, Nat.zero_or]

theorem sameOn_fitOp3 {f : Int → Int → Int → Int} {g : List Int → Int} (h : ∀ x y z, f x y z = g [x, y, z]) :
    SameOn 3 (fitOp3 f) (intOp g) :=
  sameOn_three fun T rnd sat x y z => by
    simp only [fitOp3, elemOp3, intOp, digitsInvalid_eq, h, List.map_cons, List.map_nil, unionFlags, List.foldl_cons,
      List.foldl_nil, Nat.zero_or]

/-! ### The checks of the instructions on two sources -/

section Checks
variable {s : State} {t : Team} {d : Reg} {a b : Src} (op : ElemOp)

/-- The operands of an integer instruction of two sources. -/
def intShape (s : State) (t : Team) (d : Reg) (a b : Src) : Shape := vecShape s t setI typeBits d [a, b] false

theorem elementwise_int_trapped {x : Trap} (hc : s.curTeam = some t) (hk : (intShape s t d a b).check t s = some (.trap x))
    (hx : x.code ≠ .acquireFailed) : elementwise setI false false op d [a, b] s = .next (s.takeTrap t x) :=
  runRegs_trapped (f := fun t => intShape s t d a b) hc hk hx

theorem setI_not_fp64 {T : Nat} (h : setI T = true) : T ≠ 0x18 := by rintro rfl; exact absurd h (by decide)

theorem namedVectors_intShape (h : t.type ≠ 0x18) : namedVectors (intShape s t d a b) = [a.reg, b.reg, d] := by
  simp [namedVectors, Shape.opnds, intShape, vecShape, vField, h, Opnd.vectors]

theorem early_intShape (h : setI t.type = true) : (intShape s t d a b).early = none := by
  simp [intShape, vecShape, typeTrap, pairFields, setI_not_fp64 h, h]

/-- A pair of an odd number (07 R93). -/
theorem early_intShape_odd (hT : t.type = 0x18) (ho : ∃ r ∈ [a.reg, b.reg, d], r.toNat % 2 = 1) :
    (intShape s t d a b).early = some (.at .illegalOpcode 0 0) := by
  obtain ⟨r, hr, hodd⟩ := ho
  have hany : ([d, a.reg, b.reg].any fun r => r.toNat % 2 = 1) = true :=
    List.any_eq_true.2 ⟨r, by simp only [List.mem_cons, List.not_mem_nil, or_false] at hr ⊢; tauto, decide_eq_true hodd⟩
  change typeTrap (pairFields t.type [d, a.reg, b.reg]) _ = _
  rw [pairFields, if_pos hT, typeTrap, if_pos hany]

theorem early_intShape_type (ho : ¬ (t.type = 0x18 ∧ ∃ r ∈ [a.reg, b.reg, d], r.toNat % 2 = 1)) (h : setI t.type = false) :
    (intShape s t d a b).early = some (.at .illegalMode 0 0) := by
  have hany : ¬ ((pairFields t.type [d, a.reg, b.reg]).any fun r => r.toNat % 2 = 1) = true := by
    unfold pairFields
    split
    next hT =>
      intro h
      obtain ⟨r, hr, hodd⟩ := List.any_eq_true.1 h
      refine ho ⟨hT, r, ?_, of_decide_eq_true hodd⟩
      simp only [List.mem_cons, List.not_mem_nil, or_false] at hr ⊢
      tauto
    next => simp
  change typeTrap (pairFields t.type [d, a.reg, b.reg]) _ = _
  rw [typeTrap, if_neg hany, h]
  rfl

theorem regBound_intShape (hT : t.type ≠ 0x18) {r : Reg} (hr : r ∈ [a.reg, b.reg, d]) (hb : 8 * t.blocks.toNat ≤ r.toNat)
    (hmin : ∀ q ∈ [a.reg, b.reg, d], 8 * t.blocks.toNat ≤ q.toNat → r.toNat ≤ q.toNat) :
    (intShape s t d a b).regBound t = some (.at .regBound (.ofNat 64 (r.toNat + 8 * t.vbase.toNat)) 0) :=
  regBound_some (by rwa [namedVectors_intShape hT]) hb (by rwa [namedVectors_intShape hT])

theorem lanePoison_intShape (hT : t.type ≠ 0x18) (l : Nat) : (intShape s t d a b).lanePoison t l =
    if t.vbad a.reg l = true then some (t.virt a.reg).toNat else if t.vbad b.reg l = true then some (t.virt b.reg).toNat else none := by
  have hv : ((intShape s t d a b).srcs.flatMap fun u => u.o.readVectors) = [a.reg, b.reg] := by
    simp [intShape, vecShape, vField, hT, Opnd.readVectors]
  have hm : ((intShape s t d a b).srcs.flatMap fun u => u.o.maskRegs) = [] := by
    simp [intShape, vecShape, vField, hT, Opnd.maskRegs]
  simp only [Shape.lanePoison, hv, hm, List.find?_cons, List.find?_nil]
  cases t.vbad a.reg l <;> cases t.vbad b.reg l <;> rfl

/-- The lowest active lane that reads poison, and the first of its two operands that holds some. -/
theorem poisoned_intShape (hT : t.type ≠ 0x18)
    (hw : ∀ w < t.passes, t.exmBad.getLsbD w = false ∧ (t.mbad t.guard).getLsbD w = false) {l : Nat} (hl : l ∈ t.active) {r : Reg}
    (hr : r ∈ [a.reg, b.reg]) (hbad : t.vbad r l = true) (hfirst : r = a.reg ∨ t.vbad a.reg l = false)
    (hmin : ∀ k ∈ t.active, k < l → t.vbad a.reg k = false ∧ t.vbad b.reg k = false) :
    (intShape s t d a b).poisoned t = some ⟨.poison, .ofNat 64 (t.virt r).toNat, 0, some l, none⟩ := by
  refine poisoned_of_lane rfl ?_ hw hl ?_ fun k hk hkl => ?_
  · simp [intShape, vecShape, scalars_vField]
  · rw [lanePoison_intShape hT]
    simp only [List.mem_cons, List.not_mem_nil, or_false] at hr
    rcases hr with rfl | rfl
    · rw [if_pos hbad]
    · rcases hfirst with e | ha
      · rw [← e, if_pos hbad]
      · rw [ha, if_neg Bool.false_ne_true, if_pos hbad]
  · obtain ⟨ha, hb⟩ := hmin k hk hkl
    rw [lanePoison_intShape hT, ha, hb, if_neg Bool.false_ne_true, if_neg Bool.false_ne_true]

end Checks

end Sys2Proof.Proofs
end

section
/-!
The obligation on vector integer arithmetic.
-/
namespace Sys2Proof.Proofs
open Sys2Proof.Machine Sys2Proof.Laws

/-- Settles O24: every instruction is `elementwise` with an operation that agrees with the stated one (`sameOn_fitOp2` and its
kin), and the checks come in the order of `Shape.check`. -/
theorem vectorIntegerArithmetic : Obligations.VectorIntegerArithmetic := by
  unfold Obligations.VectorIntegerArithmetic
  refine ⟨⟨fun p hp d a b s t hi => ?_, fun d a b s t hi => ?_, fun k p hp d a s t hi => ?_⟩,
    ⟨fun p hp d a b s t hi => ?_, fun n p hp d a s t hi => ?_⟩, fun op hop d a b s t hc => ?_⟩
  · simp only [List.mem_cons, List.not_mem_nil, or_false] at hp
    rcases hp with rfl | rfl | rfl | rfl | rfl
    · exact elementwise_plain (sameOn_fitOp2 (f := (· + ·)) fun _ _ => rfl) hi
    · exact elementwise_plain (sameOn_fitOp2 (f := (· - ·)) fun _ _ => rfl) hi
    · exact elementwise_plain (sameOn_fitOp2 (f := (· * ·)) fun _ _ => rfl) hi
    · exact elementwise_plain (sameOn_fitOp2 (f := min) fun _ _ => rfl) hi
    · exact elementwise_plain (sameOn_fitOp2 (f := max) fun _ _ => rfl) hi
  · exact elementwise_plain (sameOn_fitOp3 (f := fun a b d => d + a * b) fun _ _ _ => rfl) hi
  · simp only [List.mem_cons, List.not_mem_nil, or_false] at hp
    rcases hp with rfl | rfl | rfl
    · exact elementwise_plain (sameOn_fitOp1 (f := fun x => (x.natAbs : Int)) fun x => (Int.abs_eq_natAbs x).symm) hi
    · exact elementwise_plain (sameOn_fitOp1 (f := fun x => -x) fun _ => rfl) hi
    · exact elementwise_plain (sameOn_fitOp1 (f := fun x => x + k.toInt) fun _ => rfl) hi
  · simp only [List.mem_cons, List.not_mem_nil, or_false] at hp
    rcases hp with rfl | rfl | rfl | rfl
    all_goals exact elementwise_flagless (sameOn_two fun _ _ _ _ _ => rfl) (fun _ _ _ _ => rfl) hi
  · simp only [List.mem_cons, List.not_mem_nil, or_false] at hp
    rcases hp with rfl | rfl
    all_goals exact elementwise_flagless (sameOn_one fun _ _ _ _ => rfl) (fun _ _ _ _ => rfl) hi
  · intro sh fields traps odd
    obtain ⟨o, ho⟩ : ∃ o : ElemOp, exec (op d a b) s = elementwise setI false false o d [a, b] s := by
      simp only [List.mem_cons, List.not_mem_nil, or_false] at hop
      rcases hop with rfl | rfl | rfl | rfl | rfl <;> exact ⟨_, rfl⟩
    have htraps {x : Trap} (hk : (intShape s t d a b).check t s = some (.trap x)) (hx : x.code ≠ .acquireFailed) : traps x :=
      ho.trans (elementwise_int_trapped o hc hk hx)
    refine ⟨fun hodd => htraps (check_early (early_intShape_odd hodd.1 hodd.2)) nofun,
      fun hodd hT => htraps (check_early (early_intShape_type hodd hT)) nofun, fun hT => ?_⟩
    have he := early_intShape (s := s) (d := d) (a := a) (b := b) hT
    have hne := setI_not_fp64 hT
    refine ⟨fun r hr hb hmin => htraps (check_regBound he (regBound_intShape hne hr hb hmin)) nofun,
      fun hin hw hclean l hl r hr hbad hfirst hmin => htraps (check_poisoned he ?_ (featureTrap_setI hT s t.core) hw
        (poisoned_intShape hne hclean hl hr hbad hfirst hmin)) nofun⟩
    exact regBound_none fun q hq => hin q (by rwa [namedVectors_intShape hne] at hq)

end Sys2Proof.Proofs
end

section
/-!
SUPPORT. Vector comparisons (11 R153, R154, R159, R160), and a .K form over the producer that it cancels (05 R76, R77).
-/
namespace Sys2Proof.Proofs
open Sys2Proof.Machine Sys2Proof.Laws

/-! ### Mask results -/

theorem masksAfter_of {u t : Team} (hw : u.tw = t.tw) (hm : u.masks = t.masks) (used : List MReg) (ws : List (MReg × LaneBits)) :
    masksAfter u used ws = masksAfter t used ws := by
  rw [masksAfter, masksAfter, hw, hm]

/-- A mask written, the vector sources used up dead. -/
theorem retire_mask {sh : Shape} {usedV : List Reg} {d : MReg} {b : LaneBits} {u v : Team}
    (h : Names3 sh [] [] usedV [] [(d, b)]) (hs : v.sregs = u.sregs) (hv : v.vregs = u.vregs)
    (hm : v.masks = writtenM u.tw [(d, b)] u.masks) (hb : v.vbase = u.vbase) : sh.retire v = { v with
      vregs := vectorsAfter u usedV [], masks := masksAfter u [] [(d, b)]
      promises := promisesAged v ++ sh.promise v, issued := v.issued + 1 } := by
  rw [retire_closed h (hs.trans rfl) (hv.trans (vectorsAfter_nil u).symm) hm hb, scalarsAfter_nil, hs]

theorem names3_compare {sh : Shape} {T : Nat} {srcs : List Src} {d : MReg} (b : LaneBits) (hu : sh.unread = [])
    (hs : sh.srcs = srcs.map fun a => ⟨vField T a.reg, a.last⟩) (hd : sh.dsts = [.m d]) :
    Names3 sh [] [] (lastFields T srcs) [] [(d, b)] where
  scalars := by rw [hu, hs, List.append_nil, lastNames_map_nil _ (scalars_vField T)]
  scalarDsts := by rw [hd]; rfl
  vectors := by rw [hu, hs, List.append_nil, lastNames_fields]
  vectorDsts := by rw [hd]; rfl
  masks := by rw [hu, hs, List.append_nil, lastNames_map_nil _ (maskRegs_vField T)]
  maskDsts := by rw [hd]; rfl

theorem setMaskActive_eq (t : Team) (d : MReg) (f : Nat → Bool) : t.setMaskActive d f = t.setM d (maskOfActive t f) := rfl

/-! ### VCMP -/

theorem intCondition_eq (c : IntCond) (x y : Int) : intCondition c x y = match c with
    | .eq => decide (x = y)
    | .ne => decide (x ≠ y)
    | .lt => decide (x < y)
    | .ge => decide (y ≤ x)
    | .le => decide (x ≤ y)
    | .gt => decide (y < x) := by
  cases c
  case ne => rw [Bool.eq_iff_iff]; simp [intCondition]
  all_goals rfl

section Vcmp
variable {s : State} {t : Team} {d : MReg} {a b : Src}

/-- The operands of VCMP. -/
def vcmpShape (s : State) (d : MReg) (a b : Src) (t : Team) : Shape :=
  { srcs := useV [a, b], dsts := [.m d], vector := true,
    early := typeTrap (pairFields t.type [a.reg, b.reg]) (setI t.type), feature := featureTrap s t.core (typeBits t.type) }

/-- Element 0 of a register in a lane, by value, and whether it has an invalid digit. -/
def firstInt (t : Team) (r : Reg) (l : Nat) : Int × Bool := intValue t.type (elemAt t.type 0 (t.vval r l).toNat)

theorem digitFlags_or (T x y : Nat) : digitFlag T x ||| digitFlag T y =
    if ((intValue T x).2 || (intValue T y).2) = true then fNV else 0 := by
  unfold digitFlag
  cases (intValue T x).2 <;> cases (intValue T y).2 <;> rfl

theorem names3_vcmpShape (m : LaneBits) : Names3 (vcmpShape s d a b t) [] [] (lastOf [a, b]) [] [(d, m)] where
  scalars := lastNames_map_nil _ (c := .v) (fun _ => rfl) [a, b]
  scalarDsts := rfl
  vectors := lastNames_map_self (c := .v) (fun _ => rfl) [a, b]
  vectorDsts := rfl
  masks := lastNames_map_nil _ (c := .v) (fun _ => rfl) [a, b]
  maskDsts := rfl

/-- The lanes for which VCMP answers 1, and its flags. -/
def intMask (c : IntCond) (a b : Src) (t : Team) : LaneBits :=
  maskOfActive t fun l => intCondition c (firstInt t a.reg l).1 (firstInt t b.reg l).1
def intMaskFlags (a b : Src) (t : Team) : Word :=
  if t.active.any (fun l => (firstInt t a.reg l).2 || (firstInt t b.reg l).2) then .ofNat 32 fNV else 0

theorem intMaskFlags_eq (a b : Src) (t : Team) : BitVec.ofNat 32 (unionFlags (t.active.map fun l =>
    digitFlag t.type (elemAt t.type 0 (t.vval a.reg l).toNat) ||| digitFlag t.type (elemAt t.type 0 (t.vval b.reg l).toNat)))
      = intMaskFlags a b t := by
  have hl : (fun l => digitFlag t.type (elemAt t.type 0 (t.vval a.reg l).toNat)
      ||| digitFlag t.type (elemAt t.type 0 (t.vval b.reg l).toNat)) =
      fun l => if ((firstInt t a.reg l).2 || (firstInt t b.reg l).2) = true then fNV else 0 := funext fun l => digitFlags_or ..
  rw [hl, unionFlags_map_nv (fun l => (firstInt t a.reg l).2 || (firstInt t b.reg l).2), intMaskFlags]
  split <;> rfl

theorem execVcmp_next (c : IntCond) (hi : Issues s t (vcmpShape s d a b t)) : execVcmp c d a b s = .next (s.putTeam { t.past with
    masks := masksAfter t [] [(d, intMask c a b t)], vregs := vectorsAfter t (lastOf [a, b]) [],
    flags := t.flags ||| intMaskFlags a b t }) := by
  have he : (fun t : Team =>
      let x (l : Nat) : Nat := elemAt t.type 0 (t.vval a.reg l).toNat
      let y (l : Nat) : Nat := elemAt t.type 0 (t.vval b.reg l).toNat
      let f := unionFlags (t.active.map fun l => digitFlag t.type (x l) ||| digitFlag t.type (y l))
      Except.ok (ε := Stop) ((t.setMaskActive d fun l => intCondition c (intValue t.type (x l)).1
        (intValue t.type (y l)).1).raiseFlags f).advance) t.begin
      = .ok { t.begin.setM d (intMask c a b t) with flags := t.flags ||| intMaskFlags a b t, pc := t.pc + 4#64 } := by
    dsimp only
    rw [raiseFlags_eq, intMaskFlags_eq, setMaskActive_eq, setM_eq, setM_eq]
    rfl
  have hrun : execVcmp c d a b s = _ := runRegs_next (sh := vcmpShape s d a b) hi.1 hi.2 he
  rw [hrun, setM_eq, retire_mask (u := t.begin) (names3_vcmpShape (intMask c a b t)), promise_none rfl, vectorsAfter_begin,
    masksAfter_of (u := t.begin) (t := t) rfl rfl]
  all_goals rfl

end Vcmp

/-! ### Cancellation (05 R76, R77) -/

/-- The team that a .K form writes over. -/
def cancelled (t : Team) : Option Producer → Team
  | none => t
  | some p => withoutProducer t p

theorem cancel_eq (t : Team) (p : Producer) : t.cancel p = withoutProducer t p := by
  have hk (l : List Reg) (u : Team) : l.foldl Team.killV u = { u with vregs := vectorsAfter u l [] } := by
    rw [foldl_killV, killed, killedS_nil, killedM_nil, ← killedV_vectorsAfter, vectorsAfter_nil]
    simp only [unwritten, List.map_nil, List.contains_nil, Bool.not_false, List.filter_true]
  unfold Team.cancel withoutProducer
  split
  · exact hk [p.dst, p.dst + 1#6] _
  · exact hk [p.dst] _

theorem afterCancel_begin (t : Team) (o : Option Producer) : t.begin.afterCancel o = (cancelled t o).begin := by
  cases o with
  | none => rfl
  | some p =>
    change t.begin.cancel p = (withoutProducer t p).begin
    rw [cancel_eq, withoutProducer, vectorsAfter_begin]
    rfl

/-- Cancellation changes a team's flags and vector registers. -/
theorem cancelled_eq (t : Team) (o : Option Producer) :
    ∃ (f : Word) (v : Vector VReg 64), cancelled t o = { t with flags := f, vregs := v } := by
  cases o with
  | none => exact ⟨t.flags, t.vregs, rfl⟩
  | some p => exact ⟨_, _, rfl⟩

theorem cancels_iff (p : Producer) (pc : Addr) (srcs : List Src) :
    cancels (some p) pc srcs = true ↔ pc = p.pc + 4#64 ∧ ∃ a ∈ srcs, a.last = true ∧ a.reg = p.dst := by
  simp [cancels]

section OpenFor
variable {s : State} {t : Team} {srcs : List Src}

theorem openFor_of (hc : s.curTeam = some t) : openFor s srcs = if cancels t.producer t.pc srcs then t.producer else none := by
  simp only [openFor, hc]

theorem openFor_some {p : Producer} (hc : s.curTeam = some t) (hp : t.producer = some p) (hpc : t.pc = p.pc + 4#64)
    (hs : ∃ a ∈ srcs, a.last = true ∧ a.reg = p.dst) : openFor s srcs = some p := by
  rw [openFor_of hc, hp, if_pos ((cancels_iff p t.pc srcs).2 ⟨hpc, hs⟩)]

/-- No producer is open, or the instruction is no consumer of it. -/
theorem openFor_none {q : Producer → Bool} (hc : s.curTeam = some t) (h : t.producer.all q = true)
    (hq : ∀ p, q p = true → ¬ (t.pc = p.pc + 4#64 ∧ ∃ a ∈ srcs, a.last = true ∧ a.reg = p.dst)) : openFor s srcs = none := by
  rw [openFor_of hc]
  cases hp : t.producer with
  | none => split <;> rfl
  | some p =>
    rw [hp] at h
    exact if_neg fun e => hq p h ((cancels_iff p t.pc srcs).1 e)

end OpenFor

/-! ### VFCMP and VFCMP.K -/

section Vfcmp
variable {s : State} {t : Team} {d : MReg} {a b : Src}

/-- The operands of VFCMP. -/
def vfcmpShape (s : State) (d : MReg) (a b : Src) (t : Team) : Shape :=
  { srcs := [⟨vField t.type a.reg, a.last⟩, ⟨vField t.type b.reg, b.last⟩], dsts := [.m d], vector := true,
    early := typeTrap (pairFields t.type [a.reg, b.reg]) (setF t.type), feature := featureTrap s t.core (typeBits t.type) }

/-- Element 0 of a register in a lane, as a floating-point value. -/
def firstFp (t : Team) (r : Reg) (l : Nat) : FVal := fpValue t.type ((t.elemsOf t.type r l).getD 0 0)

/-- The lanes for which VFCMP answers 1, and its flags. -/
def fpMask (c : FpCond) (a b : Src) (t : Team) : LaneBits :=
  maskOfActive t fun l => fpCondition c (firstFp t a.reg l) (firstFp t b.reg l)
def fpMaskFlags (c : FpCond) (a b : Src) (t : Team) : Word :=
  .ofNat 32 (unionFlags (t.active.map fun l => fpCondFlag c (firstFp t a.reg l) (firstFp t b.reg l)))

theorem headD_eq_getD (l : List Nat) : l.headD 0 = l.getD 0 0 := by cases l <;> rfl

/-- VFCMP over the team that it writes over. -/
theorem compareFp_next {k : Bool} {o : Option Producer} (c : FpCond) (hi : Issues s t (vfcmpShape s d a b t))
    (ho : (if k then openFor s [a, b] else none) = o) : compareFp k c d a b s = .next (s.putTeam { (cancelled t o).past with
      masks := masksAfter t [] [(d, fpMask c a b t)], vregs := vectorsAfter (cancelled t o) (lastFields t.type [a, b]) [],
      flags := (cancelled t o).flags ||| fpMaskFlags c a b t }) := by
  obtain ⟨f, v, hu⟩ := cancelled_eq t o
  have he : (fun t : Team =>
      let x (l : Nat) : FVal := fpValue t.type ((t.elemsOf t.type a.reg l).headD 0)
      let y (l : Nat) : FVal := fpValue t.type ((t.elemsOf t.type b.reg l).headD 0)
      let f := unionFlags (t.active.map fun l => fpCondFlag c (x l) (y l))
      let t1 := t.afterCancel (if k then openFor s [a, b] else none)
      Except.ok (ε := Stop) ((t1.setMaskActive d fun l => fpCondition c (x l) (y l)).raiseFlags f).advance) t.begin
      = .ok { ((cancelled t o).begin.setM d (fpMask c a b t)) with
          flags := (cancelled t o).flags ||| fpMaskFlags c a b t, pc := t.pc + 4#64 } := by
    simp only [headD_eq_getD]
    rw [ho, afterCancel_begin, hu, setMaskActive_eq, setM_eq, setM_eq, raiseFlags_eq]
    rfl
  have hrun : compareFp k c d a b s = _ := runRegs_next (sh := vfcmpShape s d a b) hi.1 hi.2 he
  rw [hrun, hu, setM_eq, retire_mask (u := Team.begin { t with flags := f, vregs := v })
      (names3_compare (srcs := [a, b]) (fpMask c a b t) rfl rfl rfl),
    promise_none rfl, vectorsAfter_begin, masksAfter_of (u := Team.begin { t with flags := f, vregs := v }) (t := t) rfl rfl]
  all_goals rfl

end Vfcmp

/-! ### VFSGN.K -/

theorem execVfsgnK_next {s : State} {t : Team} {d : Reg} {a : Src} {o : Option Producer}
    (hi : Issues s t (vecShape s t setF typeBits d [a] false)) (ho : openFor s [a] = o) :
    execVfsgnK d a s = .next (s.putTeam { (cancelled t o).past with
      vregs := vectorsAfter (cancelled t o) (lastFields t.type [a])
        (elemWrites t t.type d fun l => (elemOuts t (signOp signumBits) [a.reg] l).map (·.bits))
      flags := (cancelled t o).flags ||| elemFlags t (signOp signumBits) [a.reg] }) := by
  obtain ⟨f, v, hu⟩ := cancelled_eq t o
  have he : (fun t : Team =>
      let outs := t.elemResults (signOp signumBits) [a.reg]
      Except.ok (ε := Stop) (((t.afterCancel (openFor s [a])).setOuts t.type d outs).raiseFlags (flagsOf outs)).advance) t.begin
      = .ok { (cancelled t o).begin with
          vregs := vectorsAfter (cancelled t o).begin []
            (elemWrites t t.type d fun l => (elemOuts t (signOp signumBits) [a.reg] l).map (·.bits))
          flags := (cancelled t o).flags ||| elemFlags t (signOp signumBits) [a.reg], pc := t.pc + 4#64 } := by
    dsimp only
    rw [elemResults_eq, flagsOf_perActive]
    change Except.ok (Team.advance (Team.raiseFlags ((t.begin.afterCancel (openFor s [a])).setOuts t.type d
      (t.begin.perActive (elemOuts t.begin (signOp signumBits) [a.reg]))) _)) = _
    rw [ho, afterCancel_begin, hu]
    exact congrArg (fun u => Except.ok (Team.advance (Team.raiseFlags u _)))
      (setOuts_perActive (t := Team.begin { t with flags := f, vregs := v }) t.type d (elemOuts t (signOp signumBits) [a.reg]))
  have hrun : execVfsgnK d a s = _ :=
    runRegs_next (sh := fun t => vecShape s t setF typeBits d [a] false) hi.1 hi.2 he
  rw [hrun, hu, retire_vectors (u := Team.begin { t with flags := f, vregs := v })
      (names3_vecShape s t t setF typeBits d [a] false _), promise_none rfl, vectorsAfter_begin]
  all_goals rfl

end Sys2Proof.Proofs
end

section
/-!
The obligation on vector comparisons and cancellation.
-/
namespace Sys2Proof.Proofs
open Sys2Proof.Machine Sys2Proof.Laws

/-- Settles O25: a comparison writes its mask over the team that cancellation leaves (`compareFp_next`, `execVfsgnK_next`), which is
the team itself where `openFor` finds no producer. -/
theorem vectorComparesAndCancellation : Obligations.VectorComparesAndCancellation := by
  unfold Obligations.VectorComparesAndCancellation
  refine ⟨⟨fun c d a b s t hi => ?_, fun c d a b s t hi => compareFp_next (k := false) (o := none) c hi rfl⟩,
    fun c d a b s t hi => ⟨fun p hp hpc hs => ?_, fun h => ?_⟩, fun d a s t hi => ⟨fun p hp hpc hl hr => ?_, fun h => ?_⟩⟩
  · have h := execVcmp_next c hi
    simp only [intMask, intCondition_eq] at h
    exact h
  · refine compareFp_next (k := true) (o := some p) c hi (openFor_some hi.1 hp hpc ?_)
    simpa using hs
  · refine compareFp_next (k := true) (o := none) c hi (openFor_none hi.1 h fun p hq hn => ?_)
    simp only [List.mem_cons, List.not_mem_nil, or_false, exists_eq_or_imp, exists_eq_left] at hn
    exact of_decide_eq_true hq hn
  · exact execVfsgnK_next hi (openFor_some hi.1 hp hpc ⟨a, List.mem_cons_self, hl, hr⟩)
  · refine execVfsgnK_next hi (openFor_none hi.1 h fun p hq hn => ?_)
    simp only [List.mem_cons, List.not_mem_nil, or_false, exists_eq_left] at hn
    exact of_decide_eq_true hq hn

end Sys2Proof.Proofs
end

section
/-!
SUPPORT. What an instruction of vector operands leaves, by what it writes.
-/
namespace Sys2Proof.Proofs
open Sys2Proof.Machine Sys2Proof.Laws

theorem promise_of_mode {u t : Team} (sh : Shape) (h : u.mode = t.mode) : sh.promise u = sh.promise t := by
  rw [Shape.promise, Shape.promise, Team.guard, Team.guard, h]

section Runs
variable {s : State} {t : Team} {sh : Team → Shape} {effect : Team → Except Stop Team} {usedS : List Reg}
  {wsS : List (Reg × Word)} {usedV : List Reg} {wsV : List (Reg × (Nat → Option Word))} {f : Word}

/-- Scalar and vector registers written, those used up dead, and the instruction's promise open. -/
theorem runRegs_regs (hi : Issues s t (sh t)) (h : Names3 (sh t) usedS wsS usedV wsV [])
    (he : effect t.begin = .ok { t.begin with
      sregs := writtenS wsS t.begin.sregs, vregs := vectorsAfter t.begin [] wsV, flags := f, pc := t.pc + 4#64 }) :
    runRegs sh effect s = .next (s.putTeam { t.past with
      sregs := scalarsAfter t usedS wsS, vregs := vectorsAfter t usedV wsV, flags := f
      promises := promisesAged t ++ (sh t).promise t }) := by
  rw [runRegs_next hi.1 hi.2 he, retire_closed (u := t.begin) h, vectorsAfter_begin, masksAfter_nil,
    promise_of_mode (t := t) (sh t)]
  all_goals rfl

/-- The same of vector registers only. -/
theorem runRegs_vectors (hi : Issues s t (sh t)) (h : Names3 (sh t) [] [] usedV wsV [])
    (he : effect t.begin = .ok { t.begin with vregs := vectorsAfter t.begin [] wsV, flags := f, pc := t.pc + 4#64 }) :
    runRegs sh effect s = .next (s.putTeam { t.past with
      vregs := vectorsAfter t usedV wsV, flags := f, promises := promisesAged t ++ (sh t).promise t }) := by
  rw [runRegs_regs hi h he, scalarsAfter_nil]
  rfl

/-- The same without a lookahead field. -/
theorem runRegs_vectors_plain (hi : Issues s t (sh t)) (h : Names3 (sh t) [] [] usedV wsV []) (hla : (sh t).la = 0)
    (he : effect t.begin = .ok { t.begin with vregs := vectorsAfter t.begin [] wsV, flags := f, pc := t.pc + 4#64 }) :
    runRegs sh effect s = .next (s.putTeam { t.past with vregs := vectorsAfter t usedV wsV, flags := f }) := by
  rw [runRegs_vectors hi h he, promise_none hla]
  rfl

end Runs

/-- Results given lane by lane, written with their flags (05 R67). -/
theorem setOuts_fields (t : Team) (D : Nat) (d : Reg) (out : Nat → List Out) :
    ((t.setOuts D d (t.perActive out)).raiseFlags (flagsOf (t.perActive out))).advance = { t with
      vregs := vectorsAfter t [] (elemWrites t D d fun l => (out l).map (·.bits))
      flags := t.flags ||| laneFlags t out, pc := t.pc + 4#64 } := by
  rw [setOuts_perActive, flagsOf_perActive, raiseFlags_eq]
  rfl

end Sys2Proof.Proofs
end

section
/-!
SUPPORT. Conversions and quantization (11 R168 to R170): the fields that they write and those that they keep.
-/
namespace Sys2Proof.Proofs
open Sys2Proof.Machine Sys2Proof.Laws

/-! ### Old fields -/

theorem elemCount_pos (T : Nat) : 0 < elemCount T := by
  unfold elemCount fieldWidth
  repeat' split
  all_goals simp_all

theorem elemAt_lt (T i x : Nat) : elemAt T i x < 2 ^ fieldWidth T := Nat.mod_lt _ (Nat.two_pow_pos _)

/-- An element lies in its field (05 R64). -/
theorem elemsOf_getD_lt (t : Team) (T : Nat) (r : Reg) (l j : Nat) : (t.elemsOf T r l).getD j 0 < 2 ^ fieldWidth T := by
  have hall : ∀ x ∈ t.elemsOf T r l, x < 2 ^ fieldWidth T := by
    unfold Team.elemsOf
    split
    next hT =>
      intro x hx
      rw [List.mem_singleton.1 hx, hT]
      exact (t.vpair r l).isLt
    next =>
      intro x hx
      obtain ⟨i, -, rfl⟩ := List.mem_map.1 hx
      exact elemAt_lt ..
  rw [List.getD_eq_getElem?_getD]
  cases hj : (t.elemsOf T r l)[j]? with
  | none => exact Nat.two_pow_pos _
  | some x => exact hall x (List.mem_of_getElem? hj)

/-- The bits of a format fill its field, but for those of the container of FP19 and of the formats of 10 and 12 bits. -/
theorem fpFmt_width {T : Nat} {f : Fmt} (h : fpFmt T = some f) (h16 : T ≠ 0x16) (h19 : T ≠ 0x19) (h1A : T ≠ 0x1A) :
    f.s + f.e + f.m = fieldWidth T := by
  unfold fpFmt at h
  split at h
  all_goals cases h
  any_goals rfl
  all_goals contradiction

theorem keepField_eq {D x : Nat} (h16 : D ≠ 0x16) (hx : x < 2 ^ fieldWidth D) : keepField D x = keptField D x := by
  unfold keepField keptField
  by_cases h1A : D = 0x1A
  · subst h1A; rfl
  by_cases h19 : D = 0x19
  · subst h19; rfl
  rw [if_neg h1A, if_neg h19]
  cases hf : fpFmt D with
  | none => rfl
  | some f =>
    dsimp only
    rw [if_neg h16, fpFmt_width hf h16 h19 h1A, Nat.mod_eq_of_lt hx]

/-! ### VCVT -/

section Vcvt
variable {s : State} {t : Team} {d : Reg} {a : Src} {f sel : BitVec 5} {p : CvtPlan}

/-- A type of one element per register has no field that VCVT keeps. -/
theorem cvtPlan_single {S D n : Nat} (h : cvtPlan S D n = some p) (hD : elemCount D = 1) : p.d0 = 0 ∧ p.k = 1 := by
  have hS := elemCount_pos S
  simp only [cvtPlan, Option.ite_none_left_eq_some, Option.some.injEq] at h
  obtain ⟨-, rfl⟩ := h
  exact ⟨if_neg (by omega), by dsimp only; omega⟩

/-- The operands of VCVT. -/
def vcvtShape (s : State) (d : Reg) (a : Src) (f : BitVec 5) (keeps : Bool) (accepted : Bool) (t : Team) : Shape :=
  { srcs := [⟨vField t.type a.reg, a.last⟩] ++ (if keeps then [⟨vField f.toNat d, false⟩] else []),
    dsts := [vField f.toNat d], vector := true,
    early := typeTrap (pairFields t.type [a.reg] ++ pairFields f.toNat [d]) accepted,
    feature := featureTrap s t.core (convertBits t.type f.toNat) }

theorem names3_vcvtShape (keeps accepted : Bool) (u : Team) (g : Nat → List Nat) :
    Names3 (vcvtShape s d a f keeps accepted t) [] [] (lastFields t.type [a]) (elemWrites u f.toNat d g) [] :=
  names3_field u g (List.append_nil _) (by cases keeps <;> simp) rfl (lastNames_map_nil _ (scalars_vField _) [a])
    (lastNames_fields _ [a]) (lastNames_map_nil _ (maskRegs_vField _) [a])

/-- The fields of VCVT in a lane (11 R168). -/
def convertedFields (s : State) (t : Team) (D : Nat) (p : CvtPlan) (d : Reg) (a : Src) (l : Nat) : List Out :=
  (List.range (elemCount D)).map fun j =>
    if p.d0 ≤ j ∧ j < p.d0 + p.k then
      if p.s0 + (j - p.d0) < elemCount t.type then
        convertElem (s.ctxOf t).nvr t.type D t.rnd t.sat ((t.elemsOf t.type a.reg l).getD (p.s0 + (j - p.d0)) 0)
      else ⟨(convert (s.ctxOf t).nvr D t.rnd t.sat (zeroSource t.type)).bits, 0⟩
    else ⟨keptField D ((t.elemsOf D d l).getD j 0), 0⟩

theorem cvtLane_eq {D n : Nat} (hp : cvtPlan t.type D n = some p) (l : Nat) :
    cvtLane (s.ctxOf t).nvr t.type D t.rnd t.sat p (t.elemsOf t.type a.reg l) (t.elemsOf D d l) =
      convertedFields s t D p d a l := by
  refine List.map_congr_left fun j hj => ?_
  by_cases hin : p.d0 ≤ j ∧ j < p.d0 + p.k
  · rw [if_pos hin, if_pos hin]
  · have h16 : D ≠ 0x16 := by
      rintro rfl
      obtain ⟨h0, h1⟩ := cvtPlan_single hp rfl
      have hj1 : j < 1 := List.mem_range.1 hj
      omega
    rw [if_neg hin, if_neg hin, keepField_eq h16 (elemsOf_getD_lt t D d l j)]

theorem execVcvt_next (hp : cvtPlan t.type f.toNat sel.toNat = some p)
    (hi : Issues s t (vcvtShape s d a f (p.k != elemCount f.toNat) true t)) :
    execVcvt d a f sel s = .next (s.putTeam { t.past with
      vregs := fieldVectors t (lastFields t.type [a]) f.toNat d (convertedFields s t f.toNat p d a)
      flags := t.flags ||| laneFlags t (convertedFields s t f.toNat p d a) }) := by
  let sh (t : Team) : Shape := vcvtShape s d a f (match cvtPlan t.type f.toNat sel.toNat with
    | some p => p.k != elemCount f.toNat
    | none => false) (cvtPlan t.type f.toNat sel.toNat).isSome t
  have hsh : sh t = vcvtShape s d a f (p.k != elemCount f.toNat) true t := by simp only [sh, hp, Option.isSome_some]
  have hp' : cvtPlan t.begin.type f.toNat sel.toNat = some p := hp
  have hout : (t.begin.perActive fun l => cvtLane (s.ctxOf t.begin).nvr t.begin.type f.toNat t.begin.rnd t.begin.sat p
      (t.begin.elemsOf t.begin.type a.reg l) (t.begin.elemsOf f.toNat d l)) = t.begin.perActive (convertedFields s t f.toNat p d a) :=
    congrArg _ (funext (cvtLane_eq hp))
  refine runRegs_vectors_plain (sh := sh) (by rwa [hsh]) (by rw [hsh]; exact names3_vcvtShape _ _ t _) rfl ?_
  simp only [hp', hout]
  exact congrArg Except.ok (setOuts_fields t.begin f.toNat d _)

/-- The shape as the obligation writes it. -/
theorem vcvtShape_eq (D : BitVec 5) : vcvtShape s d a D (p.k != elemCount D.toNat) true t =
    { srcs := [⟨vField t.type a.reg, a.last⟩] ++ (if p.k = elemCount D.toNat then [] else [⟨vField D.toNat d, false⟩]),
      dsts := [vField D.toNat d], vector := true, early := typeTrap (pairFields t.type [a.reg] ++ pairFields D.toNat [d]) true,
      feature := featureTrap s t.core (convertBits t.type D.toNat) } := by
  by_cases h : p.k = elemCount D.toNat <;> simp [vcvtShape, h]

end Vcvt

/-! ### VQNT -/

section Vqnt
variable {s : State} {t : Team} {d : Reg} {a b : Src} {f : BitVec 5}

/-- The operands of VQNT. -/
def vqntShape (s : State) (d : Reg) (a b : Src) (f : BitVec 5) (t : Team) : Shape :=
  { srcs := [⟨vField t.type a.reg, a.last⟩, ⟨.v b.reg, b.last⟩]
      ++ (if elemCount t.type < elemCount f.toNat then [⟨vField f.toNat d, false⟩] else []),
    dsts := [vField f.toNat d], vector := true,
    early := typeTrap (pairFields t.type [a.reg] ++ pairFields f.toNat [d]) true,
    feature := featureTrap s t.core (convertBits t.type f.toNat) }

theorem names3_vqntShape (u : Team) (g : Nat → List Nat) :
    Names3 (vqntShape s d a b f t) [] [] (lastFields t.type [a] ++ lastOf [b]) (elemWrites u f.toNat d g) [] := by
  have hins {α : Type} (h : Opnd → List α) : lastNames h [⟨vField t.type a.reg, a.last⟩, ⟨.v b.reg, b.last⟩] =
      lastNames h ([a].map fun a => ⟨vField t.type a.reg, a.last⟩) ++ lastNames h ([b].map fun a => ⟨.v a.reg, a.last⟩) :=
    lastNames_append h [_] [_]
  refine names3_field u g (List.append_nil _) (by split <;> simp) rfl ?_ ?_ ?_
  · rw [hins, lastNames_map_nil _ (scalars_vField _), lastNames_map_nil _ (c := .v) fun _ => rfl]; rfl
  · rw [hins, lastNames_fields, lastNames_map_self (c := .v) fun _ => rfl]
  · rw [hins, lastNames_map_nil _ (maskRegs_vField _), lastNames_map_nil _ (c := .v) fun _ => rfl]; rfl

/-- The fields of VQNT in a lane (11 R170). -/
def quantizedFields (s : State) (t : Team) (D : Nat) (d : Reg) (a b : Src) (l : Nat) : List Out :=
  (List.range (elemCount D)).map fun j =>
    if j < min (elemCount t.type) (elemCount D) then
      quantElem (s.ctxOf t).nvr t.type D t.rnd t.sat (fld 0 8 (t.vval b.reg l).toNat) ((t.elemsOf t.type a.reg l).getD j 0)
    else ⟨keptField D ((t.elemsOf D d l).getD (j - min (elemCount t.type) (elemCount D)) 0), 0⟩

theorem quantLane_eq (D : Nat) (l : Nat) :
    quantLane (s.ctxOf t).nvr t.type D t.rnd t.sat (fld 0 8 (t.vval b.reg l).toNat) (t.elemsOf t.type a.reg l)
      (t.elemsOf D d l) = quantizedFields s t D d a b l := by
  refine List.map_congr_left fun j hj => ?_
  by_cases hin : j < min (elemCount t.type) (elemCount D)
  · rw [if_pos hin, if_pos hin]
  · have h16 : D ≠ 0x16 := by
      rintro rfl
      have hj1 : j < 1 := List.mem_range.1 hj
      have hS := elemCount_pos t.type
      have h1 : elemCount 0x16 = 1 := rfl
      omega
    rw [if_neg hin, if_neg hin, keepField_eq h16 (elemsOf_getD_lt ..)]

theorem execVqnt_next (hi : Issues s t (vqntShape s d a b f t)) :
    execVqnt d a b f s = .next (s.putTeam { t.past with
      vregs := fieldVectors t (lastFields t.type [a] ++ lastOf [b]) f.toNat d (quantizedFields s t f.toNat d a b)
      flags := t.flags ||| laneFlags t (quantizedFields s t f.toNat d a b) }) := by
  have hout : (t.begin.perActive fun l => quantLane (s.ctxOf t.begin).nvr t.begin.type f.toNat t.begin.rnd t.begin.sat
      (fld 0 8 (t.begin.vval b.reg l).toNat) (t.begin.elemsOf t.begin.type a.reg l) (t.begin.elemsOf f.toNat d l)) =
      t.begin.perActive (quantizedFields s t f.toNat d a b) := congrArg _ (funext (quantLane_eq f.toNat))
  refine runRegs_vectors_plain (sh := vqntShape s d a b f) hi (names3_vqntShape t _) rfl ?_
  simp only [hout]
  exact congrArg Except.ok (setOuts_fields t.begin f.toNat d _)

end Vqnt

end Sys2Proof.Proofs
end

section
/-!
SUPPORT. Packing and dot products (11 R171, R172).
-/
namespace Sys2Proof.Proofs
open Sys2Proof.Machine Sys2Proof.Laws

/-! ### Shapes of whole vector registers -/

/-- A shape whose destination is one vector register. -/
theorem names3_v {sh : Shape} {ins kept : List Use} {usedV : List Reg} {d : Reg} (w : Nat → Option Word)
    (hsrc : sh.srcs ++ sh.unread = ins ++ kept) (hkept : ∀ x ∈ kept, x.last = false) (hd : sh.dsts = [.v d])
    (hs : lastNames Opnd.scalars ins = []) (hv : lastNames Opnd.vectors ins = usedV) (hm : lastNames Opnd.maskRegs ins = []) :
    Names3 sh [] [] usedV [(d, w)] [] where
  scalars := by rw [hsrc, lastNames_append, hs, lastNames_of_kept _ hkept]; rfl
  scalarDsts := by rw [hd]; rfl
  vectors := by rw [hsrc, lastNames_append, hv, lastNames_of_kept _ hkept, List.append_nil]
  vectorDsts := by rw [hd]; rfl
  masks := by rw [hsrc, lastNames_append, hm, lastNames_of_kept _ hkept]; rfl
  maskDsts := by rw [hd]; rfl

/-- The same where those sources are vector registers. -/
theorem names3_useV {sh : Shape} {srcs : List Src} {kept : List Use} {d : Reg} (w : Nat → Option Word)
    (hsrc : sh.srcs ++ sh.unread = useV srcs ++ kept) (hkept : ∀ x ∈ kept, x.last = false) (hd : sh.dsts = [.v d]) :
    Names3 sh [] [] (lastOf srcs) [(d, w)] [] :=
  names3_v w hsrc hkept hd (lastNames_map_nil _ (c := .v) (fun _ => rfl) srcs) (lastNames_map_self (c := .v) (fun _ => rfl) srcs)
    (lastNames_map_nil _ (c := .v) (fun _ => rfl) srcs)

theorem names3_packShape (t : Team) (accept : Nat → Bool) (d : Reg) (srcs : List Src) (readsD : Bool) (w : Nat → Option Word) :
    Names3 (packShape t accept d srcs readsD) [] [] (lastOf srcs) [(d, w)] [] :=
  names3_useV w (List.append_nil _) (by cases readsD <;> simp) rfl

/-- A word for every active lane, written by an instruction that raises no flag. -/
theorem runRegs_setActive {s : State} {t : Team} {sh : Team → Shape} {usedV : List Reg} {d : Reg} {f : Team → Nat → Word}
    (hi : Issues s t (sh t)) (h : Names3 (sh t) [] [] usedV [(d, onActive t (f t))] []) (hf : f t.begin = f t) :
    runRegs sh (fun t => .ok (t.setActive d (f t)).advance) s = .next (s.putTeam { t.past with
      vregs := vectorsAfter t usedV [(d, onActive t (f t))], promises := promisesAged t ++ (sh t).promise t }) := by
  have he : (fun t : Team => Except.ok (ε := Stop) (t.setActive d (f t)).advance) t.begin = .ok { t.begin with
      vregs := vectorsAfter t.begin [] [(d, onActive t (f t))], flags := t.flags, pc := t.pc + 4#64 } := by
    dsimp only
    rw [setActive_closed, hf]
    rfl
  rw [runRegs_vectors hi h he]
  rfl

theorem runRegs_setActive_plain {s : State} {t : Team} {sh : Team → Shape} {usedV : List Reg} {d : Reg} {f : Team → Nat → Word}
    (hi : Issues s t (sh t)) (h : Names3 (sh t) [] [] usedV [(d, onActive t (f t))] []) (hla : (sh t).la = 0)
    (hf : f t.begin = f t) :
    runRegs sh (fun t => .ok (t.setActive d (f t)).advance) s = .next (s.putTeam { t.past with
      vregs := vectorsAfter t usedV [(d, onActive t (f t))] }) := by
  rw [runRegs_setActive hi h hf, promise_none hla]
  rfl

section Packed
variable {s : State} {t : Team} {d : Reg} {a b : Src}

theorem execVpack_next (hi : Issues s t (packShape t setPack d [a, b] false)) :
    execVpack d a b s = .next (s.putTeam { t.past with
      vregs := vectorsAfter t (lastOf [a, b]) [(d, onActive t fun l =>
        .ofNat 32 (packLane t.type t.sat (t.vval a.reg l) (t.vval b.reg l)))] }) :=
  runRegs_setActive_plain (sh := fun t => packShape t setPack d [a, b] false)
    (f := fun t l => .ofNat 32 (packLane t.type t.sat (t.vval a.reg l) (t.vval b.reg l))) hi
    (names3_packShape t setPack d [a, b] false _) rfl rfl

theorem execVunpk_next {sel : Bool} (hi : Issues s t (packShape t setPack d [a] false)) :
    execVunpk d a sel s = .next (s.putTeam { t.past with
      vregs := vectorsAfter t (lastOf [a]) [(d, onActive t fun l => .ofNat 32 (unpackLane t.type sel.toNat (t.vval a.reg l)))] }) :=
  runRegs_setActive_plain (sh := fun t => packShape t setPack d [a] false)
    (f := fun t l => .ofNat 32 (unpackLane t.type sel.toNat (t.vval a.reg l))) hi
    (names3_packShape t setPack d [a] false _) rfl rfl

/-- VDOTn in a lane: the new word and its flags. -/
def dotted (t : Team) (d : Reg) (a b : Src) (l : Nat) : Out := dotLane t.type t.sat (t.vval a.reg l) (t.vval b.reg l) (t.vval d l)

theorem dotProduct_next {accept : Nat → Bool} (ha : accept t.type = true)
    (hi : Issues s t (packShape t (fun _ => true) d [a, b] true)) :
    dotProduct accept d a b s = .next (s.putTeam { t.past with
      vregs := vectorsAfter t (lastOf [a, b]) [(d, onActive t fun l => .ofNat 32 (dotted t d a b l).bits)]
      flags := t.flags ||| .ofNat 32 (unionFlags (t.active.map fun l => (dotted t d a b l).flags)) }) := by
  have hsh : packShape t accept d [a, b] true = packShape t (fun _ => true) d [a, b] true := by rw [packShape, packShape, ha]
  refine runRegs_vectors_plain (sh := fun t => packShape t accept d [a, b] true) (by rwa [hsh])
    (names3_packShape t accept d [a, b] true _) rfl ?_
  dsimp only
  rw [setActive_closed, raiseFlags_eq]
  rfl

end Packed

end Sys2Proof.Proofs
end

section
/-!
The obligation on conversions and packing.
-/
namespace Sys2Proof.Proofs
open Sys2Proof.Machine Sys2Proof.Laws

/-- Settles O28: each instruction writes the fields of a lane that its own lemma gives (`execVcvt_next` to `dotProduct_next`); the
fields that a conversion keeps lose only the bits outside their format (`keepField_eq`). -/
theorem vectorConversionsAndPacking : Obligations.VectorConversionsAndPacking := by
  unfold Obligations.VectorConversionsAndPacking
  refine ⟨⟨fun d a f sel s t p hp hi => execVcvt_next hp (by rwa [vcvtShape_eq]), fun d a b f s t hi => execVqnt_next hi⟩,
    fun d a b s t hi => execVpack_next hi, fun d a sel s t hi => ?_, fun p hp d a b s t hT hi => ?_⟩
  · have h := execVunpk_next (sel := sel) hi
    have hsel (h : Nat) : sel.toNat * h = if sel = true then h else 0 := by cases sel <;> simp
    simp only [unpackLane, hsel] at h
    exact h
  · simp only [List.mem_cons, List.not_mem_nil, or_false] at hp
    rcases hp with rfl | rfl | rfl
    · refine dotProduct_next (accept := fun T => T ≤ 2) ?_ hi
      simp only [List.mem_cons, List.not_mem_nil, or_false] at hT
      exact decide_eq_true (by omega)
    · refine dotProduct_next (accept := fun T => T == 4 || T == 5) ?_ hi
      simpa using hT
    · refine dotProduct_next (accept := fun T => T == 6 || T == 7) ?_ hi
      simpa using hT

end Sys2Proof.Proofs
end

section
/-!
SUPPORT. Moves of whole words and moves across lanes (11 R146, R152, R153, R155, R173, R174).
-/
namespace Sys2Proof.Proofs
open Sys2Proof.Machine Sys2Proof.Laws

section Moves
variable {s : State} {t : Team} {d : Reg} {a b : Src}

/-! ### Words of the active lanes -/

theorem vval_begin (t : Team) : t.begin.vval = t.vval := rfl

theorem wordwise_next {srcs : List Src} (op : List Word → Word) (hi : Issues s t { srcs := useV srcs, dsts := [.v d], vector := true }) :
    wordwise op d srcs s = .next (s.putTeam { t.past with
      vregs := vectorsAfter t (lastOf srcs) [(d, onActive t fun l => op (srcs.map fun a => t.vval a.reg l))] }) := by
  have hn (w : Nat → Option Word) : Names3 { srcs := useV srcs, dsts := [.v d], vector := true } [] [] (lastOf srcs) [(d, w)] [] :=
    names3_useV (srcs := srcs) (kept := []) w rfl (by simp) rfl
  have h := runRegs_setActive_plain (s := s) (sh := fun _ => { srcs := useV srcs, dsts := [.v d], vector := true })
    (f := fun t l => op (srcs.map fun a => t.vval a.reg l)) hi (hn _) rfl (by funext l; rw [vval_begin])
  have hrun : wordwise op d srcs s = runRegs (fun _ => { srcs := useV srcs, dsts := [.v d], vector := true })
    (fun t => .ok (t.setActive d fun l => op (srcs.map fun a => t.vval a.reg l)).advance) s := rfl
  rw [hrun]
  exact h

theorem execVsel_next {k : MReg} (hi : Issues s t { srcs := useV [a, b] ++ useM [⟨k, false⟩], dsts := [.v d], vector := true }) :
    execVsel d a b k s = .next (s.putTeam { t.past with
      vregs := vectorsAfter t (lastOf [a, b]) [(d, onActive t fun l =>
        if (t.mbits k).getLsbD l then t.vval a.reg l else t.vval b.reg l)] }) :=
  runRegs_setActive_plain (sh := fun _ => { srcs := useV [a, b] ++ useM [⟨k, false⟩], dsts := [.v d], vector := true })
    (f := fun t l => if (t.mbits k).getLsbD l then t.vval a.reg l else t.vval b.reg l) hi
    (names3_useV (srcs := [a, b]) (kept := useM [⟨k, false⟩]) _ rfl (by simp [useM]) rfl) rfl rfl

/-- A word that no register gives, for every active lane. -/
theorem runRegs_setActive_const {f : Nat → Word} (hi : Issues s t { dsts := [.v d], vector := true }) :
    runRegs (fun _ => { dsts := [.v d], vector := true }) (fun t => .ok (t.setActive d f).advance) s =
      .next (s.putTeam { t.past with vregs := vectorsAfter t [] [(d, onActive t f)] }) :=
  runRegs_setActive_plain (sh := fun _ => { dsts := [.v d], vector := true }) (f := fun _ => f) hi
    (names3_useV (srcs := []) (kept := []) _ rfl (by simp) rfl) rfl rfl

theorem execVli_next {i : BitVec 20} (hi : Issues s t { dsts := [.v d], vector := true }) : execVli d i s =
    .next (s.putTeam { t.past with vregs := vectorsAfter t [] [(d, onActive t fun _ => .ofInt 32 i.toInt)] }) :=
  runRegs_setActive_const (f := fun _ => i.signExtend 32) hi

theorem names3_vbcast (la : Nat) (w : Nat → Option Word) :
    Names3 { srcs := useS [a], dsts := [.v d], vector := true, la := la } (lastOf [a]) [] [] [(d, w)] [] where
  scalars := lastNames_map_self (c := .s) (fun _ => rfl) [a]
  scalarDsts := rfl
  vectors := lastNames_map_nil _ (c := .s) (fun _ => rfl) [a]
  vectorDsts := rfl
  masks := lastNames_map_nil _ (c := .s) (fun _ => rfl) [a]
  maskDsts := rfl

theorem execVbcast_next {la : BitVec 4} (hi : Issues s t { srcs := useS [a], dsts := [.v d], vector := true, la := la.toNat }) :
    execVbcast d a la s = .next (s.putTeam { t.past with
      vregs := vectorsAfter t [] [(d, onActive t fun _ => t.sval a.reg)],
      sregs := scalarsAfter t (lastOf [a]) [], promises := promisesAfter t la [.m t.guard, .s a.reg] [.v d] }) := by
  have h := runRegs_regs (sh := fun _ => { srcs := useS [a], dsts := [.v d], vector := true, la := la.toNat })
    (effect := fun t => .ok (t.setActive d fun _ => t.sval a.reg).advance) hi (names3_vbcast _ _) (f := t.flags)
    (by rw [setActive_closed]; rfl)
  rw [promise_vector (la := la) rfl rfl] at h
  exact h

/-! ### VSHFL -/

theorem promisesAfter_congr {la : BitVec 4} {srcs srcs' dsts dsts' : List Opnd} (hs : srcs.flatMap Opnd.names = srcs'.flatMap Opnd.names)
    (hd : dsts.flatMap Opnd.names = dsts'.flatMap Opnd.names) : promisesAfter t la srcs dsts = promisesAfter t la srcs' dsts' := by
  rw [promisesAfter, promisesAfter, hs, hd]

theorem vectors_vgroup_one (r : Reg) : (Opnd.vgroup r 1).vectors = [r] := by simp [Opnd.vectors]

theorem names_vgroup_one (r : Reg) : (Opnd.vgroup r 1).names = (Opnd.v r).names := by
  rw [Opnd.names, vectors_vgroup_one]
  rfl

/-- The operands of VSHFL. -/
def vshflShape (d : Reg) (a b : Src) (la : BitVec 4) : Shape :=
  { srcs := [⟨.vgroup a.reg 1, a.last⟩, ⟨.vgroup b.reg 1, b.last⟩], dsts := [.v d], vector := true, la := la.toNat }

/-- Lane `l` would read poison, of the lane number or of the word that it names. -/
def badShuffle (t : Team) (a b : Src) (l : Nat) : Bool :=
  t.vbad b.reg l || ((t.vval b.reg l).toNat < t.tw && t.vbad a.reg (t.vval b.reg l).toNat)

theorem badShuffle_iff (t : Team) (a b : Src) (l : Nat) : badShuffle t a b l = true ↔
    t.vbad b.reg l = true ∨ ((t.vval b.reg l).toNat < t.tw ∧ t.vbad a.reg (t.vval b.reg l).toNat = true) := by
  simp [badShuffle]

/-- The word that VSHFL moves to a lane. -/
def shuffled (t : Team) (a b : Src) (l : Nat) : Word :=
  if (t.vval b.reg l).toNat < t.tw then t.vval a.reg (t.vval b.reg l).toNat else 0

/-- The effect of VSHFL, its lanes found. -/
def vshflEffect (d : Reg) (a b : Src) (t : Team) : Except Stop Team :=
  match t.active.find? (badShuffle t a b) with
  | some l => .error (.trap { Trap.at .poison ((t.virt (if t.vbad b.reg l then b.reg else a.reg)).setWidth 64) 0 with lane := some l })
  | none => .ok (t.setActive d (shuffled t a b)).advance

theorem execVshfl_eq (d : Reg) (a b : Src) (la : BitVec 4) (s : State) :
    execVshfl d a b la s = runRegs (fun _ => vshflShape d a b la) (vshflEffect d a b) s := rfl

section Vshfl
variable {la : BitVec 4} (hi : Issues s t (vshflShape d a b la))
include hi

theorem execVshfl_next (h : ∀ l ∈ t.active, ¬ badShuffle t a b l = true) : execVshfl d a b la s = .next (s.putTeam { t.past with
    vregs := vectorsAfter t (lastOf [a, b]) [(d, onActive t (shuffled t a b))]
    promises := promisesAfter t la [.m t.guard, .v a.reg, .v b.reg] [.v d] }) := by
  have hf : t.active.find? (badShuffle t a b) = none := List.find?_eq_none.2 h
  have he : vshflEffect d a b t.begin = .ok { t.begin with
      vregs := vectorsAfter t.begin [] [(d, onActive t (shuffled t a b))], flags := t.flags, pc := t.pc + 4#64 } := by
    unfold vshflEffect
    rw [show t.begin.active.find? (badShuffle t.begin a b) = none from hf]
    dsimp only
    rw [setActive_closed]
    rfl
  have hnames (α : Type) (f : Opnd → List α) : lastNames f [⟨.vgroup a.reg 1, a.last⟩, ⟨.vgroup b.reg 1, b.last⟩] =
      lastNames f ([a, b].map fun a => ⟨Opnd.vgroup a.reg 1, a.last⟩) := rfl
  have hn : Names3 (vshflShape d a b la) [] [] (lastOf [a, b]) [(d, onActive t (shuffled t a b))] [] :=
    names3_v (kept := []) _ rfl (by simp) rfl (lastNames_map_nil _ (c := fun r => .vgroup r 1) (fun _ => rfl) [a, b])
      (lastNames_map_self (c := fun r => .vgroup r 1) vectors_vgroup_one [a, b])
      (lastNames_map_nil _ (c := fun r => .vgroup r 1) (fun _ => rfl) [a, b])
  rw [execVshfl_eq, runRegs_vectors hi hn he, promise_vector (la := la) rfl rfl,
    promisesAfter_congr (srcs' := [.m t.guard, .v a.reg, .v b.reg]) (dsts' := [.v d])]
  · rfl
  · simp only [vshflShape, List.append_nil, List.map_cons, List.map_nil, List.flatMap_cons, List.flatMap_nil, names_vgroup_one]
  · rfl

theorem execVshfl_poison {l : Nat} (hl : l ∈ t.active) (h : badShuffle t a b l = true)
    (hmin : ∀ k ∈ t.active, k < l → ¬ badShuffle t a b k = true) : execVshfl d a b la s = .next (s.takeTrap t
      ⟨.poison, (t.virt (if t.vbad b.reg l then b.reg else a.reg)).setWidth 64, 0, some l, none⟩) := by
  have he : vshflEffect d a b t.begin = .error (.trap
      ⟨.poison, (t.virt (if t.vbad b.reg l then b.reg else a.reg)).setWidth 64, 0, some l, none⟩) := by
    unfold vshflEffect
    rw [show t.begin.active.find? (badShuffle t.begin a b) = some l from find?_active hl h fun k hk hkl =>
      eq_false_of_ne_true (hmin k hk hkl)]
    rfl
  rw [execVshfl_eq, runRegs_stopped hi.1 hi.2 he, finish_trap, trapped_of_ne (by simp)]

end Vshfl

/-! ### VEXT and VINS -/

theorem setS_written (t : Team) (r : Reg) (v : Word) : t.setS r v = { t with sregs := writtenS [(r, v)] t.sregs } := by
  rw [← setS_sregs, setS_eq]

theorem execVext_next {la : BitVec 4} (hi : Issues s t
      { srcs := [⟨.vgroup a.reg 1, a.last⟩] ++ useS [b], dsts := [.s d], vector := true, always := true, la := la.toNat })
    (h : (t.sval b.reg).toNat < t.tw → t.vbad a.reg (t.sval b.reg).toNat = false) :
    execVext d a b la s = .next (s.putTeam { t.past with
      sregs := scalarsAfter t (lastOf [b])
        [(d, if (t.sval b.reg).toNat < t.tw then t.vval a.reg (t.sval b.reg).toNat else 0)],
      vregs := vectorsAfter t (lastOf [a]) [], promises := promisesAfter t la [.m t.guard, .v a.reg, .s b.reg] [.s d] }) := by
  let sh : Shape := { srcs := [⟨.vgroup a.reg 1, a.last⟩] ++ useS [b], dsts := [.s d], vector := true, always := true, la := la.toNat }
  let w : Word := if (t.sval b.reg).toNat < t.tw then t.vval a.reg (t.sval b.reg).toNat else 0
  have hins {α : Type} (f : Opnd → List α) : lastNames f (sh.srcs ++ sh.unread) =
      lastNames f ([a].map fun a => ⟨Opnd.vgroup a.reg 1, a.last⟩) ++ lastNames f ([b].map fun a => ⟨.s a.reg, a.last⟩) := by
    rw [← lastNames_append]
    rfl
  have hn : Names3 sh (lastOf [b]) [(d, w)] (lastOf [a]) [] [] :=
    ⟨by rw [hins, lastNames_map_nil _ (c := fun r => .vgroup r 1) fun _ => rfl, lastNames_map_self (c := .s) fun _ => rfl]; rfl, rfl,
      by rw [hins, lastNames_map_self (c := fun r => .vgroup r 1) vectors_vgroup_one, lastNames_map_nil _ (c := .s) fun _ => rfl,
        List.append_nil], rfl,
      by rw [hins, lastNames_map_nil _ (c := fun r => .vgroup r 1) fun _ => rfl, lastNames_map_nil _ (c := .s) fun _ => rfl]; rfl, rfl⟩
  have hbad : ¬ (decide ((t.sval b.reg).toNat < t.tw) && t.vbad a.reg (t.sval b.reg).toNat) = true := by simpa using h
  have hrun : execVext d a b la s = _ := runRegs_regs (sh := fun _ => sh) hi hn (f := t.flags) (by
    dsimp only
    refine (if_neg hbad).trans ?_
    rw [setS_written, vectorsAfter_nil]
    rfl)
  rw [hrun, promise_vector (la := la) rfl rfl, promisesAfter_congr (srcs' := [.m t.guard, .v a.reg, .s b.reg]) (dsts' := [.s d])]
  · rfl
  · simp only [sh, useS, List.append_nil, List.map_cons, List.map_nil, List.flatMap_cons, List.flatMap_nil, List.cons_append,
      List.nil_append, names_vgroup_one]
  · rfl

/-- The operands of VINS; `hit` says whether its lane is active. -/
def vinsShape (hit : Bool) (d : Reg) (a b : Src) (la : BitVec 4) : Shape :=
  { srcs := (if hit then useS [a] else []) ++ useS [b], unread := if hit then [] else useS [a], dsts := [.v d], vector := true,
    always := true, la := la.toNat }

/-- The lane that VINS writes. -/
def inserted (hit : Bool) (l : Nat) (v : Word) (i : Nat) : Option Word := if hit ∧ i = l then some v else none

theorem setLane_closed (t : Team) (hit : Bool) (d : Reg) (l : Nat) (v : Word) :
    (if hit then t.setLane d l v false else t) = { t with vregs := vectorsAfter t [] [(d, inserted hit l v)] } := by
  have h : (if hit then t.setLane d l v false else t) = t.setLanes d fun i => if hit ∧ i = l then some ⟨v, false⟩ else none := by
    cases hit
    · simp [Team.setLanes]
    · simp [Team.setLane]
  rw [h]
  refine setLanes_closed fun i _ => ?_
  unfold inserted
  split <;> rfl

theorem names3_vins (hit : Bool) (la : BitVec 4) (w : Nat → Option Word) :
    Names3 (vinsShape hit d a b la) (lastOf (if hit then [a, b] else [b, a])) [] [] [(d, w)] [] := by
  have hins {α : Type} (f : Opnd → List α) : lastNames f ((vinsShape hit d a b la).srcs ++ (vinsShape hit d a b la).unread) =
      lastNames f ((if hit then [a, b] else [b, a]).map fun a => ⟨.s a.reg, a.last⟩) := by cases hit <;> rfl
  exact ⟨by rw [hins, lastNames_map_self (c := .s) fun _ => rfl], rfl, by rw [hins, lastNames_map_nil _ (c := .s) fun _ => rfl], rfl,
    by rw [hins, lastNames_map_nil _ (c := .s) fun _ => rfl], rfl⟩

/-- Last uses in either order. -/
theorem scalarsAfter_lastOf_pair (t : Team) (a b : Src) (ws : List (Reg × Word)) :
    scalarsAfter t (lastOf [b, a]) ws = scalarsAfter t (lastOf [a, b]) ws := by
  have h (as bs : List Src) : lastOf (as ++ bs) = lastOf as ++ lastOf bs := by
    rw [lastOf, List.filter_append, List.map_append]; rfl
  rw [show [b, a] = [b] ++ [a] from rfl, show [a, b] = [a] ++ [b] from rfl, h, h]
  simp only [scalarsAfter, List.any_append, Bool.or_comm]

theorem execVins_next {la : BitVec 4} {hit : Bool} (hhit : t.active.contains (t.sval b.reg).toNat = hit)
    (hi : Issues s t (vinsShape hit d a b la)) : execVins d a b la s = .next (s.putTeam { t.past with
      vregs := vectorsAfter t [] [(d, inserted hit (t.sval b.reg).toNat (t.sval a.reg))]
      sregs := scalarsAfter t (lastOf [a, b]) []
      promises := promisesAfter t la (.m t.guard :: if hit then [.s a.reg, .s b.reg] else [.s b.reg, .s a.reg]) [.v d] }) := by
  let sh (t : Team) : Shape := vinsShape (t.active.contains (t.sval b.reg).toNat) d a b la
  have hsh : sh t = vinsShape hit d a b la := by rw [← hhit]
  have hrun : execVins d a b la s = _ := runRegs_regs (sh := sh) (by rwa [hsh]) (hsh ▸ names3_vins hit la
      (inserted hit (t.sval b.reg).toNat (t.sval a.reg))) (f := t.flags) (by
    dsimp only
    rw [setLane_closed, show t.begin.active.contains (t.begin.sval b.reg).toNat = hit from hhit]
    rfl)
  rw [hrun, hsh, promise_vector (la := la) rfl rfl]
  cases hit
  · rw [show lastOf (if false = true then [a, b] else [b, a]) = lastOf [b, a] from rfl, scalarsAfter_lastOf_pair]
    rfl
  · rfl

end Moves
end Sys2Proof.Proofs
end

section
/-!
SUPPORT. Reductions and scans (11 R175 to R177).
-/
namespace Sys2Proof.Proofs
open Sys2Proof.Machine Sys2Proof.Laws

/-! ### Reductions -/

section Reduce
variable {s : State} {t : Team} {d : Reg} {a : Src} {la : BitVec 4}

/-- The scalar registers of a reduction's value (11 R176). -/
def reducedWrites (T : Nat) (d : Reg) (bits : Nat) : List (Reg × Word) :=
  if T = 0x18 then pairWrites d (.ofNat 64 bits) else [(d, .ofNat 32 bits)]

theorem writtenS_pairWrites (d : Reg) (x : Addr) (v : Vector SReg 64) :
    writtenS [(d + 1#6, highWord x), (d, lowWord x)] v = writtenS (pairWrites d x) v := by
  ext i hi
  simp only [writtenS_getElem, pairWrites, List.find?_cons, List.find?_nil]
  cases hd : d.toNat == i
  · rfl
  · rw [beq_false_of_ne fun e => add_one_ne d (BitVec.eq_of_toNat_eq (e.trans (beq_iff_eq.1 hd).symm))]

theorem setPair_written (t : Team) (r : Reg) (x : Addr) :
    t.setPair r x = { t with sregs := writtenS (pairWrites r x) t.sregs } := by
  rw [← writtenS_pairWrites, ← setPair_sregs, Team.setPair, Team.setPairP, setSP_eq, setSP_eq]

theorem setReduced_closed (t : Team) (d : Reg) (bits : Nat) :
    t.setReduced d bits = { t with sregs := writtenS (reducedWrites t.type d bits) t.sregs } := by
  unfold Team.setReduced reducedWrites
  split
  · exact setPair_written ..
  · exact setS_written ..

/-- The operands of a reduction. -/
def reductionShape (s : State) (d : Reg) (a : Src) (la : BitVec 4) (t : Team) : Shape :=
  { srcs := [⟨vField t.type a.reg, a.last⟩], dsts := [if t.type = 0x18 then .pair d else .s d], vector := true, la := la.toNat,
    early := typeTrap (pairFields t.type [d, a.reg]) (setI t.type || setF t.type),
    feature := featureTrap s t.core (typeBits t.type) }

theorem names3_reduction (bits : Nat) : Names3 (reductionShape s d a la t) [] (reducedWrites t.type d bits)
    (lastFields t.type [a]) [] [] where
  scalars := lastNames_map_nil _ (scalars_vField _) [a]
  scalarDsts := by unfold reductionShape reducedWrites; split <;> rfl
  vectors := lastNames_fields _ [a]
  vectorDsts := by unfold reductionShape; dsimp only; split <;> rfl
  masks := lastNames_map_nil _ (maskRegs_vField _) [a]
  maskDsts := by unfold reductionShape; dsimp only; split <;> rfl

/-- The value of a reduction (11 R176). -/
def reduced (int : Nat → Bool → List Nat → Out) (fp : Nat → Nat → Nat → List Nat → Out) (s : State) (t : Team) (a : Src) :
    Out :=
  if setI t.type then int t.type t.sat (sequenceOf t a.reg) else fp (s.ctxOf t).nvr t.type t.rnd (sequenceOf t a.reg)

theorem reduction_next (int : Nat → Bool → List Nat → Out) (fp : Nat → Nat → Nat → List Nat → Out)
    (hi : Issues s t (reductionShape s d a la t)) : reduction int fp d a la s = .next (s.putTeam { t.past with
      sregs := scalarsAfter t [] (reducedWrites t.type d (reduced int fp s t a).bits)
      vregs := vectorsAfter t (lastFields t.type [a]) []
      flags := t.flags ||| .ofNat 32 (reduced int fp s t a).flags
      promises := promisesAfter t la [.m t.guard, vField t.type a.reg] [if t.type = 0x18 then .pair d else .s d] }) := by
  have hrun : reduction int fp d a la s = _ := runRegs_regs (sh := reductionShape s d a la) hi
      (names3_reduction (reduced int fp s t a).bits) (f := t.flags ||| .ofNat 32 (reduced int fp s t a).flags) (by
    dsimp only
    rw [setReduced_closed, raiseFlags_eq, vectorsAfter_nil]
    rfl)
  rw [hrun, promise_vector (la := la) rfl rfl]
  rfl

/-- An exact integer function of the sequence, narrowed by Fit. -/
theorem intSum_eq : intSum =
    fun T sat es => ⟨fit T sat ((es.map fun x => (intValue T x).1).foldl (· + ·) 0), digitsInvalid T es⟩ := by
  funext T sat es
  rw [intSum, List.foldl_map, digitsInvalid_eq]

theorem intExtreme_max_eq : intExtreme true =
    fun T sat es => ⟨fit T sat ((es.map fun x => (intValue T x).1).foldl max (intMin T)), digitsInvalid T es⟩ := by
  funext T sat es
  rw [intExtreme, digitsInvalid_eq]
  rfl

theorem intExtreme_min_eq : intExtreme false =
    fun T sat es => ⟨fit T sat ((es.map fun x => (intValue T x).1).foldl min (intMax T)), digitsInvalid T es⟩ := by
  funext T sat es
  rw [intExtreme, digitsInvalid_eq]
  rfl

end Reduce

/-! ### Scans -/

section Scan
variable {s : State} {t : Team} {d : Reg} {a : Src} {la : BitVec 4}

/-- The sum of a sequence up to its element `k` (11 R177). -/
def sumUpTo (T rnd : Nat) (sat : Bool) (es : List Nat) (k : Nat) : Out :=
  if setI T then ⟨fit T sat (((es.take (k + 1)).map fun x => (intValue T x).1).foldl (· + ·) 0), digitsInvalid T [es.getD k 0]⟩
  else (typeFmt T).sumRound rnd false ((es.take (k + 1)).map (fpValue T))

theorem digitsInvalid_singleton (T x : Nat) : digitsInvalid T [x] = digitFlag T x := by
  rw [digitsInvalid_eq, List.map_singleton, unionFlags, List.foldl_cons, List.foldl_nil, Nat.zero_or]

theorem scanInt_eq (T : Nat) (sat : Bool) (acc : Int) (es : List Nat) : scanInt T sat acc es =
    (List.range es.length).map fun k =>
      ⟨fit T sat (((es.take (k + 1)).map fun x => (intValue T x).1).foldl (· + ·) acc), digitsInvalid T [es.getD k 0]⟩ := by
  induction es generalizing acc with
  | nil => rfl
  | cons x xs ih =>
    rw [scanInt, ih, List.length_cons, List.range_succ_eq_map, List.map_cons, List.map_map, digitsInvalid_singleton]
    rfl

theorem fpValue_setF {T : Nat} (h : setF T = true) : fpValue T = (typeFmt T).decode := by
  simp only [setF, Bool.or_eq_true, beq_iff_eq, or_assoc] at h
  rcases h with rfl | rfl | rfl | rfl <;> rfl

theorem scanned_eq {T rnd : Nat} {sat : Bool} (h : (setI T || setF T) = true) (es : List Nat) :
    (if setI T then scanInt T sat 0 es else scanFp (typeFmt T) rnd es) = (List.range es.length).map (sumUpTo T rnd sat es) := by
  unfold sumUpTo
  cases hI : setI T with
  | true => simp only [if_true, scanInt_eq]
  | false => simp only [Bool.false_eq_true, if_false, scanFp, fpValue_setF (by simpa [hI] using h)]

theorem elemsOf_length (t : Team) (T : Nat) (r : Reg) (l : Nat) : (t.elemsOf T r l).length = elemCount T := by
  unfold Team.elemsOf
  split
  next hT => subst hT; rfl
  next => simp [elems]

theorem sequenceOf_length (t : Team) (r : Reg) : (sequenceOf t r).length = elemCount t.type * t.active.length := by
  rw [sequenceOf, List.length_flatMap, List.map_congr_left fun l _ => elemsOf_length t t.type r l, List.map_const', List.sum_replicate,
    smul_eq_mul, Nat.mul_comm]

/-- A stretch of values listed by their positions. -/
theorem take_drop_map_range {α : Type} (f : Nat → α) {L m n : Nat} (h : m + n ≤ L) :
    (((List.range L).map f).drop m).take n = (List.range n).map fun i => f (m + i) := by
  refine List.ext_getElem (by simp; omega) fun i hi _ => ?_
  simp

/-- The results of VSCAN in a lane. -/
def scannedLane (t : Team) (a : Src) (l : Nat) : List Out := (List.range (elemCount t.type)).map fun i =>
  sumUpTo t.type t.rnd t.sat (sequenceOf t a.reg) (elemCount t.type * t.active.idxOf l + i)

theorem perActive_congr {α : Type} {f g : Nat → α} (h : ∀ l ∈ t.active, f l = g l) : t.perActive f = t.perActive g := by
  refine List.map_congr_left fun l hl => ?_
  split
  next he => rw [h l (List.mem_filter.2 ⟨hl, he⟩)]
  next => rfl

theorem scan_perActive (h : (setI t.type || setF t.type) = true) :
    (t.perActive fun l => ((if setI t.type then scanInt t.type t.sat 0 (t.sequence a.reg)
      else scanFp (typeFmt t.type) t.rnd (t.sequence a.reg)).drop (elemCount t.type * t.active.idxOf l)).take (elemCount t.type)) =
      t.perActive (scannedLane t a) := by
  rw [scanned_eq h]
  refine perActive_congr fun l hl => ?_
  have hidx : elemCount t.type * t.active.idxOf l + elemCount t.type ≤ (sequenceOf t a.reg).length := by
    rw [sequenceOf_length, ← Nat.mul_succ]
    exact Nat.mul_le_mul_left _ (List.idxOf_lt_length_of_mem hl)
  exact take_drop_map_range _ hidx

/-- The operands of VSCAN. -/
def vscanShape (s : State) (d : Reg) (a : Src) (la : BitVec 4) (t : Team) : Shape :=
  { vecShape s t (fun T => setI T || setF T) typeBits d [a] false with la := la.toNat }

/-- An element-wise shape with a lookahead field. -/
theorem names3_vecShape_la {accept : Nat → Bool} {bits : Nat → List Nat} {srcs : List Src} {n : Nat} (u : Team) (g : Nat → List Nat) :
    Names3 { vecShape s t accept bits d srcs false with la := n } [] [] (lastFields t.type srcs) (elemWrites u t.type d g) [] :=
  names3_field u g (List.append_nil _) (by simp) rfl (lastNames_map_nil _ (scalars_vField _) srcs)
    (lastNames_fields _ srcs) (lastNames_map_nil _ (maskRegs_vField _) srcs)

theorem execVscan_next (hi : Issues s t (vscanShape s d a la t)) : execVscan d a la s = .next (s.putTeam { t.past with
    vregs := fieldVectors t (lastFields t.type [a]) t.type d (scannedLane t a)
    flags := t.flags ||| laneFlags t (scannedLane t a)
    promises := promisesAfter t la [.m t.guard, vField t.type a.reg] [vField t.type d] }) := by
  have hT : (setI t.begin.type || setF t.begin.type) = true := typeTrap_none (early_of_issues hi)
  have hrun : execVscan d a la s = _ := runRegs_vectors (sh := vscanShape s d a la) hi
      (names3_vecShape_la t fun l => (scannedLane t a l).map (·.bits)) (f := t.flags ||| laneFlags t (scannedLane t a)) (by
    dsimp only
    rw [scan_perActive hT]
    exact congrArg Except.ok (setOuts_fields t.begin t.type d _))
  rw [hrun, promise_vector (la := la) rfl rfl]
  rfl

end Scan

end Sys2Proof.Proofs
end

section
/-!
The obligation on moves, reductions and scans.
-/
namespace Sys2Proof.Proofs
open Sys2Proof.Machine Sys2Proof.Laws

/-- Settles O29: each instruction by its own lemma; VSHFL reads the lanes that it names (`badShuffle`), the reductions and VSCAN
the sequence of all active lanes, in which an element is found by its lane's place among the active ones
(`scan_perActive`). -/
theorem vectorMovesAndReductions : Obligations.VectorMovesAndReductions := by
  unfold Obligations.VectorMovesAndReductions
  refine ⟨⟨⟨fun p hp d a b s t hi => ?_, fun d a s t hi => wordwise_next (srcs := [a]) (fun ws => ws.headD 0) hi,
    fun d a b k s t hi => execVsel_next hi,
    fun d i s t hi => ⟨runRegs_setActive_const hi, execVli_next hi⟩, fun d a la s t hi => execVbcast_next hi⟩,
    fun d a b la s t hi => ⟨fun h => ?_, fun l hl h hmin => ?_⟩, fun d a b la s t hi h => execVext_next hi h,
    fun d a b la s t hi => execVins_next rfl hi⟩, fun p hp d a la s t hi => ?_, fun d a la s t hi => execVscan_next hi⟩
  · simp only [List.mem_cons, List.not_mem_nil, or_false] at hp
    rcases hp with rfl | rfl | rfl | rfl
    all_goals exact wordwise_next (srcs := [a, b]) _ hi
  · exact execVshfl_next hi fun l hl hb => h l hl ((badShuffle_iff t a b l).1 hb)
  · exact execVshfl_poison hi hl ((badShuffle_iff t a b l).2 h) fun k hk hkl hb => hmin k hk hkl ((badShuffle_iff t a b k).1 hb)
  · simp only [List.mem_cons, List.not_mem_nil, or_false] at hp
    rcases hp with rfl | rfl | rfl
    · exact intSum_eq ▸ reduction_next intSum fpSum hi
    · exact intExtreme_max_eq ▸ reduction_next (intExtreme true) (fun _ T _ => fpExtreme true T) hi
    · exact intExtreme_min_eq ▸ reduction_next (intExtreme false) (fun _ T _ => fpExtreme false T) hi

end Sys2Proof.Proofs
end

section
/-!
SUPPORT. Magnitudes as rational numbers: their exponent, their floor at a power of two, and RoundInt (05 R65, R66).
-/
namespace Sys2Proof.Proofs
open Sys2Proof.Machine Sys2Proof.Laws

/-! ### Powers of two -/

theorem upPow_eq_mul (k : Int) : (upPow k : ℚ) = 2 ^ k * downPow k := by
  rw [upPow, downPow]
  push_cast
  rw [← zpow_natCast, ← zpow_natCast, ← zpow_add₀ two_ne_zero]
  congr 1
  omega

theorem upPow_pos (k : Int) : 0 < upPow k := Nat.two_pow_pos _
theorem downPow_pos (k : Int) : 0 < downPow k := Nat.two_pow_pos _

/-- A fraction over a power of two, as the model computes it. -/
theorem scaled_eq (num den : Nat) (k : Int) :
    ((num * downPow k : Nat) : ℚ) / ((den * upPow k : Nat) : ℚ) = (num : ℚ) / den / 2 ^ k := by
  have hd : (downPow k : ℚ) ≠ 0 := by exact_mod_cast (downPow_pos k).ne'
  have h2 : (2 : ℚ) ^ k ≠ 0 := zpow_ne_zero _ two_ne_zero
  push_cast
  rw [upPow_eq_mul]
  field_simp

/-! ### Exponents -/

/-- Only one exponent fits a number. -/
theorem exponent_unique {z : ℚ} {e k : ℤ} (he : (2 : ℚ) ^ e ≤ z) (he' : z < (2 : ℚ) ^ (e + 1)) (hk : (2 : ℚ) ^ k ≤ z)
    (hk' : z < (2 : ℚ) ^ (k + 1)) : e = k := by
  have h1 : e < k + 1 := (zpow_lt_zpow_iff_right₀ one_lt_two).1 (he.trans_lt hk')
  have h2 : k < e + 1 := (zpow_lt_zpow_iff_right₀ one_lt_two).1 (hk.trans_lt he')
  omega

theorem ratLog2_bounds {num den : Nat} (hn : 0 < num) (hd : 0 < den) :
    (2 : ℚ) ^ ratLog2 num den ≤ (num : ℚ) / den ∧ (num : ℚ) / den < (2 : ℚ) ^ (ratLog2 num den + 1) := by
  have hdq : (0 : ℚ) < den := by exact_mod_cast hd
  have hn1 : (2 : ℚ) ^ (num.log2 : ℤ) ≤ num := by exact_mod_cast Nat.log2_self_le hn.ne'
  have hn2 : (num : ℚ) < 2 ^ ((num.log2 : ℤ) + 1) := by exact_mod_cast Nat.lt_log2_self (n := num)
  have hd1 : (2 : ℚ) ^ (den.log2 : ℤ) ≤ den := by exact_mod_cast Nat.log2_self_le hd.ne'
  have hd2 : (den : ℚ) < 2 ^ ((den.log2 : ℤ) + 1) := by exact_mod_cast Nat.lt_log2_self (n := den)
  have hlow : (2 : ℚ) ^ ((num.log2 : ℤ) - den.log2 - 1) ≤ (num : ℚ) / den := by
    rw [le_div_iff₀ hdq]
    calc (2 : ℚ) ^ ((num.log2 : ℤ) - den.log2 - 1) * den
        ≤ 2 ^ ((num.log2 : ℤ) - den.log2 - 1) * 2 ^ ((den.log2 : ℤ) + 1) := by gcongr
      _ = 2 ^ (num.log2 : ℤ) := by rw [← zpow_add₀ two_ne_zero]; congr 1; ring
      _ ≤ num := hn1
  have hhigh : (num : ℚ) / den < (2 : ℚ) ^ ((num.log2 : ℤ) - den.log2 + 1) := by
    rw [div_lt_iff₀ hdq]
    calc (num : ℚ) < 2 ^ ((num.log2 : ℤ) + 1) := hn2
      _ = 2 ^ ((num.log2 : ℤ) - den.log2 + 1) * 2 ^ (den.log2 : ℤ) := by rw [← zpow_add₀ two_ne_zero]; congr 1; ring
      _ ≤ 2 ^ ((num.log2 : ℤ) - den.log2 + 1) * den := by gcongr
  have htest : den * upPow ((num.log2 : ℤ) - den.log2) ≤ num * downPow ((num.log2 : ℤ) - den.log2) ↔
      (2 : ℚ) ^ ((num.log2 : ℤ) - den.log2) ≤ (num : ℚ) / den := by
    have hpos : (0 : ℚ) < ((den * upPow ((num.log2 : ℤ) - den.log2) : Nat) : ℚ) := by
      exact_mod_cast Nat.mul_pos hd (upPow_pos _)
    rw [← Nat.cast_le (α := ℚ), ← one_le_div hpos, scaled_eq, one_le_div (zpow_pos two_pos _)]
  unfold ratLog2
  dsimp only
  split
  next h => exact ⟨htest.1 h, hhigh⟩
  next h => exact ⟨hlow, by rw [sub_add_cancel]; exact not_le.1 (mt htest.2 h)⟩

theorem ratLog2_eq {num den : Nat} {e : ℤ} (hn : 0 < num) (hd : 0 < den) (h1 : (2 : ℚ) ^ e ≤ (num : ℚ) / den)
    (h2 : (num : ℚ) / den < (2 : ℚ) ^ (e + 1)) : ratLog2 num den = e :=
  exponent_unique (ratLog2_bounds hn hd).1 (ratLog2_bounds hn hd).2 h1 h2

/-! ### Floors -/

/-- A quotient of natural numbers and whether it is exact. -/
theorem div_mod_floor (a : Nat) {b : Nat} (hb : 0 < b) :
    a / b = ⌊(a : ℚ) / b⌋₊ ∧ (a % b = 0 ↔ ((⌊(a : ℚ) / b⌋₊ : ℕ) : ℚ) = a / b) := by
  have hbq : (b : ℚ) ≠ 0 := by exact_mod_cast hb.ne'
  have hfloor : ⌊(a : ℚ) / b⌋₊ = a / b := Nat.floor_div_eq_div a b
  refine ⟨hfloor.symm, ?_⟩
  rw [hfloor, eq_div_iff hbq, ← Nat.dvd_iff_mod_eq_zero]
  exact ⟨fun h => by exact_mod_cast Nat.div_mul_cancel h, fun h => ⟨a / b, by rw [Nat.mul_comm]; exact_mod_cast h.symm⟩⟩

/-- The magnitude of a fraction over 2^k: its floor, and whether it is an integer. -/
theorem floorAt_eq {num den : Nat} (hd : 0 < den) (k : Int) : (⟨num, den, false⟩ : Mag).floorAt k =
    (⌊(num : ℚ) / den / 2 ^ k⌋₊, decide ((⌊(num : ℚ) / den / 2 ^ k⌋₊ : ℚ) = (num : ℚ) / den / 2 ^ k)) := by
  obtain ⟨h1, h2⟩ := div_mod_floor (num * downPow k) (Nat.mul_pos hd (upPow_pos k))
  rw [scaled_eq] at h1 h2
  simp only [Mag.floorAt, Bool.false_eq_true, if_false]
  rw [h1, beq_eq_decide, decide_eq_decide.2 h2]

/-! ### RoundInt -/

/-- RoundInt of a magnitude (05 R65). -/
def roundMag (rnd : Nat) (neg : Bool) (v : ℚ) : Nat :=
  ⌊v⌋₊ + (roundsUp rnd neg ⌊v⌋₊ (decide (1 / 2 ≤ v - ⌊v⌋₊)) (decide (v - ⌊v⌋₊ ≠ 0 ∧ v - ⌊v⌋₊ ≠ 1 / 2))).toNat

theorem floor_bounds {v : ℚ} (hv : 0 ≤ v) : 0 ≤ v - ⌊v⌋₊ ∧ v - ⌊v⌋₊ < 1 :=
  ⟨sub_nonneg.2 (Nat.floor_le hv), sub_left_lt_of_lt_add (Nat.lt_floor_add_one v)⟩

theorem roundAt_eq {num den : Nat} (hd : 0 < den) (rnd : Nat) (neg : Bool) (q : Int) :
    (⟨num, den, false⟩ : Mag).roundAt rnd neg q =
      (roundMag rnd neg ((num : ℚ) / den / 2 ^ q), decide ((num : ℚ) / den / 2 ^ q - ⌊(num : ℚ) / den / 2 ^ q⌋₊ = 0)) := by
  have hv : 0 ≤ (num : ℚ) / den / 2 ^ q := by positivity
  have htwice : (num : ℚ) / den / 2 ^ (q - 1) = 2 * ((num : ℚ) / den / 2 ^ q) := by
    rw [zpow_sub₀ two_ne_zero, zpow_one]
    field_simp
  rw [Mag.roundAt, floorAt_eq hd, htwice]
  generalize (num : ℚ) / den / 2 ^ q = v at hv
  obtain ⟨h0, h1⟩ := floor_bounds hv
  obtain ⟨k0, k1⟩ := floor_bounds (v := 2 * v) (by positivity)
  have hn : ⌊2 * v⌋₊ / 2 = ⌊v⌋₊ := by
    rw [← Nat.floor_div_ofNat, mul_div_cancel_left₀ _ (OfNat.ofNat_ne_zero 2)]
  have hcases : (⌊2 * v⌋₊ % 2 = 0 ∧ (⌊2 * v⌋₊ : ℚ) = 2 * ⌊v⌋₊)
      ∨ (⌊2 * v⌋₊ % 2 = 1 ∧ (⌊2 * v⌋₊ : ℚ) = 2 * ⌊v⌋₊ + 1) := by
    have hdm := hn ▸ Nat.div_add_mod ⌊2 * v⌋₊ 2
    rcases Nat.mod_two_eq_zero_or_one ⌊2 * v⌋₊ with hm | hm
    · exact .inl ⟨hm, by rw [hm] at hdm; exact_mod_cast hdm.symm⟩
    · exact .inr ⟨hm, by rw [hm] at hdm; exact_mod_cast hdm.symm⟩
  have hhalf : (⌊2 * v⌋₊ % 2 == 1) = decide (1 / 2 ≤ v - ⌊v⌋₊) := by
    rw [beq_eq_decide, decide_eq_decide]
    rcases hcases with ⟨hm, hv2⟩ | ⟨hm, hv2⟩
    · exact iff_of_false (by omega) (by linarith)
    · exact iff_of_true hm (by linarith)
  have hsticky : (!decide ((⌊2 * v⌋₊ : ℚ) = 2 * v)) = decide (v - ⌊v⌋₊ ≠ 0 ∧ v - ⌊v⌋₊ ≠ 1 / 2) := by
    rw [← decide_not, decide_eq_decide, ← not_or, not_iff_not]
    rcases hcases with ⟨-, hv2⟩ | ⟨-, hv2⟩
    · exact ⟨fun h => .inl (by linarith), fun h => by rcases h with h | h <;> linarith⟩
    · exact ⟨fun h => .inr (by linarith), fun h => by rcases h with h | h <;> linarith⟩
  dsimp only
  rw [hn, hhalf, hsticky, ← roundMag]
  congr 1
  rw [← Bool.not_not (decide ((⌊2 * v⌋₊ : ℚ) = 2 * v)), hsticky, Bool.eq_iff_iff]
  simp only [Bool.and_eq_true, Bool.not_eq_true', decide_eq_false_iff_not, decide_eq_true_eq, not_and, not_not, not_le]
  constructor
  · rintro ⟨hlt, himp⟩
    by_contra hne
    linarith [himp hne]
  · intro h
    rw [h]
    norm_num

/-- A number with its floor and fraction, and what RoundInt sees of the fraction. -/
inductive Fraction (v : ℚ) : Bool → Bool → Prop
  | whole : v - ⌊v⌋₊ = 0 → Fraction v false false
  | below : 0 < v - ⌊v⌋₊ → v - ⌊v⌋₊ < 1 / 2 → Fraction v false true
  | tie : v - ⌊v⌋₊ = 1 / 2 → Fraction v true false
  | above : 1 / 2 < v - ⌊v⌋₊ → v - ⌊v⌋₊ < 1 → Fraction v true true

theorem fraction_of {v : ℚ} (hv : 0 ≤ v) :
    Fraction v (decide (1 / 2 ≤ v - ⌊v⌋₊)) (decide (v - ⌊v⌋₊ ≠ 0 ∧ v - ⌊v⌋₊ ≠ 1 / 2)) := by
  obtain ⟨h0, h1⟩ := floor_bounds hv
  rcases lt_trichotomy (v - ⌊v⌋₊) (1 / 2) with h | h | h
  · rw [decide_eq_false (not_le.2 h)]
    rcases h0.eq_or_lt with hz | hz
    · rw [decide_eq_false fun hn => hn.1 hz.symm]
      exact .whole hz.symm
    · rw [decide_eq_true ⟨hz.ne', h.ne⟩]
      exact .below hz h
  · rw [decide_eq_true h.ge, decide_eq_false fun hn => hn.2 h]
    exact .tie h
  · rw [decide_eq_true h.le, decide_eq_true ⟨(one_half_pos.trans h).ne', h.ne'⟩]
    exact .above h h1

/-- RoundInt of a whole number is that number. -/
theorem roundInt_intCast {rnd : Nat} (k : ℤ) : roundInt rnd (k : ℚ) = k := by
  unfold roundInt
  split <;> simp

/-- The floor and the ceiling of a number, of either sign, whose magnitude lies between two whole ones. -/
theorem floor_signed {v : ℚ} {n : ℕ} (neg : Bool) (h0 : 0 < v - n) (h1 : v - n < 1) :
    ⌊(if neg then -1 else 1) * v⌋ = (if neg then -(n + 1) else n : ℤ) ∧
      ⌈(if neg then -1 else 1) * v⌉ = (if neg then -n else n + 1 : ℤ) := by
  have hf : ⌊v⌋ = n := Int.floor_eq_iff.2 ⟨by push_cast; linarith, by push_cast; linarith⟩
  have hc : ⌈v⌉ = n + 1 := Int.ceil_eq_iff.2 ⟨by push_cast; linarith, by push_cast; linarith⟩
  cases neg
  · simp only [Bool.false_eq_true, if_false, one_mul]
    exact ⟨hf, hc⟩
  · simp only [if_true, neg_one_mul, Int.floor_neg, Int.ceil_neg, hf, hc, and_self]

theorem fraction_signed {v : ℚ} {n : ℕ} (neg : Bool) (h0 : 0 < v - n) (h1 : v - n < 1) :
    (if neg then -1 else 1) * v - ⌊(if neg then -1 else 1) * v⌋ = if neg then 1 - (v - n) else v - n := by
  rw [(floor_signed neg h0 h1).1]
  cases neg
  · simp
  · simp only [if_true]
    push_cast
    ring

/-- RoundInt to nearest, `tie` the result of a tie. -/
def nearInt (x : ℚ) (tie : ℤ) : ℤ := if x - ⌊x⌋ < 1 / 2 then ⌊x⌋ else if 1 / 2 < x - ⌊x⌋ then ⌊x⌋ + 1 else tie

section Inexact
variable {v : ℚ} {n : ℕ} {neg : Bool}

theorem nearInt_below (tie : ℤ) (h0 : 0 < v - n) (h : v - n < 1 / 2) :
    nearInt ((if neg then -1 else 1) * v) tie = (if neg then -1 else 1) * n := by
  have h1 : v - n < 1 := by linarith
  rw [nearInt, fraction_signed neg h0 h1, (floor_signed neg h0 h1).1]
  cases neg
  · simp only [Bool.false_eq_true, if_false, if_pos h, one_mul]
  · have hf : 1 / 2 < 1 - (v - n) := by linarith
    simp only [if_true, if_neg hf.not_gt, if_pos hf]
    ring

theorem nearInt_above (tie : ℤ) (h : 1 / 2 < v - n) (h1 : v - n < 1) :
    nearInt ((if neg then -1 else 1) * v) tie = (if neg then -1 else 1) * (n + 1) := by
  have h0 : 0 < v - n := by linarith
  rw [nearInt, fraction_signed neg h0 h1, (floor_signed neg h0 h1).1]
  cases neg
  · simp only [Bool.false_eq_true, if_false, if_neg h.not_gt, if_pos h, one_mul]
  · have hf : 1 - (v - n) < 1 / 2 := by linarith
    simp only [if_true, if_pos hf, neg_one_mul]

theorem nearInt_tie (tie : ℤ) (h : v - n = 1 / 2) : nearInt ((if neg then -1 else 1) * v) tie = tie := by
  have hf : (if neg then 1 - (v - n) else v - n) = 1 / 2 := by rw [h]; cases neg <;> norm_num
  rw [nearInt, fraction_signed neg (by linarith) (by linarith), hf, if_neg (lt_irrefl _), if_neg (lt_irrefl _)]

/-- RoundInt of a magnitude between two whole numbers: the tie is the only case in which its parity counts. -/
theorem roundInt_inexact {rnd : Nat} (hr : rnd ≤ 4) {half sticky : Bool} (hc : Fraction v half sticky) (hn : ⌊v⌋₊ = n)
    (h0 : 0 < v - n) (h1 : v - n < 1) : roundInt rnd ((if neg then -1 else 1) * v) =
      (if neg then -1 else 1) * ((n + (roundsUp rnd neg n half sticky).toNat : ℕ) : ℤ) := by
  have hsign : 0 ≤ (if neg then -1 else 1) * v ↔ neg = false := by
    have hv : 0 < v := by have := Nat.cast_nonneg (α := ℚ) n; linarith
    cases neg <;> simp [hv, hv.le]
  obtain ⟨hf, hce⟩ := floor_signed neg h0 h1
  have hup : (half || sticky) = true := by
    cases hc with
    | whole h => rw [hn] at h; exact absurd h h0.ne'
    | below | tie | above => rfl
  have hnear (tie : ℤ) (up : Bool) (htie : v - n = 1 / 2 → tie = (if neg then -1 else 1) * ((n + up.toNat : ℕ) : ℤ))
      (hhalf : v - n ≠ 1 / 2 → up = half) :
      nearInt ((if neg then -1 else 1) * v) tie = (if neg then -1 else 1) * ((n + up.toNat : ℕ) : ℤ) := by
    cases hc with
    | whole h => rw [hn] at h; exact absurd h h0.ne'
    | below h h' => rw [hn] at h h'; rw [nearInt_below tie h h', hhalf h'.ne]; simp
    | tie h => rw [hn] at h; rw [nearInt_tie tie h, htie h]
    | above h h' => rw [hn] at h h'; rw [nearInt_above tie h h', hhalf h.ne']; simp
  have htie (h : v - n = 1 / 2) : half = true ∧ sticky = false := by
    cases hc with
    | whole h' => rw [hn] at h'; linarith
    | below _ h' => rw [hn] at h'; linarith
    | tie => exact ⟨rfl, rfl⟩
    | above h' => rw [hn] at h'; linarith
  have hsticky (h : v - n ≠ 1 / 2) : sticky = true := by
    cases hc with
    | whole h' => rw [hn] at h'; linarith
    | tie h' => rw [hn] at h'; exact absurd h' h
    | below | above => rfl
  interval_cases rnd
  · refine hnear _ _ (fun h => ?_) fun h => ?_
    · rw [(htie h).1, (htie h).2, hf]
      rcases Nat.mod_two_eq_zero_or_one n with hm | hm
      · cases neg <;> simp [roundsUp, hm] <;> omega
      · cases neg <;> simp [roundsUp, hm] <;> omega
    · rw [hsticky h]
      exact Bool.and_true half
  · simp only [roundInt, hsign, hf, hce]
    cases neg <;> simp [roundsUp]
  · rw [show roundInt 2 ((if neg then -1 else 1) * v) = _ from hce]
    cases neg <;> simp [roundsUp, hup]
  · rw [show roundInt 3 ((if neg then -1 else 1) * v) = _ from hf]
    cases neg <;> simp [roundsUp, hup]
  · refine hnear _ _ (fun h => ?_) fun h => ?_
    · rw [(htie h).1, hf]
      simp only [hsign]
      cases neg <;> simp [roundsUp]
    · exact rfl

end Inexact

/-- RoundInt of a magnitude with a sign (05 R65). -/
theorem roundInt_signed {rnd : Nat} {neg : Bool} {v : ℚ} (hr : rnd ≤ 4) (hv : 0 < v) :
    roundInt rnd ((if neg then -1 else 1) * v) = (if neg then -1 else 1) * (roundMag rnd neg v : ℤ) := by
  have hcases := fraction_of hv.le
  unfold roundMag
  generalize decide (1 / 2 ≤ v - ⌊v⌋₊) = half at hcases
  generalize decide (v - ⌊v⌋₊ ≠ 0 ∧ v - ⌊v⌋₊ ≠ 1 / 2) = sticky at hcases
  cases hcases with
  | whole h =>
    have hup : roundsUp rnd neg ⌊v⌋₊ false false = false := by unfold roundsUp; split <;> simp
    have hk := roundInt_intCast (rnd := rnd) ((if neg then -1 else 1) * (⌊v⌋₊ : ℤ))
    rw [hup, Bool.toNat_false, Nat.add_zero, ← hk, sub_eq_zero.1 h]
    simp
  | below h h' => exact roundInt_inexact hr (.below h h') rfl h (by linarith)
  | tie h => exact roundInt_inexact hr (.tie h) rfl (by linarith) (by linarith)
  | above h h' => exact roundInt_inexact hr (.above h h') rfl (by linarith) h'
end Sys2Proof.Proofs
end

section
/-!
SUPPORT. The encodings of a floating-point format in the order of their values (05 R60), and Round (05 R66).
-/
namespace Sys2Proof.Proofs
open Sys2Proof.Machine Sys2Proof.Laws

/-! ### Values of encodings -/

section Codes
variable {f : Fmt} {neg : Bool}

/-- The value of exponent and mantissa bits. -/
def codeVal (f : Fmt) (c : Nat) : ℚ :=
  (((if c / 2 ^ f.m = 0 then 0 else 2 ^ f.m) + c % 2 ^ f.m : Nat) : ℚ) * 2 ^ ((max 1 (c / 2 ^ f.m) : Nat) - f.bias - f.m : ℤ)

theorem codeVal_fields {E M : Nat} (h : M < 2 ^ f.m) : codeVal f (2 ^ f.m * E + M) =
    (((if E = 0 then 0 else 2 ^ f.m) + M : Nat) : ℚ) * 2 ^ ((max 1 E : Nat) - f.bias - f.m : ℤ) := by
  have hE : (2 ^ f.m * E + M) / 2 ^ f.m = E := by
    rw [Nat.mul_add_div (Nat.two_pow_pos _), Nat.div_eq_of_lt h, Nat.add_zero]
  rw [codeVal, hE, Nat.mul_add_mod, Nat.mod_eq_of_lt h]

/-- Encodings of finite magnitudes are in the order of their values. -/
theorem codeVal_strictMono : StrictMono (codeVal f) := by
  refine strictMono_nat_of_lt_succ fun c => ?_
  have hN : 0 < 2 ^ f.m := Nat.two_pow_pos _
  have hM := Nat.mod_lt c hN
  obtain hc : 2 ^ f.m * (c / 2 ^ f.m) + c % 2 ^ f.m = c := Nat.div_add_mod ..
  generalize c / 2 ^ f.m = E at hc
  generalize c % 2 ^ f.m = M at hc hM
  subst hc
  rw [codeVal_fields hM]
  rcases Nat.lt_or_ge (M + 1) (2 ^ f.m) with hlt | hge
  · rw [Nat.add_assoc, codeVal_fields hlt]
    gcongr
    omega
  · have hM1 : M + 1 = 2 ^ f.m := by omega
    rw [Nat.add_assoc, hM1, ← Nat.mul_succ, ← Nat.add_zero (2 ^ f.m * (E + 1)), codeVal_fields hN, if_neg (Nat.succ_ne_zero E)]
    rcases Nat.eq_zero_or_pos E with rfl | hE
    · simp only [if_true, Nat.zero_add, Nat.add_zero, Nat.max_zero, max_self]
      gcongr
    · rw [if_neg hE.ne', Nat.max_eq_right hE, Nat.max_eq_right (Nat.succ_pos E)]
      calc ((2 ^ f.m + M : Nat) : ℚ) * 2 ^ ((E : ℤ) - f.bias - f.m)
          < ((2 * 2 ^ f.m : Nat) : ℚ) * 2 ^ ((E : ℤ) - f.bias - f.m) := by gcongr; omega
        _ = ((2 ^ f.m + 0 : Nat) : ℚ) * 2 ^ (((E + 1 : Nat) : ℤ) - f.bias - f.m) := by
          rw [show (((E + 1 : Nat) : ℤ) - f.bias - f.m) = 1 + ((E : ℤ) - f.bias - f.m) by push_cast; ring,
            zpow_add₀ two_ne_zero, zpow_one]
          push_cast
          ring

theorem codeVal_nonneg (c : Nat) : 0 ≤ codeVal f c := by unfold codeVal; positivity

/-- The bits of a magnitude n × 2^q, as Round writes them (05 R66). -/
def roundCode (f : Fmt) (q : ℤ) (n : Nat) : Nat :=
  if n < 2 ^ f.m then n else (q + f.m + f.bias - 1).toNat * 2 ^ f.m + n

theorem codeVal_roundCode {q : ℤ} {n : Nat} (hn : n ≤ 2 ^ (f.m + 1)) (hq : f.emin - f.m ≤ q)
    (h : 2 ^ f.m ≤ n ∨ q = f.emin - f.m) : codeVal f (roundCode f q n) = n * 2 ^ q := by
  have hN : 0 < 2 ^ f.m := Nat.two_pow_pos _
  have hmin : f.emin = 1 - (f.bias : ℤ) := rfl
  unfold roundCode
  split
  next hlt =>
    have hval := codeVal_fields (E := 0) hlt
    rw [Nat.mul_zero, Nat.zero_add, if_pos rfl, Nat.zero_add] at hval
    rw [hval, h.resolve_left hlt.not_ge, hmin]
    rfl
  next hge =>
    obtain ⟨E, hE⟩ : ∃ E : Nat, q + f.m + f.bias - 1 = E := Int.eq_ofNat_of_zero_le (by omega)
    rw [pow_succ] at hn
    rw [hE, Int.toNat_natCast]
    rcases Nat.lt_or_ge n (2 ^ f.m * 2) with h2 | h2
    · obtain ⟨M, rfl⟩ := Nat.exists_eq_add_of_le (not_lt.1 hge)
      have hcode : E * 2 ^ f.m + (2 ^ f.m + M) = 2 ^ f.m * (E + 1) + M := by ring
      rw [hcode, codeVal_fields (by omega), if_neg (Nat.succ_ne_zero E), Nat.max_eq_right (Nat.succ_pos E)]
      congr 2
      push_cast
      omega
    · obtain rfl : n = 2 ^ f.m * 2 := by omega
      have hcode : E * 2 ^ f.m + 2 ^ f.m * 2 = 2 ^ f.m * (E + 2) + 0 := by ring
      rw [hcode, codeVal_fields hN, if_neg (by omega), Nat.max_eq_right (by omega),
        show ((E + 2 : Nat) : ℤ) - f.bias - f.m = 1 + q by push_cast; omega, zpow_add₀ two_ne_zero, zpow_one]
      push_cast
      ring

/-! ### Decoding -/

/-- The sign of an encoding. -/
def signOf (f : Fmt) (x : Nat) : Bool := f.s == 1 && Fmt.decode.bit1 (f.m + f.e) x

theorem ratOf_finite {x : Nat} (c : Nat) (h : f.decode x = Fmt.decode.finite f (signOf f x) (c / 2 ^ f.m) (c % 2 ^ f.m)) :
    ratOf f x = some ((if signOf f x then -1 else 1) * codeVal f c) := by
  have hmin : f.emin = 1 - (f.bias : ℤ) := rfl
  unfold Fmt.decode.finite at h
  rw [ratOf, h, codeVal, ← mul_assoc]
  by_cases hE : c / 2 ^ f.m = 0
  · simp [hE, hmin]
  · simp only [if_neg hE, Nat.max_eq_right (Nat.pos_of_ne_zero hE)]

/-- The exponent field of the largest finite magnitude and those above it. -/
theorem code_fields (he : 1 ≤ f.e) {c : Nat} (hc : c < 2 ^ (f.e + f.m)) : c / 2 ^ f.m < 2 ^ f.e ∧
    (f.nan = .ieee → (c ≤ f.maxCode ↔ c / 2 ^ f.m ≠ 2 ^ f.e - 1))
    ∧ (f.nan = .topOnly → (c ≤ f.maxCode ↔ ¬ (c / 2 ^ f.m = 2 ^ f.e - 1 ∧ c % 2 ^ f.m = 2 ^ f.m - 1)))
    ∧ (f.nan = .none → c ≤ f.maxCode) := by
  have hN : 0 < 2 ^ f.m := Nat.two_pow_pos _
  have h2 : 2 ≤ 2 ^ f.e := Nat.le_self_pow (by omega) 2
  have hE : c / 2 ^ f.m < 2 ^ f.e := Nat.div_lt_of_lt_mul (by rwa [← pow_add, Nat.add_comm])
  refine ⟨hE, fun h => ?_, fun h => ?_, fun h => ?_⟩
  · have hpos : 0 < (2 ^ f.e - 1) * 2 ^ f.m := Nat.mul_pos (by omega) hN
    rw [Fmt.maxCode, h, Nat.le_sub_one_iff_lt hpos, ← Nat.div_lt_iff_lt_mul hN]
    exact ⟨fun h => h.ne, fun h => lt_of_le_of_ne (Nat.le_sub_one_of_lt hE) h⟩
  · have hmax : 2 ^ (f.e + f.m) = (2 ^ f.e - 1) * 2 ^ f.m + 2 ^ f.m := by
      rw [← Nat.succ_mul, Nat.succ_eq_add_one, Nat.sub_add_cancel (by omega), pow_add]
    have hdm := Nat.div_add_mod c (2 ^ f.m)
    have hM := Nat.mod_lt c hN
    rw [Fmt.maxCode, h]
    dsimp only
    have hP : 2 ^ f.m ≤ (2 ^ f.e - 1) * 2 ^ f.m := Nat.le_mul_of_pos_left _ (by omega)
    generalize 2 ^ (f.e + f.m) = Q at hc hmax
    constructor
    · rintro hle ⟨e1, e2⟩
      rw [e1, e2, Nat.mul_comm] at hdm
      omega
    · intro hne
      by_contra hgt
      have hceq : c = (2 ^ f.e - 1) * 2 ^ f.m + (2 ^ f.m - 1) := by omega
      refine hne ⟨?_, ?_⟩
      · rw [hceq, Nat.mul_comm, Nat.mul_add_div hN, Nat.div_eq_of_lt (by omega), Nat.add_zero]
      · rw [hceq, Nat.mul_comm, Nat.mul_add_mod, Nat.mod_eq_of_lt (by omega)]
  · rw [Fmt.maxCode, h]
    dsimp only
    omega

/-- The fields of an encoding are those of its code. -/
theorem code_parts (f : Fmt) (x : Nat) : x % 2 ^ (f.e + f.m) % 2 ^ f.m = x % 2 ^ f.m
    ∧ x % 2 ^ (f.e + f.m) / 2 ^ f.m = fld f.m f.e x :=
  ⟨Nat.mod_mod_of_dvd _ (pow_dvd_pow 2 (Nat.le_add_left ..)), by rw [Nat.add_comm, pow_add, Nat.mod_mul_right_div_self]; rfl⟩

/-- An encoding is a finite number as far as `maxCode`. -/
theorem decode_of_code (he : 1 ≤ f.e) (x : Nat) :
    (x % 2 ^ (f.e + f.m) ≤ f.maxCode → ratOf f x = some ((if signOf f x then -1 else 1) * codeVal f (x % 2 ^ (f.e + f.m))))
    ∧ (f.maxCode < x % 2 ^ (f.e + f.m) → ratOf f x = none) := by
  obtain ⟨hM, hE⟩ := code_parts f x
  obtain ⟨-, hieee, htop, hnone⟩ := code_fields he (Nat.mod_lt x (Nat.two_pow_pos (f.e + f.m)))
  generalize x % 2 ^ (f.e + f.m) = c at hM hE hieee htop hnone ⊢
  have hdec : f.decode x = match f.nan with
      | .ieee =>
        if fld f.m f.e x == 2 ^ f.e - 1 && x % 2 ^ f.m != 0 then .nan (x % 2 ^ f.m / 2 ^ (f.m - 1) == 0)
        else if fld f.m f.e x == 2 ^ f.e - 1 then .inf (signOf f x)
        else Fmt.decode.finite f (signOf f x) (fld f.m f.e x) (x % 2 ^ f.m)
      | .topOnly => if fld f.m f.e x == 2 ^ f.e - 1 && x % 2 ^ f.m == 2 ^ f.m - 1 then .nan false
        else Fmt.decode.finite f (signOf f x) (fld f.m f.e x) (x % 2 ^ f.m)
      | .none => Fmt.decode.finite f (signOf f x) (fld f.m f.e x) (x % 2 ^ f.m) := rfl
  rw [← hE, ← hM] at hdec
  cases hk : f.nan with
  | ieee =>
    rw [hk] at hdec
    refine ⟨fun h => ratOf_finite c ?_, fun h => ?_⟩
    · simpa [(hieee hk).1 h] using hdec
    · have htopE : c / 2 ^ f.m = 2 ^ f.e - 1 := by by_contra hne; exact h.not_ge ((hieee hk).2 hne)
      simp only [htopE, beq_self_eq_true, Bool.true_and, if_true] at hdec
      rw [ratOf, hdec]
      cases c % 2 ^ f.m != 0 <;> rfl
  | topOnly =>
    rw [hk] at hdec
    refine ⟨fun h => ratOf_finite c ?_, fun h => ?_⟩
    · have hne := (htop hk).1 h
      rw [hdec]
      simp [hne]
    · have hall : c / 2 ^ f.m = 2 ^ f.e - 1 ∧ c % 2 ^ f.m = 2 ^ f.m - 1 := by
        by_contra hne
        exact h.not_ge ((htop hk).2 hne)
      rw [ratOf, hdec]
      simp [hall]
  | none =>
    rw [hk] at hdec
    exact ⟨fun _ => ratOf_finite c hdec, fun h => absurd (hnone hk) h.not_ge⟩

theorem maxCode_lt : f.maxCode < 2 ^ (f.e + f.m) := by
  have hN : 0 < 2 ^ f.m := Nat.two_pow_pos _
  have hpow : 2 ^ (f.e + f.m) = 2 ^ f.e * 2 ^ f.m := pow_add ..
  have hle : (2 ^ f.e - 1) * 2 ^ f.m ≤ 2 ^ f.e * 2 ^ f.m := Nat.mul_le_mul_right _ (Nat.sub_le ..)
  have hpos : 0 < 2 ^ (f.e + f.m) := Nat.two_pow_pos _
  unfold Fmt.maxCode
  split
  all_goals omega

/-- The sign and the code of an encoding put together. -/
theorem signBits_add (hs : f.s = 1 ∨ neg = false) {c : Nat} (hc : c < 2 ^ (f.e + f.m)) :
    signOf f (f.signBits neg + c) = neg ∧ (f.signBits neg + c) % 2 ^ (f.e + f.m) = c := by
  unfold signOf Fmt.decode.bit1 Fmt.signBits
  rw [Nat.add_comm f.m f.e]
  have hpos : 0 < 2 ^ (f.e + f.m) := Nat.two_pow_pos _
  cases neg with
  | false => simp [Nat.div_eq_of_lt hc, Nat.mod_eq_of_lt hc]
  | true =>
    have hs1 : f.s = 1 := hs.resolve_right (by decide)
    simp [hs1, Nat.add_div_left _ hpos, Nat.div_eq_of_lt hc, Nat.mod_eq_of_lt hc]

theorem ratOf_signBits (he : 1 ≤ f.e) {neg : Bool} (hs : f.s = 1 ∨ neg = false) {c : Nat} (hc : c ≤ f.maxCode) :
    ratOf f (f.signBits neg + c) = some ((if neg then -1 else 1) * codeVal f c) := by
  obtain ⟨h1, h2⟩ := signBits_add hs (hc.trans_lt maxCode_lt)
  have h := (decode_of_code he (f.signBits neg + c)).1 (by rwa [h2])
  rwa [h1, h2] at h

/-- The largest finite number. -/
theorem le_maxCode (he : 1 ≤ f.e) {x : Nat} {v : ℚ} (h : ratOf f x = some v) : v ≤ codeVal f f.maxCode := by
  obtain ⟨hle, hgt⟩ := decode_of_code he x
  rcases Nat.lt_or_ge f.maxCode (x % 2 ^ (f.e + f.m)) with hc | hc
  · rw [hgt hc] at h
    cases h
  · rw [hle hc, Option.some.injEq] at h
    have hmono := (codeVal_strictMono (f := f)).monotone hc
    have hnn := codeVal_nonneg (f := f) (x % 2 ^ (f.e + f.m))
    rw [← h]
    split <;> linarith

theorem ratOf_maxCode (he : 1 ≤ f.e) : ratOf f f.maxCode = some (codeVal f f.maxCode) := by
  have h := ratOf_signBits (neg := false) he (.inr rfl) le_rfl
  simpa [Fmt.signBits] using h

/-- No finite number is as large exactly above the largest code. -/
theorem above_all_iff (he : 1 ≤ f.e) (c : Nat) : (∀ x v, ratOf f x = some v → v < codeVal f c) ↔ f.maxCode < c :=
  ⟨fun h => codeVal_strictMono.lt_iff_lt.1 (h _ _ (ratOf_maxCode he)),
    fun h _ _ hx => (le_maxCode he hx).trans_lt (codeVal_strictMono h)⟩

end Codes

/-! ### RoundInt between bounds -/

theorem le_roundMag {N : Nat} {v : ℚ} (rnd : Nat) (neg : Bool) (h : (N : ℚ) ≤ v) : N ≤ roundMag rnd neg v :=
  (Nat.le_floor h).trans (Nat.le_add_right ..)

theorem roundMag_le {N : Nat} {v : ℚ} (rnd : Nat) (neg : Bool) (hv : 0 ≤ v) (h : v < N) : roundMag rnd neg v ≤ N :=
  (Nat.add_le_add_left (Bool.toNat_le _) _).trans ((Nat.floor_lt hv).2 h)

/-- RoundInt keeps a whole number, and no other. -/
theorem roundMag_eq_iff {v : ℚ} (rnd : Nat) (neg : Bool) : (roundMag rnd neg v : ℚ) = v ↔ v - ⌊v⌋₊ = 0 := by
  constructor
  · intro h
    rw [← h, Nat.floor_natCast, sub_self]
  · intro h
    have hup : roundsUp rnd neg ⌊v⌋₊ false false = false := by unfold roundsUp; split <;> simp
    rw [roundMag, h, decide_eq_false (by norm_num), decide_eq_false (by norm_num), hup, Bool.toNat_false, Nat.add_zero,
      ← sub_eq_zero.1 h]

/-! ### Round -/

section Round
variable {f : Fmt} {num den : Nat} {e : ℤ} {rnd : Nat} {sat neg : Bool}

/-- A sign. -/
theorem abs_signed (neg : Bool) (v : ℚ) : |(if neg then -1 else 1) * v| = |v| := by cases neg <;> simp

theorem round_eq (hn : 0 < num) (hd : 0 < den) (h1 : (2 : ℚ) ^ e ≤ (num : ℚ) / den) (h2 : (num : ℚ) / den < (2 : ℚ) ^ (e + 1)) :
    f.round rnd sat neg ⟨num, den, false⟩ =
      let q := max e f.emin - f.m
      let v := (num : ℚ) / den / 2 ^ q
      let code := roundCode f q (roundMag rnd neg v)
      if f.maxCode < code then f.overflow rnd sat neg
      else ⟨f.signBits neg + code, if v - ⌊v⌋₊ = 0 then 0 else fNX +
        if e < f.emin ∧ ¬ (e = f.emin - 1 ∧ roundMag rnd neg ((num : ℚ) / den / 2 ^ (e - f.m)) = 2 ^ (f.m + 1)) then fUF else 0⟩ := by
  have hlog : (⟨num, den, false⟩ : Mag).log2 = e := ratLog2_eq hn hd h1 h2
  simp only [Fmt.round, hlog, roundAt_eq hd, decide_eq_true_eq, Bool.and_eq_true, Bool.not_eq_true', Bool.and_eq_false_iff,
    beq_eq_false_iff_ne, ne_eq, not_and_or]
  rfl

/-- The magnitude at the last place of its exponent. -/
theorem scaled_bounds {z : ℚ} (h1 : (2 : ℚ) ^ e ≤ z) (h2 : z < (2 : ℚ) ^ (e + 1)) (m : Nat) :
    ((2 ^ m : Nat) : ℚ) ≤ z / 2 ^ (e - m) ∧ z / 2 ^ (e - m) < ((2 ^ (m + 1) : Nat) : ℚ) := by
  have hp : (0 : ℚ) < 2 ^ (e - m) := zpow_pos two_pos _
  have hpow (k : Nat) : ((2 ^ k : Nat) : ℚ) * 2 ^ (e - m) = 2 ^ (e - m + k) := by
    push_cast
    rw [zpow_add₀ two_ne_zero, zpow_natCast, mul_comm]
  rw [le_div_iff₀ hp, div_lt_iff₀ hp, hpow, hpow]
  exact ⟨by rwa [sub_add_cancel], by rwa [Nat.cast_succ, ← add_assoc, sub_add_cancel]⟩

/-- The bounds of a rounded magnitude at the last place of its format. -/
theorem rounded_bounds {z : ℚ} (h1 : (2 : ℚ) ^ e ≤ z) (h2 : z < (2 : ℚ) ^ (e + 1)) (rnd : Nat) (neg : Bool) :
    roundMag rnd neg (z / 2 ^ (max e f.emin - f.m)) ≤ 2 ^ (f.m + 1) ∧
      (2 ^ f.m ≤ roundMag rnd neg (z / 2 ^ (max e f.emin - f.m)) ∨ max e f.emin - f.m = f.emin - f.m) := by
  have hz : 0 ≤ z := (zpow_pos two_pos e).le.trans h1
  obtain ⟨hlo, hhi⟩ := scaled_bounds h1 h2 f.m
  rcases le_total f.emin e with h | h
  · rw [max_eq_left h]
    exact ⟨roundMag_le rnd neg (by positivity) hhi, .inl (le_roundMag rnd neg hlo)⟩
  · rw [max_eq_right h]
    refine ⟨roundMag_le rnd neg (by positivity) (lt_of_le_of_lt ?_ hhi), .inr rfl⟩
    gcongr
    exact one_le_two

/-- Tininess after rounding (05 R66). -/
theorem tiny_iff {z : ℚ} (h1 : (2 : ℚ) ^ e ≤ z) (h2 : z < (2 : ℚ) ^ (e + 1)) {n : Nat}
    (hn : n = roundMag rnd neg (z / 2 ^ (e - f.m))) :
    (e < f.emin ∧ ¬ (e = f.emin - 1 ∧ n = 2 ^ (f.m + 1))) ↔ (n : ℚ) * 2 ^ (e - f.m) < 2 ^ f.emin := by
  have hz : 0 ≤ z := (zpow_pos two_pos e).le.trans h1
  obtain ⟨hlo, hhi⟩ := scaled_bounds h1 h2 f.m
  have hnlo : 2 ^ f.m ≤ n := hn ▸ le_roundMag rnd neg hlo
  have hnhi : n ≤ 2 ^ (f.m + 1) := hn ▸ roundMag_le rnd neg (by positivity) hhi
  have hp : (0 : ℚ) < 2 ^ (e - f.m) := zpow_pos two_pos _
  have hpow (k : Nat) : ((2 ^ k : Nat) : ℚ) * 2 ^ (e - f.m) = 2 ^ (e - f.m + k) := by
    push_cast
    rw [zpow_add₀ two_ne_zero, zpow_natCast, mul_comm]
  rcases lt_trichotomy e (f.emin - 1) with h | h | h
  · refine iff_of_true ⟨by omega, fun h' => by omega⟩ ?_
    calc (n : ℚ) * 2 ^ (e - f.m) ≤ ((2 ^ (f.m + 1) : Nat) : ℚ) * 2 ^ (e - f.m) := by gcongr
      _ = 2 ^ (e - f.m + (f.m + 1 : Nat)) := hpow _
      _ < 2 ^ f.emin := zpow_lt_zpow_right₀ one_lt_two (by push_cast; omega)
  · have htop : (2 : ℚ) ^ f.emin = ((2 ^ (f.m + 1) : Nat) : ℚ) * 2 ^ (e - f.m) := by
      rw [hpow]; congr 1; push_cast; omega
    rw [htop, mul_lt_mul_iff_left₀ hp, Nat.cast_lt]
    omega
  · refine iff_of_false (by omega) (not_lt.2 ?_)
    calc (2 : ℚ) ^ f.emin ≤ 2 ^ (e - f.m + f.m) := zpow_le_zpow_right₀ one_le_two (by omega)
      _ = ((2 ^ f.m : Nat) : ℚ) * 2 ^ (e - f.m) := (hpow _).symm
      _ ≤ n * 2 ^ (e - f.m) := by gcongr

/-- Overflow (05 R66). -/
theorem overflow_flags : (f.overflow rnd sat neg).flags = fOF + fNX := rfl

end Round

/-- Facts of the formats of 05 R59. -/
theorem fpFmt_facts {T : Nat} {f : Fmt} (h : fpFmt T = some f) : 1 ≤ f.e ∧ (f.inf = true → f.nan = .ieee) := by
  unfold fpFmt at h
  split at h
  all_goals cases h
  all_goals exact ⟨by decide, by decide⟩

/-- The rounded number of 05 R65 at the place q, from its magnitude. -/
theorem roundedAt_eq {rnd : Nat} {neg : Bool} {z : ℚ} (hr : rnd ≤ 4) (hz : 0 < z) (q : ℤ) :
    (roundInt rnd ((if neg then -1 else 1) * z / 2 ^ q) : ℚ) * 2 ^ q =
      (if neg then -1 else 1) * (roundMag rnd neg (z / 2 ^ q) * 2 ^ q) := by
  rw [mul_div_assoc, roundInt_signed hr (div_pos hz (zpow_pos two_pos q)), ← mul_assoc]
  push_cast
  rfl

theorem signed_eq_zero_iff (neg : Bool) (v : ℚ) : (if neg then -1 else 1) * v = 0 ↔ v = 0 := by cases neg <;> simp

/-- A code that is zero is that of the number zero. -/
theorem roundCode_zero (f : Fmt) (q : ℤ) : roundCode f q 0 = 0 := if_pos (Nat.two_pow_pos _)

/-- The encoding of an infinity. -/
theorem decode_infBits {f : Fmt} {neg : Bool} (hk : f.nan = .ieee) (hs : f.s = 1 ∨ neg = false) :
    f.decode (f.infBits neg) = .inf neg := by
  have hN : 0 < 2 ^ f.m := Nat.two_pow_pos _
  have hc : (2 ^ f.e - 1) * 2 ^ f.m < 2 ^ (f.e + f.m) := by
    rw [pow_add]
    exact Nat.mul_lt_mul_of_pos_right (Nat.sub_one_lt (Nat.two_pow_pos _).ne') hN
  obtain ⟨h1, h2⟩ := signBits_add hs hc
  obtain ⟨hM, hE⟩ := code_parts f (f.signBits neg + (2 ^ f.e - 1) * 2 ^ f.m)
  rw [h2, Nat.mul_mod_left] at hM
  rw [h2, Nat.mul_div_cancel _ hN] at hE
  have hsign : (f.s == 1 && Fmt.decode.bit1 (f.m + f.e) (f.signBits neg + (2 ^ f.e - 1) * 2 ^ f.m)) = neg := h1
  simp only [Fmt.infBits, Fmt.decode, hk, ← hM, ← hE, hsign]
  simp

/-- What overflow gives instead of a number (05 R66). -/
theorem overflow_bits {f : Fmt} (he : 1 ≤ f.e) (hinf : f.inf = true → f.nan = .ieee) {rnd : Nat} {sat neg : Bool}
    (hs : f.s = 1 ∨ neg = false) {finite : Prop}
    (hfinite : finite ↔ sat = true ∨ rnd = 1 ∨ (rnd = 2 ∧ neg = true) ∨ (rnd = 3 ∧ neg = false)) :
    (finite ∨ (f.inf = false ∧ f.nan = .none) → ∃ v, (∀ c w, ratOf f c = some w → w ≤ v)
      ∧ ratOf f (f.overflow rnd sat neg).bits = some ((if neg then -1 else 1) * v))
    ∧ (¬ finite → f.inf = true → f.decode (f.overflow rnd sat neg).bits = .inf neg)
    ∧ (¬ finite → f.inf = false → f.nan ≠ .none → (f.overflow rnd sat neg).bits = f.nanBits) := by
  have hcond : (sat || rnd == 1 || (rnd == 2 && neg) || (rnd == 3 && !neg)) = true ↔ finite := by
    simp [hfinite, or_assoc]
  refine ⟨fun h => ⟨codeVal f f.maxCode, fun c w => le_maxCode he, ?_⟩, fun h hi => ?_, fun h hi hk => ?_⟩
  · have hbits : (f.overflow rnd sat neg).bits = f.signBits neg + f.maxCode := by
      rcases h with h | ⟨hi, hk⟩
      · exact if_pos (hcond.2 h)
      · simp only [Fmt.overflow, hi, hk, Bool.false_eq_true, if_false, ite_self]
    rw [hbits, ratOf_signBits he hs le_rfl]
  · have hbits : (f.overflow rnd sat neg).bits = f.infBits neg := by
      simp only [Fmt.overflow, if_neg (mt hcond.1 h), hi, if_true]
    rw [hbits, decode_infBits (hinf hi) hs]
  · simp only [Fmt.overflow, if_neg (mt hcond.1 h), hi, Bool.false_eq_true, if_false]
    cases hn : f.nan with
    | ieee | topOnly => rfl
    | none => exact absurd hn hk

theorem round_asStated : roundsAsStated := by
  intro T f rnd sat neg num den e hT hr hn hd hs x h1 h2 at_ y unbounded o tooBig finite
  obtain ⟨he, hinf⟩ := fpFmt_facts hT
  have hz : (0 : ℚ) < (num : ℚ) / den := div_pos (by exact_mod_cast hn) (by exact_mod_cast hd)
  have hx : x = (if neg then -1 else 1) * ((num : ℚ) / den) := mul_div_assoc ..
  rw [hx, abs_signed, abs_of_pos hz] at h1 h2
  have hat (q : ℤ) : at_ q = (if neg then -1 else 1) * (roundMag rnd neg ((num : ℚ) / den / 2 ^ q) * 2 ^ q) := by
    rw [← roundedAt_eq hr hz, ← hx]
  have ho := round_eq (f := f) (rnd := rnd) (sat := sat) (neg := neg) hn hd h1 h2
  obtain ⟨hn1, hn2⟩ := rounded_bounds (f := f) h1 h2 rnd neg
  have hy : y = (if neg then -1 else 1) * codeVal f (roundCode f (max e f.emin - f.m)
      (roundMag rnd neg ((num : ℚ) / den / 2 ^ (max e f.emin - f.m)))) := by
    rw [codeVal_roundCode hn1 (by omega) hn2]
    exact hat _
  have hbig : tooBig ↔ f.maxCode < roundCode f (max e f.emin - f.m)
      (roundMag rnd neg ((num : ℚ) / den / 2 ^ (max e f.emin - f.m))) := by
    rw [← above_all_iff he]
    simp only [tooBig, hy, abs_signed, abs_of_nonneg (codeVal_nonneg _)]
  have htiny : unbounded ≠ 0 ∧ |unbounded| < (2 : ℚ) ^ f.emin ↔
      e < f.emin ∧ ¬ (e = f.emin - 1 ∧ roundMag rnd neg ((num : ℚ) / den / 2 ^ (e - f.m)) = 2 ^ (f.m + 1)) := by
    have hpos : (0 : ℚ) < roundMag rnd neg ((num : ℚ) / den / 2 ^ (e - f.m)) := by
      exact_mod_cast (Nat.two_pow_pos f.m).trans_le (le_roundMag rnd neg (scaled_bounds h1 h2 f.m).1)
    have hmag := mul_pos hpos (zpow_pos two_pos (e - f.m) : (0 : ℚ) < 2 ^ (e - f.m))
    rw [tiny_iff h1 h2 rfl]
    simp only [unbounded, hat, abs_signed, abs_of_pos hmag, ne_eq, signed_eq_zero_iff, hmag.ne', not_false_eq_true, true_and]
  have hexact : y = x ↔ (num : ℚ) / den / 2 ^ (max e f.emin - f.m) - ⌊(num : ℚ) / den / 2 ^ (max e f.emin - f.m)⌋₊ = 0 := by
    have hp : (2 : ℚ) ^ (max e f.emin - f.m) ≠ 0 := zpow_ne_zero _ two_ne_zero
    rw [← roundMag_eq_iff rnd neg, eq_div_iff hp, show y = _ from hat _, hx]
    cases neg
    · simp only [Bool.false_eq_true, if_false, one_mul]
    · simp only [if_true, neg_one_mul, neg_inj]
  refine ⟨fun hnot => ?_, fun hover => ?_⟩
  · have hle := not_lt.1 (mt hbig.2 hnot)
    have hround : o = _ := ho.trans (if_neg hle.not_gt)
    rw [hround]
    refine ⟨?_, fun hy0 => ?_, ?_⟩
    · rw [hy]
      exact ratOf_signBits he hs hle
    · have hzero : codeVal f 0 = 0 := by simp [codeVal]
      rw [hy, signed_eq_zero_iff, ← hzero] at hy0
      dsimp only
      rw [codeVal_strictMono.injective hy0, Fmt.signBits]
      rcases hs with hs | hs
      · simp [hs]
      · simp [hs]
    · simp only [hexact, htiny]
      split_ifs <;> rfl
  · have hround : o = f.overflow rnd sat neg := ho.trans (if_pos (hbig.1 hover))
    rw [hround]
    exact ⟨rfl, overflow_bits he hinf hs Iff.rfl⟩
end Sys2Proof.Proofs
end

section
/-!
SUPPORT. Floating-point arithmetic, which opens a producer (05 R76), and the feature bit of FP64 (01 R23, R24).
-/
namespace Sys2Proof.Proofs
open Sys2Proof.Machine Sys2Proof.Laws

/-! ### Producers -/

/-- A team after an element-wise instruction that opens itself as a producer. -/
def openedBy (t : Team) (op : ElemOp) (d : Reg) (srcs : List Src) (rs : List Reg) : Team :=
  { t.past with
    vregs := elemVectors t op d srcs rs
    flags := t.flags ||| elemFlags t op rs
    producer := some (openedProducer t op d rs) }

theorem elementwise_opens {accept : Nat → Bool} {readsD : Bool} {d : Reg} {srcs : List Src} {s : State} {t : Team}
    {op op' : ElemOp} (h : SameOn (elemRegs d srcs readsD).length op op')
    (hi : Issues s t (vecShape s t accept typeBits d srcs readsD)) :
    elementwise accept true readsD op d srcs s = .next (s.putTeam (openedBy t op' d srcs (elemRegs d srcs readsD))) := by
  rw [elementwise_next true op hi]
  unfold openedBy openedProducer elemVectors elemFlags
  rw [elemOuts_congr h]
  rfl

theorem sameOn_refl (n : Nat) (op : ElemOp) : SameOn n op op := fun _ _ _ _ _ => rfl

/-! ### FP64 arithmetic on a core of profile N -/

/-- The lowest of the two bits that govern FP64 arithmetic is the one reported. -/
theorem featureTrap_fp64 {s : State} {core : Nat} (h : profileN s core = true) :
    featureTrap s core (typeBits 0x18) = some (.at .featureAbsent 56 0) := by
  have h56 : dfmBit s core 56 = false := by simp [dfmBit, h]
  have h64 : dfmBit s core 64 = false := by simp [dfmBit, h]
  simp only [featureTrap, typeBits, if_true, List.filter_cons, h56, h64, Bool.not_false, List.filter_nil]
  rfl

section Absent
variable {s : State} {t : Team} {d : Reg} {a b : Src}

theorem vectors_vpair (r : Reg) : (Opnd.vpair r).vectors = [r, r + 1#6] := rfl

theorem check_fp64_absent (hT : t.type = 0x18) (hN : profileN s t.core = true)
    (hr : ∀ r ∈ [a.reg, b.reg, d], r.toNat % 2 = 0 ∧ r.toNat < 8 * t.blocks.toNat) :
    (vecShape s t setF typeBits d [a, b] false).check t s = some (.trap (.at .featureAbsent 56 0)) := by
  refine check_feature ?_ (regBound_none fun r hmem => ?_) ?_
  · have hodd : ¬ (pairFields t.type [d, a.reg, b.reg]).any (fun r => r.toNat % 2 = 1) = true := by
      rw [pairFields, if_pos hT, List.any_eq_true]
      rintro ⟨r, hmem, h1⟩
      have heven := (hr r (by simp only [List.mem_cons, List.not_mem_nil, or_false] at hmem ⊢; tauto)).1
      have hone := of_decide_eq_true h1
      omega
    change typeTrap (pairFields t.type [d, a.reg, b.reg]) (setF t.type) = none
    rw [typeTrap, if_neg hodd, hT]
    rfl
  · have hpair : r ∈ [a.reg, a.reg + 1#6, b.reg, b.reg + 1#6, d, d + 1#6] := by
      simpa [namedVectors, Shape.opnds, vecShape, vField, hT, vectors_vpair] using hmem
    have hnext (q : Reg) (hq : q ∈ [a.reg, b.reg, d]) : q.toNat < t.bound ∧ (q + 1#6).toNat < t.bound := by
      obtain ⟨heven, hlt⟩ := hr q hq
      have h64 := q.isLt
      have hsucc : (q + 1#6).toNat = q.toNat + 1 := by rw [BitVec.toNat_add]; simp; omega
      rw [hsucc, Team.bound]
      omega
    have ha := hnext a.reg (by simp)
    have hb := hnext b.reg (by simp)
    have hd := hnext d (by simp)
    simp only [List.mem_cons, List.not_mem_nil, or_false] at hpair
    rcases hpair with rfl | rfl | rfl | rfl | rfl | rfl
    · exact ha.1
    · exact ha.2
    · exact hb.1
    · exact hb.2
    · exact hd.1
    · exact hd.2
  · change featureTrap s t.core (typeBits t.type) = _
    rw [hT, featureTrap_fp64 hN]

theorem elementwise_fp64_absent {producer : Bool} (op : ElemOp) (hc : s.curTeam = some t) (hT : t.type = 0x18)
    (hN : profileN s t.core = true) (hr : ∀ r ∈ [a.reg, b.reg, d], r.toNat % 2 = 0 ∧ r.toNat < 8 * t.blocks.toNat) :
    elementwise setF producer false op d [a, b] s = .next (s.takeTrap t ⟨.featureAbsent, 56, 0, none, none⟩) :=
  runRegs_trapped (f := fun t => vecShape s t setF typeBits d [a, b] false) hc (check_fp64_absent hT hN hr) nofun

end Absent
end Sys2Proof.Proofs
end

section
/-!
The obligation on vector floating-point arithmetic.
-/
namespace Sys2Proof.Proofs
open Sys2Proof.Machine Sys2Proof.Laws

/-- Settles O26: Round is `round_asStated`, from the order of a format's encodings (`codeVal_strictMono`); arithmetic is
`elementwise` that opens a producer (`elementwise_opens`), the rest of majors 0x2A and 0x2B `elementwise` that opens none, and
FEATURE_ABSENT comes after the checks of the fields and the window (`check_fp64_absent`). -/
theorem vectorFloat : Obligations.VectorFloat := by
  unfold Obligations.VectorFloat
  refine ⟨round_asStated, ⟨fun p hp d a b s t hi => ?_, fun p hp d a b s t hi => ?_⟩,
    ⟨fun p hp d a b s t hi => ?_, fun p hp d a s t hi => ?_⟩, fun op hop d a b s t hc hT hN hr => ?_⟩
  · simp only [List.mem_cons, List.not_mem_nil, or_false] at hp
    rcases hp with rfl | rfl | rfl
    all_goals exact elementwise_opens (sameOn_two fun _ _ _ _ _ => rfl) hi
  · simp only [List.mem_cons, List.not_mem_nil, or_false] at hp
    rcases hp with rfl | rfl | rfl
    all_goals exact elementwise_opens (sameOn_three fun _ _ _ _ _ _ => rfl) hi
  · simp only [List.mem_cons, List.not_mem_nil, or_false] at hp
    rcases hp with rfl | rfl | rfl | rfl
    all_goals exact elementwise_plain (sameOn_refl 2 _) hi
  · simp only [List.mem_cons, List.not_mem_nil, or_false] at hp
    rcases hp with rfl | rfl | rfl | rfl
    · exact elementwise_plain (sameOn_refl 1 _) hi
    · exact elementwise_plain (sameOn_refl 1 _) hi
    · exact elementwise_plain (sameOn_refl 1 _) hi
    · exact elementwise_plain (sameOn_one fun _ _ _ _ => rfl) hi
  · simp only [List.mem_cons, List.not_mem_nil, or_false] at hop
    rcases hop with rfl | rfl | rfl
    all_goals exact elementwise_fp64_absent _ hc hT hN hr

end Sys2Proof.Proofs
end

section
/-!
SUPPORT. Round depends on the ratio of a magnitude only; the significand and exponent of Norm (05 R66, R81).
-/
namespace Sys2Proof.Proofs
open Sys2Proof.Machine Sys2Proof.Laws

/-! ### Magnitudes of one ratio -/

/-- Two magnitudes that stand for one number. -/
structure SameMag (x y : Mag) : Prop where
  root : x.root = y.root
  num : 0 < x.num
  num' : 0 < y.num
  den : 0 < x.den
  den' : 0 < y.den
  ratio : (x.num : ℚ) / x.den = (y.num : ℚ) / y.den

section SameMag
variable {x y : Mag}

theorem log2_congr (h : SameMag x y) : x.log2 = y.log2 := by
  obtain ⟨h1, h2⟩ := ratLog2_bounds h.num h.den
  rw [h.ratio] at h1 h2
  rw [Mag.log2, Mag.log2, h.root, ratLog2_eq h.num' h.den' h1 h2]

/-- A quotient and whether it is exact depend on the ratio only. -/
theorem div_mod_congr {a b a' b' : Nat} (hb : 0 < b) (hb' : 0 < b') (h : (a : ℚ) / b = (a' : ℚ) / b') :
    a / b = a' / b' ∧ (a % b == 0) = (a' % b' == 0) := by
  obtain ⟨h1, h2⟩ := div_mod_floor a hb
  obtain ⟨h3, h4⟩ := div_mod_floor a' hb'
  rw [h] at h1 h2
  exact ⟨h1.trans h3.symm, by rw [Bool.eq_iff_iff, beq_iff_eq, beq_iff_eq, h2, h4]⟩

theorem floorAt_congr (h : SameMag x y) (k : Int) : x.floorAt k = y.floorAt k := by
  have hscaled (u : Mag) : ((u.num * downPow k * downPow k : Nat) : ℚ) / ((u.den * upPow k * upPow k : Nat) : ℚ) =
      (u.num : ℚ) / u.den / 2 ^ k / 2 ^ k := by
    rw [scaled_eq, scaled_eq]
  obtain ⟨h1, h2⟩ := div_mod_congr (Nat.mul_pos h.den (upPow_pos k)) (Nat.mul_pos h.den' (upPow_pos k))
    (by rw [scaled_eq x.num x.den k, scaled_eq y.num y.den k, h.ratio])
  obtain ⟨h3, h4⟩ := div_mod_congr (Nat.mul_pos (Nat.mul_pos h.den (upPow_pos k)) (upPow_pos k))
    (Nat.mul_pos (Nat.mul_pos h.den' (upPow_pos k)) (upPow_pos k)) (by rw [hscaled x, hscaled y, h.ratio])
  unfold Mag.floorAt
  rw [h.root]
  dsimp only
  split
  · rw [h3, h4]
  · rw [h1, h2]

theorem round_congr (h : SameMag x y) (f : Fmt) (rnd : Nat) (sat neg : Bool) : f.round rnd sat neg x = f.round rnd sat neg y := by
  have hround (q : Int) : x.roundAt rnd neg q = y.roundAt rnd neg q := by rw [Mag.roundAt, Mag.roundAt, floorAt_congr h]
  unfold Fmt.round
  rw [log2_congr h]
  simp only [hround]

end SameMag

/-! ### Norm (05 R81) -/

theorem decode_num_lt {f : Fmt} {x n : Nat} {neg : Bool} {h : Int} (hx : f.decode x = .fin neg n h) : n < 2 ^ (f.m + 1) := by
  have hM : x % 2 ^ f.m < 2 ^ f.m := Nat.mod_lt _ (Nat.two_pow_pos _)
  have hfin {sgn : Bool} {E : Nat} (hd : Fmt.decode.finite f sgn E (x % 2 ^ f.m) = .fin neg n h) : n < 2 ^ (f.m + 1) := by
    unfold Fmt.decode.finite at hd
    rw [pow_succ]
    split at hd
    · cases hd
      omega
    · cases hd
      omega
  unfold Fmt.decode at hx
  dsimp only at hx
  split at hx
  · split at hx
    · cases hx
    · split at hx
      · cases hx
      · exact hfin hx
  · split at hx
    · cases hx
    · exact hfin hx
  · exact hfin hx

/-- The significand and the exponent that the model computes are those of Norm. -/
theorem norm_units {neg : Bool} {n : Nat} {h e : Int} {m : ℚ} {scale : Nat} (hv : normOf (.fin neg n h) m e) (hs : n < 2 ^ (scale + 1)) :
    0 < n ∧ normExp n h = e ∧ (normUnits scale n : ℚ) = m * 2 ^ scale := by
  obtain ⟨neg', n', h', hfin, hval, h1, h2⟩ := hv
  cases hfin
  have hp : (0 : ℚ) < 2 ^ (e - h) := zpow_pos two_pos _
  have hn : (n : ℚ) = m * 2 ^ (e - h) := by
    rw [zpow_sub₀ two_ne_zero, ← mul_div_assoc, eq_div_iff (zpow_ne_zero _ two_ne_zero), hval]
  have hnpos : 0 < n := by
    have : (0 : ℚ) < n := by rw [hn]; exact mul_pos (one_pos.trans_le h1) hp
    exact_mod_cast this
  have hlog : (n.log2 : ℤ) = e - h := by
    refine exponent_unique (z := n) (by exact_mod_cast Nat.log2_self_le hnpos.ne') (by exact_mod_cast Nat.lt_log2_self (n := n)) ?_ ?_
    · rw [hn]
      exact le_mul_of_one_le_left hp.le h1
    · rw [hn, add_comm, zpow_add₀ two_ne_zero, zpow_one]
      exact mul_lt_mul_of_pos_right h2 hp
  refine ⟨hnpos, by rw [normExp]; omega, ?_⟩
  have hle : n.log2 ≤ scale := Nat.lt_succ_iff.1 ((Nat.log2_lt hnpos.ne').2 hs)
  have hdvd : 2 ^ n.log2 ∣ n * 2 ^ scale := Dvd.dvd.mul_left (pow_dvd_pow 2 hle) n
  have h2log : ((2 ^ n.log2 : Nat) : ℚ) = 2 ^ (e - h) := by rw [← hlog]; norm_cast
  rw [normUnits, Int.cast_natCast, Nat.cast_div hdvd (by positivity), h2log, Nat.cast_mul, hn]
  push_cast
  field_simp

end Sys2Proof.Proofs
end

section
/-!
SUPPORT. The recurrences of R81 and R82: the model's steps in units of 2^−scale are theirs, and what the state after the last
digit says of the exact value.
-/
namespace Sys2Proof.Proofs
open Sys2Proof.Machine Sys2Proof.Laws

/-! ### Digits and their weighted sum -/

/-- The digit that a residual chooses (05 R81, R82). -/
def residualDigit (w : ℚ) : ℤ := if 0 < w then 1 else if w < 0 then -1 else 0

theorem residualDigit_cases (w : ℚ) : residualDigit w = 0 ∨ residualDigit w = 1 ∨ residualDigit w = -1 := by
  unfold residualDigit
  split_ifs <;> simp

theorem signDigit_eq {x : ℤ} {w : ℚ} {scale : Nat} (h : (x : ℚ) = w * 2 ^ scale) : signDigit x = residualDigit w := by
  have hp : (0 : ℚ) < 2 ^ scale := by positivity
  have hpos : 0 < x ↔ 0 < w := by rw [← Int.cast_pos (R := ℚ), h, mul_pos_iff_of_pos_right hp]
  have hneg : x < 0 ↔ w < 0 := by
    rw [← Int.cast_lt_zero (R := ℚ), h]
    exact ⟨fun hx => neg_of_mul_neg_left hx hp.le, fun hx => mul_neg_of_neg_of_pos hx hp⟩
  unfold signDigit residualDigit
  simp only [hpos, hneg]

/-- Digits 1 to k, each weighing half as much as the one before it, after a start. -/
def digitSum (start : ℤ) (q : Nat → ℤ) : Nat → ℤ
  | 0 => start
  | k + 1 => 2 * digitSum start q k + q (k + 1)

/-- The model's state after `k` digits of a recurrence. -/
structure AfterDigits (scale : Nat) (start : ℤ) (w : Nat → ℚ) (q : Nat → ℤ) (k : Nat) (r : Rec) : Prop where
  count : r.ds.length = k
  sum : r.sum = digitSum start q k
  residual : (r.w : ℚ) = w k * 2 ^ scale

/-! ### Division (05 R81) -/

/-- The recurrence of R81, step by step. -/
structure Divides (ma mb : ℚ) (w : Nat → ℚ) (q : Nat → ℤ) : Prop where
  first : w 0 = ma / 2
  digit : ∀ j, q (j + 1) = residualDigit (w j)
  next : ∀ j, w (j + 1) = 2 * w j - q (j + 1) * mb

theorem divides_of {ma mb : ℚ} {w : Nat → ℚ} {q : Nat → ℤ} (h : ∀ j, (w j, q j) = dividing ma mb j) : Divides ma mb w q := by
  have hw (j : Nat) : w j = (dividing ma mb j).1 := congrArg Prod.fst (h j)
  have hq (j : Nat) : q (j + 1) = residualDigit (w j) := by
    rw [hw]
    exact congrArg Prod.snd (h (j + 1))
  refine ⟨hw 0, hq, fun j => ?_⟩
  rw [hq, hw, hw]
  rfl

section Division
variable {ma mb : ℚ} {w : Nat → ℚ} {q : Nat → ℤ} {scale k : Nat} {r : Rec} {mbu : ℤ}

theorem divSteps_after (hd : Divides ma mb w q) (hb : (mbu : ℚ) = mb * 2 ^ scale) (c : Nat) (h : AfterDigits scale 0 w q k r) :
    AfterDigits scale 0 w q (k + c) (divSteps mbu c r) := by
  induction c generalizing k r with
  | zero => exact h
  | succ c ih =>
    have hs : signDigit r.w = q (k + 1) := (signDigit_eq h.residual).trans (hd.digit k).symm
    have hstep : AfterDigits scale 0 w q (k + 1) ⟨r.ds ++ [q (k + 1)], 2 * r.sum + q (k + 1), 2 * r.w - q (k + 1) * mbu⟩ := by
      refine ⟨by simp [h.count], by simp [h.sum, digitSum], ?_⟩
      push_cast
      rw [h.residual, hb, hd.next]
      ring
    rw [Nat.add_comm c 1, ← Nat.add_assoc, Nat.add_comm 1 c, divSteps, hs]
    exact ih hstep

/-- What is divided, less the quotient so far, is what remains. -/
theorem division_remainder (hd : Divides ma mb w q) (j : Nat) : (digitSum 0 q j : ℚ) * mb + w j = 2 ^ j * (ma / 2) := by
  induction j with
  | zero => simp [digitSum, hd.first]
  | succ j ih =>
    rw [hd.next, digitSum, pow_succ, mul_right_comm, ← ih]
    push_cast
    ring

/-- The correction by a negative residual leaves the value as it is (05 R81). -/
theorem corrected_quotient (x : ℤ) : (if x < 0 then r.sum - 1 else r.sum) * mbu + (if x < 0 then r.w + mbu else r.w) =
    r.sum * mbu + r.w := by
  split_ifs
  · ring
  · rfl

theorem upPow_div_downPow (k : Int) : (upPow k : ℚ) / downPow k = 2 ^ k := by
  rw [upPow_eq_mul, mul_div_assoc, div_self (by exact_mod_cast (downPow_pos k).ne'), mul_one]

/-- A quotient resumed after any number of digits is that of the sources, rounded once. -/
theorem division_result {a b : FVal} {ea eb : ℤ} {f : Fmt} {n : Nat} (key rnd : Nat) (hd : Divides ma mb w q)
    (ha : normOf a ma ea) (hb : normOf b mb eb) (hna : a.parts.2.1 < 2 ^ (scale + 1)) (hnb : b.parts.2.1 < 2 ^ (scale + 1))
    (hn : 0 < n) (hr : AfterDigits scale 0 w q n r) :
    recResult .div f rnd scale n a b r = iterExact .div f rnd key a b := by
  have ha' := ha
  have hb' := hb
  obtain ⟨nx, x, ex, rfl, hx, hma, -⟩ := ha'
  obtain ⟨ny, y, ey, rfl, hy, hmb, -⟩ := hb'
  obtain ⟨hx0, hex, -⟩ := norm_units ha hna
  obtain ⟨hy0, hey, hyu⟩ := norm_units hb hnb
  obtain ⟨n, rfl⟩ : ∃ j, n = j + 1 := ⟨n - 1, by omega⟩
  have hv : ((r.sum * normUnits scale y + r.w : ℤ) : ℚ) = 2 ^ n * ma * 2 ^ scale := by
    have hrem := division_remainder hd (n + 1)
    push_cast
    rw [hr.sum, hr.residual, hyu, ← mul_assoc, ← add_mul, hrem, pow_succ]
    ring
  have hvpos : 0 < r.sum * normUnits scale y + r.w := by
    have : (0 : ℚ) < ((r.sum * normUnits scale y + r.w : ℤ) : ℚ) := by rw [hv]; positivity
    exact_mod_cast this
  have hyupos : 0 < normUnits scale y := by
    have : (0 : ℚ) < (normUnits scale y : ℚ) := by rw [hyu]; positivity
    exact_mod_cast this
  simp only [recResult, iterExact, IterOp.operands, FVal.parts, corrected_quotient, hex, hey, if_neg hvpos.ne',
    decide_eq_false hvpos.not_gt, Bool.bne_false, Nat.add_sub_cancel]
  generalize r.sum * normUnits scale y + r.w = v at hv hvpos
  generalize normUnits scale y = u at hyu hyupos
  lift v to ℕ using hvpos.le
  lift u to ℕ using hyupos.le
  have hk : (upPow (ea - eb) : ℚ) / downPow (ea - eb) = 2 ^ ea / 2 ^ eb := by
    rw [upPow_div_downPow, zpow_sub₀ two_ne_zero]
  have hk' : (upPow (ex - ey) : ℚ) / downPow (ex - ey) = 2 ^ ex / 2 ^ ey := by
    rw [upPow_div_downPow, zpow_sub₀ two_ne_zero]
  have hsame : SameMag ⟨v * upPow (ea - eb), u * 2 ^ n * downPow (ea - eb), false⟩ (quotientMag x ex y ey) := by
    refine ⟨rfl, ?_, ?_, ?_, ?_, ?_⟩
    · exact Nat.mul_pos (by exact_mod_cast hvpos) (upPow_pos _)
    · exact Nat.mul_pos hx0 (upPow_pos _)
    · exact Nat.mul_pos (Nat.mul_pos (by exact_mod_cast hyupos) (Nat.two_pow_pos _)) (downPow_pos _)
    · exact Nat.mul_pos hy0 (downPow_pos _)
    · have hmb0 : mb ≠ 0 := (one_pos.trans_le hmb).ne'
      rw [Int.cast_natCast] at hv hyu
      dsimp only [quotientMag]
      push_cast
      rw [mul_div_mul_comm, mul_div_mul_comm, hk, hk', hv, hyu, ← mul_div_mul_comm (x : ℚ), hx, hy]
      field_simp
  exact round_congr hsame f rnd false (nx != ny)

end Division

/-! ### Square root (05 R82) -/

/-- The recurrence of R82, step by step, its root the weighted sum of the digits. -/
structure Roots (m : ℚ) (w : Nat → ℚ) (q : Nat → ℤ) : Prop where
  first : w 0 = m - 1
  digit : ∀ j, q (j + 1) = residualDigit (w j)
  next : ∀ j, w (j + 1) = 2 * w j - 2 * (digitSum 1 q j / 2 ^ j) * q (j + 1) - |(q (j + 1) : ℚ)| / 2 ^ (j + 1)

theorem roots_of {m : ℚ} {w : Nat → ℚ} {q : Nat → ℤ} (h : ∀ j, (w j, q j) = ((rooting m j).1.1, (rooting m j).2)) : Roots m w q := by
  have hw (j : Nat) : w j = (rooting m j).1.1 := congrArg Prod.fst (h j)
  have hq (j : Nat) : q (j + 1) = residualDigit (w j) := by
    rw [hw]
    exact congrArg Prod.snd (h (j + 1))
  have hroot (j : Nat) : (rooting m j).1.2 = digitSum 1 q j / 2 ^ j := by
    induction j with
    | zero => simp [rooting, digitSum]
    | succ j ih =>
      have hstep : (rooting m (j + 1)).1.2 = (rooting m j).1.2 + residualDigit (rooting m j).1.1 * (1 / 2 ^ (j + 1)) := rfl
      rw [hstep, ih, digitSum, hq, hw, pow_succ]
      push_cast
      field_simp
  refine ⟨hw 0, hq, fun j => ?_⟩
  have hstep : (rooting m (j + 1)).1.1 = 2 * (rooting m j).1.1 - 2 * (rooting m j).1.2 * residualDigit (rooting m j).1.1 -
      |(residualDigit (rooting m j).1.1 : ℚ)| * (1 / 2 ^ (j + 1)) := rfl
  rw [hw (j + 1), hstep, hroot, ← hw, ← hq, mul_one_div]

section Root
variable {m : ℚ} {w : Nat → ℚ} {q : Nat → ℤ} {scale k : Nat} {r : Rec}

/-- Division by a power of two no greater than the unit is exact. -/
theorem unit_div (x : ℤ) {j : Nat} (h : j ≤ scale) : ((x * 2 ^ scale / 2 ^ j : ℤ) : ℚ) = x * 2 ^ scale / 2 ^ j := by
  rw [Int.cast_div (Dvd.dvd.mul_left (pow_dvd_pow 2 h) x) (by positivity)]
  push_cast
  rfl

theorem sqrtSteps_after (hd : Roots m w q) (c : Nat) (hs : k + c ≤ scale) (h : AfterDigits scale 1 w q k r) :
    AfterDigits scale 1 w q (k + c) (sqrtSteps scale c (k + 1) r) := by
  induction c generalizing k r with
  | zero => exact h
  | succ c ih =>
    have hdig : signDigit r.w = q (k + 1) := (signDigit_eq h.residual).trans (hd.digit k).symm
    have hstep : AfterDigits scale 1 w q (k + 1) ⟨r.ds ++ [q (k + 1)], 2 * r.sum + q (k + 1),
        2 * r.w - 2 * r.sum * q (k + 1) * 2 ^ scale / 2 ^ k - ((q (k + 1)).natAbs : ℤ) * 2 ^ scale / 2 ^ (k + 1)⟩ := by
      refine ⟨by simp [h.count], by simp [h.sum, digitSum], ?_⟩
      push_cast [unit_div _ (show k ≤ scale by omega), unit_div _ (show k + 1 ≤ scale by omega)]
      rw [h.residual, h.sum, hd.next]
      ring
    rw [Nat.add_comm c 1, ← Nat.add_assoc, Nat.add_comm 1 c, sqrtSteps, hdig, Nat.add_sub_cancel]
    exact ih (by omega) hstep

/-- The radicand, less the square of the root so far, is what remains. -/
theorem root_remainder (hd : Roots m w q) (j : Nat) : (digitSum 1 q j / 2 ^ j : ℚ) ^ 2 * 2 ^ j + w j = 2 ^ j * m := by
  induction j with
  | zero => simp [digitSum, hd.first]
  | succ j ih =>
    have hsq : (q (j + 1) : ℚ) ^ 2 = |(q (j + 1) : ℚ)| := by
      rcases hd.digit j ▸ residualDigit_cases (w j) with h | h | h <;> rw [h] <;> norm_num
    have htwice : (2 : ℚ) ^ (j + 1) * m = 2 * ((digitSum 1 q j / 2 ^ j : ℚ) ^ 2 * 2 ^ j + w j) := by rw [ih, pow_succ]; ring
    rw [htwice, hd.next, digitSum, pow_succ, ← hsq]
    push_cast
    field_simp
    ring

/-- The correction by a negative residual leaves the radicand as it is (05 R82). -/
theorem corrected_radicand {n : Nat} (hn : n ≤ scale) (s x : ℤ) :
    (if x < 0 then s - 1 else s) * (if x < 0 then s - 1 else s) * 2 ^ scale +
      (if x < 0 then x + 2 * s * 2 ^ scale / 2 ^ n - 2 ^ scale / 2 ^ n else x) * 2 ^ n = s * s * 2 ^ scale + x * 2 ^ n := by
  have hp : (2 : ℤ) ^ n ≠ 0 := by positivity
  have hunit : (2 : ℤ) ^ scale = 2 ^ (scale - n) * 2 ^ n := by rw [← pow_add, Nat.sub_add_cancel hn]
  split_ifs
  · rw [hunit, ← mul_assoc (2 * s), Int.mul_ediv_cancel _ hp, Int.mul_ediv_cancel _ hp]
    ring
  · rfl

/-- A square root resumed after any number of digits is that of the source, rounded once. -/
theorem root_result {a b : FVal} {mx : ℚ} {ex : ℤ} {f : Fmt} {n : Nat} (key rnd : Nat)
    (hd : Roots (if ex % 2 = 0 then mx else 2 * mx) w q) (ha : normOf a mx ex) (hna : a.parts.2.1 < 2 ^ (scale + 1))
    (hn : n ≤ scale) (hr : AfterDigits scale 1 w q n r) :
    recResult .sqrt f rnd scale n a b r = iterExact .sqrt f rnd key a b := by
  have ha' := ha
  obtain ⟨neg, x, e, rfl, hx, hmx, -⟩ := ha'
  obtain ⟨hx0, hex, -⟩ := norm_units ha hna
  have hmx0 : (0 : ℚ) < mx := one_pos.trans_le hmx
  have hh : (if ex % 2 = 0 then mx else 2 * mx) * 2 ^ (2 * (rootParts scale x e).2) = x * 2 ^ e := by
    rw [hx, rootParts, hex]
    split_ifs with hpar
    · rw [show 2 * (ex / 2) = ex by omega]
    · rw [show ex = 1 + 2 * ((ex - 1) / 2) by omega, zpow_add₀ two_ne_zero, zpow_one,
        show 2 * ((1 + 2 * ((ex - 1) / 2) - 1) / 2) = 2 * ((ex - 1) / 2) by omega]
      ring
  have hm0 : (0 : ℚ) < if ex % 2 = 0 then mx else 2 * mx := by split_ifs <;> positivity
  generalize (if ex % 2 = 0 then mx else 2 * mx) = m at hd hh hm0
  have hrad : ((r.sum * r.sum * 2 ^ scale + r.w * 2 ^ n : ℤ) : ℚ) = m * 2 ^ (2 * n + scale) := by
    have hrem := root_remainder hd n
    push_cast
    calc (r.sum : ℚ) * r.sum * 2 ^ scale + r.w * 2 ^ n
        = 2 ^ n * 2 ^ scale * ((digitSum 1 q n / 2 ^ n) ^ 2 * 2 ^ n + w n) := by rw [hr.sum, hr.residual]; field_simp
      _ = m * 2 ^ (2 * n + scale) := by rw [hrem, pow_add, two_mul, pow_add]; ring
  have hpos : 0 < r.sum * r.sum * 2 ^ scale + r.w * 2 ^ n := by
    have : (0 : ℚ) < ((r.sum * r.sum * 2 ^ scale + r.w * 2 ^ n : ℤ) : ℚ) := by rw [hrad]; positivity
    exact_mod_cast this
  simp only [recResult, iterExact, FVal.parts, corrected_radicand hn, if_neg hpos.ne', if_neg hpos.not_gt]
  generalize r.sum * r.sum * 2 ^ scale + r.w * 2 ^ n = v at hrad hpos
  generalize (rootParts scale x e).2 = h at hh
  lift v to ℕ using hpos.le
  rw [Int.cast_natCast] at hrad
  have hsame : SameMag ⟨v * upPow (2 * h), 2 ^ (2 * n + scale) * downPow (2 * h), true⟩ ⟨x * upPow e, downPow e, true⟩ := by
    refine ⟨rfl, ?_, ?_, ?_, ?_, ?_⟩
    · exact Nat.mul_pos (by exact_mod_cast hpos) (upPow_pos _)
    · exact Nat.mul_pos hx0 (upPow_pos _)
    · exact Nat.mul_pos (Nat.two_pow_pos _) (downPow_pos _)
    · exact downPow_pos _
    · push_cast
      rw [mul_div_mul_comm, upPow_div_downPow, hrad, mul_div_assoc (x : ℚ), upPow_div_downPow, ← hh,
        mul_div_cancel_right₀ _ (by positivity)]
  exact round_congr hsame f rnd false false

end Root

end Sys2Proof.Proofs
end

section
/-!
SUPPORT. The continuation record of a lane: the states that it gives the lane's elements, or none (05 R84 to R86).
-/
namespace Sys2Proof.Proofs
open Sys2Proof.Machine Sys2Proof.Laws

/-! ### The fields of an element -/

section Fields
variable {T : Nat}

theorem elemCount_setF (h : setF T = true) : elemCount T = 1 ∨ elemCount T = 2 := by
  simp only [setF, Bool.or_eq_true, beq_iff_eq, or_assoc] at h
  rcases h with rfl | rfl | rfl | rfl <;> decide

theorem elemDigits_lt (h : setF T = true) (r : Dcr) (i : Nat) : elemDigits T i r.digits < 2 ^ (2 * (56 / elemCount T)) := by
  unfold elemDigits
  rcases elemCount_setF h with hc | hc
  · rw [hc, if_neg (by decide)]
    exact digits_lt r
  · rw [hc, if_pos rfl]
    exact Nat.mod_lt _ (by decide)

/-- Digit `j` of an element, in its digit field. -/
theorem fld_elemDigits (h : setF T = true) (r : Dcr) {i j : Nat} (hi : i < elemCount T) (hj : j < 56 / elemCount T) :
    fld (2 * j) 2 (elemDigits T i r.digits) = digitBits r i (j + 1) := by
  unfold elemDigits
  rcases elemCount_setF h with hc | hc
  · rw [hc] at hi hj ⊢
    obtain rfl : i = 0 := by omega
    rw [if_neg (by decide), digitBits_eq r (by omega)]
  · rw [hc] at hi hj ⊢
    rw [if_pos rfl, fld_fld (by omega), Dcr.digits, fld_fld (by omega), digitBits, Nat.add_sub_cancel, Nat.add_assoc]

/-- The residual of an element is a signed field. -/
theorem elemResidual_eq (h : setF T = true) (r : Dcr) {i : Nat} (hi : i < elemCount T) :
    elemResidual T i r.residual =
      (BitVec.ofNat (if elemCount T = 2 then 56 else 112)
        (fld (144 + 56 * i) (if elemCount T = 2 then 56 else 112) r.record.toNat)).toInt := by
  unfold elemResidual
  rcases elemCount_setF h with hc | hc
  · rw [hc] at hi ⊢
    obtain rfl : i = 0 := by omega
    have hlt : r.residual < 2 ^ 112 := Nat.mod_lt _ (by decide)
    change _ = (BitVec.ofNat 112 r.residual).toInt
    rw [BitVec.toInt_eq_toNat_cond, BitVec.toNat_ofNat, Nat.mod_eq_of_lt hlt, if_neg (by decide)]
    split <;> split <;> omega
  · rw [hc] at hi ⊢
    have hres : fld (56 * i) 56 r.residual = fld (144 + 56 * i) 56 r.record.toNat := fld_fld (by omega) _
    have hlt : fld (144 + 56 * i) 56 r.record.toNat < 2 ^ 56 := Nat.mod_lt _ (by decide)
    dsimp only
    rw [if_pos rfl, hres]
    change _ = (BitVec.ofNat 56 (fld (144 + 56 * i) 56 r.record.toNat)).toInt
    rw [BitVec.toInt_eq_toNat_cond, BitVec.toNat_ofNat, Nat.mod_eq_of_lt hlt]
    split <;> split <;> omega

end Fields

/-! ### Digits read back -/

/-- The encoding of a digit (05 R62). -/
def digitCoded (q : ℤ) : Nat := if q = 0 then 0 else if q = 1 then 1 else 3

theorem digitOf_coded {q : ℤ} (h : q = 0 ∨ q = 1 ∨ q = -1) : digitOf (digitCoded q) = some q := by
  rcases h with rfl | rfl | rfl <;> rfl

/-- The digits of a recurrence are read back, and their weighted sum is that of the recurrence. -/
theorem digitsOf_coded {field k : Nat} {q : Nat → ℤ} (start : ℤ) (hq : ∀ j, q (j + 1) = 0 ∨ q (j + 1) = 1 ∨ q (j + 1) = -1)
    (h : ∀ j < k, fld (2 * j) 2 field = digitCoded (q (j + 1))) :
    ∃ ds, digitsOf field k = some ds ∧ ds.length = k ∧ ds.foldl (fun q d => 2 * q + d) start = digitSum start q k := by
  induction k with
  | zero => exact ⟨[], rfl, rfl, rfl⟩
  | succ k ih =>
    obtain ⟨ds, hds, hlen, hsum⟩ := ih fun j hj => h j (by omega)
    have hd : digitOf (fld (2 * k) 2 field) = some (q (k + 1)) := by rw [h k (by omega), digitOf_coded (hq k)]
    refine ⟨_, digitsOf_succ hds hd, by simp [hlen], ?_⟩
    rw [List.foldl_append, hsum]
    rfl

/-! ### The states of a lane's elements -/

/-- The state that a record gives an element. -/
def elemState (r : Dcr) (o : IterOp) (T i : Nat) : Option Rec :=
  match digitsOf (elemDigits T i r.digits) r.count with
  | none => none
  | some ds =>
    if elemDigits T i r.digits / 2 ^ (2 * r.count) = 0 then
      some ⟨ds, ds.foldl (fun q d => 2 * q + d) (if o = .sqrt then 1 else 0), elemResidual T i r.residual⟩
    else none

theorem states_eq (r : Dcr) (o : IterOp) (T rnd : Nat) : r.states o T rnd =
    if r.usable o.code T rnd (o.digits (typeFmt T)) then (List.range (elemCount T)).mapM (elemState r o T) else none := rfl

theorem mapM_option_none {α β : Type} {f : α → Option β} {l : List α} {a : α} (ha : a ∈ l) (h : f a = none) : l.mapM f = none := by
  induction l with
  | nil => cases ha
  | cons b l ih =>
    rw [List.mapM_cons]
    rcases List.mem_cons.1 ha with rfl | ha
    · rw [h]; rfl
    · rw [ih ha]
      cases f b <;> rfl

theorem mapM_option_some {α β : Type} {f : α → Option β} {g : α → β} {l : List α} (h : ∀ a ∈ l, f a = some (g a)) :
    l.mapM f = some (l.map g) := by
  induction l with
  | nil => rfl
  | cons a l ih =>
    rw [List.mapM_cons, h a List.mem_cons_self, ih fun b hb => h b (List.mem_cons_of_mem _ hb)]
    rfl

section States
variable {r : Dcr} {o : IterOp} {T rnd : Nat}

theorem states_unusable (h : ¬ r.usable o.code T rnd (o.digits (typeFmt T)) = true) : r.states o T rnd = none := by
  rw [states_eq, if_neg h]

/-- A record that fails a test of R86 gives no state. -/
theorem states_discarded (hT : setF T = true) (h : discarded o.code (o.digits (typeFmt T)) rnd T (elemCount T) r) :
    r.states o T rnd = none := by
  by_cases hu : r.usable o.code T rnd (o.digits (typeFmt T)) = true
  · obtain ⟨hop, htype, hrnd, hcount, hspec⟩ := (usable_iff ..).1 hu
    rcases h with h1 | h1 | h1 | h1 | h1 | ⟨i, hi, j, hj, hj', hdigit⟩
    · exact absurd hop h1
    · exact absurd htype h1
    · exact absurd hrnd h1
    · exact absurd hcount (Nat.not_le.2 h1)
    · exact absurd hspec h1
    · obtain ⟨j, rfl⟩ : ∃ k, j = k + 1 := ⟨j - 1, by omega⟩
      rw [← fld_elemDigits hT r hi (by omega)] at hdigit
      change (j + 1 ≤ r.count ∧ _) ∨ (r.count < j + 1 ∧ _) at hdigit
      have hnone : elemState r o T i = none := by
        unfold elemState
        rcases hdigit with ⟨hk, h2⟩ | ⟨hk, h0⟩
        · rw [digitsOf_invalid hk h2]
        · have hz : ¬ elemDigits T i r.digits / 2 ^ (2 * r.count) = 0 := fun e => h0 (fld_eq_zero_of_div e (by omega))
          simp only [if_neg hz]
          split <;> rfl
      rw [states_eq, if_pos hu, mapM_option_none (List.mem_range.2 hi) hnone]
  · exact states_unusable hu

end States

end Sys2Proof.Proofs
end

section
/-!
SUPPORT. A lane of an iterative instruction: from the sources, or on from a record, to the same results (05 R86).
-/
namespace Sys2Proof.Proofs
open Sys2Proof.Machine Sys2Proof.Laws

/-- The operation of an iterative instruction: the result that R69 fixes, else the exact function rounded once. -/
def iterOp (o : IterOp) : ElemOp := fun T rnd _ xs =>
  match iterSpecial o (typeFmt T) (fpValue T (xs.getD 0 0)) (fpValue T (xs.getD 1 0)) with
  | some r => r
  | none => iterExact o (typeFmt T) rnd (xs.getD 0 0) (fpValue T (xs.getD 0 0)) (fpValue T (xs.getD 1 0))

/-! ### The lane from its sources -/

section Lane
variable {o : IterOp} {t : Team} {rs : List Reg} {l : Nat}

/-- The sources of an element. -/
def laneColumn (t : Team) (rs : List Reg) (l i : Nat) : List Nat := rs.map fun r => (t.elemsOf t.type r l).getD i 0

/-- The values of the sources of an element, as the model takes them. -/
def laneValues (t : Team) (rs : List Reg) (l i : Nat) : FVal × FVal :=
  (fpValue t.type ((laneColumn t rs l i).getD 0 0), fpValue t.type ((laneColumn t rs l i).getD 1 0))

/-- The result that R69 fixes for an element, if it does. -/
def laneFixed (o : IterOp) (t : Team) (rs : List Reg) (l i : Nat) : Option Out :=
  iterSpecial o (typeFmt t.type) (laneValues t rs l i).1 (laneValues t rs l i).2

/-- The exact result of an element, rounded once. -/
def laneExact (o : IterOp) (t : Team) (rs : List Reg) (l i : Nat) : Out :=
  iterExact o (typeFmt t.type) t.rnd ((laneColumn t rs l i).getD 0 0) (laneValues t rs l i).1 (laneValues t rs l i).2

theorem elemOuts_iterOp (o : IterOp) (t : Team) (rs : List Reg) (l : Nat) : elemOuts t (iterOp o) rs l =
    (List.range (elemCount t.type)).map fun i => (laneFixed o t rs l i).getD (laneExact o t rs l i) := by
  refine List.map_congr_left fun i _ => ?_
  change (match laneFixed o t rs l i with | some r => r | none => laneExact o t rs l i) = _
  cases laneFixed o t rs l i <;> rfl

/-- The result of an element that goes on from a state. -/
def resumedOut (o : IterOp) (t : Team) (d : Dcr) (x : FVal × FVal) (r : Rec) : Out :=
  recResult o (typeFmt t.type) t.rnd (recScale t.type) (o.digits (typeFmt t.type)) x.1 x.2
    (recRun o (recScale t.type) (o.digits (typeFmt t.type) - d.count) x.1 x.2 r)

/-- The results of a lane that goes on from a record's states. -/
def resumedOuts (o : IterOp) (t : Team) (rs : List Reg) (l : Nat) (d : Dcr) (sts : List Rec) : List Out :=
  (((List.range (elemCount t.type)).map (laneValues t rs l)).zip sts).map fun x =>
    ⟨(resumedOut o t d x.1 x.2).bits, (resumedOut o t d x.1 x.2).flags ||| d.fl⟩

theorem headD_drop (xs : List Nat) : (xs.drop 1).headD 0 = xs.getD 1 0 := by
  rw [headD_eq_getD]
  cases xs <;> rfl

theorem iterLane_eq (o : IterOp) (t : Team) (rs : List Reg) (l : Nat) : iterLane o t rs l =
    match t.dcr? (some l) with
    | none => elemOuts t (iterOp o) rs l
    | some d =>
      match d.states o t.type t.rnd with
      | none => elemOuts t (iterOp o) rs l
      | some sts =>
        if ((List.range (elemCount t.type)).any fun i => (laneFixed o t rs l i).isSome) then elemOuts t (iterOp o) rs l
        else if o.recurs then resumedOuts o t rs l d sts
        else (elemOuts t (iterOp o) rs l).map fun x => ⟨x.bits, x.flags ||| d.fl⟩ := by
  have hcols : columns (elemCount t.type) (rs.map fun r => t.elemsOf t.type r l) =
      (List.range (elemCount t.type)).map (laneColumn t rs l) := by
    unfold columns laneColumn
    simp only [List.map_map, Function.comp_def]
  have hops : (((List.range (elemCount t.type)).map (laneColumn t rs l)).map fun c =>
      (fpValue t.type (c.headD 0), fpValue t.type ((c.drop 1).headD 0))) = (List.range (elemCount t.type)).map (laneValues t rs l) := by
    rw [List.map_map]
    refine List.map_congr_left fun i _ => ?_
    rw [Function.comp, headD_drop, headD_eq_getD]
    rfl
  unfold iterLane
  dsimp only
  rw [hcols, hops, List.zip_map', List.map_map, List.any_map]
  simp only [headD_eq_getD]
  rfl

end Lane

end Sys2Proof.Proofs
end

section
/-!
SUPPORT. A record of a stop (05 R83 to R85) in the model's terms, and the results of a lane that goes on from it (05 R86).
-/
namespace Sys2Proof.Proofs
open Sys2Proof.Machine Sys2Proof.Laws

/-! ### Elements -/

section Element
variable {o : IterOp} {T : Nat} {a b : FVal} {w : Nat → ℚ} {q : Nat → ℤ} {k : Nat} {r : Rec}

theorem digits_le_scale (h : setF T = true) : 0 < (typeFmt T).p + 2 ∧ (typeFmt T).p + 2 ≤ recScale T := by
  simp only [setF, Bool.or_eq_true, beq_iff_eq, or_assoc] at h
  rcases h with rfl | rfl | rfl | rfl <;> decide

/-- The digits of a recurrence fit the digit field of an element. -/
theorem digits_le_field (h : setF T = true) (o : IterOp) : o.digits (typeFmt T) ≤ 56 / elemCount T := by
  have hp : (typeFmt T).p + 2 ≤ 56 / elemCount T := by
    simp only [setF, Bool.or_eq_true, beq_iff_eq, or_assoc] at h
    rcases h with rfl | rfl | rfl | rfl <;> decide
  unfold IterOp.digits
  split
  · exact hp
  · exact Nat.zero_le _

/-- The numerator of an element fits the unit of its recurrence. -/
theorem parts_lt (h : setF T = true) (x : Nat) : (fpValue T x).parts.2.1 < 2 ^ (recScale T + 1) := by
  have hpow : 2 ^ ((typeFmt T).m + 1) ≤ 2 ^ (recScale T + 1) := by
    have := (digits_le_scale h).2
    rw [Fmt.p] at this
    exact Nat.pow_le_pow_right (by decide) (by omega)
  rw [fpValue_setF h]
  cases hx : (typeFmt T).decode x with
  | nan s => exact Nat.two_pow_pos _
  | inf s => exact Nat.two_pow_pos _
  | fin neg n e => exact (decode_num_lt hx).trans_le hpow

/-- The start of the weighted sum of digits. -/
def sumStart (o : IterOp) : ℤ := if o = .sqrt then 1 else 0

/-- Every digit of a recurrence is −1, 0 or 1. -/
theorem recurrence_digit (h : recurrenceOf o a b w q) (j : Nat) : q (j + 1) = 0 ∨ q (j + 1) = 1 ∨ q (j + 1) = -1 := by
  cases o with
  | div =>
    obtain ⟨ma, ea, mb, eb, -, -, hd⟩ := h
    exact (divides_of hd).digit j ▸ residualDigit_cases _
  | rcp =>
    obtain ⟨mb, eb, -, hd⟩ := h
    exact (divides_of hd).digit j ▸ residualDigit_cases _
  | sqrt =>
    obtain ⟨mx, ex, -, hd⟩ := h
    exact (roots_of hd).digit j ▸ residualDigit_cases _
  | rsq | exp2 | log2 => exact .inl (h (j + 1)).2

theorem norm_one : normOf one 1 0 := ⟨false, 1, 0, rfl, by norm_num, le_rfl, by norm_num⟩

/-- An element that goes on from the state after any number of digits gets the exact function of its sources, rounded once. -/
theorem resumed_result (hT : setF T = true) (rnd key : Nat) (ho : o.recurs = true) (h : recurrenceOf o a b w q)
    (ha : a.parts.2.1 < 2 ^ (recScale T + 1)) (hb : b.parts.2.1 < 2 ^ (recScale T + 1)) (hk : k ≤ o.digits (typeFmt T))
    (hr : AfterDigits (recScale T) (sumStart o) w q k r) :
    recResult o (typeFmt T) rnd (recScale T) (o.digits (typeFmt T)) a b
      (recRun o (recScale T) (o.digits (typeFmt T) - k) a b r) = iterExact o (typeFmt T) rnd key a b := by
  obtain ⟨hn, hscale⟩ := digits_le_scale hT
  rw [IterOp.digits, if_pos ho] at hk ⊢
  obtain ⟨c, hc⟩ := Nat.exists_eq_add_of_le hk
  rw [show (typeFmt T).p + 2 - k = c by omega]
  have hdivide {a b : FVal} {ma mb : ℚ} {ea eb : ℤ} (hd : Divides ma mb w q) (hna : normOf a ma ea) (hnb : normOf b mb eb)
      (ha : a.parts.2.1 < 2 ^ (recScale T + 1)) (hb : b.parts.2.1 < 2 ^ (recScale T + 1))
      (hr : AfterDigits (recScale T) 0 w q k r) :
      recResult .div (typeFmt T) rnd (recScale T) ((typeFmt T).p + 2) a b
        (divSteps (normUnits (recScale T) b.parts.2.1) c r) = iterExact .div (typeFmt T) rnd key a b := by
    have hbu : (normUnits (recScale T) b.parts.2.1 : ℚ) = mb * 2 ^ recScale T := by
      have hnb' := hnb
      obtain ⟨neg, n, e, rfl, -⟩ := hnb'
      exact (norm_units hnb hb).2.2
    exact division_result key rnd hd hna hnb ha hb hn (hc ▸ divSteps_after hd hbu c hr)
  cases o with
  | div =>
    obtain ⟨ma, ea, mb, eb, hna, hnb, hd⟩ := h
    exact hdivide (divides_of hd) hna hnb ha hb hr
  | rcp =>
    obtain ⟨mb, eb, hnb, hd⟩ := h
    exact hdivide (divides_of hd) norm_one hnb (Nat.one_lt_two_pow (Nat.succ_ne_zero _)) ha hr
  | sqrt =>
    obtain ⟨mx, ex, hna, hd⟩ := h
    refine root_result key rnd (roots_of hd) hna ha hscale (hc ▸ ?_)
    rw [recRun, hr.count]
    exact sqrtSteps_after (roots_of hd) c (hc ▸ hscale) hr
  | rsq | exp2 | log2 => cases ho

end Element

/-! ### Records of a stop -/

section Record
variable {o : IterOp} {t : Team} {rs : List Reg} {l : Nat} {d : Dcr}

/-- The operand of an element as a record's statement takes it. -/
def recordOperand (t : Team) (rs : List Reg) (l k i : Nat) : FVal := fpValue t.type ((t.elemsOf t.type (rs.getD k 0) l).getD i 0)

/-- The sources are as many as the instruction reads. -/
def Arity (o : IterOp) (rs : List Reg) : Prop := rs.length = if o = .div then 2 else 1

theorem laneValues_eq (h : Arity o rs) (i : Nat) : (laneValues t rs l i).1 = recordOperand t rs l 0 i ∧
    (o = .div → (laneValues t rs l i).2 = recordOperand t rs l 1 i) := by
  unfold Arity at h
  by_cases ho : o = .div
  · rw [if_pos ho] at h
    obtain ⟨x, y, rfl⟩ := List.length_eq_two.1 h
    exact ⟨rfl, fun _ => rfl⟩
  · rw [if_neg ho] at h
    obtain ⟨x, rfl⟩ := List.length_eq_one_iff.1 h
    exact ⟨rfl, fun e => absurd e ho⟩

/-- Only a division reads a second operand. -/
theorem iterSpecial_congr {f : Fmt} {a b b' : FVal} (h : o = .div → b = b') : iterSpecial o f a b = iterSpecial o f a b' := by
  cases o with
  | div => rw [h rfl]
  | sqrt | rsq | rcp | exp2 | log2 => rfl

theorem recurrenceOf_congr {a b b' : FVal} {w : Nat → ℚ} {q : Nat → ℤ} (h : o = .div → b = b') :
    recurrenceOf o a b w q ↔ recurrenceOf o a b' w q := by
  cases o with
  | div => rw [h rfl]
  | sqrt | rsq | rcp | exp2 | log2 => rfl

theorem iterDigits_eq (o : IterOp) (f : Fmt) : iterDigits o f = o.digits f := by cases o <;> rfl
theorem iterOpCode_eq (o : IterOp) : iterOpCode o = o.code := by cases o <;> rfl

/-- What a record of a stop says of the recurrence of an element that R69 does not fix. -/
def Resumes (o : IterOp) (t : Team) (rs : List Reg) (l : Nat) (d : Dcr) (i : Nat) : Prop :=
  ∃ w q, recurrenceOf o (laneValues t rs l i).1 (laneValues t rs l i).2 w q
    ∧ (∀ j < 56 / elemCount t.type, digitBits d i (j + 1) = if j < d.count then digitCoded (q (j + 1)) else 0)
    ∧ (elemResidual t.type i d.residual : ℚ) = w d.count * 2 ^ recScale t.type

/-- A record of a stop: some element is fixed, and R86 discards it, or none is, and each goes on. -/
theorem laneRecord_cases (hT : setF t.type = true) (ha : Arity o rs) (h : laneRecord o t rs l d) :
    d.states o t.type t.rnd = none
    ∨ ((∀ i < elemCount t.type, laneFixed o t rs l i = none) ∧ d.fl = 0
      ∧ d.usable o.code t.type t.rnd (o.digits (typeFmt t.type)) = true ∧ ∀ i < elemCount t.type, Resumes o t rs l d i) := by
  obtain ⟨-, -, k, hk, -, ⟨hop, hcount, hrnd, htype, hfl, hspec⟩, helem⟩ := h
  obtain rfl : d.count = k := hcount
  have hfixed (i : Nat) : iterSpecial o (typeFmt t.type) (recordOperand t rs l 0 i) (recordOperand t rs l 1 i) = laneFixed o t rs l i := by
    rw [laneFixed, (laneValues_eq ha i).1]
    exact iterSpecial_congr fun e => ((laneValues_eq ha i).2 e).symm
  have hspec' : d.spec = (if (iterSpecial o (typeFmt t.type) (recordOperand t rs l 0 0) (recordOperand t rs l 1 0)).isSome = true
      then 1 else 0) + if elemCount t.type = 2 then
        2 * (if (iterSpecial o (typeFmt t.type) (recordOperand t rs l 0 1) (recordOperand t rs l 1 1)).isSome = true then 1 else 0)
        else 0 := hspec
  rw [hfixed, hfixed] at hspec'
  have hfl' : d.fl = unionFlags ((List.range (elemCount t.type)).filterMap fun i =>
      (iterSpecial o (typeFmt t.type) (recordOperand t rs l 0 i) (recordOperand t rs l 1 i)).map (·.flags)) := hfl
  simp only [hfixed] at hfl'
  by_cases hall : ∀ i < elemCount t.type, laneFixed o t rs l i = none
  · refine .inr ⟨hall, ?_, (usable_iff ..).2 ⟨hop.trans (iterOpCode_eq o), htype, hrnd, ?_, ?_⟩, fun i hi => ?_⟩
    · rw [hfl', List.filterMap_eq_nil_iff.2 fun i hi => by rw [hall i (List.mem_range.1 hi)]; rfl]
      rfl
    · rw [← iterDigits_eq]
      exact hk
    · rw [hspec', hall 0 (elemCount_pos _)]
      by_cases h2 : elemCount t.type = 2
      · rw [if_pos h2, hall 1 (by omega)]
        rfl
      · rw [if_neg h2]
        rfl
    · obtain ⟨w, q, hrec, hdig, hres⟩ := (helem i hi).2 ((hfixed i).trans (hall i hi))
      refine ⟨w, q, ?_, fun j hj => ?_, ?_⟩
      · rw [(laneValues_eq ha i).1]
        exact (recurrenceOf_congr (laneValues_eq ha i).2).2 hrec
      · have hwidth : 2 * (j + 1) ≤ if elemCount t.type = 2 then 56 else 112 := by
          rcases elemCount_setF hT with hc | hc
          · rw [hc] at hj ⊢
            rw [if_neg (by decide)]
            omega
          · rw [hc] at hj ⊢
            rw [if_pos rfl]
            omega
        refine (hdig (j + 1) (by omega) hwidth).trans ?_
        by_cases hlt : j < d.count
        · rw [if_pos hlt, digitCoded]
          simp only [show ¬ d.count < j + 1 by omega, false_or]
        · rw [if_neg hlt, if_pos (.inl (by omega))]
      · rw [elemResidual_eq hT d hi]
        exact hres
  · push Not at hall
    obtain ⟨i, hi, hne⟩ := hall
    refine .inl (states_unusable fun hu => ?_)
    obtain ⟨-, -, -, -, hzero⟩ := (usable_iff ..).1 hu
    rw [hspec'] at hzero
    have hsome : (laneFixed o t rs l i).isSome = true := Option.isSome_iff_ne_none.2 hne
    rcases elemCount_setF hT with hc | hc
    · obtain rfl : i = 0 := by omega
      rw [if_pos hsome] at hzero
      omega
    · rw [if_pos hc] at hzero
      rcases (by omega : i = 0 ∨ i = 1) with rfl | rfl
      · rw [if_pos hsome] at hzero
        omega
      · rw [if_pos hsome] at hzero
        omega

/-- The state of an element that goes on is one of its recurrence. -/
theorem elemState_resumes (hT : setF t.type = true) {i : Nat} (hi : i < elemCount t.type) (hk : d.count ≤ 56 / elemCount t.type)
    {w : Nat → ℚ} {q : Nat → ℤ} (hrec : recurrenceOf o (laneValues t rs l i).1 (laneValues t rs l i).2 w q)
    (hdig : ∀ j < 56 / elemCount t.type, digitBits d i (j + 1) = if j < d.count then digitCoded (q (j + 1)) else 0)
    (hres : (elemResidual t.type i d.residual : ℚ) = w d.count * 2 ^ recScale t.type) :
    ∃ r, elemState d o t.type i = some r ∧ AfterDigits (recScale t.type) (sumStart o) w q d.count r := by
  have hfld (j : Nat) (hj : j < 56 / elemCount t.type) : fld (2 * j) 2 (elemDigits t.type i d.digits) =
      if j < d.count then digitCoded (q (j + 1)) else 0 := (fld_elemDigits hT d hi hj).trans (hdig j hj)
  obtain ⟨ds, hds, hlen, hsum⟩ := digitsOf_coded (sumStart o) (recurrence_digit hrec)
    fun j (hj : j < d.count) => (hfld j (by omega)).trans (if_pos hj)
  have hzero : elemDigits t.type i d.digits / 2 ^ (2 * d.count) = 0 := by
    obtain ⟨n, hn⟩ := Nat.exists_eq_add_of_le hk
    exact div_eq_zero_of_fld (n := n) (hn ▸ elemDigits_lt hT d i) fun j hj hj' => (hfld j (by omega)).trans (if_neg (by omega))
  refine ⟨⟨ds, ds.foldl (fun q d => 2 * q + d) (sumStart o), elemResidual t.type i d.residual⟩, ?_, hlen, hsum, hres⟩
  simp only [elemState, hds, if_pos hzero]
  rfl

/-- A lane goes on from its record to the results of its sources. -/
theorem resumedOuts_eq (hT : setF t.type = true) (ho : o.recurs = true) (hfl : d.fl = 0)
    (hu : d.usable o.code t.type t.rnd (o.digits (typeFmt t.type)) = true)
    (hfixed : ∀ i < elemCount t.type, laneFixed o t rs l i = none) (hres : ∀ i < elemCount t.type, Resumes o t rs l d i) :
    ∃ sts, d.states o t.type t.rnd = some sts ∧ resumedOuts o t rs l d sts = elemOuts t (iterOp o) rs l := by
  obtain ⟨-, -, -, hk, -⟩ := (usable_iff ..).1 hu
  have hcount : d.count ≤ 56 / elemCount t.type := hk.trans (digits_le_field hT o)
  have hstate (i : Nat) (hi : i ∈ List.range (elemCount t.type)) :
      elemState d o t.type i = some ((elemState d o t.type i).getD ⟨[], 0, 0⟩)
      ∧ resumedOut o t d (laneValues t rs l i) ((elemState d o t.type i).getD ⟨[], 0, 0⟩) = laneExact o t rs l i := by
    have hi' := List.mem_range.1 hi
    obtain ⟨w, q, hrec, hdig, hr⟩ := hres i hi'
    obtain ⟨r, hr, hafter⟩ := elemState_resumes hT hi' hcount hrec hdig hr
    rw [hr]
    exact ⟨rfl, resumed_result hT t.rnd _ ho hrec (parts_lt hT _) (parts_lt hT _) hk hafter⟩
  refine ⟨_, by rw [states_eq, if_pos hu, mapM_option_some fun i hi => (hstate i hi).1], ?_⟩
  rw [resumedOuts, List.zip_map', List.map_map, elemOuts_iterOp]
  refine List.map_congr_left fun i hi => ?_
  rw [hfixed i (List.mem_range.1 hi), Option.getD_none, ← (hstate i hi).2, Function.comp, hfl]
  simp only [Nat.or_zero]

/-- Where the records are those of stops of the instruction, or fail a test, every lane gives the results of its sources. -/
theorem iterLane_sources (hT : setF t.type = true) (ha : Arity o rs)
    (h : ∀ d, t.dcr? (some l) = some d → laneRecord o t rs l d
      ∨ discarded (iterOpCode o) (iterDigits o (typeFmt t.type)) t.rnd t.type (elemCount t.type) d) :
    iterLane o t rs l = elemOuts t (iterOp o) rs l := by
  rw [iterLane_eq]
  cases hd : t.dcr? (some l) with
  | none => rfl
  | some d =>
    dsimp only
    rcases h d hd with hrec | hdis
    · rcases laneRecord_cases hT ha hrec with hnone | ⟨hfixed, hfl, hu, hres⟩
      · rw [hnone]
      · have hany : ¬ ((List.range (elemCount t.type)).any fun i => (laneFixed o t rs l i).isSome) = true := by
          rw [List.any_eq_true]
          rintro ⟨i, hi, hsome⟩
          rw [hfixed i (List.mem_range.1 hi)] at hsome
          cases hsome
        cases ho : o.recurs with
        | true =>
          obtain ⟨sts, hsts, heq⟩ := resumedOuts_eq hT ho hfl hu hfixed hres
          rw [hsts]
          dsimp only
          rw [if_neg hany, if_pos rfl, heq]
        | false =>
          cases d.states o t.type t.rnd with
          | none => rfl
          | some sts =>
            dsimp only
            rw [if_neg hany, if_neg (by decide), hfl]
            simp only [Nat.or_zero, List.map_id']
    · rw [iterOpCode_eq, iterDigits_eq] at hdis
      rw [states_discarded hT hdis]

end Record

end Sys2Proof.Proofs
end

section
/-!
The obligation on the iterative instructions.
-/
namespace Sys2Proof.Proofs
open Sys2Proof.Machine Sys2Proof.Laws

section Iterative
variable {o : IterOp} {d : Reg} {srcs : List Src} {la : BitVec 4} {s : State} {t : Team}

/-- The operands of an iterative instruction. -/
def iterShape (s : State) (d : Reg) (srcs : List Src) (la : BitVec 4) (t : Team) : Shape :=
  { vecShape s t setF typeBits d srcs false with la := la.toNat }

/-- A team after an iterative instruction: a producer, its promise open, its records used up. -/
def iterated (t : Team) (o : IterOp) (d : Reg) (srcs : List Src) (la : BitVec 4) : Team :=
  { openedBy t (iterOp o) d srcs (srcs.map (·.reg)) with
    promises := promisesAfter t la (.m t.guard :: srcs.map fun a => vField t.type a.reg) [vField t.type d]
    dcrs := [] }

theorem iterative_next (hi : Issues s t (iterShape s d srcs la t))
    (h : ∀ l, iterLane o t (srcs.map (·.reg)) l = elemOuts t (iterOp o) (srcs.map (·.reg)) l) :
    iterative o d srcs la s = .next (s.putTeam (iterated t o d srcs la)) := by
  have hlane : t.begin.perActive (iterLane o t.begin (srcs.map (·.reg))) =
      t.begin.perActive (elemOuts t (iterOp o) (srcs.map (·.reg))) := congrArg _ (funext h)
  have he : (fun t : Team =>
      let outs := t.perActive (iterLane o t (srcs.map (·.reg)))
      Except.ok (ε := Stop) { ((t.setOuts t.type d outs).openProducer d (t.type == 0x18) (flagsOf outs)).advance with
        dcrs := [] }) t.begin
      = .ok { t.begin with
          vregs := vectorsAfter t.begin [] (elemWrites t t.type d fun l => (elemOuts t (iterOp o) (srcs.map (·.reg)) l).map (·.bits))
          flags := t.flags ||| elemFlags t (iterOp o) (srcs.map (·.reg))
          producer := some (openedProducer t (iterOp o) d (srcs.map (·.reg)))
          pc := t.pc + 4#64, dcrs := [] } := by
    dsimp only
    rw [hlane, setOuts_perActive, flagsOf_perActive, openProducer_eq]
    rfl
  have hrun : iterative o d srcs la s = _ := runRegs_next (sh := iterShape s d srcs la) hi.1 hi.2 he
  have hsrcs : ((iterShape s d srcs la t).srcs ++ (iterShape s d srcs la t).unread).map (·.o) =
      srcs.map fun a => vField t.type a.reg := by
    simp [iterShape, vecShape, Function.comp_def]
  have hretired : iterative o d srcs la s = .next (s.putTeam { openedBy t (iterOp o) d srcs (srcs.map (·.reg)) with
      promises := promisesAged t ++ (iterShape s d srcs la t).promise t, dcrs := [] }) := by
    rw [hrun, retire_vectors (sh := iterShape s d srcs la t) (u := t.begin) (names3_vecShape_la t _),
      promise_of_mode (t := t) (iterShape s d srcs la t), vectorsAfter_begin]
    all_goals rfl
  rw [hretired, promise_vector (la := la) rfl rfl, hsrcs]
  rfl

end Iterative

/-- Settles O27: a lane's record gives no state, or one of the element's recurrence (`laneRecord_cases`), and from there the steps
lead to the exact function rounded once (`division_result`, `root_result`), as from the sources. -/
theorem vectorIterative : Obligations.VectorIterative := by
  unfold Obligations.VectorIterative
  intro p hp d srcs la s t hlen rs hrecs hi
  have hT : setF t.type = true := typeTrap_none (early_of_issues hi)
  have hlane {o : IterOp} (ho : p.2.1 = o) (ha : Arity o rs) (l : Nat) : iterLane o t rs l = elemOuts t (iterOp o) rs l := by
    refine iterLane_sources hT ha fun d hd => ?_
    have hmem := List.mem_of_find?_eq_some hd
    have hkey := List.find?_some hd
    simp only [Bool.and_eq_true, beq_iff_eq] at hkey
    rw [← ho]
    exact hrecs d hmem hkey.2 l hkey.1
  simp only [iteratives, List.mem_cons, List.not_mem_nil, or_false] at hp
  rcases hp with rfl | rfl | rfl | rfl | rfl | rfl
  · obtain ⟨a, b, rfl⟩ := List.length_eq_two.1 hlen
    have h := iterative_next (o := .div) hi (hlane rfl rfl)
    exact h
  · obtain ⟨a, rfl⟩ := List.length_eq_one_iff.1 hlen
    have h := iterative_next (o := .sqrt) hi (hlane rfl rfl)
    exact h
  · obtain ⟨a, rfl⟩ := List.length_eq_one_iff.1 hlen
    have h := iterative_next (o := .rsq) hi (hlane rfl rfl)
    exact h
  · obtain ⟨a, rfl⟩ := List.length_eq_one_iff.1 hlen
    have h := iterative_next (o := .rcp) hi (hlane rfl rfl)
    exact h
  · obtain ⟨a, rfl⟩ := List.length_eq_one_iff.1 hlen
    have h := iterative_next (o := .exp2) hi (hlane rfl rfl)
    exact h
  · obtain ⟨a, rfl⟩ := List.length_eq_one_iff.1 hlen
    have h := iterative_next (o := .log2) hi (hlane rfl rfl)
    exact h

end Sys2Proof.Proofs
end
